-- ==== Sys2Proof/Word.lean ====
section
/-! DEFINITION. The byte, and the sparse table that every numbered collection of the state is kept in. -/

namespace Sys2Proof

/-- One byte of any memory. -/
abbrev Byte := BitVec 8

/-- A numbered collection: the entries that differ from the collection's default, by rising number.
Queues, rings, contexts, memory bytes and so on are each such a table. -/
abbrev Tbl (α : Type) := List (Nat × α)

/-- Entry `n` of a table whose unlisted entries are `d`. -/
def Tbl.get {α : Type} (d : α) : Tbl α → Nat → α
  | [], _ => d
  | (k, v) :: r, n => if n = k then v else Tbl.get d r n

/-- The table with entry `n` set to `v`. An entry equal to the default is not listed, and the numbers
stay strictly rising, so equal contents are equal lists. -/
def Tbl.set {α : Type} [DecidableEq α] (d : α) : Tbl α → Nat → α → Tbl α
  | [], n, v => if v = d then [] else [(n, v)]
  | (k, w) :: r, n, v =>
    if n < k then (if v = d then (k, w) :: r else (n, v) :: (k, w) :: r)
    else if n = k then (if v = d then r else (n, v) :: r)
    else (k, w) :: Tbl.set d r n v

/-- Every number of the table is at least `lo`, the numbers rise strictly, and no entry is the default. -/
def Tbl.wfFrom {α : Type} [DecidableEq α] (d : α) : Nat → Tbl α → Bool
  | _, [] => true
  | lo, (k, v) :: r => decide (lo ≤ k) && decide (v ≠ d) && Tbl.wfFrom d (k + 1) r

/-- The canonical form of a table. -/
def Tbl.wf {α : Type} [DecidableEq α] (d : α) (t : Tbl α) : Bool := Tbl.wfFrom d 0 t

end Sys2Proof
end

