-- ==== Sys2Proof/Syntax.lean ====
section
/-! DEFINITION. The commands of the Glamus module: one constructor per row of the table of operations and
events (spec/opcode_table.json), with the row's operands.

A host function is numbered `17 * port + vf`, where vf 0 is the port's physical function (R459).
A packet is named by its fetch number `p` (State.Packet.id), a task by its packet and its list index `i`.
`mt` is the MTIME in ns at which an event whose time the module does not fix happens. -/

namespace Sys2Proof

/-- How a packet comes off the wire (R345): its LSEQ, none for the packet that the port expects next; and whether a word of one of its
flits fails detection. -/
structure Via where
  lseq : Option Nat := none
  bad  : Bool := false
  deriving DecidableEq, Repr

/-- The port that a packet comes on, and how it comes off that port's wire. -/
structure Arrival where
  port : Nat
  via  : Via := {}
  deriving DecidableEq, Repr

/-- What is known of a packet that cannot be consumed: the VC that it comes on, and its payload bytes (R343). -/
structure Stray where
  vc  : Nat
  len : Nat
  deriving DecidableEq, Repr

/-- A reset's end: its MTIME, and the channels whose retraining reports them degraded (R315). -/
structure ResetEnd where
  mt       : Nat
  degraded : List Nat := []
  deriving DecidableEq, Repr

/-- A GROUP packet's header (R344), as it arrives on a port. -/
structure GroupMsg where
  port    : Nat
  src     : Nat
  gid     : Nat
  step    : Nat
  attempt : Nat
  mseq    : Nat
  srcRank : Nat
  arg     : Nat
  via     : Via := {}
  deriving DecidableEq, Repr

/-- The header of a READ, WRITE, ATOMIC, PULL or BULK packet, or of a RESP, which has no ADDR (R342, R344). -/
structure MemHdr where
  port : Nat
  part : Nat
  src  : Nat
  tag  : Nat
  addr : Nat
  lc   : Bool := false
  via  : Via := {}
  deriving DecidableEq, Repr

/-- The header of one packet of a contribution (R344 REDUCE), with the stamps of its first and its last flit (R274), and the rank
whose shard it is for, which the header does not say (notes/assumptions/135). -/
structure ReduceHdr where
  port    : Nat
  src     : Nat
  shadow  : Bool
  gid     : Nat
  bucket  : Nat
  step    : Nat
  attempt : Nat
  srcRank : Nat
  shard   : Nat
  shardOff : Nat := 0
  last    : Bool := true
  defCrc  : Nat
  firstMt : Nat
  lastMt  : Nat
  via     : Via := {}
  deriving DecidableEq, Repr

/-- The header of a broadcast or mirror write (R344 BCAST). -/
structure BcastHdr where
  port    : Nat
  src     : Nat
  gid     : Nat
  bucket  : Nat
  step    : Nat
  attempt : Nat
  mirror  : Bool
  owner   : Nat
  addr    : Nat
  defCrc  : Nat
  via     : Via := {}
  deriving DecidableEq, Repr

/-- What a LINK flit carries (R346). -/
structure LinkFlit where
  nak      : Bool
  laneCmd  : Bool
  ackSeq   : Nat
  credit0  : Nat
  credit1  : Nat
  credit2  : Nat
  credit3  : Nat
  swapOut  : Nat
  swapIn   : Nat
  swapAfter : Nat := 0
  deriving DecidableEq, Repr

/-- One constructor per row of spec/opcode_table.json, in the table's order. -/
inductive Instr where
  -- packets: the effect of the started packet `p`
  | nop (q : Nat)
  | copy (p : Nat)
  | fill (p : Nat)
  | hostSpill (p : Nat)
  | hostFetch (p : Nat)
  | tasklistRun (p : Nat)
  | stepBegin (p : Nat)
  | stepCommit (p : Nat)
  | memAtomic (p : Nat)
  | scrubCtrl (p : Nat)
  | flipmaskArm (p : Nat)
  | partitionSet (p : Nat)
  | groupJoin (p : Nat)
  | bucketDefine (p : Nat)
  | groupAbort (p : Nat)
  | shadowMap (p : Nat)
  | feedOpen (p : Nat)
  | feedSubmit (p : Nat)
  | feedClose (p : Nat)
  | tokenizerLoad (p : Nat)
  | mediaSessionOpen (p : Nat)
  | mediaDecode (p : Nat)
  | mediaEncode (p : Nat)
  | contextCreate (p : Nat)
  | contextDestroy (p : Nat)
  | resetDomain (p : Nat)
  | powerState (p : Nat)
  | identChallenge (p : Nat)
  | countersRead (p : Nat)
  | numericsPolicy (p : Nat)
  -- tasks: the work of the dispatched task `i` of packet `p`
  | empty (p i : Nat)
  | matmul (p i : Nat)
  | backward (p i : Nat)
  | combine (p i : Nat)
  | conv (p i : Nat)
  | convBwd (p i : Nat)
  | poolBwd (p i : Nat)
  | vchain (p i : Nat)
  | vfinish (p i : Nat)
  | adamw (p i : Nat)
  | sgdm (p i : Nat)
  | taskComplete (p i mt : Nat)
  -- command protocol
  | cmdTail (fn q v : Nat)
  | cplHead (fn c v : Nat)
  | packetFetch (q : Nat)
  | packetStart (q : Nat)
  | mtimeNotBefore (q : Nat)
  | waitSemaphoreReread (q : Nat)
  | packetCompletion (p mt : Nat)
  -- register writes with a row of their own
  | mgtQcfg (fn v : Nat)
  | mgtQbase (fn : Nat) (hi : Bool) (v : Nat)
  | resume (fn : Nat)
  | flush (fn : Nat)
  | mgtCcfg (fn reg v : Nat)
  | memRattr (fn v : Nat)
  | memRetire (fn v : Nat)
  | channelRetirementDone (ch : Nat)
  | eccFlipmaskArm (fn v : Nat)
  | flipmaskWithdraw (fn v : Nat)
  | fabPortEnable (fn v : Nat)
  | retrain (fn : Nat)
  | fabModuleId (fn v : Nat)
  | rstCoreRetire (fn v : Nat)
  | pwrCapW (fn v : Nat)
  | mgtVfmap (fn v : Nat)
  | elogRingConfig (fn ring reg v : Nat)
  | readClears (fn off : Nat)
  | loReadLatch (fn off : Nat)
  | registerWrite (fn off v : Nat)
  | bar4Read (fn addr len : Nat)
  | bar4Write (fn addr : Nat) (data : List Byte)
  | atomicopRequest (fn bar addr : Nat)
  -- power, sideband and host links
  | powerUp
  | inputOff (full : Bool)
  | wakeN (us : Nat)
  | perstnN (port : Nat)
  | pcieLinkDown (port : Nat)
  | pcieLinkUp (port : Nat)
  -- heartbeat, hangs, resets
  | hbCount
  | heartbeatRecord
  | takeover
  | engineWatchdog (e : Nat)
  | unitHang (hub : Nat)
  | resetTimerExpiry (dom idx : Nat)
  | resetDone (dom idx : Nat) (d : ResetEnd)
  | replayPass (e mt : Nat)
  | rstReplayMs (e : Nat)
  | replayFault (e status detail : Nat)
  -- scheduling
  | contextLoad (e ctx : Nat)
  | sliceGrant (e mt : Nat)
  | sliceExpiry (e : Nat)
  -- activation residency
  | fwdDone (ctx j : Nat)
  | spillDone (ctx ent status mt : Nat)
  | fetchDone (ctx ent status mt : Nat)
  -- gradient buckets and the group protocol
  | bucketSend (gid b : Nat)
  | reduce (h : ReduceHdr) (data : List Byte)
  | slotTableSum (gid b : Nat) (adopted : Bool) (good1 good2 : Bool)
  | retry (m : GroupMsg)
  | retryResend (gid b dest : Nat)
  | resend (m : GroupMsg)
  | bucketDeadline (gid b : Nat) (adopted : Bool)
  | shardPublish (gid b : Nat) (adopted : Bool)
  | bcast (h : BcastHdr) (data : List Byte)
  | normUp (m : GroupMsg) (image : List Byte)
  | normDown (m : GroupMsg) (norm2 factor flags : Nat)
  | ready (m : GroupMsg)
  | commit (m : GroupMsg)
  | abortReq (m : GroupMsg)
  | abort (m : GroupMsg)
  | decisionQuery (m : GroupMsg)
  | decision (m : GroupMsg)
  | rejoin (m : GroupMsg)
  | rejoinAns (m : GroupMsg)
  -- remote memory and the fabric
  | read (h : MemHdr) (len : Nat)
  | write (h : MemHdr) (data : List Byte)
  | atomic (h : MemHdr) (aop atype operand : Nat)
  | pull (h : MemHdr) (raddr len : Nat)
  | bulk (h : MemHdr) (last : Bool) (planeCount : Nat) (data : List Byte)
  | resp (h : MemHdr) (status rkind value detail : Nat) (data : List Byte)
  | bulkDone (h : MemHdr) (status detail : Nat)
  | msgAck (h : MemHdr)
  | messageRepeat (dest mseq : Nat)
  | timeSync (a : Arrival) (src sub mseq arg0 arg1 mt : Nat)
  | timeSyncExchange (port : Nat)
  | timeMasterLost
  | portState (a : Arrival) (mid : Nat) (up : Bool)
  | departing (a : Arrival) (src mseq : Nat)
  | link (port : Nat) (f : LinkFlit)
  | remoteTimeout (tag : Nat)
  | portTrainingDone (port : Nat) (ok : Bool) (plane : Nat)
  | laneSpare (port lane : Nat)
  -- memory upkeep and sensors
  | patrolScrub (stack : Nat)
  | stackThermalSample (stack temp : Nat)
  | quadrantThermalSample (quad temp : Nat)
  | powerCapSample (watts centiV : Nat)
  | stackSelfRefresh (stack : Nat)
  -- input pipeline and video
  | sampleDecodeStart (f : Nat)
  | sampleReady (f idx mt : Nat)
  | softLate (f idx : Nat)
  | hardLate (f idx : Nat)
  | reorderRelease (f : Nat)
  | outputRecord (sess : Nat)
  | outConsReread (sess : Nat)
  -- completions of background work
  | standbyReady
  | dieLocalChangeDone (ent : Nat)
  | powerTransitionDone
  | channelLost (ch : Nat)
  | laneRetrained (port lane : Nat) (ok : Bool)
  | discardedPacket (a : Arrival) (typ : Nat) (k : Stray)
  deriving DecidableEq, Repr

end Sys2Proof
end

