-- ==== Sys2Proof/WellFormed.lean ====
section
/-! DEFINITION. Which commands a row of the table can spell: every unit number lies in its range of R17, R34
and R459, and every value fits its field. A packet or task number is free: a command that names a packet that is
not there changes nothing. A RESP of RKIND 3 or 4 is the command BULK_DONE or MSG_ACK (R344). -/

namespace Sys2Proof

/-- A value of a 64-bit field. -/
def fits64 (v : Nat) : Bool := decide (v < 2 ^ 64)
/-- A value of a register (R9: 32 bits). -/
def fits32 (v : Nat) : Bool := decide (v < 2 ^ 32)
/-- A value of a 16-bit field. -/
def fits16 (v : Nat) : Bool := decide (v < 2 ^ 16)
/-- R459: a function of a host port: 17 functions on each of 2 ports. -/
def isFn (fn : Nat) : Bool := decide (fn < 34)
/-- R34: a command queue or completion ring. -/
def isQueue (q : Nat) : Bool := decide (q < 4096)
/-- R17: an engine. -/
def isEngine (e : Nat) : Bool := decide (e < 80)
/-- R17: a stack. -/
def isStack (k : Nat) : Bool := decide (k < 16)
/-- R17: a fabric port. -/
def isPort (n : Nat) : Bool := decide (n < 8)
/-- R17: a host port or hub. -/
def isHub (h : Nat) : Bool := decide (h < 2)
/-- R203: a context number. -/
def isCtx (c : Nat) : Bool := decide (c < 2 ^ 20)
/-- R460: an aligned 32-bit place in BAR0. -/
def isReg (off : Nat) : Bool := decide (off < 2 ^ 24)
/-- R427: a reset domain and an index in it: engine, port, die controller, hub, module. -/
def isDomain (dom idx : Nat) : Bool :=
  match dom with
  | 0 => decide (idx < 80)
  | 1 => decide (idx < 8)
  | 2 => decide (idx < 8)
  | 3 => decide (idx < 2)
  | 4 => decide (idx = 0)
  | _ => false

/-- R342: an 8-bit field. -/
def fits8 (v : Nat) : Bool := decide (v < 2 ^ 8)
/-- R342: LEN, the payload bytes of a packet. -/
def isLen (n : Nat) : Bool := decide (n ≤ 16352)

/-- R342: LSEQ has 12 bits. -/
def Via.wf (v : Via) : Bool := v.lseq.all (fun n => decide (n < 4096))

def Arrival.wf (a : Arrival) : Bool := isPort a.port && a.via.wf

/-- R344: the fields of a GROUP header. -/
def GroupMsg.wf (m : GroupMsg) : Bool :=
  isPort m.port && fits16 m.src && fits16 m.gid && fits32 m.step && fits8 m.attempt && fits32 m.mseq
    && fits16 m.srcRank && fits64 m.arg && m.via.wf

/-- R342, R344: the fields of a memory packet's header. -/
def MemHdr.wf (h : MemHdr) : Bool :=
  isPort h.port && decide (h.part < 8) && fits16 h.src && fits32 h.tag && decide (h.addr < 2 ^ 48) && h.via.wf

def ReduceHdr.wf (h : ReduceHdr) : Bool :=
  isPort h.port && fits16 h.src && fits16 h.gid && fits16 h.bucket && fits32 h.step && fits8 h.attempt
    && fits16 h.srcRank && fits16 h.shard && fits32 h.shardOff && fits32 h.defCrc && fits64 h.firstMt
    && fits64 h.lastMt && h.via.wf

def BcastHdr.wf (h : BcastHdr) : Bool :=
  isPort h.port && fits16 h.src && fits16 h.gid && fits16 h.bucket && fits32 h.step && fits8 h.attempt
    && fits16 h.owner && decide (h.addr < 2 ^ 40) && fits32 h.defCrc && h.via.wf

/-- R346: the fields of a LINK flit. -/
def LinkFlit.wf (f : LinkFlit) : Bool :=
  decide (f.ackSeq < 4096) && fits32 f.credit0 && fits32 f.credit1 && fits32 f.credit2 && fits32 f.credit3
    && decide (f.swapOut < 128) && decide (f.swapIn < 128) && decide (f.swapAfter < 2 ^ 18)

/-- A command that some row of the table spells. -/
def Instr.wf : Instr → Bool
  | .nop q => isQueue q
  | .copy _ => true
  | .fill _ => true
  | .hostSpill _ => true
  | .hostFetch _ => true
  | .tasklistRun _ => true
  | .stepBegin _ => true
  | .stepCommit _ => true
  | .memAtomic _ => true
  | .scrubCtrl _ => true
  | .flipmaskArm _ => true
  | .partitionSet _ => true
  | .groupJoin _ => true
  | .bucketDefine _ => true
  | .groupAbort _ => true
  | .shadowMap _ => true
  | .feedOpen _ => true
  | .feedSubmit _ => true
  | .feedClose _ => true
  | .tokenizerLoad _ => true
  | .mediaSessionOpen _ => true
  | .mediaDecode _ => true
  | .mediaEncode _ => true
  | .contextCreate _ => true
  | .contextDestroy _ => true
  | .resetDomain _ => true
  | .powerState _ => true
  | .identChallenge _ => true
  | .countersRead _ => true
  | .numericsPolicy _ => true
  | .empty _ _ => true
  | .matmul _ _ => true
  | .backward _ _ => true
  | .combine _ _ => true
  | .conv _ _ => true
  | .convBwd _ _ => true
  | .poolBwd _ _ => true
  | .vchain _ _ => true
  | .vfinish _ _ => true
  | .adamw _ _ => true
  | .sgdm _ _ => true
  | .taskComplete _ _ mt => fits64 mt
  | .cmdTail fn q v => isFn fn && isQueue q && fits32 v
  | .cplHead fn c v => isFn fn && isQueue c && fits32 v
  | .packetFetch q => isQueue q
  | .packetStart q => isQueue q
  | .mtimeNotBefore q => isQueue q
  | .waitSemaphoreReread q => isQueue q
  | .packetCompletion _ mt => fits64 mt
  | .mgtQcfg fn v => isFn fn && fits32 v
  | .mgtQbase fn _ v => isFn fn && fits32 v
  | .resume fn => isFn fn
  | .flush fn => isFn fn
  | .mgtCcfg fn reg v => isFn fn && decide (reg < 3) && fits32 v
  | .memRattr fn v => isFn fn && fits32 v
  | .memRetire fn v => isFn fn && fits32 v
  | .channelRetirementDone ch => decide (ch < 512)
  | .eccFlipmaskArm fn v => isFn fn && fits32 v
  | .flipmaskWithdraw fn v => isFn fn && fits32 v
  | .fabPortEnable fn v => isFn fn && fits32 v
  | .retrain fn => isFn fn
  | .fabModuleId fn v => isFn fn && fits32 v
  | .rstCoreRetire fn v => isFn fn && fits32 v
  | .pwrCapW fn v => isFn fn && fits32 v
  | .mgtVfmap fn v => isFn fn && fits32 v
  | .elogRingConfig fn ring reg v => isFn fn && decide (ring < 3) && decide (reg < 5) && fits32 v
  | .readClears fn off => isFn fn && isReg off
  | .loReadLatch fn off => isFn fn && isReg off
  | .registerWrite fn off v => isFn fn && isReg off && fits32 v
  | .bar4Read fn addr len => isFn fn && decide (addr < 2 ^ 41) && decide (0 < len) && decide (len ≤ 4096)
  | .bar4Write fn addr data =>
    isFn fn && decide (addr < 2 ^ 41) && decide (0 < data.length) && decide (data.length ≤ 4096)
  | .atomicopRequest fn bar addr => isFn fn && decide (bar < 6) && decide (addr < 2 ^ 41)
  | .powerUp => true
  | .inputOff _ => true
  | .wakeN _ => true
  | .perstnN port => isHub port
  | .pcieLinkDown port => isHub port
  | .pcieLinkUp port => isHub port
  | .hbCount => true
  | .heartbeatRecord => true
  | .takeover => true
  | .engineWatchdog e => isEngine e
  | .unitHang hub => isHub hub
  | .resetTimerExpiry dom idx => isDomain dom idx
  | .resetDone dom idx d => isDomain dom idx && fits64 d.mt && d.degraded.all (fun c => decide (c < 512))
  | .replayPass e mt => isEngine e && fits64 mt
  | .rstReplayMs e => isEngine e
  | .replayFault e status _ => isEngine e && decide (status < 256)
  | .contextLoad e ctx => isEngine e && isCtx ctx
  | .sliceGrant e mt => isEngine e && fits64 mt
  | .sliceExpiry e => isEngine e
  | .fwdDone ctx _ => isCtx ctx
  | .spillDone ctx _ status mt => isCtx ctx && decide (status < 256) && fits64 mt
  | .fetchDone ctx _ status mt => isCtx ctx && decide (status < 256) && fits64 mt
  | .bucketSend gid b => fits16 gid && fits16 b
  | .reduce h data => h.wf && isLen data.length
  | .slotTableSum gid b _ _ _ => fits16 gid && fits16 b
  | .retry m => m.wf
  | .retryResend gid b dest => fits16 gid && fits16 b && fits16 dest
  | .resend m => m.wf
  | .bucketDeadline gid b _ => fits16 gid && fits16 b
  | .shardPublish gid b _ => fits16 gid && fits16 b
  | .bcast h data => h.wf && isLen data.length
  | .normUp m image => m.wf && isLen image.length
  | .normDown m norm2 factor flags => m.wf && fits64 norm2 && fits32 factor && decide (flags < 256)
  | .ready m => m.wf
  | .commit m => m.wf
  | .abortReq m => m.wf
  | .abort m => m.wf
  | .decisionQuery m => m.wf
  | .decision m => m.wf
  | .rejoin m => m.wf
  | .rejoinAns m => m.wf
  | .read h len => h.wf && fits64 len
  | .write h data => h.wf && isLen data.length
  | .atomic h aop atype operand => h.wf && fits8 aop && fits8 atype && fits64 operand
  | .pull h raddr len => h.wf && decide (raddr < 2 ^ 48) && decide (1 ≤ len ∧ len ≤ 2 ^ 40)
  | .bulk h _ planeCount data => h.wf && fits32 planeCount && isLen data.length
  | .resp h status rkind value detail data =>
    h.wf && fits8 status && fits8 rkind && decide (rkind ≠ 3 ∧ rkind ≠ 4) && fits64 value && fits64 detail && isLen data.length
  | .bulkDone h status detail => h.wf && decide (status < 256) && fits64 detail
  | .msgAck h => h.wf
  | .messageRepeat dest mseq => fits16 dest && fits32 mseq
  | .timeSync a src sub mseq arg0 arg1 mt =>
    a.wf && fits16 src && fits8 sub && fits32 mseq && fits64 arg0 && fits64 arg1 && fits64 mt
  | .timeSyncExchange port => isPort port
  | .timeMasterLost => true
  | .portState a mid _ => a.wf && fits16 mid
  | .departing a src mseq => a.wf && fits16 src && fits32 mseq
  | .link port f => isPort port && f.wf
  | .remoteTimeout tag => fits32 tag
  | .portTrainingDone port _ plane => isPort port && decide (plane < 8)
  | .laneSpare port lane => isPort port && decide (lane < 100)
  | .patrolScrub stack => isStack stack
  | .stackThermalSample stack temp => isStack stack && decide (temp < 256)
  | .quadrantThermalSample quad temp => decide (quad < 32) && decide (temp < 256)
  | .powerCapSample watts centiV => decide (watts < 2 ^ 13) && decide (centiV < 2 ^ 13)
  | .stackSelfRefresh stack => isStack stack
  | .sampleDecodeStart f => fits16 f
  | .sampleReady f _ mt => fits16 f && fits64 mt
  | .softLate f _ => fits16 f
  | .hardLate f _ => fits16 f
  | .reorderRelease f => fits16 f
  | .outputRecord sess => fits16 sess
  | .outConsReread sess => fits16 sess
  | .standbyReady => true
  | .dieLocalChangeDone ent => decide (ent < 64)
  | .powerTransitionDone => true
  | .channelLost ch => decide (ch < 512)
  | .laneRetrained port lane _ => isPort port && decide (lane < 100)
  | .discardedPacket a typ k => a.wf && fits8 typ && decide (k.vc < 4) && isLen k.len

end Sys2Proof
end

