-- ==== Sys2Proof/Decode.lean ====
section
/-! DEFINITION. The block has no decoder of its own: no row of spec/opcode_table.json gives its command any
bits (every row's field list is empty), so no word spells one (notes/assumptions/1). Packets are read from
rings by PACKET_FETCH (Machine/Commands.lean), which is where their bytes are laid out. -/

namespace Sys2Proof

/-- The command a word spells by the table's bits: the table gives none. -/
def decodeTableWord (_nbits _w : Nat) : Option Instr := none

end Sys2Proof
end

