-- ==== Sys2Proof/Machine/Bits.lean ====
section
/-! DEFINITION. Bit fields, byte order (R35: little-endian) and the checksums of the chapters. -/

namespace Sys2Proof.Machine

/-- Bits [lo + w - 1 : lo] of a register or word. -/
def fld (v lo w : Nat) : Nat := (v >>> lo) % 2 ^ w

/-- R35: the number whose bytes, least significant first, are `bs`. -/
def le : List Byte → Nat
  | [] => 0
  | b :: r => b.toNat + 256 * le r

/-- R35: the low `n` bytes of `v`, least significant first. -/
def toLe : Nat → Nat → List Byte
  | 0, _ => []
  | n + 1, v => BitVec.ofNat 8 v :: toLe n (v / 256)

/-- The field of `size` bytes at offset `off` of a block. -/
def field (bs : List Byte) (off size : Nat) : Nat := le ((bs.drop off).take size)

/-- Whether the `size` bytes at `off` are all zero: a reserved field. -/
def zeroAt (bs : List Byte) (off size : Nat) : Bool := ((bs.drop off).take size).all (· == 0#8)

/-- The 32-bit two's-complement value of a word. -/
def int32 (v : Nat) : Int := if v % 2 ^ 32 < 2 ^ 31 then (v % 2 ^ 32 : Nat) else ((v % 2 ^ 32 : Nat) : Int) - 2 ^ 32

/-- The two's-complement value of the low `w` bits. -/
def intW (w v : Nat) : Int := if v % 2 ^ w < 2 ^ (w - 1) then (v % 2 ^ w : Nat) else ((v % 2 ^ w : Nat) : Int) - 2 ^ w

/-- The low `w` bits of an integer, as an unsigned number. -/
def wrap (w : Nat) (v : Int) : Nat := (v % (2 ^ w : Nat)).toNat

/-- ⌈a / b⌉ -/
def cdiv (a b : Nat) : Nat := (a + b - 1) / b

/-- Round `a` up to a multiple of `b`. -/
def upTo (a b : Nat) : Nat := cdiv a b * b

/-- R118: the mixing function, modulo 2^64. -/
def mix (z : Nat) : Nat :=
  let a := ((z ^^^ (z >>> 30)) * 0xBF58476D1CE4E5B9) % 2 ^ 64
  let b := ((a ^^^ (a >>> 27)) * 0x94D049BB133111EB) % 2 ^ 64
  b ^^^ (b >>> 31)

/-- R118: the 24-bit draw of element `index`. -/
def srbits (seed step tensor index : Nat) : Nat :=
  let k := (step % 2 ^ 32) * 2 ^ 32 + tensor % 2 ^ 32
  let i := index % 2 ^ 64
  mix (seed % 2 ^ 64 ^^^ mix (k ^^^ mix (i ^^^ 0x9E3779B97F4A7C15))) >>> 40

/-- One byte of a reflected CRC register with reflected polynomial `poly`. -/
def crcByte (poly : Nat) (c : Nat) (b : Byte) : Nat :=
  (List.range 8).foldl (fun a _ => if a % 2 = 1 then (a >>> 1) ^^^ poly else a >>> 1) (c ^^^ b.toNat)

/-- R372: CRC-32C, polynomial 0x1EDC_6F41 reflected, initial value and final XOR all ones. -/
def crc32c (bs : List Byte) : Nat := bs.foldl (crcByte 0x82F63B78) 0xFFFFFFFF ^^^ 0xFFFFFFFF

/-- R376: the CRC of a PNG chunk: polynomial 0x04C1_1DB7 reflected, initial value and final XOR all ones. -/
def crc32 (bs : List Byte) : Nat := bs.foldl (crcByte 0xEDB88320) 0xFFFFFFFF ^^^ 0xFFFFFFFF

/-- R270: CRC-64/XZ, polynomial 0x42F0_E1EB_A9EA_3693 reflected, initial value and final XOR all ones. -/
def crc64 (bs : List Byte) : Nat :=
  bs.foldl (crcByte 0xC96C5795D7870F42) 0xFFFFFFFFFFFFFFFF ^^^ 0xFFFFFFFFFFFFFFFF

/-- The numbers of the set bits of a mask, among the first `n`, ascending. -/
def bitsOf (n mask : Nat) : List Nat := (List.range n).filter (fun i => mask.testBit i)

/-- A list in order: stable, by insertion. -/
def insertBy {α : Type} (le : α → α → Bool) (x : α) : List α → List α
  | [] => [x]
  | y :: l => if le x y then x :: y :: l else y :: insertBy le x l

def sortBy {α : Type} (le : α → α → Bool) : List α → List α
  | [] => []
  | x :: l => insertBy le x (sortBy le l)

/-- An unsigned count that saturates. -/
def satTo (top v : Nat) : Nat := min top v

end Sys2Proof.Machine
end

