-- ==== Sys2Proof/Machine/Descriptors.lean ====
section
/-! DEFINITION. Task descriptors: their fields, and what each must meet by itself (05_matrix_cores, 06_convolution, 07_vector_engine,
09_training_support). -/

namespace Sys2Proof.Machine

/-! ### Format bytes (R68, R69, R138 to R140, R143) -/

/-- R68: whether a scale mode allows an element format. -/
def scaleAllows (scale fmt : Nat) : Bool :=
  match scale with
  | 0 => decide (fmt ≤ 9)
  | 1 => decide (3 ≤ fmt ∧ fmt ≤ 8)
  | 2 => decide (fmt = 0xA)
  | 3 => decide (fmt = 0xB)
  | _ => false

/-- What a format byte names. -/
structure Fmt where
  fmt   : Nat
  scale : Nat
  hdr   : Bool
  deriving DecidableEq, Repr

/-- R138. -/
def fmtByte (b : Nat) : Fmt := { fmt := fld b 0 4, scale := fld b 4 3, hdr := b.testBit 7 }

/-- R69, R139, R140: a direct operand has FMT 0x0 to 0x4; every other needs a header. INT32 is a destination only. -/
def Fmt.ok (f : Fmt) (dest : Bool) : Bool :=
  (scaleAllows f.scale f.fmt || (dest && f.fmt == 0xC && f.scale == 0))
    && (f.hdr || (decide (f.fmt ≤ 4) && f.scale == 0))

/-- R94, R143: a residual-stream operand is direct FP32 or BF16, by the policy. -/
def residFmt (policy : Nat) : Fmt := { fmt := if policy = 0 then 0 else 1, scale := 0, hdr := false }

/-! ### Step counts (R130, R155, R156) -/

/-- R130: four times the step cost of a format. -/
def cost4 (fmt : Nat) : Nat :=
  match fmt with
  | 0 => 24
  | 1 | 2 => 8
  | 7 | 9 | 0xA => 2
  | 0xB => 1
  | _ => 4

/-- ⌈n·c⌉ for a pair of formats. -/
def pairSteps (fa fb n : Nat) : Nat := cdiv (n * max (cost4 fa) (cost4 fb)) 4

/-- B(x) = ⌈x/16⌉. -/
def b16 (x : Nat) : Nat := cdiv x 16

abbrev stepLimit : Nat := 360000

/-! ### Matrix descriptors (R135 to R137, R145 to R154) -/

/-- The fields of a matrix descriptor. -/
structure MDesc where
  sr      : Bool
  part    : Bool
  residX  : Bool
  residY  : Bool
  transX  : Bool
  transW  : Bool
  pt      : Nat
  chunk   : Nat
  fx      : Fmt
  fw      : Fmt
  fy      : Fmt
  fg      : Fmt
  fdw     : Fmt
  rank    : Nat
  m       : Nat
  n       : Nat
  k       : Nat
  tid     : Nat
  x       : Nat
  w       : Nat
  y       : Nat
  g       : Nat
  dw      : Nat
  aux     : Nat
  ldx     : Nat
  ldw     : Nat
  ldy     : Nat
  ldg     : Nat
  lddw    : Nat
  orgx    : Nat
  orgw    : Nat
  orgy    : Nat
  orgdw   : Nat
  npart   : Nat
  deriving DecidableEq, Repr

/-- R135, R143: the descriptor under the policy in force. -/
def mdesc (policy : Nat) (d : List Byte) : MDesc :=
  let fl := field d 1 1
  let residX := fl.testBit 3
  let residY := fl.testBit 4
  { sr := fl.testBit 1, part := fl.testBit 2, residX, residY, transX := fl.testBit 5, transW := fl.testBit 6,
    pt := field d 2 1, chunk := field d 3 1 + 1,
    fx := if residX then residFmt policy else fmtByte (field d 4 1), fw := fmtByte (field d 5 1),
    fy := if residY then residFmt policy else fmtByte (field d 6 1), fg := fmtByte (field d 7 1),
    fdw := fmtByte (field d 8 1), rank := field d 9 1 + 1, m := field d 12 2, n := field d 14 2, k := field d 16 4,
    tid := field d 20 4, x := field d 24 8, w := field d 32 8, y := field d 40 8, g := field d 48 8, dw := field d 56 8,
    aux := field d 64 8, ldx := field d 72 4, ldw := field d 76 4, ldy := field d 80 4, ldg := field d 84 4,
    lddw := field d 88 4, orgx := field d 92 4, orgw := field d 96 4, orgy := field d 100 4, orgdw := field d 108 4,
    npart := field d 112 2 }

/-- R146, R149: a destination format, where the descriptor's byte sets it. INT8 under MX32 counts as INT8 (notes/assumptions/164). -/
def destOk (part : Bool) (f : Fmt) (fa fb : Nat) : Bool :=
  part || (f.ok true && (f.fmt != 0xC || (decide (fa = 8 ∨ fa = 9) && decide (fb = 8 ∨ fb = 9))))

/-- R135, R137, R154: what every matrix descriptor must meet. -/
def matrixOk (d : List Byte) (v : MDesc) (combine : Bool) : Bool :=
  decide (field d 1 1 < 128) && decide (v.pt ≤ 2) && decide (1 ≤ v.m ∧ v.m ≤ 256) && decide (1 ≤ v.n ∧ v.n ≤ 256)
    && (decide (v.pt = 1) || field d 9 1 == 0) && (decide (v.pt ≠ 0) || v.aux == 0)
    && (decide (v.pt ≠ 2) || decide (v.aux % 8 = 0)) && (combine || v.npart == 0) && zeroAt d 114 14

/-- A headered operand may not be marked transposed (R141). -/
def transOk (f : Fmt) (trans : Bool) : Bool := !(trans && f.hdr)

/-- A headered destination of several rows: its stride holds a row's blocks (R141). -/
def ldOk (part : Bool) (f : Fmt) (ld rows cols : Nat) : Bool :=
  part || !f.hdr || decide (rows ≤ 1) || decide (cdiv cols (if f.fmt = 0xA ∨ f.fmt = 0xB then 64 else 32) ≤ ld)

/-- R155: the steps of a MATMUL; an adapter's are those of its own row, with FP32 operands too (notes/assumptions/163). -/
def MDesc.matmulSteps (v : MDesc) : Nat :=
  let nb := b16 v.m * b16 v.n
  let main := pairSteps v.fx.fmt v.fw.fmt v.k
  if v.pt = 1 then cdiv (b16 v.m * b16 v.rank) 2 * (2 * v.k) + cdiv nb 2 * (main + 2 * v.rank)
  else if v.fx.fmt = 0 ∨ v.fw.fmt = 0 then nb * (6 * v.k) else cdiv nb 2 * main

/-- R135, R137, R145, R146, R152, R156: what the descriptor of a MATMUL must meet. -/
def matmulOk (d : List Byte) (v : MDesc) : Bool :=
  matrixOk d v false && decide (v.pt ≠ 2) && decide (1 ≤ v.k ∧ v.k ≤ 2 ^ 20) && field d 7 1 == 0
    && v.fx.ok false && v.fw.ok false && transOk v.fx v.transX && transOk v.fw v.transW
    && destOk v.part v.fy v.fx.fmt v.fw.fmt && ldOk v.part v.fy v.ldy v.m v.n
    && (decide (v.pt ≠ 1) || (v.aux % 64 == 0 && destOk v.part v.fy 1 1)) && decide (v.matmulSteps ≤ stepLimit)

/-- R155: the steps of a BACKWARD of which `marked` blocks of dW are computed. -/
def MDesc.backwardSteps (v : MDesc) (marked : Nat) : Nat :=
  let stepA := b16 v.m * b16 v.k
  let na := pairSteps v.fg.fmt v.fw.fmt v.n
  let mb := pairSteps v.fx.fmt v.fg.fmt v.m
  if v.pt = 1 then
    cdiv (b16 v.m * b16 v.rank) 2 * (2 * v.n)
      + max (stepA * (na + 2 * v.rank)) ((b16 v.rank * b16 v.n + b16 v.k * b16 v.rank) * (2 * v.m))
  else max (stepA * na) (marked * mb)

/-- R135, R137, R147, R148, R153, R154, R156: what the descriptor of a BACKWARD must meet; a mask's own step count is judged when the
mask is read. -/
def backwardOk (d : List Byte) (v : MDesc) : Bool :=
  let adapter := decide (v.pt = 1)
  matrixOk d v false && decide (1 ≤ v.k ∧ v.k ≤ 65536) && !(v.fx.fmt == 0 || v.fw.fmt == 0 || v.fg.fmt == 0)
    && v.fx.ok false && v.fw.ok false && v.fg.ok false && !v.fg.hdr && transOk v.fx v.transX && transOk v.fw v.transW
    && destOk v.part v.fy v.fg.fmt v.fw.fmt && (!adapter || destOk v.part v.fy 1 1) && ldOk v.part v.fy v.ldy v.m v.k
    && (if adapter then v.part || (v.fdw.ok true && v.fdw.fmt != 0xC) else destOk v.part v.fdw v.fx.fmt v.fg.fmt)
    && (if adapter then ldOk v.part v.fdw v.lddw v.k v.rank && ldOk v.part v.fdw v.lddw v.rank v.n
        else ldOk v.part v.fdw v.lddw v.k v.n)
    && (decide (v.pt ≠ 2) || v.part || !v.fdw.hdr) && (!adapter || (v.dw == 0 && v.aux % 64 == 0))
    && decide (v.backwardSteps (if v.pt = 2 then 0 else b16 v.k * b16 v.n) ≤ stepLimit)

/-- R135, R150, R156: what the descriptor of a COMBINE must meet. -/
def combineOk (d : List Byte) (v : MDesc) : Bool :=
  matrixOk d v true && decide (v.pt = 0) && decide (1 ≤ v.npart) && field d 4 1 == 0 && field d 7 1 == 0
    && (v.part || v.fy.ok true) && ldOk v.part v.fy v.ldy v.m v.n && decide (cdiv (v.m * v.n) 512 * v.npart ≤ stepLimit)

/-! ### Convolution descriptors (R162 to R164) -/

/-- R162: an activation's format byte: direct, FMT 0x0 to 0x4. -/
def planarOk (b : Nat) : Bool := decide (b ≤ 4)

/-- R164. -/
structure CDesc where
  sr     : Bool
  part   : Bool
  pt     : Nat
  chunk  : Nat
  layers : Nat
  fin    : Nat
  fout   : Nat
  fg     : Nat
  fdw    : Fmt
  y0     : Nat
  x0     : Nat
  th     : Nat
  tw     : Nat
  tid    : Nat
  inA    : Nat
  outA   : Nat
  layA   : Nat
  gA     : Nat
  dwA    : Nat
  aux    : Nat
  inH    : Nat
  inW    : Nat
  inPl   : Nat
  inRow  : Nat
  outPl  : Nat
  outRow : Nat
  gPl    : Nat
  gRow   : Nat
  lddw   : Nat
  deriving DecidableEq, Repr

def cdesc (d : List Byte) : CDesc :=
  let fl := field d 1 1
  { sr := fl.testBit 1, part := fl.testBit 2, pt := field d 2 1, chunk := field d 3 1 + 1, layers := field d 4 1,
    fin := field d 5 1, fout := field d 6 1, fg := field d 7 1, fdw := fmtByte (field d 8 1), y0 := field d 12 2,
    x0 := field d 14 2, th := field d 16 2, tw := field d 18 2, tid := field d 20 4, inA := field d 24 8,
    outA := field d 32 8, layA := field d 40 8, gA := field d 48 8, dwA := field d 56 8, aux := field d 64 8,
    inH := field d 72 2, inW := field d 74 2, inPl := field d 76 4, inRow := field d 80 4, outPl := field d 84 4,
    outRow := field d 88 4, gPl := field d 92 4, gRow := field d 96 4, lddw := field d 100 4 }

/-- R163, R164: what every such descriptor must meet; `bwd` is CONV_BWD. -/
def convOk (d : List Byte) (v : CDesc) (bwd : Bool) : Bool :=
  decide (field d 1 1 < 8) && (bwd || !v.part) && (decide (v.pt = 0) || (bwd && decide (v.pt = 2)))
    && planarOk v.fin && planarOk v.fout && planarOk v.fg && (bwd || field d 8 1 == 0) && zeroAt d 9 1
    && decide (1 ≤ v.th ∧ v.th ≤ 256) && decide (1 ≤ v.tw ∧ v.tw ≤ 256) && decide (v.layA % 64 = 0)
    && (decide (v.pt = 2) || v.aux == 0) && decide (v.aux % 8 = 0) && decide (1 ≤ v.inH) && decide (1 ≤ v.inW)
    && zeroAt d 104 24

/-! ### Vector descriptors (R179 to R193) -/

/-- R191 to R193: which of X, Y and Z a stage operation takes. -/
def sopTakes (sop : Nat) : Bool × Bool × Bool :=
  match sop with
  | 0x01 | 0x02 | 0x04 | 0x05 | 0x0F => (true, true, false)
  | 0x03 | 0x06 => (true, true, true)
  | _ => (true, false, false)

/-- The sources a stage takes (R188). -/
def stageSources (e : List Byte) : List Nat :=
  let (x, y, z) := sopTakes (field e 0 1)
  (if x then [fld (field e 1 1) 0 4] else []) ++ (if y then [fld (field e 1 1) 4 4] else [])
    ++ (if z then [fld (field e 2 1) 0 4] else [])

/-- The stages of a vector descriptor. -/
def vecStages (d : List Byte) : List (List Byte) :=
  (List.range (field d 2 1)).map (fun k => (d.drop (64 + 8 * k)).take 8)

/-- R179, R186: the streams a vector instruction uses: A, B, C, D, S, R. -/
def vecStreams (d : List Byte) : List Bool :=
  if field d 0 1 = 0x21 then [false, false, false, true, false, true]
  else
    let st := vecStages d
    let src := st.flatMap stageSources
    let first := ((st.headD []) |> stageSources)
    [src.contains 1 || first.contains 0, src.contains 2, src.contains 3, field d 7 1 != 0xFF,
     src.contains 4 || src.contains 5 || st.any (fun e => field e 0 1 == 0x0F),
     st.any (fun e => decide (0x10 ≤ field e 0 1 ∧ field e 0 1 ≤ 0x14))]

/-- R181: a vector instruction with a scratchpad stream runs on SP_ENGINE. -/
def vecEngine (d : List Byte) : Option Nat :=
  if 0x28 ≤ field d 0 1 then none
  else if ((List.range 6).any (fun i => (vecStreams d)[i]! && !(field d 8 1).testBit i)) then some (field d 9 1)
  else none

/-- R187. -/
structure Stage where
  sop  : Nat
  sx   : Nat
  sy   : Nat
  sz   : Nat
  mode : Nat
  fl   : Nat
  imm  : Nat
  deriving DecidableEq, Repr

/-- R199: MODE bits that a SOP defines. -/
def modeMask (sop : Nat) : Nat :=
  match sop with
  | 0x06 | 0x07 => 16
  | 0x10 | 0x11 | 0x12 | 0x14 => 2
  | 0x13 => 8
  | _ => 1

def stageOf (e : List Byte) : Stage :=
  { sop := field e 0 1, sx := fld (field e 1 1) 0 4, sy := fld (field e 1 1) 4 4, sz := fld (field e 2 1) 0 4,
    mode := fld (field e 2 1) 4 4 % modeMask (field e 0 1), fl := field e 3 1, imm := field e 4 4 }

/-- R191 to R193: a SOP that a table has. -/
def sopOk (sop : Nat) : Bool := decide ((1 ≤ sop ∧ sop ≤ 0x14))

def Stage.isRed (g : Stage) : Bool := decide (0x10 ≤ g.sop ∧ g.sop ≤ 0x14)

/-- R193: the slots that a reduction writes. -/
def Stage.slots (g : Stage) : List Nat :=
  if !g.isRed then []
  else if g.sop = 0x12 ∨ (g.sop = 0x13 ∧ g.mode / 2 = 1) then [0, 1]
  else [g.mode % 2]

/-- R187, R188, R193, R195, R199: a stage's fields; `srcs` is false in VFINISH, where sources and flags are not checked. -/
def Stage.ok (g : Stage) (wide srcs : Bool) : Bool :=
  let (x, y, z) := sopTakes g.sop
  sopOk g.sop && (!srcs || (decide (g.fl < 16) && (!x || decide (g.sx ≤ 8)) && (!y || decide (g.sy ≤ 8)) && (!z || decide (g.sz ≤ 8))))
    && (match g.sop with
      | 0x06 => decide (g.mode ≤ 5)
      | 0x07 => decide (g.mode ≤ 9)
      | 0x13 => decide (g.mode / 2 ≤ 2) && (decide (g.mode / 2 ≠ 1) || decide (g.mode % 2 = 0)) && (!wide || decide (g.mode / 2 = 0))
      | _ => true)

/-- R183, R184. -/
structure VDesc where
  op     : Nat
  sr     : Bool
  /-- D is a residual stream under WIDE-KERNEL, whose adds round once, to BF16 (R94) -/
  kernel : Bool
  wide   : Bool
  accum  : Bool
  stages : List Stage
  fmts   : List Fmt
  hasD   : Bool
  space  : Nat
  eng    : Nat
  count  : Nat
  nrows  : Nat
  lds    : List Nat
  offs   : List Nat
  sOff   : Nat
  rOff   : Nat
  ext    : Nat
  deriving DecidableEq, Repr

def vdesc (policy : Nat) (d : List Byte) : VDesc :=
  let fl := field d 1 1
  let resid (k : Nat) : Bool := (k == 0 && fl.testBit 3) || (k == 3 && fl.testBit 4)
  { op := field d 0 1, sr := fl.testBit 1, kernel := resid 3 && policy != 0, wide := (field d 3 1).testBit 0, accum := (field d 3 1).testBit 1,
    stages := (vecStages d).map stageOf,
    fmts := (List.range 4).map (fun k => if resid k then residFmt policy else fmtByte (field d (4 + k) 1)),
    hasD := field d 7 1 != 0xFF, space := field d 8 1, eng := field d 9 1, count := field d 12 2, nrows := field d 14 2,
    lds := (List.range 4).map (fun k => field d (16 + 4 * k) 4), offs := (List.range 4).map (fun k => field d (32 + 4 * k) 4),
    sOff := field d 48 4, rOff := field d 52 4, ext := field d 56 8 }

/-- R183, R199: what every vector descriptor must meet, its used streams being `use` (A, B, C, D, S, R). -/
def vectorOk (d : List Byte) (v : VDesc) (use : List Bool) : Bool :=
  let on (k : Nat) : Bool := use.getD k false
  let n := field d 2 1
  let fin := decide (v.op = 0x21)
  decide (field d 1 1 &&& 0xE4 = 0) && decide (1 ≤ n ∧ n ≤ if fin then 1 else 8) && decide (field d 3 1 < 4)
    && (!v.accum || v.wide) && (!fin || (v.wide && !v.accum)) && decide (v.space < 64)
    && (fin || decide (1 ≤ v.count ∧ v.count ≤ 16384)) && decide (1 ≤ v.nrows ∧ v.nrows ≤ 4096)
    && (fin || !on 3 || decide (v.nrows = 1) || decide (v.count ≤ v.lds.getD 3 0))
    && (!on 4 || v.space.testBit 4 || v.sOff % 8 == 0) && (!on 5 || v.space.testBit 5 || v.rOff % 8 == 0)
    && v.ext % 64 == 0 && (v.ext != 0 || (v.space == 0 && (fin || !v.sr)))
    && zeroAt d (64 + 8 * n) (64 - 8 * n)
    && v.stages.all (fun g => g.ok v.wide (!fin)) && (!fin || v.stages.all (·.isRed))
    && decide ((v.stages.flatMap Stage.slots).Nodup)
    && (fin || (List.range 4).all (fun k => !on k
      || (match v.fmts[k]? with
        | some f => f.ok true && (!f.hdr || v.space.testBit k)
        | none => false)))

/-! ### Optimizer descriptors (R253) -/

/-- R253. -/
structure ODesc where
  adam  : Bool
  sr    : Bool
  phase : Nat
  clip  : Bool
  fmt   : Fmt
  hasC  : Bool
  count : Nat
  layer : Nat
  tid   : Nat
  org   : Nat
  addr  : List Nat
  deriving DecidableEq, Repr

def odesc (d : List Byte) : ODesc :=
  { adam := field d 0 1 == 0x28, sr := (field d 1 1).testBit 1, phase := field d 2 1, clip := (field d 3 1).testBit 0,
    fmt := fmtByte (field d 4 1), hasC := field d 4 1 != 0xFF, count := field d 12 4, layer := field d 16 4,
    tid := field d 20 4, org := field d 24 4, addr := (List.range 12).map (fun k => field d (32 + 8 * k) 8) }

/-- The streams in the order of R253: G, M_IN, V_IN, M_OUT, V_OUT, WHI_IN, WTAIL_IN, WHI_OUT, WTAIL_OUT, C, LRT, NORM. -/
def ODesc.a (v : ODesc) (k : Nat) : Nat := v.addr.getD k 0

/-- R253: what every optimizer descriptor must meet. -/
def optimOk (d : List Byte) (v : ODesc) : Bool :=
  decide (field d 1 1 < 4) && decide (v.phase = 1 ∨ v.phase = 2) && decide (field d 3 1 < 2)
    && (!v.hasC || v.fmt.ok true) && zeroAt d 5 5 && decide (1 ≤ v.count ∧ v.count ≤ 67108864) && zeroAt d 28 4
    && (List.range 10).all (fun k => v.a k % 256 == 0) && v.a 10 % 32 == 0 && (!v.clip || v.a 11 % 128 == 0)
    && (v.adam || (v.a 2 == 0 && v.a 4 == 0)) && (v.hasC || v.a 9 == 0)

/-! ### Any descriptor -/

/-- Where the descriptor's item may run: none for an OP that no row has (R136, R163, R182). -/
inductive Kind where
  | core
  | vector (only : Option Nat)
  | bad
  deriving DecidableEq, Repr

def kindOf (d : List Byte) : Kind :=
  match field d 0 1 with
  | 0 | 1 | 2 | 3 | 0x10 | 0x11 | 0x12 => .core
  | 0x20 | 0x21 | 0x28 | 0x29 => .vector (vecEngine d)
  | _ => .bad

/-- R57, R136: what a descriptor by itself must meet, under the policy in force. What its headers, layers, extension blocks and masks
must meet is judged when the task reads them. -/
def descOk (policy : Nat) (d : List Byte) : Bool :=
  match field d 0 1 with
  | 0 => true
  | 1 => matmulOk d (mdesc policy d)
  | 2 => backwardOk d (mdesc policy d)
  | 3 => combineOk d (mdesc policy d)
  | 0x10 => convOk d (cdesc d) false && field d 7 1 == 0 && decide (1 ≤ field d 4 1 ∧ field d 4 1 ≤ 4)
  | 0x11 => convOk d (cdesc d) true && field d 4 1 == 1
  | 0x12 => convOk d (cdesc d) false && field d 4 1 == 1
  | 0x20 => vectorOk d (vdesc policy d) (vecStreams d)
  | 0x21 => vectorOk d (vdesc policy d) (vecStreams d)
  | 0x28 => optimOk d (odesc d)
  | 0x29 => optimOk d (odesc d)
  | _ => false

end Sys2Proof.Machine
end

