-- ==== Sys2Proof/Config.lean ====
section
/-! DEFINITION. What an order code fixes, and the values the spec leaves free: opaque constants, of which no
proof can learn a value, so a claim holds whatever they are. -/

namespace Sys2Proof.Config

/-- A free byte, by the state's counter of free values (notes/assumptions/4). -/
opaque freeByte : Nat → Byte

/-- A free choice among listed outcomes (R10), by the state's counter of free values: the outcome
taken is the one of that number modulo how many are listed (notes/assumptions/4). -/
opaque freeChoice : Nat → Nat

/-- R192, R193, R96: of the two FP32 values that bracket an inexact function result, whether the reference model delivers the one of
larger magnitude; by the stage and the operand's numerator and denominator (for LSE the register and its weight)
(notes/assumptions/5). -/
opaque fnAway : Nat → Int → Nat → Bool

/-! ### Media decoders, the audio front end and the codec: bits of outside standards and of the reference model (R96, R376 to R420;
notes/assumptions/6). -/

/-- A rational: numerator and denominator. -/
structure Ratio where
  num : Int
  den : Nat
  deriving DecidableEq, Repr, Inhabited

/-- R376: whether a decoder meets an error inside its subset, by record type and payload. -/
opaque decodeError : Nat → List Byte → Bool

/-- Whether a payload that is no stream of its type is outside the subset, and not an error inside it (notes/assumptions/159). -/
opaque alien : Nat → List Byte → Bool

/-- Of a PNG stream outside the subset with a failing chunk CRC, whether the CRC gives the reason (notes/assumptions/159). -/
opaque crcFirst : List Byte → Bool

/-- R376, R377: a sample of a decoded image, by record type, payload, CHANNELS, channel, row and column. -/
opaque pixel : Nat → List Byte → Nat → Nat → Nat → Nat → Nat

/-- R377, R414, R418: an element of a resized plane: by RESIZE, the plane's rows, the new width and height, row and column. -/
opaque resized : Nat → List (List Rat) → Nat → Nat → Nat → Nat → Ratio

/-- R376: the samples of a channel of a FLAC or Opus stream, by record type and payload. -/
opaque audio : Nat → List Byte → Nat → List Ratio

/-- R378: how many frames the front end makes, by rate, number of samples and transform block. -/
opaque frames : Nat → Nat → List Byte → Nat

/-- R378: log₂ of a mel bin's power, by rate, mono samples, transform block, frame and bin. -/
opaque logMel : Nat → List Rat → List Byte → Nat → Nat → Ratio

/-- R412: what the codec knows of a 16 × 16 block: the motion vector of its first 4 × 4 in quarter samples, SAD, the reference, whether it
is intra, skipped, and predicted from a concealed or missing picture. -/
structure Block where
  mvx    : Nat
  mvy    : Nat
  sad    : Nat
  ref    : Nat
  intra  : Bool
  skip   : Bool
  hidden : Bool
  deriving DecidableEq, Repr, Inhabited

/-- An output picture of a video field: its coded size and its cropped size, whether it is concealed, its coded bytes, and the bytes of
its syntax elements (R399). -/
structure VideoFrame where
  fullW     : Nat
  fullH     : Nat
  w         : Nat
  h         : Nat
  concealed : Bool
  coded     : Nat
  parsedLen : Nat
  deriving DecidableEq, Repr

/-- How a video stream ends: at its end, outside the subset, or in an error. -/
inductive VideoEnd where
  | none | limit | error
  deriving DecidableEq, Repr, Inhabited

/-- What the codec makes of a video field: its output pictures in order, and how the stream ends. -/
structure VideoOut where
  pics : List VideoFrame
  stop : VideoEnd
  deriving DecidableEq, Repr, Inhabited

/-- R396, R413: what the codec makes of a video field, by record type (codec) and payload. -/
opaque videoField : Nat → List Byte → VideoOut

/-- R414: an element of output picture `n` of a video field, converted to RGB and resized: by record type, payload, picture, RESIZE,
new width and height, channel, row and column; between 0 and 1. -/
opaque videoPixel : Nat → List Byte → Nat → Nat → Nat × Nat → Nat → Nat × Nat → Ratio

/-- R412, R415: a luma sample of output picture `n` of a video field, on the 8-bit scale: by record type, payload, picture, row and column. -/
opaque videoLuma : Nat → List Byte → Nat → Nat → Nat → Nat

/-- R399, R405, R414: what an internal session leaves in its frame buffers and Strudel slots: offsets and bytes (notes/assumptions/161). -/
opaque videoBuffers : Nat → List Byte → List (Nat × List Byte)

/-- One thing a codec does with a piece of stream (R396 to R411). -/
inductive PicEvent where
  /-- a picture is decoded: coded width and height, cropped width and height, crop x, crop y, bit depth, whether it is monochrome, the
      pictures since RESET that it predicts from, whether it becomes a reference (0 none, 1 short, 2 long), which kind each missing
      reference would have been, whether it waits for output, its coded bytes, and the bytes of its syntax elements. Each substitute for
      a missing reference is numbered as a picture just before it. -/
  | decoded (fullW fullH w h cx cy depth : Nat) (mono : Bool) (parents : List Nat) (ref : Nat) (missing : List Bool) (shown : Bool)
      (coded parsedLen : Nat)
  /-- the reference mark of the n-th picture decoded since RESET drops -/
  | unref (n : Nat)
  /-- the n-th picture decoded since RESET comes out, in the codec's output order -/
  | output (n : Nat)
  /-- a stream outside the subset (R396) -/
  | unsupported
  /-- an error inside the subset, or a partial access unit at the end (R397) -/
  | error
  deriving DecidableEq, Repr, Inhabited

/-- R396 to R411: what the codec does with the next stream bytes, given the codec, the session's depth, the
bytes already taken since RESET, the new bytes and END. -/
opaque decodeStream : Nat → Nat → List Byte → List Byte → Bool → List PicEvent

/-- R408: where a picture stands in the codec's output order: by codec, stream and picture. -/
opaque outputKey : Nat → List Byte → Nat → Nat

/-- A reconstructed sample of the n-th picture of a stream: by codec, stream, picture, plane, row and column. -/
opaque sample : Nat → List Byte → Nat → Nat → Nat → Nat → Nat

/-- R412: a block of the n-th picture of a stream: by codec, stream, picture and block. -/
opaque block : Nat → List Byte → Nat → Nat → Block

/-- R399: the bytes of a picture's syntax elements in its slot: by codec, stream and picture. -/
opaque parsedBytes : Nat → List Byte → Nat → List Byte

/-- R418, R419: bits of the next CTU row of a picture coded at QP q, from the session's source history and
the QPs of the rows accepted before it. -/
opaque rowBits : List Byte → List Nat → Nat → Nat

/-- R412: a block of the picture that the history ends with, as the encoder codes it. -/
opaque codedBlock : List Byte → Nat → Block

/-- R412, R419: a luma sample beyond the edge of the source picture, on the 8-bit scale: by history, row and column. -/
opaque edgeLuma : List Byte → Nat → Nat → Nat

/-- R419: bits of the slice header, and of the last `r` rows skipped with flush and alignment. -/
opaque headerBits : List Byte → Nat
opaque skipBits : List Byte → Nat → Nat

/-- R417: the bytes of a picture's slice, from the history and the accepted row QPs; the parameter sets before an IDR; the end of
sequence. -/
opaque sliceBytes : List Byte → List Nat → List Byte
opaque paramSets : List Byte → List Byte
opaque endOfSeq : List Byte

/-- R417, R420: QP_AVG of a picture none of whose rows is coded, from the history. -/
opaque emptyQp : List Byte → Nat

/-- R486, R487: the fused serial number and public key, and Ed25519 under the fused private key. -/
opaque serial : List Byte
opaque pubKey : List Byte
opaque sign : List Byte → List Byte

/-- R317: the row of a granule within its pseudo-channel, by channel and granule (R294: not visible). -/
opaque rowOf : Nat → Nat → Nat

/-- R96: the order in which a resident context's saved state is written (R204 SAVE). -/
opaque saveByte : Nat → Nat → Byte

end Sys2Proof.Config
end

