-- ==== Sys2Proof/Machine/State.lean ====
section
/-! DEFINITION. The state of a Glamus module as plain data, and the module right after reset. -/

namespace Sys2Proof.Machine

/-! ### Fused data -/

/-- R1: the order codes. -/
inductive Order where
  | azg7208 | azg7208M | azg7204
  deriving DecidableEq, Repr

/-- R437: what a physical core is. -/
inductive CoreKind where
  | enabled | spare | disabled | retired
  deriving DecidableEq, Repr

/-- R437: one physical core: what it is, the MTIMEs of its strikes, and whether RST_CORE_RETIRE waits for it
to become idle. -/
structure Core where
  kind    : CoreKind := .enabled
  strikes : List Nat := []
  wanted  : Bool := false
  deriving DecidableEq, Repr

/-! ### Counts, packets, queues, completion rings -/

/-- R91: the four numeric counts, unsaturated. -/
structure Counts where
  sat     : Nat := 0
  flush   : Nat := 0
  promote : Nat := 0
  nans    : Nat := 0
  deriving DecidableEq, Repr

/-- R91: which elements a packet has counted in SAT, FLUSH and NANS, an element once however often it is rewritten, and its
promotions, each by its block. An element is told by its address and its place in its block. -/
structure Marks where
  sat     : List Nat := []
  flush   : List Nat := []
  nans    : List Nat := []
  promote : List Nat := []
  deriving DecidableEq, Repr

/-- Where a packet stands: fetched and not started, started, or finished and awaiting its completion
record (R47, R50). -/
inductive Phase where
  | fetched | started | finished
  deriving DecidableEq, Repr

/-- The part a task list plays in a step (R233, R236). -/
inductive Role where
  | ordinary | forward | backward | lookahead
  deriving DecidableEq, Repr

/-- R132 to R134: how far a started task list has come. Tasks below `next` that are not among the running
items have completed. -/
structure ListRun where
  addr   : Nat := 0
  count  : Nat := 0
  role   : Role := .ordinary
  seed   : Nat := 0
  step   : Nat := 0
  next   : Nat := 0
  begun  : Bool := false
  /-- lowest failing task: index, status, DETAIL -/
  failed : Option (Nat × Nat × Nat) := none
  /-- status and DETAIL with which the list stops dispatching (context fault, abort, engine reset) -/
  stop   : Option (Nat × Nat) := none
  marks  : Marks := {}
  /-- semaphores that drift events add to once all writes of the packet stand (R122) -/
  drifts : List Nat := []
  /-- the step that the list belongs to has been aborted (R238) -/
  aborted : Bool := false
  /-- R160: what its completed tasks have written: index, DEP, ranges; the index of the last BARRIER task dispatched; and what tasks of
  packets that completed beside it have written -/
  wrote  : List (Nat × Nat × List (Nat × Nat)) := []
  fence  : Nat := 0
  foes   : List (Nat × Nat) := []
  /-- a drift event with DRIFT_HALT was raised (R122) -/
  drift  : Bool := false
  deriving DecidableEq, Repr

/-- A fetched packet that has not yet written its completion record (R42 to R52). -/
structure Packet where
  id        : Nat := 0
  opcode    : Nat := 0
  flags     : Nat := 0
  fence     : Nat := 0
  ctx       : Nat := 0
  prio      : Nat := 0
  cls       : Nat := 0
  tag       : Nat := 0
  plen      : Nat := 0
  notBefore : Nat := 0
  waitAddr  : Nat := 0
  waitVal   : Nat := 0
  sigAddr   : Nat := 0
  /-- address of an indirect parameter block not yet read (R43) -/
  indirect  : Option Nat := none
  params    : List Byte := []
  phase     : Phase := .fetched
  /-- the last read of the WAIT semaphore met the condition (R47, R49) -/
  semOk     : Bool := false
  /-- order of starting (R63, R216) and MTIME of the start -/
  startSeq  : Nat := 0
  startMt   : Nat := 0
  /-- counted in SUBMITTED of this client (R227) -/
  client    : Option Nat := none
  status    : Nat := 0
  detail    : Option Nat := none
  counts    : Counts := {}
  /-- the unit that the started packet waits for, plus 1, where it serves several queues in turn (R45, R64) -/
  unit      : Nat := 0
  /-- its row found an access that its home holds (R21, R297, R312) -/
  waits     : Bool := false
  /-- MTIME at which the finished packet's effects became visible (R52) -/
  visible   : Option Nat := none
  /-- the finished packet's record waits for room (R54) -/
  stalled   : Bool := false
  /-- the SIGNAL add has been made, or is not to be made -/
  signalled : Bool := false
  /-- engine whose stream mover the packet holds (R302) -/
  mover     : Option Nat := none
  run       : ListRun := {}
  /-- the packet has taken effect in part and waits for its end (LOCK, STEP_COMMIT, BULK_DONE and the like) -/
  waiting   : Bool := false
  /-- planes whose BULK_DONE is outstanding (R352) -/
  planes    : List Nat := []
  deriving DecidableEq, Repr

/-- R34 to R40: one command queue. -/
structure Queue where
  base     : Nat := 0
  log2     : Nat := 6
  enable   : Bool := false
  part     : Nat := 0
  ring     : Nat := 0
  head     : Nat := 0
  tail     : Nat := 0
  halted   : Bool := false
  badBell  : Bool := false
  /-- R38: pending slots, where a tail written past the head has made them more than the ring holds -/
  overrun  : Nat := 0
  /-- what each pending slot held when the doorbell that covered it was written, from the head on (R38) -/
  kept     : List (List Byte) := []
  /-- a FLUSH goes on: it is cancelling what is left in the ring, or has gone through it and CANCELLED records are still to be
  written (R61) -/
  flushing : Bool := false
  flushed  : Bool := false
  /-- fetched packets without a completion record, in ring order -/
  pkts     : List Packet := []
  deriving DecidableEq, Repr

/-- R34, R39, R41, R53, R54: one completion ring. -/
structure CplRing where
  base    : Nat := 0
  log2    : Nat := 6
  enable  : Bool := false
  msix    : Nat := 0
  /-- function through which MGT_CCFG was last written (R474) -/
  owner   : Nat := 0
  head    : Nat := 0
  tail    : Nat := 0
  phase   : Bool := true
  /-- finished packets whose records wait, oldest first -/
  waiting : List Nat := []
  deriving DecidableEq, Repr

/-! ### Host functions -/

/-- R465, R466, R471, R474: one PCIe function: its selectors, latched _HI values, binding and MSI-X data. -/
structure Fn where
  qsel      : Nat := 0
  csel      : Nat := 0
  vfsel     : Nat := 0
  rsel      : Nat := 0
  tsel      : Nat := 0
  psel      : Nat := 0
  fsel      : Nat := 0
  pwrq      : Nat := 0
  latchMt   : Option Nat := none
  latchNext : Option Nat := none
  latchOld  : Option Nat := none
  latchInj  : Option Nat := none
  bound     : Bool := false
  part      : Nat := 0
  busMaster : Bool := false
  /-- MSI-X table words, by word number (R463) -/
  msixTable : Tbl Nat := []
  /-- vectors whose message is held (R474) -/
  pendingVec : List Nat := []
  deriving DecidableEq, Repr

/-- What the host port last answered to a read (R460, R461): the model's observation of a read's value. -/
inductive Reply where
  | none
  | unsupported
  | poisoned
  | word (v : Nat)
  | bytes (b : List Byte)
  deriving DecidableEq, Repr

/-! ### Partitions, contexts, engines -/

/-- R221: one Privet partition. -/
structure Partition where
  enabled   : Bool := false
  bwShare   : Nat := 0
  engines   : Nat := 0
  ways      : Nat := 0
  feedFirst : Nat := 1
  feedLast  : Nat := 0
  sessFirst : Nat := 1
  sessLast  : Nat := 0
  chans     : Nat := 0
  deriving DecidableEq, Repr

/-- R204: STATE of a context entry. -/
inductive CtxState where
  | free | active | faulted | quarantined
  deriving DecidableEq, Repr

/-- R228: the step states. -/
inductive StepState where
  | none | fill | drain | exchange | committed | aborted
  deriving DecidableEq, Repr

/-- R240: an activation block as STEP_BEGIN has read it, and as the module has written it since. -/
structure Act where
  addr  : Nat
  nent  : Nat
  auto  : Bool
  kmin  : Nat
  kmax  : Nat
  kcur  : Nat
  entA  : Nat
  mbA   : Nat
  bw    : Nat
  tbwd  : Nat
  fails : Nat
  deriving DecidableEq, Repr

/-- R241: an activation entry so. -/
structure Ent where
  home  : Nat := 0
  spill : Nat := 0
  bytes : Nat := 0
  mb    : Nat := 0
  cls   : Nat := 0
  port  : Nat := 0
  st    : Nat := 0
  deriving DecidableEq, Repr

/-- R204: one entry of the context table, and the step sequencer's record of the context's step (R228 to R246). -/
structure Ctx where
  state      : CtxState := .free
  kind       : Nat := 0
  level      : Nat := 0
  part       : Nat := 0
  client     : Nat := 0
  sliceUs    : Nat := 0
  engines    : Nat := 0
  memBase    : Nat := 0
  memLimit   : Nat := 0
  policy     : Nat := 0
  seed       : Nat := 0
  step       : Nat := 0
  stepState  : StepState := .none
  totals     : Counts := {}
  created    : Nat := 0
  fStatus    : Nat := 0
  fDetail    : Nat := 0
  nmb        : Nat := 0
  lpmb       : Nat := 0
  lookahead  : Bool := false
  act        : Option Act := none
  ents       : List Ent := []
  normAddr   : Nat := 0
  /-- K_S of R243 -/
  kStart     : Nat := 0
  /-- backward lists that have met their start conditions (B of R245), and that have completed -/
  bwdMet     : Nat := 0
  bwdDone    : Nat := 0
  /-- activation entries queued for spilling, and micro-batches whose HOME add waits for fetches -/
  spillQ     : List Nat := []
  fetchQ     : List Nat := []
  /-- the automatic transfer under way: its entry and whether it is a fetch; the MTIME at which it began (R246); the
  tag and the planes whose BULK_DONE is outstanding when it goes to or from a peer (R352) -/
  xfer       : Option (Nat × Bool) := none
  xferStart  : Nat := 0
  xferTag    : Nat := 0
  xferPlanes : List Nat := []
  /-- the status with which the transfer under way has failed (R247) -/
  xferFail   : Option Nat := none
  /-- entries that have been spilled in the step, or are being (R246) -/
  spilled    : List Nat := []
  /-- micro-batches whose FWD_DONE has been handled, and whose SPILLED has been added to -/
  fwdSeen    : List Nat := []
  spilledAdd : List Nat := []
  homeAdd    : List Nat := []
  localDone  : Bool := false
  readyDone  : Bool := false
  /-- the norm result that waits for its block's home: NORM2, FACTOR, flags (R21, R251) -/
  normDue    : Option (Nat × Nat × Nat) := none
  /-- CONTEXT_DESTROY packet under way, with the packets it waits for (R58) -/
  destroying : Option Nat := none
  deriving DecidableEq, Repr

/-- R201: one residency slot of an engine. -/
structure Slot where
  ctx        : Nat := 0
  debt       : Nat := 0
  idleSince  : Option Nat := none
  blockedAt  : Option Nat := none
  /-- slices that expired while items dispatched in them ran: number, end, and the overrun charged so far (R215) -/
  ends       : List (Nat × Nat × Nat) := []
  deriving DecidableEq, Repr

/-- R427, R434: what an engine is doing. -/
inductive EngMode where
  | service
  | resetting
  | replay
  deriving DecidableEq, Repr

/-- R201, R212, R424, R434: one engine sequencer. -/
structure Engine where
  slots     : Tbl Slot := []
  /-- which slot numbers are occupied -/
  used      : List Nat := []
  holder    : Option Nat := none
  sliceEnd  : Nat := 0
  /-- how many slices have been granted: the number of the latest -/
  slice     : Nat := 0
  /-- the slot of the last holder at each level -/
  lastSlot  : Tbl Nat := []
  /-- contexts next at their level after a preemption (R213) -/
  nextUp    : Tbl Nat := []
  /-- contexts waiting to be loaded, with the MTIME since which they wait (R211) -/
  waiters   : List (Nat × Nat) := []
  progress  : Nat := 0
  /-- bytes that the stream mover has moved since its last 64 KiB were counted (R424) -/
  moved     : Nat := 0
  /-- MTIME of the last progress, or of the start of holding work (R424) -/
  heldSince : Nat := 0
  mode      : EngMode := .service
  suspects  : List Nat := []
  /-- cores that held a stuck item, and whether every suspect has passed so far (R437) -/
  stuck     : List Nat := []
  allPassed : Bool := true
  noReplay  : Bool := false
  /-- the reset under way or last done was the watchdog's -/
  watchdog  : Bool := false
  /-- task lists that the reset interrupted (R433) -/
  cut       : List Nat := []
  replayAt  : Nat := 0
  deriving DecidableEq, Repr

/-- Where a task runs (R158, R181). -/
inductive Site where
  | core (c : Nat)
  | vector
  | nowhere
  deriving DecidableEq, Repr

/-- A dispatched task or vector instruction that has not completed. -/
structure Item where
  pkt      : Nat := 0
  idx      : Nat := 0
  ctx      : Nat := 0
  eng      : Nat := 0
  site     : Site := .nowhere
  /-- the slice in which it was dispatched: its end, and its number -/
  sliceEnd : Nat := 0
  slice    : Nat := 0
  /-- its descriptor, and its context's numerics policy, as it was dispatched (R132, R143) -/
  desc     : List Byte := []
  policy   : Nat := 0
  /-- its work has been done: what is left is TASK_COMPLETE -/
  done     : Bool := false
  /-- its row found an access that its home holds (R21, R297, R312) -/
  waits    : Bool := false
  status   : Nat := 0
  detail   : Option Nat := none
  marks    : Marks := {}
  /-- a drift event with DRIFT_HALT was raised, and the semaphores that drift events add to (R122) -/
  drift    : Bool := false
  drifts   : List Nat := []
  /-- the global ranges that its results were written to, and those that items not ordered with it have written (R125, R160) -/
  wrote    : List (Nat × Nat) := []
  rivals   : List (Nat × Nat) := []
  deriving DecidableEq, Repr

/-! ### Memory -/

/-- A Boxwood-coded memory: the stored data bytes; per 16-byte word, its check bytes XORed with the correct
checks of the stored data (0 for a clean word, 0x0101 for MARK, R324); and which units were written (R325). -/
structure Mem where
  cells   : List Host.Cell := []
  ck      : Tbl (BitVec 16) := []
  touched : Tbl Bool := []
  deriving DecidableEq, Repr

/-- R296: one region entry, with the base written and not yet applied. -/
structure Region where
  valid    : Bool := false
  dieLocal : Bool := false
  lc       : Bool := false
  nocache  : Bool := false
  remote   : Bool := false
  pin      : Bool := false
  plane    : Nat := 0
  part     : Nat := 0
  size     : Nat := 20
  err      : Bool := false
  busy     : Bool := false
  base     : Nat := 0
  newBase  : Nat := 0
  /-- windows whose return to the first-touch state is under way: partition, base, size (R297) -/
  windows  : List (Nat × Nat × Nat) := []
  deriving DecidableEq, Repr

/-- R307: one lock-table entry. -/
structure Lock where
  /-- physical address of the lock word -/
  addr    : Nat
  /-- holder: engine (0xFF for the context alone) and context -/
  holder  : Option (Nat × Nat) := none
  broken  : Bool := false
  /-- waiting LOCK packets, oldest first: packet, engine, context -/
  waiters : List (Nat × Nat × Nat) := []
  deriving DecidableEq, Repr

/-- R298: one line of a die cache: its physical line number, its way, whether it is dirty. A set lists its lines most
recently used first. -/
structure Line where
  line  : Nat
  way   : Nat
  dirty : Bool
  deriving DecidableEq, Repr

/-- In whose name an access is made: partition, context range (R205), context number and packet; whether host memory may be
named (R291), and whether the reserved tables may be read (R203, R227). -/
structure Acc where
  part   : Nat := 0
  lo     : Nat := 0
  hi     : Nat := 2 ^ 48
  ctx    : Nat := 0xFFFFFFFF
  pkt    : Nat := 0
  host   : Bool := false
  tables : Bool := false
  nocache : Bool := false
  /-- it acts on lines in their home cache, and allocates them whatever their region's NOCACHE (R299) -/
  atHome : Bool := false
  /-- the task of the packet in whose name it is made, plus 1 -/
  task   : Nat := 0
  deriving DecidableEq, Repr

/-- What an agent of the module still owes a home that holds it (R21, R297, R312): bytes to write, or an amount to add. -/
inductive Due where
  /-- a write that was judged when it was made: a record of the module's own, or a store -/
  | bytes (bs : List Byte)
  | add (v : Nat)
  deriving DecidableEq, Repr

/-- Such a request: in whose name, where, what, the interrupt that follows it, and the packet whose completion waits for it. -/
structure Owed where
  acc  : Acc
  addr : Nat
  due  : Due
  irq  : Option (Nat × Nat) := none
  pkt  : Option Nat := none
  deriving DecidableEq, Repr

/-- R333: the latest of the corrected errors of a place that no record stands for yet, and how many they are. -/
structure HeldCe where
  n      : Nat
  eflags : Nat
  synd   : Nat
  addr   : Nat
  ctx    : Nat
  deriving DecidableEq, Repr

/-- R491: an event ring. -/
structure EvRing where
  base   : Nat := 0
  log2   : Nat := 6
  enable : Bool := false
  msix   : Nat := 0
  owner  : Nat := 0
  tail   : Nat := 0
  head   : Nat := 0
  phase  : Bool := true
  deriving DecidableEq, Repr

/-- R334, R331: the ECC registers. -/
structure Ecc where
  dataMask  : Nat := 0
  checkMask : Nat := 0
  armed     : Bool := false
  cls       : Nat := 0
  index     : Nat := 0
  fired     : Bool := false
  injAddr   : Nat := 0
  /-- physical word exempt from sparing (R337), when one is -/
  injWord   : Option Nat := none
  ceCount   : Nat := 0
  ueCount   : Nat := 0
  period    : Nat := 24
  pause     : Bool := false
  passes    : Nat := 0
  /-- passes completed per stack (R334) -/
  stackPass : Tbl Nat := []
  /-- per stack: MTIME of its last pass, plus 1 (R330) -/
  passAt    : Tbl Nat := []
  /-- per place (class · 2¹⁶ + index): MTIME of the last CORRECTED record, plus 1, and errors not yet recorded (R333) -/
  lastCe    : Tbl Nat := []
  heldCe    : Tbl (Option HeldCe) := []
  ring      : EvRing := {}
  deriving DecidableEq, Repr

/-- R314 to R316: one memory channel. -/
structure Chan where
  sparesUsed : Nat := 0
  /-- the list of corrected errors, at most 256 entries, newest first: row, MTIME of the entry, errors (R314) -/
  ceRows     : List (Nat × Nat × Nat) := []
  /-- ranges of granules relocated empty and not written since (R316) -/
  empty      : List (Nat × Nat) := []
  /-- 0 in service; 1 moving; 2 retired; 3 lost -/
  retire     : Nat := 0
  deriving DecidableEq, Repr

/-- R311, R312, R316: one stack. -/
structure Stack where
  temp     : Nat := 0
  steps    : Nat := 0
  stepAt   : Nat := 0
  protect  : Bool := false
  retired  : Bool := false
  /-- in self-refresh in DOZE (R454), and MTIME of its last access -/
  refresh  : Bool := false
  accessAt : Nat := 0
  deriving DecidableEq, Repr

/-- R443, R457: one quadrant. -/
structure Quad where
  temp    : Nat := 0
  steps   : Nat := 0
  stepAt  : Nat := 0
  /-- it is the cause that its die is stopped -/
  stop    : Bool := false
  deriving DecidableEq, Repr

/-! ### Groups -/

/-- R268, R271 to R276: the owner's part of a bucket, kept for the own shard and for the shard adopted as deputy (R285): OWN,
the stamp of the first contribution, the slots filled in order of arrival, and FROM_SHADOW. -/
structure Own where
  own        : Nat := 0
  firstMt    : Option Nat := none
  present    : List Nat := []
  fromShadow : Nat := 0
  /-- slots (rank, or N + pair for a shadow) whose contribution has failed its CRC once or twice -/
  crcFails   : List Nat := []
  /-- the step whose contributions are collected -/
  step       : Nat := 0
  deriving DecidableEq, Repr

/-- R267: one entry of a bucket's region table. -/
structure BReg where
  kind   : Nat
  base0  : Nat
  base1  : Nat
  pbytes : Nat
  psh    : Nat
  deriving DecidableEq, Repr

/-- R265, R268: one bucket, with the module's part of its record. -/
structure Bucket where
  id       : Nat
  manual   : Bool := false
  nreg     : Nat := 0
  size     : Nat := 0
  target   : Nat := 0
  gradOff  : Nat := 0
  sumOff   : Nat := 0
  regOff   : Nat := 0
  recOff   : Nat := 0
  crc      : Nat := 0
  /-- 0 EMPTY, 1 SENDING, 2 SENT -/
  send     : Nat := 0
  step     : Nat := 0
  mine     : Own := {}
  adopted  : Own := {}
  regions  : List BReg := []
  /-- ranks whose RESEND has been answered -/
  resent   : List Nat := []
  /-- what has landed: owner rank, address and bytes; and of the predecessor's mirror: address and bytes -/
  landed   : List (Nat × Nat × Nat) := []
  mirrored : List (Nat × Nat) := []
  deriving DecidableEq, Repr

/-- R260 to R287: one data-parallel group this module takes part in. -/
structure Group where
  gid       : Nat
  ctx       : Nat := 0
  part      : Nat := 0
  members   : List Nat := []
  rank      : Nat := 0xFFFF
  shadowOf  : Nat := 0xFFFF
  abortPol  : Bool := false
  deputy    : Bool := false
  inflight  : Nat := 8
  bmax      : Nat := 0
  dUs       : Nat := 2000
  maxShadow : Nat := 0
  slotOff   : Nat := 0
  slotBytes : Nat := 0
  grec      : Nat := 0
  cur       : Nat := 0
  attempt   : Nat := 0
  step      : Nat := 0
  /-- 0 no step yet, 1 open or aborted, 2 committed: which key is expected (R271) -/
  keyState  : Nat := 0
  adoptedRank : Nat := 0xFFFF
  /-- shadow pairs in force, and the map that takes effect at the next STEP_BEGIN (R275) -/
  shadows   : List (Nat × Nat) := []
  newMap    : Option (List (Nat × Nat)) := none
  stale     : Nat := 0
  cksumFails : Nat := 0
  mismatches : Nat := 0
  retries   : Nat := 0
  lastEvent : Nat := 0
  eventMt   : Nat := 0
  commitMt  : Nat := 0
  buckets   : List Bucket := []
  /-- which bucket (its ID plus 1) each slot set holds, for the own and the adopted sets -/
  sets      : Tbl Nat := []
  sets2     : Tbl Nat := []
  /-- the last step committed here -/
  lastCommit : Option Nat := none
  /-- contributions whose shard's home held the read of it: bucket and rank; they go out once it does no more (R21, R269) -/
  dueSends  : List (Nat × Nat) := []
  /-- the decision applied here last: whether COMMIT, step, attempt, and the ARG of an ABORT (R281) -/
  decision  : Option (Bool × Nat × Nat × Nat) := none
  /-- the norm result of the step: NORM2, FACTOR, flags (R251, R285) -/
  normRes   : Option (Nat × Nat × Nat) := none
  /-- RETRYs received: bucket, owner rank, MTIME of the resend (R271) -/
  resendAt  : List (Nat × Nat × Nat) := []
  /-- the started STEP_COMMIT, and GROUP_ABORT packets -/
  commitPkts : List Nat := []
  abortPkts : List Nat := []
  /-- norm images of children that have arrived (empty once added); ranks whose image has gone up -/
  normKids  : List (Nat × List Byte) := []
  normUp    : List Nat := []
  /-- ranks known to be ready with their whole tree (R280) -/
  readyKids : List Nat := []
  /-- norm image kept for the adopted rank (R285) -/
  normAdopt : List Byte := []
  /-- a shadow holds COMMIT and waits for its buckets (R280) -/
  holdCommit : Bool := false
  departed  : List Nat := []
  /-- children of a departed root that have been asked for a decision (R281) -/
  asked     : List Nat := []
  /-- abort requests held until the asked children have answered: cause, bucket, rank -/
  heldAbort : Option Nat := none
  /-- rejoin under way: the packet, the members yet to answer, whether one refused -/
  rejoinPkt : Option Nat := none
  rejoinAwait : List Nat := []
  rejoinNo  : Bool := false
  /-- this module rejoins and its first step has not begun -/
  rejoining : Bool := false
  /-- rejoin requests this member holds: module, step, and whether it has answered -/
  rejoiners : List (Nat × Nat × Bool) := []
  deriving DecidableEq, Repr

/-! ### Fabric -/

/-- R343: what a transmitted packet is. -/
structure TxPkt where
  typ     : Nat
  vc      : Nat
  dest    : Nat
  /-- the header's type-specific values, in the order of R344 -/
  hdr     : List Nat := []
  data    : List Byte := []
  part    : Nat := 0
  /-- HFLAGS LC, LAST and SHADOW (R342) -/
  lc      : Bool := false
  last    : Bool := false
  shadow  : Bool := false
  /-- SRC: the module that forms it -/
  src     : Nat := 0
  /-- its first word is carried on as MARK (R322) -/
  mark    : Bool := false
  deriving DecidableEq, Repr

/-- R360: states of a port. -/
inductive PortSt where
  | down | training | up | degraded | miswired | failed
  deriving DecidableEq, Repr

/-- R338 to R348: one fabric port. -/
structure Port where
  st       : PortSt := .down
  enable   : Bool := false
  width    : Nat := 0
  /-- the physical lane of each logical lane, as training and swaps have left it (R339, R341) -/
  lanes    : List Nat := []
  /-- spare lanes left, by physical number -/
  spares   : List Nat := []
  plane    : Nat := 0
  /-- MISWIRED events raised (R340); the spec names no record of them (notes/assumptions/137) -/
  events   : Nat := 0
  fails    : Nat := 0
  replays  : Nat := 0
  /-- lanes retraining in the background after being replaced (R341) -/
  outLanes : List Nat := []
  /-- swaps agreed and not yet made: whether the flits that this port sends count, or those it receives; the lane swapped out, the spare
  swapped in, the flits until the swap (R341, R346) -/
  swaps    : List (Bool × Nat × Nat × Nat) := []
  /-- packets waiting for credit, oldest first -/
  txq      : List TxPkt := []
  /-- the replay buffer: LSEQ and packet (R345) -/
  replay   : List (Nat × TxPkt) := []
  nextSeq  : Nat := 0
  /-- how often in a row the packet at the head of the replay buffer was NAKed -/
  nakRow   : Nat := 0
  /-- receiving side (R345, R347): the LSEQ expected next; a NAK has been sent and that packet has not come; flits received per VC since
  training -/
  expect   : Nat := 0
  nakking  : Bool := false
  got      : Tbl Nat := []
  /-- LINK flits that have left, newest first (R346) -/
  links    : List LinkFlit := []
  /-- VC0 packets of the last 1 µs: MTIME and flits (R348) -/
  vc0      : List (Nat × Nat) := []
  /-- flits sent, and the partner's CREDIT_LIMIT, per VC (R347) -/
  sent     : Tbl Nat := []
  limit    : Tbl Nat := []
  /-- arbitration (R348): turns left per VC, partition next per VC, deficit per VC · 8 + partition -/
  turns    : Tbl Nat := []
  nextPart : Tbl Nat := []
  deficit  : Tbl Nat := []
  /-- what has left on the wire, newest first: LSEQ and packet -/
  wire     : List (Nat × TxPkt) := []
  deriving DecidableEq, Repr

/-- R352: an outstanding non-posted request. -/
structure Req where
  tag    : Nat
  port   : Nat
  dest   : Nat
  /-- 0 READ, 1 WRITE, 2 ATOMIC, 3 PULL -/
  kind   : Nat
  addr   : Nat
  len    : Nat
  pkt    : Nat
  /-- the task of the packet that issued it, plus 1, if one did -/
  task   : Nat := 0
  /-- an add to a narrow header's DRIFT_ACC: DRIFT_LIMIT, the amount, the semaphore, DRIFT_HALT (R122) -/
  drift  : Option (Nat × Nat × Nat × Bool) := none
  /-- of a PULL: where its first byte lands, as a global address, and how many bytes it asked for -/
  land   : Nat := 0
  total  : Nat := 0
  /-- its packet, while the request waits for one of the port's 4,096 entries -/
  queued : Option TxPkt := none
  /-- MTIME of its issue (R356) -/
  sent   : Nat := 0
  deriving DecidableEq, Repr

/-- R354: a message of ours not yet acknowledged. -/
structure Unacked where
  dest : Nat
  mseq : Nat
  pkt  : TxPkt
  /-- MTIME of its last sending -/
  sent : Nat := 0
  deriving DecidableEq, Repr

/-- R344, R345: a contribution whose LAST packet has not come: who sent it, under what header, the stamp of its first flit, and its bytes
so far. -/
structure Run where
  src     : Nat
  srcRank : Nat
  shadow  : Bool
  gid     : Nat
  bucket  : Nat
  shard   : Nat
  step    : Nat
  attempt : Nat
  first   : Nat
  bytes   : List Byte
  deriving DecidableEq, Repr

/-- R350 to R360: the fabric. -/
structure Fabric where
  moduleId   : Nat := 0xFFF0
  ports      : Tbl Port := []
  w1         : Nat := 4
  w2         : Nat := 2
  w3         : Nat := 1
  reqTimeout : Nat := 1000
  timeMaster : Nat := 0xFFF0
  offset     : Int := 0
  aligned    : Bool := false
  lost       : Bool := false
  /-- MTIME held still until the reference catches up: the ns still to hold (R358) -/
  hold       : Nat := 0
  /-- ns by which MTIME is still to be slewed, and ticks since the last slewed ns (R358) -/
  slew       : Int := 0
  slewTicks  : Nat := 0
  /-- ports whose TIME_SYNC exchange of the round is not answered, with t1, and the answer with the smallest round trip so far:
  round trip and offset -/
  syncOut    : List (Nat × Nat) := []
  syncBest   : Option (Int × Int) := none
  /-- MTIME of the last exchange on each port, plus 1 (R358) -/
  syncAt     : Tbl Nat := []
  /-- messages that may still be in a hub's message queue: hub and MTIME of arrival (R348, R349, R360) -/
  msgs       : List (Nat × Nat) := []
  /-- MTIME since which no plane reaches the time master -/
  masterGone : Option Nat := none
  discards   : Nat := 0
  drops      : Nat := 0
  /-- reachability bits, by module ID: bit k for plane k (R353) -/
  reach      : Tbl Nat := []
  gone       : List Nat := []
  mseq       : Nat := 0
  tag        : Nat := 0
  unacked    : List Unacked := []
  /-- (SRC, MSEQ) pairs already acted on (R354) -/
  seen       : List (Nat × Nat) := []
  reqs       : List Req := []
  /-- data landed from peers: the packet, the task of it that asked, plus 1, if one did, the global address, the bytes -/
  landed     : List (Nat × Nat × Nat × List Byte) := []
  /-- bulk packets landed here: source, TAG, plane, how many -/
  bulkIn     : List (Nat × Nat × Nat × Nat) := []
  /-- PULLs whose landing has been released: destination, TAG, offset and bytes of the range (R356) -/
  released   : List (Nat × Nat × Nat × Nat) := []
  /-- contributions that are arriving -/
  runs       : List Run := []
  deriving DecidableEq, Repr

/-! ### Input pipeline and media -/

/-- R364, R365: a field entry of a feed recipe. -/
structure Field where
  kind   : Nat := 0
  flags  : Nat := 0
  ext    : Nat := 0
  area   : Nat := 0
  slot   : Nat := 0
  xform  : Nat := 0
  deriving DecidableEq, Repr

/-- Where a sample stands. -/
inductive SamplePhase where
  | waiting | decoding | ready
  deriving DecidableEq, Repr

/-- A decoded field's slot or tokens, or nothing yet. -/
structure FieldData where
  field  : Nat
  bytes  : List Byte
  tokens : List Nat
  deriving DecidableEq, Repr

/-- A submitted, undelivered sample. -/
structure Sample where
  idx      : Nat
  src      : Nat
  len      : Nat
  port     : Nat := 0
  phase    : SamplePhase := .waiting
  startMt  : Nat := 0
  /-- the slice of its hub's feed units in which its decoding began (R219) -/
  slice    : Nat := 0
  /-- which of the feed's internal sessions a video sample holds (R413, R414) -/
  sess     : Nat := 0
  soft     : Bool := false
  /-- tombstone reason, failing field and log detail (R386, R387) -/
  tomb     : Option (Nat × Nat × Nat) := none
  concealed : Bool := false
  fixed    : Bool := false
  data     : List FieldData := []
  /-- its counts have been taken: a restart takes them no second time (R362, R379) -/
  counted  : Bool := false
  deriving DecidableEq, Repr

/-- R367: feed states. -/
inductive FeedSt where
  | closed | opened | draining | stalled
  deriving DecidableEq, Repr

/-- R364 to R392: one feed. -/
structure Feed where
  st        : FeedSt := .closed
  before    : FeedSt := .closed
  ctx       : Nat := 0
  part      : Nat := 0
  skip      : Bool := false
  strict    : Bool := false
  ustar     : Bool := false
  tokSlot   : Nat := 0xFF
  mbSamples : Nat := 1
  mbSlots   : Nat := 2
  seqLen    : Nat := 0
  rows      : Nat := 0
  softX     : Nat := 16
  hardX     : Nat := 100
  hardMin   : Nat := 50000
  padToken  : Nat := 0
  out       : Nat := 0
  mbBytes   : Nat := 0
  sem       : Nat := 0
  tlog      : Nat := 0
  tlogLog2  : Nat := 6
  replay    : Nat := 0
  replayN   : Nat := 0
  /-- the replay log: INDEX, REASON, DETAIL of its entries (R388) -/
  log       : List (Nat × Nat × Nat) := []
  xforms    : Nat := 0
  fields    : List Field := []
  /-- frame buffers reserved (R404), and video samples decoded at once (R414) -/
  pool      : Nat := 0
  vsess     : Nat := 0
  next      : Nat := 0
  oldest    : Nat := 0
  mean      : Nat := 0
  tombs     : Nat := 0
  samples   : List Sample := []
  closePkt  : Option Nat := none
  /-- the micro-batch being filled: samples, tombstones, tokens, dropped, soft-late -/
  mbCount   : Nat := 0
  mbTombs   : Nat := 0
  mbTokens  : Nat := 0
  mbDropped : Nat := 0
  mbSoft    : Nat := 0
  deriving DecidableEq, Repr

/-- R380: a loaded tokenizer slot. -/
structure Tok where
  loaded   : Bool := false
  part     : Nat := 0
  vocab    : Nat := 0
  merges   : Nat := 0
  maxPre   : Nat := 4
  norm     : Nat := 0
  cls      : Nat := 0
  byteTok  : Nat := 0
  merge    : Nat := 0
  join     : Nat := 0
  bos      : Nat := 0
  eos      : Nat := 0
  deriving DecidableEq, Repr

/-- R405: a frame buffer's marks. -/
structure FrameBuf where
  short   : Bool := false
  long    : Bool := false
  out     : Bool := false
  exp     : Bool := false
  missing : Bool := false
  /-- which picture since RESET it holds, and its cropped size and depth -/
  pic     : Option Nat := none
  w       : Nat := 0
  h       : Nat := 0
  cx      : Nat := 0
  cy      : Nat := 0
  depth   : Nat := 8
  conceal : Bool := false
  /-- its picture has been output before -/
  shown   : Bool := false
  /-- R412: what its statistics need: its luma on the 8-bit scale, row by row, what the codec knows of its blocks, and whether it is inter -/
  luma    : List (List Nat) := []
  blocks  : List Config.Block := []
  inter   : Bool := false
  deriving DecidableEq, Repr

/-- R402 to R420: one explicit session. -/
structure Session where
  opened   : Bool := false
  ctx      : Nat := 0
  encode   : Bool := false
  codec    : Nat := 0
  depth    : Nat := 8
  strudel  : Nat := 1
  nfb      : Nat := 2
  maxW     : Nat := 16
  maxH     : Nat := 16
  fbBytes  : Nat := 0
  fbAddr   : Nat := 0
  strAddr  : Nat := 0
  strBytes : Nat := 0
  statN    : Nat := 0
  statAddr : Nat := 0
  outAddr  : Nat := 0
  outLog2  : Nat := 6
  sem      : Nat := 0
  gop      : Nat := 1
  qpMin    : Nat := 0
  qpMax    : Nat := 0
  qpInit   : Nat := 0
  target   : Nat := 0
  cap      : Nat := 0
  consAddr : Nat := 0
  bufs     : Tbl FrameBuf := []
  /-- stream bytes taken, and pictures decoded, since RESET -/
  hist     : List Byte := []
  pics     : Nat := 0
  /-- Strudel slots used, in turn (R399) -/
  slot     : Nat := 0
  /-- buffers whose output record is due, in output order -/
  outQ     : List Nat := []
  records  : Nat := 0
  /-- the count at OUT_CONS_ADDR as last read, and whether it has decreased or run ahead (R410) -/
  cons     : Nat := 0
  consBad  : Bool := false
  /-- the session's commands in order, and the one whose stream has been taken -/
  queue    : List Nat := []
  running  : Option Nat := none
  /-- concealed pictures that the running command has output -/
  conceal  : Nat := 0
  /-- remaining events of the running MEDIA_DECODE, whether it has END set, and the failure it has met -/
  todo     : List Config.PicEvent := []
  ends     : Bool := false
  failed   : Option (Nat × Option Nat) := none
  /-- encoder: pictures coded, pictures since the last IDR, last accepted row QPs of IDR and P pictures -/
  coded    : Nat := 0
  sinceIdr : Nat := 0
  lastIdr  : Option Nat := none
  lastP    : Option Nat := none
  needIdr  : Bool := true
  /-- R412: the luma of the last picture output, or coded -/
  lastLuma : Option (List (List Nat)) := none
  deriving DecidableEq, Repr

/-- R404, R422: the media registers. -/
structure Media where
  concealed  : Nat := 0
  exhausted  : Nat := 0
  strudelOvf : Nat := 0
  deriving DecidableEq, Repr

/-! ### Controllers, resets, power -/

/-- R427: one reset under way. -/
structure ResetOp where
  dom      : Nat
  idx      : Nat
  cause    : Nat
  start    : Nat
  noReplay : Bool := true
  /-- the packets of RESET_DOMAIN and their statuses when the reset is done -/
  pkts     : List (Nat × Nat) := []
  deriving DecidableEq, Repr

/-- R24, R423, R439: the controllers, the heartbeat and the reset registers. -/
structure Ctrl where
  activeHub  : Nat := 0
  standby    : Bool := false
  takeovers  : Nat := 0
  hbCount    : Nat := 0
  hbSeq      : Nat := 0
  hbLo       : Nat := 0
  hbHi       : Nat := 0
  hbEnable   : Bool := false
  wdogMs     : Nat := 20
  replayMs   : Nat := 100
  /-- MTIME of the last HB_COUNT increment, and of the last record -/
  hbAt       : Nat := 0
  recAt      : Nat := 0
  quarantines : Nat := 0
  nEngine    : Nat := 0
  nPort      : Nat := 0
  nDie       : Nat := 0
  nHub       : Nat := 0
  nModule    : Nat := 0
  resets     : List ResetOp := []
  /-- die and MTIME of the engine resets of the last second (R430) -/
  recent     : List (Nat × Nat) := []
  alert      : Bool := false
  ring       : EvRing := {}
  /-- host links up -/
  link0      : Bool := true
  link1      : Bool := true
  /-- writes of FAB_PORT_CTL held while the port's hub is in reset: port and value (R468) -/
  heldWrites : List (Nat × Nat) := []
  deriving DecidableEq, Repr

/-- R450: the power states, and the input off. -/
inductive PState where
  | active | idle | doze | sleep | off
  deriving DecidableEq, Repr

/-- R450 to R458: power. -/
structure Power where
  st       : PState := .active
  autoWake : Bool := false
  /-- transition under way: its target and the POWER_STATE packet, if any -/
  target   : Option (PState × Option Nat) := none
  orderly  : Bool := false
  wakeHeld : Bool := false
  vset     : Nat := 150
  cap      : Nat := 6000
  vcap     : Nat := 170
  capErr   : Bool := false
  watts    : Nat := 0
  centiV   : Nat := 0
  /-- input powers of the last 1 ms, newest first, and MTIME of the last change of V_cap -/
  window   : List Nat := []
  vcapAt   : Nat := 0
  quads    : Tbl Quad := []
  /-- dies stopped under R457 -/
  stopped  : List Nat := []
  deriving DecidableEq, Repr

/-! ### The state -/

/-- The state of one module. -/
structure State where
  order    : Order := .azg7208
  cores    : Tbl Core := []
  mtime    : Nat := 0
  /-- the commands that are waiting, first in, first out -/
  pending  : List Instr := []
  /-- the model's own: how many free values have been taken (notes/assumptions/4) -/
  free     : Nat := 0
  /-- next packet number, next start number -/
  nextPkt  : Nat := 0
  nextSeq  : Nat := 0
  queues   : Tbl Queue := []
  rings    : Tbl CplRing := []
  fns      : Tbl Fn := []
  reply    : Reply := .none
  /-- MSI-X messages sent: function and vector, newest first -/
  msix     : List (Nat × Nat) := []
  parts    : Tbl Partition := []
  regions  : Tbl Region := []
  ctxs     : Tbl Ctx := []
  clients  : Tbl (Nat × Nat) := []
  engines  : Tbl Engine := []
  /-- the sequencers of the other units: feed units by hub, codec engines, the memory side (R219) -/
  units    : Tbl Engine := []
  /-- by engine · 4 + PRIO: the queue, plus 1, that its stream mover served last (R45) -/
  moverLast : Tbl Nat := []
  /-- by unit · 4 + PRIO: the queue, plus 1, that the unit served last (R45) -/
  unitLast : Tbl Nat := []
  items    : List Item := []
  mem      : Mem := {}
  sp       : Mem := {}
  /-- engines whose scratchpad contents DOZE has lost: the number of the first free value they read as, plus 1; the words
  written since are the touched ones (R452) -/
  spLost   : Tbl Nat := []
  host     : List Host.Cell := []
  /-- host words (bus address / 8) whose AtomicOps the root complex does not complete (R51) -/
  noAtomics : List Nat := []
  /-- commands whose access its home holds: they are carried out when the hold ends (R21, R297, R312) -/
  held     : List Instr := []
  /-- answers to BAR4 reads that their home had held, oldest first -/
  late     : List Reply := []
  /-- what the module's own agents have to write or add when the hold ends, oldest first -/
  owed     : List Owed := []
  locks    : List Lock := []
  caches   : Tbl (List Line) := []
  /-- words of clean lines whose copy in the cache differs from their stack's: word number, bytes, checks (R322) -/
  copies   : List (Nat × List Byte × BitVec 16) := []
  /-- words of dirty lines whose copy in their stack is not clean: word number, checks (R330) -/
  stackCk  : List (Nat × BitVec 16) := []
  ecc      : Ecc := {}
  memRing  : EvRing := {}
  lcShare  : Nat := 64
  chans    : Tbl Chan := []
  stackTbl : Tbl Stack := []
  groups   : List Group := []
  fab      : Fabric := {}
  feeds    : Tbl Feed := []
  toks     : Tbl Tok := []
  sessions : Tbl Session := []
  media    : Media := {}
  ctrl     : Ctrl := {}
  power    : Power := {}
  deriving DecidableEq, Repr

/-- The module never stops with a fault: what the spec calls a failure is a status, a record or a flag of the
next state. -/
inductive Fault where
  deriving DecidableEq, Repr

/-- Why a command has no next state. -/
inductive Refusal where
  /-- a row of the table not modelled yet; raised by Machine/Dispatch.lean alone (safe) -/
  | notModelled (mnemonic : String)
  /-- a command that names a unit no order code has, or a value wider than its field: no row of the table
      spells it; raised by every meaning, through `answer` (safe) -/
  | illFormed
  deriving DecidableEq, Repr

/-! ### Fused values and reset -/

/-- R437: the fused kind of a core, by its number: the model's choice (notes/assumptions/7). -/
def fusedCore (n : Nat) : CoreKind :=
  if n % 128 < 125 then .enabled else if n % 128 < 127 then .spare else .disabled

/-- The unlisted core: as fused. -/
def Core.fused (n : Nat) : Core := { kind := fusedCore n }

/-- R220: partition 0 at module reset, on the order code. -/
def Partition.whole (o : Order) : Partition :=
  match o with
  | .azg7204 => { enabled := true, bwShare := 256, engines := 2 ^ 40 - 1, ways := 2 ^ 64 - 1,
                  feedFirst := 0, feedLast := 0xFFFF, sessFirst := 0, sessLast := 0xFFFF, chans := 2 ^ 256 - 1 }
  | _ => { enabled := true, bwShare := 256, engines := 2 ^ 80 - 1, ways := 2 ^ 128 - 1,
           feedFirst := 0, feedLast := 0xFFFF, sessFirst := 0, sessLast := 0xFFFF, chans := 2 ^ 512 - 1 }

/-- R206: context 0 at module reset. -/
def Ctx.management (o : Order) : Ctx :=
  match o with
  | .azg7204 => { state := .active, level := 3, engines := 2 ^ 40 - 1, memLimit := 2 ^ 39 }
  | _ => { state := .active, level := 3, engines := 2 ^ 80 - 1, memLimit := 2 ^ 40 }

/-- The module right after reset, as it stands in ACTIVE at the end of power-up (R481): an AZG-7208
(notes/assumptions/7). -/
def State.reset : State :=
  { parts := [(0, Partition.whole .azg7208)], ctxs := [(0, Ctx.management .azg7208)] }

end Sys2Proof.Machine
end

