-- ==== Sys2Proof/Machine/Flags.lean ====
section
/-! DEFINITION. Status codes (R65 and the chapters' tables under R66) and the numeric counts (R55, R91). -/

namespace Sys2Proof.Machine

/-! ### Status codes -/

abbrev stOk : Nat := 0x00
abbrev stOkCounted : Nat := 0x01
abbrev stBadOpcode : Nat := 0x10
abbrev stBadParam : Nat := 0x11
abbrev stBadDescriptor : Nat := 0x12
abbrev stUnitAbsent : Nat := 0x13
abbrev stCancelled : Nat := 0x14
abbrev stContextGone : Nat := 0x15
abbrev stMemUncorrectable : Nat := 0x20
abbrev stMemBounds : Nat := 0x21
abbrev stLockBroken : Nat := 0x22
abbrev stLockBusy : Nat := 0x23
abbrev stLockTableFull : Nat := 0x24
abbrev stLockNotHeld : Nat := 0x25
abbrev stLockWaitRemoved : Nat := 0x26
abbrev stScrubUncorrectable : Nat := 0x2A
abbrev stContextFaulted : Nat := 0x30
abbrev stEngineReset : Nat := 0x31
abbrev stQuarantined : Nat := 0x32
abbrev stContextExists : Nat := 0x33
abbrev stPartitionBusy : Nat := 0x34
abbrev stPartitionConflict : Nat := 0x35
abbrev stPartitionDenied : Nat := 0x36
abbrev stFabricUnreachable : Nat := 0x40
abbrev stStepAborted : Nat := 0x41
abbrev stStaleStep : Nat := 0x42
abbrev stPortLost : Nat := 0x48
abbrev stRemoteTimeout : Nat := 0x49
abbrev stIntegrity : Nat := 0x7F

/-- R65: codes 0x00 to 0x0F report success. -/
def succeeded (status : Nat) : Bool := decide (status < 0x10)

/-- R60: the statuses that do not halt a queue with STOP_ON_ERROR. -/
def harmless (status : Nat) : Bool := decide (status = stOk ∨ status = stOkCounted ∨ status = stUnitAbsent)

/-! ### Counts -/

/-- The counts of two pieces of work together. -/
def Counts.add (a b : Counts) : Counts :=
  { sat := a.sat + b.sat, flush := a.flush + b.flush, promote := a.promote + b.promote, nans := a.nans + b.nans }

/-- R91: elements counted once each. -/
def Marks.add (a b : Marks) : Marks :=
  let put (x y : List Nat) : List Nat := x ++ y.filter (fun e => !x.contains e)
  { sat := put a.sat b.sat, flush := put a.flush b.flush, nans := put a.nans b.nans, promote := a.promote ++ b.promote }

/-- R91: the numbers counted. -/
def Marks.counts (m : Marks) : Counts :=
  { sat := m.sat.length, flush := m.flush.length, promote := m.promote.length, nans := m.nans.length }

/-- What is counted but for some elements, which were not written (R133). -/
def Marks.without (m : Marks) (lost : Nat → Bool) : Marks :=
  let keep (l : List Nat) : List Nat := l.filter (fun e => !lost e)
  { sat := keep m.sat, flush := keep m.flush, nans := keep m.nans, promote := keep m.promote }

/-- Whether all four counts are zero. -/
def Counts.none (a : Counts) : Bool := decide (a.sat = 0 ∧ a.flush = 0 ∧ a.promote = 0 ∧ a.nans = 0)

/-- R55: OK or OK_COUNTED for a packet that succeeded. -/
def okStatus (c : Counts) : Nat := if c.none then stOk else stOkCounted

/-- R55, R92: a context's 64-bit totals advance by the true numbers and saturate. -/
def Counts.total (a b : Counts) : Counts :=
  let w (v : Nat) := satTo (2 ^ 64 - 1) v
  { sat := w (a.sat + b.sat), flush := w (a.flush + b.flush), promote := w (a.promote + b.promote),
    nans := w (a.nans + b.nans) }

/-- R460: what a write leaves of a W1C bit. -/
def w1c (old : Bool) (v bit : Nat) : Bool := old && !v.testBit bit

end Sys2Proof.Machine
end

