-- ==== Sys2Proof/Machine/Boxwood.lean ====
section
/-! DEFINITION. The Boxwood code (R319 to R324) over one coded memory. A word's check bytes are kept as their
difference from the correct checks of its stored data, on which alone the syndromes depend. -/

namespace Sys2Proof.Machine

/-- R319: multiplication by α = 0x02 in GF(2⁸) on 0x11D. -/
def gfAlpha (b : Byte) : Byte := if b.msb then (b <<< 1) ^^^ 0x1D#8 else b <<< 1

/-- Multiplication by α^n. -/
def gfPow : Nat → Byte → Byte
  | 0, b => b
  | n + 1, b => gfPow n (gfAlpha b)

/-- R320: the checks C1·256 + C0 of sixteen data bytes, D0 first: (Σ Dk·x^(k+2)) mod g(x). -/
def checks (data : List Byte) : BitVec 16 :=
  let stepc (r : Byte × Byte) (d : Byte) : Byte × Byte := (gfAlpha r.1 ^^^ r.1 ^^^ r.2, gfAlpha r.1 ^^^ d)
  let r := (data.reverse ++ [0#8, 0#8]).foldl stepc (0#8, 0#8)
  r.1 ++ r.2

/-- What a reader makes of a word (R321). -/
inductive Verdict where
  | clean
  /-- byte at position `p` of R320 is to be XORed with `v` -/
  | fix (p : Nat) (v : Byte)
  | bad
  deriving DecidableEq, Repr

/-- R321: the syndromes S0 and S1 of a word whose checks differ from the correct ones by `ck`. -/
def synd (ck : BitVec 16) : Byte × Byte :=
  let c0 := ck.truncate 8
  let c1 := (ck >>> 8).truncate 8
  (c0 ^^^ c1, c0 ^^^ gfAlpha c1)

/-- The syndrome field of a log record (R333): S1 in the high byte. -/
def syndWord (ck : BitVec 16) : Nat := (synd ck).2.toNat * 256 + (synd ck).1.toNat

/-- R321 in correct mode. -/
def verdict (ck : BitVec 16) : Verdict :=
  let (s0, s1) := synd ck
  if s0 = 0#8 ∧ s1 = 0#8 then .clean
  else if s0 = 0#8 ∨ s1 = 0#8 then .bad
  else match (List.range 18).find? (fun l => gfPow l s0 = s1) with
    | some l => .fix l s0
    | none => .bad

/-- R324: the check difference of a MARK word. -/
def markCk : BitVec 16 := 0x0101#16

/-- The stored byte at a place. -/
def Mem.raw (m : Mem) (p : Nat) : Byte := Tbl.get 0#8 m.cells p

/-- The check difference of the word at word number `w`. -/
def Mem.ckAt (m : Mem) (w : Nat) : BitVec 16 := Tbl.get 0#16 m.ck w

/-- The byte a correct-mode reader is given, or none where the word is uncorrectable. -/
def Mem.byte (m : Mem) (p : Nat) : Option Byte :=
  match verdict (m.ckAt (p / 16)) with
  | .clean => some (m.raw p)
  | .fix l v => some (if l = p % 16 + 2 then m.raw p ^^^ v else m.raw p)
  | .bad => none

/-- The stored bytes at a place and on. -/
def Mem.setRaw (m : Mem) (p : Nat) : List Byte → Mem
  | [] => m
  | b :: r => Mem.setRaw { m with cells := Tbl.set 0#8 m.cells p b } (p + 1) r

def Mem.setCk (m : Mem) (w : Nat) (ck : BitVec 16) : Mem := { m with ck := Tbl.set 0#16 m.ck w ck }

/-- R329: a correctable word rewritten clean. -/
def Mem.repair (m : Mem) (w : Nat) : Mem :=
  match verdict (m.ckAt w) with
  | .fix l v =>
    (if 2 ≤ l then m.setRaw (16 * w + (l - 2)) [m.raw (16 * w + (l - 2)) ^^^ v] else m).setCk w 0#16
  | _ => m

/-- Whether a write within one word covers it all. -/
def wholeWord (p : Nat) (bs : List Byte) : Bool := decide (p % 16 = 0 ∧ bs.length = 16)

/-- Whether a write into the word merges into an uncorrectable one (R324, R328). -/
def Mem.merges (m : Mem) (p : Nat) (bs : List Byte) : Bool :=
  !wholeWord p bs && decide (verdict (m.ckAt (p / 16)) = .bad)

/-- R323, R324: a write of bytes that lie in one word: a whole word becomes clean; a partial write decodes, merges
and encodes, and leaves an uncorrectable word MARK. -/
def Mem.writeWord (m : Mem) (p : Nat) (bs : List Byte) : Mem :=
  let w := p / 16
  if m.merges p bs then (m.setRaw p bs).setCk w markCk
  else ((m.repair w).setRaw p bs).setCk w 0#16

/-- R335: the masks XORed into a stored word. -/
def Mem.flip (m : Mem) (w : Nat) (dataMask checkMask : Nat) : Mem :=
  let old := (List.range 16).map (fun k => m.raw (16 * w + k))
  let mask := toLe 16 dataMask
  (m.setRaw (16 * w) (List.zipWith (· ^^^ ·) old mask)).setCk w
    (m.ckAt w ^^^ BitVec.ofNat 16 checkMask ^^^ checks mask)

/-- A word made uncorrectable in place (R324). -/
def Mem.mark (m : Mem) (w : Nat) : Mem := m.setCk w markCk

/-- The canonical form of a memory: its tables are canonical. -/
def Mem.wf (m : Mem) : Bool := Tbl.wf 0#8 m.cells && Tbl.wf 0#16 m.ck && Tbl.wf false m.touched

/-- R325: the 4 KiB unit of a place, the index of its first-touch bit. -/
def unitOf (p : Nat) : Nat := p / 4096

/-- Every listed place of the units that satisfy `f` forgotten: they read as zero again (R326, R327). -/
def Mem.forget (m : Mem) (f : Nat → Bool) : Mem :=
  { cells := m.cells.filter (fun c => !f (c.1 / 4096)),
    ck := m.ck.filter (fun c => !f (c.1 / 256)),
    touched := m.touched.filter (fun c => !f c.1) }

/-- R326: the first write to a unit: zero words, and the bit. -/
def Mem.touch (m : Mem) (u : Nat) : Mem :=
  if Tbl.get false m.touched u then m
  else
    let z := m.forget (fun k => k == u)
    { z with touched := Tbl.set false z.touched u true }

end Sys2Proof.Machine
end

