-- ==== Sys2Proof/Machine/Link.lean ====
section
/-! DEFINITION. One port: packets as bytes, flits and lanes; credits, the replay buffer and the choice of the next packet; what its
LINK flits say (R339, R342, R344 to R349). -/

namespace Sys2Proof.Machine

/-! ### Packets as bytes, flits and lanes (R339, R342, R344) -/

/-- R342: flits of a packet with `n` payload bytes. -/
def flitsOf (n : Nat) : Nat := max 1 (cdiv (n + 32) 256)

def TxPkt.flits (k : TxPkt) : Nat := flitsOf k.data.length

/-- R342: HFLAGS. -/
def TxPkt.hflags (k : TxPkt) : Nat :=
  k.vc % 4 + (if k.lc then 4 else 0) + (if k.last then 8 else 0) + (if k.shadow then 16 else 0) + k.part % 8 * 32

/-- R344: sizes of the fields from byte 10 on, by type; what they leave of the 22 bytes is zero. A size 0 stands for a zero byte. -/
def typeSizes (typ : Nat) : List Nat :=
  match typ with
  | 0x01 | 0x02 | 0x03 => [4, 6, 8, 4]
  | 0x04 => [4, 6, 6, 5]
  | 0x08 => [2, 2, 4, 1, 0, 2, 4, 4]
  | 0x0C => [4, 6, 4]
  | 0x0D => [2, 2, 4, 1, 1, 2, 5, 0, 4]
  | 0x10 => [4, 1, 1, 8, 8]
  | 0x11 => [1, 2, 4, 1, 4, 2, 8]
  | 0x12 | 0x13 | 0x14 => [1, 0, 4, 8, 8]
  | _ => []

/-- Values laid out in fields of those sizes. -/
def layOut : List Nat → List Nat → List Byte
  | [], _ => []
  | 0 :: r, v => 0#8 :: layOut r v
  | n :: r, v => toLe n (v.headD 0) ++ layOut r v.tail

/-- Values read back from fields of those sizes. -/
def readOut : List Nat → List Byte → List Nat
  | [], _ => []
  | 0 :: r, b => readOut r (b.drop 1)
  | n :: r, b => le (b.take n) :: readOut r (b.drop n)

/-- R342, R344: the 32 header bytes of a packet that leaves under an LSEQ. -/
def TxPkt.header (k : TxPkt) (lseq : Nat) : List Byte :=
  let t := layOut (typeSizes k.typ) k.hdr
  toLe 1 k.typ ++ toLe 1 k.hflags ++ toLe 2 k.data.length ++ toLe 2 k.dest ++ toLe 2 k.src ++ toLe 2 (lseq % 4096)
    ++ t ++ List.replicate (22 - t.length) 0#8

/-- R350: the destination offset of a packet that carries an address; 0 of another. -/
def TxPkt.offset (k : TxPkt) : Nat :=
  match k.typ with
  | 0x01 | 0x02 | 0x03 | 0x04 | 0x0C => k.hdr.getD 1 0
  | 0x0D => k.hdr.getD 6 0
  | _ => 0

/-- The data bytes of its flits: header and payload, filled up with zeros. -/
def TxPkt.bytes (k : TxPkt) (lseq : Nat) : List Byte :=
  k.header lseq ++ k.data ++ List.replicate (256 * k.flits - 32 - k.data.length) 0#8


/-- R346: the 256 data bytes of a LINK flit. -/
def LinkFlit.bytes (f : LinkFlit) : List Byte :=
  [0#8] ++ toLe 1 ((if f.nak then 1 else 0) + (if f.laneCmd then 2 else 0)) ++ toLe 2 (f.ackSeq % 4096) ++ toLe 4 f.credit0
    ++ toLe 4 f.credit1 ++ toLe 4 f.credit2 ++ toLe 4 f.credit3
    ++ toLe 4 (f.swapOut % 2 ^ 7 + f.swapIn % 2 ^ 7 * 2 ^ 7 + f.swapAfter % 2 ^ 18 * 2 ^ 14) ++ List.replicate 232 0#8

/-- Bit `i` of a flit of 256 data bytes: sixteen Boxwood words of 144 bits, data first, then C0 and C1 (R320); `mark` where its first
word is MARK (R322, R324). -/
def flitBit (mark : Bool) (flit : List Byte) (i : Nat) : Bool :=
  let w := (flit.drop (16 * (i / 144))).take 16
  if i % 144 < 128 then (w.getD (i % 144 / 8) 0#8).getLsbD (i % 8)
  else (checks w ^^^ (if mark && decide (i < 144) then markCk else 0#16)).getLsbD (i % 144 - 128)

/-- R322: bit `i` of flit `f` of a packet that leaves under an LSEQ. -/
def TxPkt.bit (k : TxPkt) (lseq f i : Nat) : Bool := flitBit (k.mark && f == 0) ((k.bytes lseq).drop (256 * f)) i

/-- R339: the physical lane and the time slot in which bit `i` of a flit travels. -/
def Port.laneOf (p : Port) (i : Nat) : Nat × Nat := (p.lanes.getD (i % p.width) 0, i / p.width)

/-- R339: what physical lane `lane` carries of a flit, slot after slot; none where it is not an active lane. -/
def Port.onLane (p : Port) (bit : Nat → Bool) (lane : Nat) : Option (List Bool) :=
  (p.lanes.findIdx? (· == lane)).map (fun l => (List.range (2304 / p.width)).map (fun t => bit (t * p.width + l)))

/-! ### Spare lanes (R341, R346) -/

/-- R341: a physical lane gives way to a spare: the logical lane that it carried travels on the spare from a flit boundary on. A spare
lane that is bad itself only leaves the spares. -/
def Port.swapLane (p : Port) (out into : Nat) : Port :=
  { p with lanes := p.lanes.map (fun l => if l = out then into else l), spares := p.spares.filter (fun l => l != into && l != out),
           outLanes := p.outLanes.filter (· != out) ++ [out] }

/-- R346: the swaps whose count of flits has run out are made. -/
def Port.dueSwaps (p : Port) : Port :=
  (p.swaps.filter (fun w => w.2.2.2 == 0)).foldl (fun q w => q.swapLane w.2.1 w.2.2.1) { p with swaps := p.swaps.filter (fun w => w.2.2.2 != 0) }

/-- R341, R346: `n` flits have passed in the direction `own`. -/
def Port.passed (p : Port) (own : Bool) (n : Nat) : Port :=
  if p.swaps.isEmpty then p
  else Port.dueSwaps { p with swaps := p.swaps.map (fun w => if w.1 = own then (w.1, w.2.1, w.2.2.1, w.2.2.2 - n) else w) }

/-- R338, R346: `d` ns have passed: an idle port's LINK flits fill the flit slots of both directions (notes/assumptions/138). -/
def Port.idled (p : Port) (d : Nat) : Port := (p.passed true (d * p.width / 18)).passed false (d * p.width / 18)

/-- R341: a port that trains makes its swaps at once: no flit is under way. -/
def Port.settleSwaps (p : Port) : Port := Port.dueSwaps { p with swaps := p.swaps.map (fun w => (w.1, w.2.1, w.2.2.1, 0)) }

/-- What is left of a port whose hub is reset or without power: which lanes are bad, and what has left on the wire. -/
def Port.unpowered (p : Port) : Port := { wire := p.wire, outLanes := p.settleSwaps.outLanes }

/-- R341, R346: a swap is agreed; the spare is taken. -/
def Port.agree (p : Port) (own : Bool) (out into after : Nat) : Port :=
  Port.dueSwaps { p with swaps := p.swaps ++ [(own, out, into, after)], spares := p.spares.filter (fun l => l != into) }

/-! ### The sending side (R345, R347, R348) -/

/-- Whether a port carries traffic: UP or DEGRADED. -/
def Port.live (p : Port) : Bool := p.st == .up || p.st == .degraded

/-- R345: flits in the replay buffer. -/
def Port.buffered (p : Port) : Nat := (p.replay.map (fun k => k.2.flits)).sum

/-- R347, R345: the packet fits the partner's credit and the replay buffer of 2,048 flits. -/
def Port.fits (p : Port) (k : TxPkt) : Bool :=
  let room := (Tbl.get 0 p.limit k.vc + 2 ^ 32 - (Tbl.get 0 p.sent k.vc + k.flits) % 2 ^ 32) % 2 ^ 32
  p.live && decide (room < 2 ^ 31) && decide (p.buffered + k.flits ≤ 2048)

/-- The first waiting packet of a VC and partition. -/
def Port.headOf (p : Port) (v part : Nat) : Option TxPkt :=
  p.txq.find? (fun k => k.vc == v && k.part == part)

/-- R349: a VC2 request with LC set that may leave: it goes ahead of the other VC2 requests. -/
def Port.urgent (p : Port) : Option TxPkt := p.txq.find? (fun k => k.vc == 2 && k.lc && p.fits k)

/-- R348: the flits that VC0 may take of the port's slots in 1 µs: a tenth of them. -/
def Port.vc0Share (p : Port) : Nat := p.width * 100 / 18

/-- R348: flits that VC0 has taken in the 1 µs up to now. -/
def Port.vc0Spent (p : Port) (now : Nat) : Nat := ((p.vc0.filter (fun e => decide (now < e.1 + 1000))).map Prod.snd).sum

/-- A packet leaves: it takes the next LSEQ and stays in the replay buffer. -/
def Port.sendPkt (now : Nat) (p : Port) (k : TxPkt) : Port :=
  Port.passed (own := true) (n := k.flits) { p with
    vc0 := if k.vc = 0 then (now, k.flits) :: p.vc0.filter (fun e => decide (now < e.1 + 1000)) else p.vc0,
    txq := p.txq.erase k,
    replay := p.replay ++ [(p.nextSeq, k)],
    nextSeq := (p.nextSeq + 1) % 4096,
    sent := Tbl.set 0 p.sent k.vc ((Tbl.get 0 p.sent k.vc + k.flits) % 2 ^ 32),
    wire := (p.nextSeq, k) :: p.wire }

/-- R348: deficit round robin over the partitions of VC `v`, weighted by `share`. -/
def Port.serve (share : Nat → Nat) (now v : Nat) : Nat → Port → Option Port
  | 0, _ => none
  | f + 1, p =>
    let part := Tbl.get 0 p.nextPart v
    let key := v * 8 + part
    let move (d : Nat) : Port :=
      { p with deficit := Tbl.set 0 p.deficit key d, nextPart := Tbl.set 0 p.nextPart v ((part + 1) % 8) }
    match p.headOf v part with
    | none => Port.serve share now v f (move 0)
    | some k =>
      if !p.fits k then Port.serve share now v f (move (Tbl.get 0 p.deficit key))
      else if k.flits ≤ Tbl.get 0 p.deficit key then
        some ({ p with deficit := Tbl.set 0 p.deficit key (Tbl.get 0 p.deficit key - k.flits) } |>.sendPkt now k)
      else Port.serve share now v f (move (Tbl.get 0 p.deficit key + max 1 (share part)))

/-- Whether VC `v` has a packet that may leave. -/
def Port.ready (p : Port) (v : Nat) : Bool := (List.range 8).any (fun q => (p.headOf v q).any p.fits)

/-- R348: VC0 goes first within its share of the slots; beyond it, it takes its turn among VC1, VC2 and VC3 in weighted round robin. -/
def Port.nextVc (weight : Nat → Nat) (now : Nat) (p : Port) : Option (Nat × Port) :=
  let first := ((p.txq.filter (fun k => k.vc == 0 && p.fits k)).map TxPkt.flits).head?
  if first.any (fun n => decide (p.vc0Spent now + n ≤ p.vc0Share)) then some (0, p)
  else
    let cand := [1, 2, 3, 0].filter p.ready
    if cand.isEmpty then none
    else match cand.find? (fun v => 0 < Tbl.get 0 p.turns v) with
      | some v => some (v, { p with turns := Tbl.set 0 p.turns v (Tbl.get 0 p.turns v - 1) })
      | none =>
        let t := [1, 2, 3, 0].foldl (fun t v => Tbl.set 0 t v (weight v)) p.turns
        match cand.head? with
        | some v => some (v, { p with turns := Tbl.set 0 t v (weight v - 1) })
        | none => none

/-- One packet leaves, if one may. -/
def Port.pumpOne (weight share : Nat → Nat) (now : Nat) (p : Port) : Option Port :=
  (p.nextVc weight now).bind (fun r => match if r.1 = 2 then r.2.urgent else none with
    | some k => some (r.2.sendPkt now k)
    | none => Port.serve share now r.1 600 r.2)

/-- Packets leave as long as credit and the replay buffer allow. -/
def Port.pumpFuel (weight share : Nat → Nat) (now : Nat) : Nat → Port → Port
  | 0, p => p
  | f + 1, p => match p.pumpOne weight share now with
    | some p' => Port.pumpFuel weight share now f p'
    | none => p

def Port.pump (weight share : Nat → Nat) (now : Nat) (p : Port) : Port := Port.pumpFuel weight share now p.txq.length p

/-! ### The receiving side (R345 to R347) -/

/-- R347: the receive buffer of a VC, in flits. -/
def rxBuffer (v : Nat) : Nat :=
  match v with
  | 0 => 1024
  | 1 => 8192
  | 2 => 2048
  | _ => 16384

/-- R346: what a LINK flit of the port says now, when packets with `held v` flits of VC `v` are still in its receive buffers. -/
def Port.linkNow (p : Port) (held : Nat → Nat) : LinkFlit :=
  let credit (v : Nat) : Nat := (Tbl.get 0 p.got v + (rxBuffer v - held v)) % 2 ^ 32
  { nak := p.nakking, laneCmd := false, ackSeq := p.expect, credit0 := credit 0, credit1 := credit 1, credit2 := credit 2,
    credit3 := credit 3, swapOut := 0, swapIn := 0 }

def drainFuel (weight share : Nat → Nat) : Nat → Port → List Nat
  | 0, _ => []
  | f + 1, p => match p.pumpOne weight share 0 with
    | some q => (match q.wire with
      | w :: _ => w.2.hdr
      | [] => []) ++ drainFuel weight share f { q with replay := [], sent := [], wire := [], vc0 := [] }
    | none => []

/-- R348: the order in which packets leave a receive buffer, by their places in it: that of the sending side. -/
def drainOrder (weight share : Nat → Nat) (ks : List TxPkt) : List Nat :=
  drainFuel weight share ks.length
    { st := .up, limit := (List.range 4).map (fun v => (v, 2 ^ 30)), txq := ks.zipIdx.map (fun k => { k.1 with hdr := [k.2] }) }

end Sys2Proof.Machine
end

