-- ==== Sys2Proof/Machine/Ops.lean ====
section
/-! DEFINITION. The named operations over the state: units of the order code, tables, the channel hash, access to
memory of every kind, event rings and interrupts, and what the fabric sends. -/

namespace Sys2Proof.Machine

/-- Every meaning ends here: a command some row spells answers its next state. -/
def answer (i : Instr) (t : State) : Host.Outcome State Fault Refusal :=
  if i.wf then .next t else .refused .illFormed

/-! ### Units of the order code (R1, R3, R4) -/

def Order.dies : Order → Nat
  | .azg7204 => 4
  | _ => 8
def Order.engines (o : Order) : Nat := 10 * o.dies
def Order.stackCount (o : Order) : Nat := 2 * o.dies
def Order.chans (o : Order) : Nat := 64 * o.dies
def Order.lanes : Order → Nat
  | .azg7204 => 48
  | _ => 96
def Order.media : Order → Bool
  | .azg7208M => false
  | _ => true
/-- R1: maximum input power in W. -/
def Order.maxWatts : Order → Nat
  | .azg7208 => 6000
  | .azg7208M => 5800
  | .azg7204 => 3200
def Order.code : Order → Nat
  | .azg7208 => 0
  | .azg7208M => 1
  | .azg7204 => 2

/-- What core `n` (global number, R17) is. -/
def State.core (s : State) (n : Nat) : Core := Tbl.get (Core.fused n) s.cores n
def State.setCore (s : State) (n : Nat) (c : Core) : State := { s with cores := Tbl.set (Core.fused n) s.cores n c }

/-- Enabled cores of engine `e`. -/
def State.enabledCores (s : State) (e : Nat) : Nat :=
  ((List.range 128).filter (fun c => (s.core (128 * e + c)).kind = .enabled)).length

/-- R4: CAP_COUNTS.CORES. -/
def State.coreCount (s : State) : Nat := ((List.range s.order.engines).map s.enabledCores).sum

/-! ### Entries of the state's tables -/

def State.queue (s : State) (q : Nat) : Queue := Tbl.get {} s.queues q
def State.setQueue (s : State) (q : Nat) (v : Queue) : State := { s with queues := Tbl.set {} s.queues q v }
def State.ring (s : State) (c : Nat) : CplRing := Tbl.get {} s.rings c
def State.setRing (s : State) (c : Nat) (v : CplRing) : State := { s with rings := Tbl.set {} s.rings c v }
def State.fn (s : State) (f : Nat) : Fn := Tbl.get {} s.fns f
def State.setFn (s : State) (f : Nat) (v : Fn) : State := { s with fns := Tbl.set {} s.fns f v }
def State.part (s : State) (p : Nat) : Partition := Tbl.get {} s.parts p
def State.setPart (s : State) (p : Nat) (v : Partition) : State := { s with parts := Tbl.set {} s.parts p v }
def State.region (s : State) (r : Nat) : Region := Tbl.get {} s.regions r
def State.setRegion (s : State) (r : Nat) (v : Region) : State := { s with regions := Tbl.set {} s.regions r v }
def State.ctx (s : State) (c : Nat) : Ctx := Tbl.get {} s.ctxs c
def State.setCtx (s : State) (c : Nat) (v : Ctx) : State := { s with ctxs := Tbl.set {} s.ctxs c v }
def State.client (s : State) (k : Nat) : Nat × Nat := Tbl.get (0, 0) s.clients k
def State.setClient (s : State) (k : Nat) (v : Nat × Nat) : State := { s with clients := Tbl.set (0, 0) s.clients k v }
def State.engine (s : State) (e : Nat) : Engine := Tbl.get {} s.engines e
def State.setEngine (s : State) (e : Nat) (v : Engine) : State := { s with engines := Tbl.set {} s.engines e v }
def State.chan (s : State) (c : Nat) : Chan := Tbl.get {} s.chans c
def State.setChan (s : State) (c : Nat) (v : Chan) : State := { s with chans := Tbl.set {} s.chans c v }
def State.stack (s : State) (k : Nat) : Stack := Tbl.get {} s.stackTbl k
def State.setStack (s : State) (k : Nat) (v : Stack) : State := { s with stackTbl := Tbl.set {} s.stackTbl k v }
def State.port (s : State) (n : Nat) : Port := Tbl.get {} s.fab.ports n
def State.setPort (s : State) (n : Nat) (v : Port) : State :=
  { s with fab := { s.fab with ports := Tbl.set {} s.fab.ports n v } }
def State.feed (s : State) (f : Nat) : Feed := Tbl.get {} s.feeds f
def State.setFeed (s : State) (f : Nat) (v : Feed) : State := { s with feeds := Tbl.set {} s.feeds f v }
def State.tok (s : State) (k : Nat) : Tok := Tbl.get {} s.toks k
def State.setTok (s : State) (k : Nat) (v : Tok) : State := { s with toks := Tbl.set {} s.toks k v }
def State.session (s : State) (k : Nat) : Session := Tbl.get {} s.sessions k
def State.setSession (s : State) (k : Nat) (v : Session) : State := { s with sessions := Tbl.set {} s.sessions k v }

/-- R312, R457: die `d` is stopped: a stack of it is in protective self-refresh, or a quadrant of it is too hot. Its engines
dispatch nothing, and the tasks that run there pause. -/
def State.dieStopped (s : State) (d : Nat) : Bool :=
  (s.stack (2 * d)).protect || (s.stack (2 * d + 1)).protect || s.power.stopped.contains d

/-- R425: the item waits on a request that its home holds, or on one outstanding to a peer. -/
def State.itemWaits (s : State) (i : Item) : Bool :=
  !i.done && (i.waits || s.fab.reqs.any (fun r => decide (r.pkt = i.pkt ∧ r.task = i.idx + 1)))

/-- Items and stream-mover packets that run on engine `e`: whether each waits (R424, R425). -/
def State.workWaits (s : State) (e : Nat) : List Bool :=
  (s.items.filter (fun i => i.eng == e)).map s.itemWaits
    ++ (s.queues.flatMap (fun u => u.2.pkts.filter (fun k => k.phase == .started && k.mover == some e))).map
      (fun k => k.waits || s.fab.reqs.any (fun r => r.pkt == k.id) || !k.planes.isEmpty)

/-- R22, R312, R425: the watchdog time of engine `e` stands still: its die is stopped, or all that runs on it waits on held
requests and on peers. -/
def State.paused (s : State) (e : Nat) : Bool :=
  s.dieStopped (e / 10) || (!(s.workWaits e).isEmpty && (s.workWaits e).all id)

/-- MTIME moves on by `d` ns; the watchdog time of a paused engine does not (R425). -/
def State.pass (s : State) (d : Nat) : State :=
  if d = 0 then s
  else { s with mtime := s.mtime + d,
                engines := s.engines.map (fun g => (g.1, if s.paused g.1 then { g.2 with heldSince := g.2.heldSince + d } else g.2)),
                fab := { s.fab with ports := s.fab.ports.map (fun p => (p.1, p.2.idled d)) } }

/-! ### Free values (notes/assumptions/4) -/

/-- The numbers of the free values that one draw may take: 2^64 of them from here on. -/
def State.freeAt (s : State) : Nat := s.free * 2 ^ 64

/-- One of `n` listed outcomes. -/
def State.choice (s : State) (n : Nat) : Nat := Config.freeChoice s.freeAt % n

/-- The next free value is a new one. -/
def State.drew (s : State) : State := { s with free := s.free + 1 }

/-! ### Packets of the state -/

/-- The packet numbered `p`, with its queue. -/
def findPkt : Tbl Queue → Nat → Option (Nat × Packet)
  | [], _ => none
  | (q, v) :: r, p => match v.pkts.find? (fun k => k.id == p) with
    | some k => some (q, k)
    | none => findPkt r p

def State.pkt (s : State) (p : Nat) : Option (Nat × Packet) := findPkt s.queues p

/-- One packet changed. -/
def State.modPkt (s : State) (p : Nat) (f : Packet → Packet) : State :=
  { s with queues := s.queues.map (fun e =>
      (e.1, { e.2 with pkts := e.2.pkts.map (fun k => if k.id = p then f k else k) })) }

/-- What work leaves in a packet, which has started then. -/
def State.modRun (s : State) (p : Nat) (f : ListRun → ListRun) : State :=
  s.modPkt p (fun k => if k.phase = .fetched then k else { k with run := f k.run })

/-- All packets of the state, with their queues. -/
def State.allPkts (s : State) : List (Nat × Packet) :=
  s.queues.flatMap (fun e => e.2.pkts.map (fun k => (e.1, k)))

/-- The partition of a queue (R39). -/
def State.partOf (s : State) (q : Nat) : Nat := (s.queue q).part

/-- Data landed for a packet is used no more (R352). -/
def State.dropLanded (s : State) (p : Nat) : State :=
  { s with fab := { s.fab with landed := s.fab.landed.filter (fun e => e.1 != p) } }

/-- Data landed for task `i` of a packet is used no more. -/
def State.dropTaskData (s : State) (p i : Nat) : State :=
  { s with fab := { s.fab with landed := s.fab.landed.filter (fun e => !(e.1 == p && e.2.1 == i + 1)) } }

/-- A packet's work is over: its record waits for PACKET_COMPLETION. A packet already finished stays as it is. -/
def State.finish (s : State) (p status : Nat) (detail : Option Nat) (c : Counts := {}) : State :=
  s.modPkt p (fun k => if k.phase = .finished then k
    else { k with phase := .finished, status := status, detail := detail, counts := c, waiting := false })

/-! ### Addresses (R288 to R297) -/

/-- R290: a local offset in global form. -/
def State.global (s : State) (off : Nat) : Nat := s.fab.moduleId * 2 ^ 48 + off

/-- The `k`-th lowest set bit of a mask of `n` bits, counting from 0. -/
def nthBit (n mask k : Nat) : Nat :=
  if mask + 1 = 2 ^ (Nat.log2 mask + 1) then k else ((bitsOf n mask).drop k).headD 0

/-- How many bits are set. -/
def popCount (n mask : Nat) : Nat :=
  if mask = 0 then 0 else if mask + 1 = 2 ^ (Nat.log2 mask + 1) then Nat.log2 mask + 1 else (bitsOf n mask).length

/-- R294: the XOR of the groups of `c` bits of `t`. -/
def fold (c t : Nat) : Nat :=
  if c = 0 then 0 else ((List.range 24).map (fun i => (t >>> (c * i)) % 2 ^ c)).foldl (· ^^^ ·) 0

/-- Channels of a partition. -/
def State.chanCount (s : State) (p : Nat) : Nat := popCount 512 (s.part p).chans

/-- R292: bytes of a partition's memory. -/
def State.memBytes (s : State) (p : Nat) : Nat := s.chanCount p * 2 ^ 31

/-- Whether an offset lies in a region. -/
def Region.holds (r : Region) (part off : Nat) : Bool :=
  r.valid && decide (r.part = part) && decide (r.base ≤ off) && decide (off < r.base + 2 ^ r.size)

/-- The region entry that holds a partition's offset. -/
def State.regionAt (s : State) (part off : Nat) : Option Region :=
  (s.regions.map Prod.snd).find? (fun r => r.holds part off)

/-- How many dies hold channels of a mask. -/
def diesOf (mask : Nat) : Nat := ((List.range 8).filter (fun d => fld mask (64 * d) 64 != 0)).length

/-- R294, R295: the physical place (channel · 2³¹ + granule · 256 + byte) of a partition-local offset. -/
def State.place (s : State) (part off : Nat) : Nat :=
  let mask := (s.part part).chans
  let n := popCount 512 mask
  let c := Nat.log2 n
  let (sel, u) :=
    match (s.regions.map Prod.snd).find? (fun r => r.dieLocal && r.holds part off) with
    | some r =>
      let d := max 1 (diesOf mask)
      let q := n / d
      let w := 2 ^ r.size / d
      let i := (off - r.base) / w
      let g := (off - r.base - i * w) / 256
      (i * q + ((g % q) ^^^ fold (Nat.log2 q) (g / q)), r.base / 256 / n + g / q)
    | none =>
      let g := off / 256
      ((g % 2 ^ c) ^^^ fold c (g >>> c), g >>> c)
  nthBit 512 mask sel * 2 ^ 31 + u * 256 + off % 256

/-- The channel of a place. -/
def chanOf (p : Nat) : Nat := p / 2 ^ 31

/-- The partition that owns a channel. -/
def State.ownerOf (s : State) (ch : Nat) : Option Nat :=
  (List.range 8).find? (fun p => (s.part p).chans.testBit ch)

/-- The inverse of the hash: the partition-local offset of a place (R294, R295). -/
def State.offsetOf (s : State) (part p : Nat) : Nat :=
  let mask := (s.part part).chans
  let n := popCount 512 mask
  let c := Nat.log2 n
  let ch := chanOf p
  let u := p % 2 ^ 31 / 256
  let sel := popCount 512 (mask % 2 ^ ch)
  match (s.regions.map Prod.snd).find? (fun r => r.valid && r.dieLocal && decide (r.part = part)
      && decide (r.base / 256 / n ≤ u) && decide (u < (r.base + 2 ^ r.size) / 256 / n)) with
  | some r =>
    let d := max 1 (diesOf mask)
    let q := n / d
    let hi := u - r.base / 256 / n
    r.base + sel / q * (2 ^ r.size / d) + (hi * q + ((sel % q) ^^^ fold (Nat.log2 q) hi)) * 256 + p % 256
  | none => ((u <<< c) + (sel ^^^ fold c u)) * 256 + p % 256

/-- The global address of a place, as records and DETAIL give it. -/
def State.globalOf (s : State) (p : Nat) : Nat :=
  match s.ownerOf (chanOf p) with
  | some o => s.global (s.offsetOf o p)
  | none => s.global p

/-! ### Accesses -/

/-- Why an access is not made: it fails with a status and DETAIL; its home holds it (R21, R297, R312); or it needs
data from a peer. -/
inductive Err where
  | fail (status detail : Nat)
  | held
  | remote (addr len : Nat)
  deriving DecidableEq, Repr

/-- The module's own accesses for partition 0. -/
def Acc.self : Acc := { host := true }

/-- Where an address leads. -/
inductive Place where
  | mem (p : Nat) (nocache : Bool)
  | host (a : Nat)
  | table (off : Nat)
  | peer
  deriving DecidableEq, Repr

/-- R262: whether an offset lies in the slot space of a joined group. -/
def State.inSlotSpace (s : State) (part off : Nat) : Bool :=
  s.groups.any (fun g => decide (g.part = part ∧ g.slotOff ≤ off ∧ off < g.slotOff + g.slotBytes))

/-- R21, R297, R312: an access that back-pressure holds: the home die is in a die reset, its stack is in protective
self-refresh, or a die-local change of its window is under way. -/
def State.heldAt (s : State) (part off p : Nat) : Bool :=
  s.ctrl.resets.any (fun r => decide (r.dom = 2 ∧ r.idx = chanOf p / 64))
  || (s.stack (chanOf p / 32)).protect
  || (s.regions.map Prod.snd).any (fun r => r.busy && r.windows.any (fun w =>
      decide (w.1 = part ∧ w.2.1 ≤ off ∧ off < w.2.1 + 2 ^ w.2.2)))

/-- R316: the channel of a place is lost. -/
def State.chanLost (s : State) (p : Nat) : Bool := decide ((s.chan (chanOf p)).retire = 3)

/-- R313, R294: the place of an offset of the reserved tables, which lie in the reserve rows of all the channels: the channel, and
granules beyond its rated ones. -/
def State.tablePlace (s : State) (off : Nat) : Nat :=
  let c := Nat.log2 s.order.chans
  let g := (off - 2 ^ 40) / 256
  ((g % 2 ^ c) ^^^ fold c (g >>> c)) * 2 ^ 31

/-- R288, R292, R205: the place of a local offset, known to the access as address `g`. The tables are held and lost with their
channels (R313). -/
def State.resolveLocal (s : State) (a : Acc) (g off : Nat) : Except Err Place :=
  if 2 ^ 40 ≤ off then
    if a.tables && decide (off < 2 ^ 40 + 0x10100000) then
      let p := s.tablePlace off
      if s.heldAt 8 0 p then .error .held
      else if s.chanLost p then .error (.fail stMemUncorrectable (g - g % 16))
      else .ok (.table off)
    else .error (.fail stMemBounds g)
  else if s.memBytes a.part ≤ off ∨ off < a.lo ∨ a.hi ≤ off then .error (.fail stMemBounds g)
  else
    let p := s.place a.part off
    if s.heldAt a.part off p then .error .held
    else .ok (.mem p (!a.atHome && (a.nocache || ((s.regionAt a.part off).map (·.nocache)).getD false)))

/-- R290, R291: the place of a global address. The module's own ID is local whatever it is; other reserved IDs lead nowhere. -/
def State.resolve (s : State) (a : Acc) (g : Nat) : Except Err Place :=
  let mid := g >>> 48
  let off := g % 2 ^ 48
  if mid = 0xFFFF then (if a.host then .ok (.host off) else .error (.fail stMemBounds g))
  else if 0xFFF0 ≤ mid ∧ mid ≠ s.fab.moduleId then .error (.fail stMemBounds g)
  else if 2 ^ 41 ≤ off then .error (.fail stMemBounds g)
  else if mid ≠ s.fab.moduleId then .ok .peer
  else s.resolveLocal a g off

/-- R307: what a lock word reads as while it has an entry. -/
def Lock.word (l : Lock) : Nat :=
  (match l.holder with
    | some (e, c) => 1 + e * 4 + c * 2 ^ 10
    | none => 0) + (if l.broken then 2 else 0)

/-- The lock-table entry whose word covers a place. -/
def State.lockAt (s : State) (p : Nat) : Option Lock := s.locks.find? (fun l => l.addr / 8 == p / 8)

/-- R316: the granule of a place was relocated empty. -/
def Chan.isEmpty (c : Chan) (p : Nat) : Bool :=
  c.empty.any (fun r => decide (r.1 ≤ p % 2 ^ 31 / 256 ∧ p % 2 ^ 31 / 256 < r.2))

/-- R326, R316: a byte of module memory as its home delivers it: a clean line's copy that passes detection, and else the stack's or a
dirty line's (R322). -/
def State.memByte (s : State) (p : Nat) : Option Byte :=
  if s.chanLost p then none
  else match s.lockAt p with
    | some l => some (BitVec.ofNat 8 (l.word >>> (8 * (p % 8))))
    | none => match s.copies.find? (fun c => c.1 == p / 16 && decide (verdict c.2.2 = .clean)) with
      | some c => some (c.2.1.getD (p % 16) 0#8)
      | none => if Tbl.get false s.mem.touched (unitOf p) then s.mem.byte p
        else if (s.chan (chanOf p)).isEmpty p then none else some 0#8

/-- R326: the first write to the unit of a place: zero words and the bit; the granules of it that were relocated empty are MARK
(R316, R324). -/
def State.touchUnit (s : State) (p : Nat) : State :=
  let u := unitOf p
  if Tbl.get false s.mem.touched u then s
  else
    let c := s.chan (chanOf p)
    let lost := if c.empty.isEmpty then [] else ((List.range 16).filter (fun i => c.isEmpty (4096 * u + 256 * i))).flatMap
      (fun i => (List.range 16).map (fun j => 256 * u + 16 * i + j))
    { s with mem := lost.foldl Mem.mark (s.mem.touch u) }

/-- R204: the 256 bytes of a context entry. -/
def State.ctxBytes (s : State) (n : Nat) : List Byte :=
  let c := s.ctx n
  let resident := ((List.range 80).filter (fun e =>
    (s.engine e).used.any (fun k => (Tbl.get ({} : Slot) (s.engine e).slots k).ctx == n))).foldl (fun a e => a + 2 ^ e) 0
  let code : Nat := match c.state with
    | .free => 0
    | .active => 1
    | .faulted => 2
    | .quarantined => 3
  let stepc : Nat := match c.stepState with
    | .none => 0
    | .fill => 1
    | .drain => 2
    | .exchange => 3
    | .committed => 4
    | .aborted => 5
  toLe 1 code ++ toLe 1 c.kind ++ toLe 1 c.level ++ toLe 1 c.part ++ toLe 2 c.client ++ toLe 2 c.sliceUs
    ++ toLe 16 c.engines ++ toLe 8 c.memBase ++ toLe 8 c.memLimit ++ toLe 8 c.policy ++ toLe 8 c.seed
    ++ toLe 4 c.step ++ toLe 4 stepc
    ++ toLe 8 c.totals.sat ++ toLe 8 c.totals.flush ++ toLe 8 c.totals.promote ++ toLe 8 c.totals.nans
    ++ toLe 16 resident ++ toLe 8 c.created ++ toLe 8 c.fStatus ++ toLe 8 c.fDetail
    ++ (List.range 56).map (fun k => if c.state = .free then 0#8 else Config.saveByte n k) ++ List.replicate 64 0#8

/-- A byte of the context or client table (R203, R227), by its offset in the local space. -/
def State.tableByte (s : State) (off : Nat) : Byte :=
  if off < 2 ^ 40 + 0x10000000 then
    let r := off - 2 ^ 40
    ((s.ctxBytes (r / 256)).drop (r % 256)).headD 0#8
  else
    let r := off - (2 ^ 40 + 0x10000000)
    let c := s.client (r / 16)
    ((toLe 8 c.1 ++ toLe 8 c.2).drop (r % 16)).headD 0#8

/-- The host memory byte at a bus address. -/
def State.hostByte (s : State) (a : Nat) : Byte := Tbl.get 0#8 s.host a

/-- Parts of the range [g, g + n) that lie in one 128-byte line each. -/
def cutLines : Nat → Nat → Nat → List (Nat × Nat)
  | 0, _, _ => []
  | f + 1, g, n =>
    if n = 0 then [] else
    let k := min n (128 - g % 128)
    (g, k) :: cutLines f (g + k) (n - k)

def pieces (g n : Nat) : List (Nat × Nat) := cutLines (n / 128 + 2) g n

/-- A computation that reads a fixed state and lists the places it has read: place, length, NOCACHE. -/
abbrev Rd := ExceptT Err (StateM (List (Nat × Nat × Bool)))

def Rd.fail {α : Type} (e : Err) : Rd α := fun l => (.error e, l)
def Rd.note (p n : Nat) (nc : Bool) : Rd Unit := fun l => (.ok (), (p, n, nc) :: l)

/-- Marks in a list of reads: address `g` is where operand data begins that a core's operand buffer or a vector engine's tile
buffer takes (R180, R335). -/
abbrev panelMark : Nat := 2 ^ 70

def Rd.panel (g : Nat) : Rd Unit := Rd.note (panelMark + g) 1 false

/-- R352: data that has landed from a peer for a packet, or for a task of it. -/
def State.landedAt (s : State) (a : Acc) (g n : Nat) : Option (List Byte) :=
  (s.fab.landed.find? (fun e => decide (e.1 = a.pkt ∧ e.2.1 = a.task ∧ e.2.2.1 = g) && decide (n ≤ e.2.2.2.length))).map (fun e => e.2.2.2.take n)

/-- One piece of a load, from where its address leads. -/
def loadPlace (s : State) (a : Acc) (g n : Nat) (where_ : Except Err Place) : Rd (List Byte) :=
  match where_ with
  | .error e => Rd.fail e
  | .ok (.host h) => pure ((List.range n).map (fun i => s.hostByte (h + i)))
  | .ok (.table off) => pure ((List.range n).map (fun i => s.tableByte (off + i)))
  | .ok .peer => match s.landedAt a g n with
    | some b => pure b
    | none => Rd.fail (.remote g n)
  | .ok (.mem p nc) =>
    if s.inSlotSpace a.part (g % 2 ^ 48) then do
      Rd.note p 0 nc
      pure ((List.range n).map (fun i => Config.freeByte (s.freeAt + p + i)))
    else do
      Rd.note p n nc
      match (List.range n).find? (fun i => (s.memByte (p + i)).isNone) with
      | some i => Rd.fail (.fail stMemUncorrectable (g + i - (g + i) % 16))
      | none => pure ((List.range n).map (fun i => (s.memByte (p + i)).getD 0#8))

def loadPiece (s : State) (a : Acc) (g n : Nat) : Rd (List Byte) := loadPlace s a g n (s.resolve a g)

/-- A load of `n` bytes at a global address. -/
def load (s : State) (a : Acc) (g n : Nat) : Rd (List Byte) := do
  let l ← (pieces g n).mapM (fun c => loadPiece s a c.1 c.2)
  pure l.flatten

/-- Places of scratchpad bytes in a list of reads, beside those of memory. -/
abbrev spMark : Nat := 2 ^ 50

/-- Addresses of scratchpad bytes in a list of writes, beside the global ones and what a header's array and a block's place in it
add up to (R185). -/
abbrev spAddr : Nat := 2 ^ 80

/-- R452: a scratchpad word that DOZE has lost and nothing has written since: where its free values are numbered from. -/
def State.lostSp (s : State) (w : Nat) : Option Nat :=
  let b := Tbl.get 0 s.spLost (w / 2 ^ 20)
  if b = 0 ∨ Tbl.get false s.sp.touched w then none else some (b - 1)

/-- A byte of the scratchpads, in correct mode: a lost one is a free value. -/
def State.spByte (s : State) (p : Nat) : Option Byte :=
  match s.lostSp (p / 16) with
  | some b => some (Config.freeByte (b + p))
  | none => s.sp.byte p

/-- A lost word is a word of free values from now on, before part of it is written. -/
def State.formSp (s : State) (w : Nat) : State :=
  match s.lostSp w with
  | some b => { s with sp := (({ s.sp with touched := Tbl.set false s.sp.touched w true } : Mem).setRaw (16 * w) ((List.range 16).map (fun i => Config.freeByte (b + 16 * w + i)))).setCk w 0#16 }
  | none => s

/-- R199, R328: bytes of engine `e`'s scratchpad, in correct mode. -/
def loadSp (s : State) (e off n : Nat) : Rd (List Byte) :=
  if 2 ^ 24 < off + n then Rd.fail (.fail stMemBounds (2 ^ 63 + max off (2 ^ 24)))
  else do
    let p := e * 2 ^ 24 + off
    Rd.note (spMark + p) n false
    match (List.range n).find? (fun i => (s.spByte (p + i)).isNone) with
    | some i => Rd.fail (.fail stMemUncorrectable (2 ^ 63 + (off + i) / 16 * 16))
    | none => pure ((List.range n).map (fun i => (s.spByte (p + i)).getD 0#8))

/-- A little-endian number loaded. -/
def loadNat (s : State) (a : Acc) (g n : Nat) : Rd Nat := do
  let b ← load s a g n
  pure (le b)

/-! ### Interrupts and event rings -/

/-- R474: the message of a vector is sent through the owning function's port, or held while the port is down. -/
def State.irq (s : State) (fn vec : Nat) : State :=
  let up := if fn / 17 = 0 then s.ctrl.link0 else s.ctrl.link1
  let hubReset := s.ctrl.resets.any (fun r => decide (r.dom = 3 ∧ r.idx = fn / 17))
  if up && !hubReset then { s with msix := (fn, vec) :: s.msix }
  else
    let f := s.fn fn
    s.setFn fn { f with pendingVec := if f.pendingVec.contains vec then f.pendingVec else f.pendingVec ++ [vec] }

/-- Host memory bytes written. -/
def State.setHost (s : State) (a : Nat) : List Byte → State
  | [] => s
  | b :: r => State.setHost { s with host := Tbl.set 0#8 s.host a b } (a + 1) r

/-- Bytes cut at word bounds: place and bytes. -/
def cutWords : Nat → Nat → List Byte → List (Nat × List Byte)
  | 0, _, _ => []
  | f + 1, p, bs =>
    if bs.isEmpty then [] else
    let k := 16 - p % 16
    (p, bs.take k) :: cutWords f (p + k) (bs.drop k)

/-- R337: the exemption of the injected word ends when it is next written whole. -/
def State.unexempt (s : State) (w : Nat) : State :=
  if s.ecc.injWord = some w then { s with ecc := { s.ecc with injWord := none } } else s

/-- Bytes of one word written at its home (R323, R324). -/
def State.putWord (s : State) (p : Nat) (bs : List Byte) : State :=
  let t : State := { s with mem := s.mem.writeWord p bs }
  if wholeWord p bs then t.unexempt (p / 16) else t

/-- What puts an event record at its place: the record at a global address, and the interrupt behind it. -/
abbrev Log := State → Nat → List Byte → Nat × Nat → State

/-- R491: a ring takes no record where it is not enabled, or holds all it can. -/
def EvRing.closed (r : EvRing) : Bool := !r.enable || (r.tail + 1) % 2 ^ r.log2 == r.head % 2 ^ r.log2

/-- R53, R491: the ring with a record more. -/
def EvRing.next (r : EvRing) : EvRing :=
  { r with tail := (r.tail + 1) % 2 ^ r.log2, phase := if r.tail + 1 = 2 ^ r.log2 then !r.phase else r.phase }

/-- R317, R333, R438, R491: a 32-byte record put into the event ring `r`, with the PHASE bit at byte 11; `s` holds that ring's next
state. -/
def Log.put (w : Log) (s : State) (r : EvRing) (rec : List Byte) : State :=
  w s (r.base + 32 * r.tail) (rec.take 11 ++ [(rec.drop 11).headD 0#8 ||| (if r.phase then 0x80#8 else 0#8)] ++ rec.drop 12) (r.owner, r.msix)

/-- R317: a record of the memory event ring. -/
def Log.memEvent (w : Log) (s : State) (kind stack chan eflags row spares : Nat) : State :=
  let k := s.stack stack
  if s.memRing.closed then s
  else w.put { s with memRing := s.memRing.next } s.memRing
    (toLe 8 s.mtime ++ toLe 1 kind ++ toLe 1 stack ++ toLe 1 chan ++ toLe 1 eflags ++ toLe 4 row
      ++ toLe 4 spares ++ toLe 1 k.temp ++ toLe 1 k.steps ++ List.replicate 10 0#8)

/-- R333: a record of the error ring. -/
def Log.eccEvent (w : Log) (s : State) (kind cls eflags index synd addr ctx count : Nat) : State :=
  if s.ecc.ring.closed then s
  else w.put { s with ecc := { s.ecc with ring := s.ecc.ring.next } } s.ecc.ring
    (toLe 8 s.mtime ++ toLe 1 kind ++ toLe 1 cls ++ [0#8] ++ toLe 1 eflags ++ toLe 2 index ++ toLe 2 synd
      ++ toLe 8 addr ++ toLe 4 ctx ++ toLe 4 count)

/-- R333: 1 ms after the last CORRECTED record of place `key` the errors met since are recorded. -/
def Log.releaseCe (w : Log) (s : State) (key : Nat) : State :=
  let last := Tbl.get 0 s.ecc.lastCe key
  match Tbl.get none s.ecc.heldCe key with
  | none => s
  | some h =>
    if last ≠ 0 ∧ s.mtime < last - 1 + 1000000 then s
    else w.eccEvent { s with ecc := { s.ecc with heldCe := Tbl.set none s.ecc.heldCe key none,
                                                 lastCe := Tbl.set 0 s.ecc.lastCe key (s.mtime + 1) } }
      1 (key / 2 ^ 16) h.eflags (key % 2 ^ 16) h.synd h.addr h.ctx h.n

/-- R333: a corrected error: counted, and recorded at most once per place per 1 ms with the errors it stands for. -/
def Log.corrected (w : Log) (s : State) (cls eflags index synd addr ctx : Nat) : State :=
  let key := cls * 2 ^ 16 + index
  let n := ((Tbl.get none s.ecc.heldCe key).map (·.n)).getD 0 + 1
  w.releaseCe { s with ecc := { s.ecc with ceCount := satTo (2 ^ 32 - 1) (s.ecc.ceCount + 1),
                                           heldCe := Tbl.set none s.ecc.heldCe key (some { n, eflags, synd, addr, ctx }) } } key

/-- R333, R334: an uncorrectable word met. -/
def Log.uncorrectable (w : Log) (s : State) (cls eflags index synd addr ctx : Nat) : State :=
  w.eccEvent { s with ecc := { s.ecc with ueCount := satTo (2 ^ 32 - 1) (s.ecc.ueCount + 1) } } 2 cls eflags index synd addr ctx 1

/-! ### Row sparing and channel retirement (R313 to R316) -/

/-- R315, R316: a retirement begins, or is refused where the stack has retired a channel already. -/
def Log.startRetire (w : Log) (s : State) (ch : Nat) : State :=
  let k := s.stack (ch / 32)
  let c := s.chan ch
  if c.retire ≠ 0 then s
  else if k.retired then w.memEvent s 4 (ch / 32) (ch % 32) 0 0 (28672 - c.sparesUsed)
  else w.memEvent ((s.setStack (ch / 32) { k with retired := true }).setChan ch { c with retire := 1 })
    2 (ch / 32) (ch % 32) 0 0 (28672 - c.sparesUsed)

/-- R314: the row of a place is spared. -/
def Log.spareRow (w : Log) (s : State) (p : Nat) : State :=
  let ch := chanOf p
  let u := p % 2 ^ 31 / 256
  let row := Config.rowOf ch u
  let c := s.chan ch
  if c.sparesUsed ≥ 28672 then w.startRetire s ch
  else
    let t := s.setChan ch { c with sparesUsed := c.sparesUsed + 1,
                                   ceRows := c.ceRows.filter (fun e => e.1 != row) }
    let t := w.memEvent t 1 (ch / 32) (ch % 32) (u % 2) row (28672 - (c.sparesUsed + 1))
    if c.sparesUsed + 1 = 28672 then w.startRetire t ch else t

/-- R314: a corrected error enters the channel's list, one entry per row: the third of an entry that is not 24 hours old spares the
row; an older entry begins anew. A full list gives up its oldest entry (notes/assumptions/140). -/
def Log.listCorrected (w : Log) (s : State) (p : Nat) : State :=
  let ch := chanOf p
  let row := Config.rowOf ch (p % 2 ^ 31 / 256)
  let c := s.chan ch
  let others := c.ceRows.filter (fun e => e.1 != row)
  let (at_, n) := match c.ceRows.find? (fun e => e.1 == row && decide (s.mtime < e.2.1 + 86400 * 10 ^ 9)) with
    | some e => (e.2.1, e.2.2 + 1)
    | none => (s.mtime, 1)
  if 3 ≤ n then w.spareRow (s.setChan ch { c with ceRows := others }) p
  else
    let rows := if n = 1 then ((row, at_, n) :: others).take 256 else c.ceRows.map (fun e => if e.1 = row then (row, at_, n) else e)
    s.setChan ch { c with ceRows := rows }

/-! ### Masks and arrays (R335 to R337) -/

/-- R335: what an armed mask adds to a word's checks. -/
def Ecc.maskCk (e : Ecc) : BitVec 16 := BitVec.ofNat 16 e.checkMask ^^^ checks (toLe 16 e.dataMask)

/-- R335: an armed mask reaches the word at `addr`, which then has checks `ck`; `word` is its physical word, where it has one. -/
def Log.fired (w : Log) (s : State) (word : Option Nat) (addr ctx : Nat) (ck : BitVec 16) : State :=
  w.eccEvent { s with ecc := { s.ecc with armed := false, fired := true, injAddr := addr, injWord := word } }
    5 s.ecc.cls 0 s.ecc.index (syndWord ck) addr ctx 1

/-- R335: a mask is armed for a target. -/
def State.aimed (s : State) (cls index : Nat) : Bool := s.ecc.armed && decide (s.ecc.cls = cls ∧ s.ecc.index = index)

/-- R335: a write reaches the array of a target: an armed mask for it is XORed into the word. -/
def Log.inject (w : Log) (s : State) (cls index word addr ctx : Nat) (sp : Bool := false) : State :=
  if !s.aimed cls index then s
  else if sp then
    let t : State := { s with sp := s.sp.flip word s.ecc.dataMask s.ecc.checkMask }
    w.fired t none addr ctx (t.sp.ckAt word)
  else
    let t : State := { s with mem := s.mem.flip word s.ecc.dataMask s.ecc.checkMask }
    w.fired t (some word) addr ctx (t.mem.ckAt word)

/-- A word reaches its stack array: a write-back, an uncached write or a rewrite (R335). -/
def Log.arrayWrite (w : Log) (s : State) (word ctx : Nat) : State :=
  w.inject s 0 (chanOf (16 * word)) word (s.globalOf (16 * word)) ctx

/-! ### Die caches (R298, R322)

`mem` holds the cache's copy of a dirty line's words, and otherwise the stack's. A clean line's words that differ from the stack's are
in `copies`, and words of the stack under a dirty line that are not clean in `stackCk`. -/

/-- Key of the set that a place falls in: die and set number. -/
def cacheKey (p : Nat) : Nat :=
  let ch := chanOf p
  let u := p % 2 ^ 31 / 256
  ch / 64 * 32768 + (u % 256) * 128 + (ch % 64) * 2 + p / 128 % 2

/-- The ways of die `d` that a partition may use (R221). -/
def Partition.waysOf (p : Partition) (d : Nat) : Nat := fld p.ways (16 * d) 16

/-- The line of a place, where its die's cache holds it. -/
def State.lineAt (s : State) (p : Nat) : Option Line := (Tbl.get [] s.caches (cacheKey p)).find? (fun l => l.line == p / 128)

/-- One line of a cache changed. -/
def State.modLine (s : State) (p : Nat) (f : Line → Line) : State :=
  let key := cacheKey p
  { s with caches := Tbl.set [] s.caches key ((Tbl.get [] s.caches key).map (fun l => if l.line = p / 128 then f l else l)) }

/-- The cache holds its own copies of line `line` no more: the stack's stand. -/
def State.dropCopies (s : State) (line : Nat) : State :=
  { s with copies := s.copies.filter (fun c => c.1 / 8 != line), stackCk := s.stackCk.filter (fun c => c.1 / 8 != line) }

/-- R322: a dirty line's word is decoded as it is written back: corrected, or kept as MARK. -/
def Log.outWord (w : Log) (s : State) (word : Nat) : State :=
  let sy := syndWord (s.mem.ckAt word)
  let d := chanOf (16 * word) / 64
  match verdict (s.mem.ckAt word) with
  | .clean => s
  | .fix _ _ => w.corrected { s with mem := s.mem.repair word } 1 0 d sy (s.globalOf (16 * word)) 0xFFFFFFFF
  | .bad => w.uncorrectable { s with mem := s.mem.mark word } 1 0 d sy (s.globalOf (16 * word)) 0xFFFFFFFF

/-- The bytes that `mem` has of a word. -/
def Mem.word (m : Mem) (w : Nat) : List Byte := (List.range 16).map (fun k => m.raw (16 * w + k))

/-- A write that a mask has met in the stack leaves the cache's clean copy of the word as it was. -/
def State.keepCopy (s t : State) (w : Nat) : State :=
  if t.mem.ckAt w = s.mem.ckAt w ∧ t.mem.word w = s.mem.word w then t
  else if (t.lineAt (16 * w)).any (fun l => !l.dirty) ∧ !t.copies.any (fun c => c.1 == w) then
    { t with copies := (w, s.mem.word w, s.mem.ckAt w) :: t.copies }
  else t

/-- A line written back: its words reach the array in address order (R335). What the line then holds, where it stays, is what it
held. -/
def Log.writeBack (w : Log) (s : State) (line : Nat) : State :=
  (List.range 8).foldl (fun t i =>
    let u := w.outWord t (line * 8 + i)
    u.keepCopy (w.arrayWrite u (line * 8 + i) 0xFFFFFFFF) (line * 8 + i)) ((s.dropCopies line).modLine (line * 128) (fun l => { l with dirty := false }))

/-- An access to a line: a hit makes it most recently used; a miss allocates where it may, replacing the least
recently used of the partition's ways, a dirty one written back. Answers nothing where the cache does not hold the line, and
otherwise whether the access filled it. -/
def Log.cacheLine (w : Log) (s : State) (part p : Nat) (alloc : Bool) : Option Bool × State :=
  let key := cacheKey p
  let line := p / 128
  let set := Tbl.get [] s.caches key
  match set.find? (fun l => l.line == line) with
  | some l => (some false, { s with caches := Tbl.set [] s.caches key (l :: set.filter (fun l => l.line != line)) })
  | none =>
    let ways := bitsOf 16 ((s.part part).waysOf (chanOf p / 64))
    if !alloc || ways.isEmpty || s.power.st == .doze then (none, s)
    else match ways.find? (fun n => !set.any (fun l => l.way == n)) with
      | some n => (some true, { s with caches := Tbl.set [] s.caches key ({ line, way := n, dirty := false } :: set) })
      | none => match (set.filter (fun l => ways.contains l.way)).getLast? with
        | none => (none, s)
        | some v =>
          let new : Line := { line, way := v.way, dirty := false }
          let t := { s with caches := Tbl.set [] s.caches key (new :: set.filter (fun l => l.line != v.line)) }
          (some true, if v.dirty then w.writeBack t v.line else t.dropCopies v.line)

/-- R335 CLASS 1: the word at `p` is the next that is written into its die's cache, and takes the mask: in a dirty line, or in the
clean line's copy. -/
def Log.injectCache (w : Log) (s : State) (p ctx : Nat) (dirty : Bool) : State :=
  let d := chanOf p / 64
  let word := p / 16
  if dirty then w.inject s 1 d word (s.globalOf (16 * word)) ctx
  else if !s.aimed 1 d then s
  else
    let m := s.mem.flip word s.ecc.dataMask s.ecc.checkMask
    w.fired { s with copies := (word, m.word word, m.ckAt word) :: s.copies.filter (fun c => c.1 != word) } (some word)
      (s.globalOf (16 * word)) ctx (m.ckAt word)

/-! ### What a read does to its home (R326, R329, R314, R298) -/

/-- A word read: corrected, and in a stack rewritten; or found uncorrectable, and MARK from now on, its row in a stack spared. A word
of a dirty line is the cache's (R322). -/
def Log.wordRead (w : Log) (s : State) (word ctx eflags : Nat) : State :=
  let p := 16 * word
  let ch := chanOf p
  let g := s.globalOf p
  if s.chanLost p then w.uncorrectable s 0 eflags ch (syndWord markCk) g ctx
  else if !Tbl.get false s.mem.touched (unitOf p) then
    if (s.chan ch).isEmpty p then w.uncorrectable s 0 eflags ch (syndWord markCk) g ctx else s
  else
    let sy := syndWord (s.mem.ckAt word)
    let dirty := (s.lineAt p).any (·.dirty)
    match verdict (s.mem.ckAt word) with
    | .clean => s
    | .fix _ _ =>
      if dirty then w.corrected s 1 eflags (ch / 64) sy g ctx
      else
        let t : State := { s with mem := s.mem.repair word }
        let t := w.corrected (t.keepCopy (w.arrayWrite t word ctx) word) 0 eflags ch sy g ctx
        if s.ecc.injWord = some word then t else w.listCorrected t p
    | .bad =>
      if dirty then w.uncorrectable { s with mem := s.mem.mark word } 1 eflags (ch / 64) sy g ctx
      else
        let t := w.uncorrectable { s with mem := s.mem.mark word } 0 eflags ch sy g ctx
        if s.ecc.injWord = some word ∨ s.mem.ckAt word = markCk then t else w.spareRow t p

/-- R330, R331: a scrub reads the word of the stack, whatever a cache has of it: that of a dirty line is the one that its write-back
will replace (notes/assumptions/171). -/
def Log.stackRead (w : Log) (s : State) (word eflags : Nat) : State :=
  let p := 16 * word
  let ch := chanOf p
  if s.chanLost p ∨ !(s.lineAt p).any (·.dirty) then w.wordRead s word 0xFFFFFFFF eflags
  else match s.stackCk.find? (fun c => c.1 == word) with
    | none => s
    | some (_, ck) =>
      let others := s.stackCk.filter (fun c => c.1 != word)
      match verdict ck with
      | .clean => { s with stackCk := others }
      | .fix _ _ =>
        let t := if s.aimed 0 ch then
            w.fired { s with stackCk := (word, s.ecc.maskCk) :: others } (some word) (s.globalOf p) 0xFFFFFFFF s.ecc.maskCk
          else { s with stackCk := others }
        let t := w.corrected t 0 eflags ch (syndWord ck) (s.globalOf p) 0xFFFFFFFF
        if s.ecc.injWord = some word then t else w.listCorrected t p
      | .bad =>
        let t := w.uncorrectable { s with stackCk := (word, markCk) :: others } 0 eflags ch (syndWord ck) (s.globalOf p) 0xFFFFFFFF
        if s.ecc.injWord = some word ∨ ck = markCk then t else w.spareRow t p

/-- R298: a line read from its stack into the cache. -/
def Log.fillLine (w : Log) (s : State) (p ctx : Nat) : State :=
  (List.range 8).foldl (fun t i => w.wordRead t (p / 128 * 8 + i) ctx 0) s

/-- The words that a range of places touches. -/
def wordsOf (p n : Nat) : List Nat :=
  if n = 0 then [] else (List.range ((p + n - 1) / 16 - p / 16 + 1)).map (fun i => p / 16 + i)

/-- R322: a clean line of which a word that is read fails detection is dropped and read again from the stack. -/
def Log.dropBad (w : Log) (s : State) (p n ctx : Nat) : State :=
  if s.copies.isEmpty then s
  else match s.copies.find? (fun c => (wordsOf p n).contains c.1 && decide (verdict c.2.2 ≠ .clean)) with
    | none => s
    | some (word, _, ck) =>
      w.injectCache (w.fillLine (w.uncorrectable (s.dropCopies (p / 128)) 1 0 (chanOf p / 64) (syndWord ck) (s.globalOf (16 * word)) ctx) p ctx)
        (p / 128 * 128) ctx false

/-- R454: an access to a stack, which wakes it and is the latest one. -/
def State.stackUsed (s : State) (p : Nat) : State :=
  let k := s.stack (chanOf p / 32)
  if s.power.st = .doze then s.setStack (chanOf p / 32) { k with refresh := false, accessAt := s.mtime } else s

/-! ### Stores -/

/-- Bytes of one word written at its home. A part of a word is merged into the old one, which is decoded: one in error is counted, and
an uncorrectable one stays MARK, with a MARK_MERGE record (R323, R324, R328). The merged word is the one that reaches the array
(R329). -/
def Log.wordWrite (w : Log) (s : State) (p ctx : Nat) (bs : List Byte) : State :=
  let word := p / 16
  let ch := chanOf p
  let dirty := (s.lineAt p).any (·.dirty)
  let cls := if dirty then 1 else 0
  let index := if dirty then ch / 64 else ch
  let free := dirty || decide (s.ecc.injWord = some word)
  if wholeWord p bs then s.putWord p bs
  else match verdict (s.mem.ckAt word) with
    | .clean => s.putWord p bs
    | .fix _ _ =>
      let t := w.corrected s cls 0 index (syndWord (s.mem.ckAt word)) (s.globalOf (16 * word)) ctx
      (if free then t else w.listCorrected t (16 * word)).putWord p bs
    | .bad =>
      let t := if free || decide (s.mem.ckAt word = markCk) then s else w.spareRow s (16 * word)
      let t := t.putWord p bs
      w.eccEvent { t with ecc := { t.ecc with ueCount := satTo (2 ^ 32 - 1) (t.ecc.ueCount + 1) } } 3 cls 0 index (syndWord markCk)
        (t.globalOf (16 * word)) ctx 1

/-- R298, R322: a clean line becomes dirty. A part of a word is merged into the line's copy, which is read again where it fails
detection; what the stack keeps of the line is what it had. -/
def Log.soilLine (w : Log) (s : State) (p n ctx : Nat) : State :=
  if (s.lineAt p).any (·.dirty) then s
  else
    let s := if p % 16 = 0 then s else w.dropBad s p 1 ctx
    let s := if (p + n) % 16 = 0 then s else w.dropBad s (p + n - 1) 1 ctx
    if !(s.lineAt p).any (fun l => !l.dirty) then s
    else
      let line := p / 128
      let mine := s.copies.filter (fun c => c.1 / 8 == line)
      let old := ((List.range 8).map (fun i => (line * 8 + i, s.mem.ckAt (line * 8 + i)))).filter (fun c => decide (c.2 ≠ 0#16))
      let mem := mine.foldl (fun m c => (m.setRaw (16 * c.1) c.2.1).setCk c.1 c.2.2) s.mem
      { s with mem, copies := s.copies.filter (fun c => c.1 / 8 != line), stackCk := old ++ s.stackCk }

/-- A write of bytes that lie in one line: cached, or straight to the array (R298), masks applied (R335). A part of a line that is not
there is merged into the line as it is read, and the whole is written to the cache. -/
def Log.lineWrite (w : Log) (s : State) (part ctx p : Nat) (nc : Bool) (bs : List Byte) : State :=
  let (c, t) := w.cacheLine (s.stackUsed p) part p (!nc)
  let t := t.touchUnit p
  let filled := c == some true && !decide (p % 128 = 0 ∧ bs.length = 128)
  let t := if filled then w.fillLine t p ctx else t
  let t := if c.isSome then (w.soilLine t p bs.length ctx).modLine p (fun l => { l with dirty := true }) else t
  let t := (cutWords 10 p bs).foldl (fun t c => w.wordWrite t c.1 ctx c.2) t
  if s.chanLost p then t
  else if c.isSome then w.injectCache t (if filled then p / 128 * 128 else p) ctx true
  else (wordsOf p bs.length).foldl (fun t word => w.arrayWrite t word ctx) t

/-- A write that its home holds is owed (R21, R297, R312). -/
def State.owe (s : State) (o : Owed) : State := { s with owed := s.owed ++ [o] }

/-- A write of the module's own to a global address: host memory, or its partition's memory. What a home holds is owed (R21). -/
def Log.poke (w : Log) (s : State) (a : Acc) (g : Nat) (bs : List Byte) : State :=
  let off := g % 2 ^ 48
  if g >>> 48 = 0xFFFF then s.setHost off bs
  else if g >>> 48 = s.fab.moduleId ∧ off + bs.length ≤ s.memBytes a.part then
    (pieces off bs.length).foldl (fun t c =>
      let b := (bs.drop (c.1 - off)).take c.2
      let p := t.place a.part c.1
      if t.heldAt a.part c.1 p then t.owe { acc := a, addr := t.global c.1, due := .bytes b }
      else w.lineWrite t a.part a.ctx p (!a.atHome && (a.nocache || ((t.regionAt a.part c.1).map (·.nocache)).getD false)) b) s
  else s

/-- Whether the home of a place in partition 0's memory holds what is written there. -/
def State.ringHeld (s : State) (part g : Nat) : Bool :=
  decide (g >>> 48 ≠ 0xFFFF ∧ g >>> 48 = s.fab.moduleId ∧ g % 2 ^ 48 < s.memBytes part) && s.heldAt part (g % 2 ^ 48) (s.place part (g % 2 ^ 48))

/-- The plain write of a record: no cache, no mask, no record of its own. -/
def State.pokeMem (s : State) (part off : Nat) (bs : List Byte) : State :=
  (pieces off bs.length).foldl (fun t c =>
    let p := t.place part c.1
    (cutWords 10 p ((bs.drop (c.1 - off)).take c.2)).foldl (fun t w => t.putWord w.1 w.2) (t.touchUnit p)) s

/-- How event records are written: as any write of the module's own, with what that write may itself have to record. The depth bounds
records about the writing of records; the last is written plainly (notes/assumptions/13). -/
def logAt : Nat → Log
  | 0 => fun s g bs v => (if g >>> 48 = 0xFFFF then s.setHost (g % 2 ^ 48) bs
      else if g >>> 48 = s.fab.moduleId ∧ g % 2 ^ 48 + bs.length ≤ s.memBytes 0 then s.pokeMem 0 (g % 2 ^ 48) bs else s).irq v.1 v.2
  | n + 1 => fun s g bs v =>
    if s.ringHeld 0 g then s.owe { acc := {}, addr := g, due := .bytes bs, irq := some v }
    else ((logAt n).poke s {} g bs).irq v.1 v.2

/-- Event records as the module writes them. -/
def records : Log := logAt 3

def State.memEvent (s : State) (kind stack chan eflags row spares : Nat) : State := records.memEvent s kind stack chan eflags row spares
def State.eccEvent (s : State) (kind cls eflags index synd addr ctx count : Nat) : State :=
  records.eccEvent s kind cls eflags index synd addr ctx count
def State.corrected (s : State) (cls eflags index synd addr ctx : Nat) : State := records.corrected s cls eflags index synd addr ctx
def State.uncorrectable (s : State) (cls eflags index synd addr ctx : Nat) : State := records.uncorrectable s cls eflags index synd addr ctx
def State.startRetire (s : State) (ch : Nat) : State := records.startRetire s ch
def State.writeBack (s : State) (line : Nat) : State := records.writeBack s line
def State.wordRead (s : State) (w ctx eflags : Nat) : State := records.wordRead s w ctx eflags
def State.stackRead (s : State) (w eflags : Nat) : State := records.stackRead s w eflags
def State.lineWrite (s : State) (part ctx p : Nat) (nc : Bool) (bs : List Byte) : State := records.lineWrite s part ctx p nc bs
def State.poke (s : State) (part g : Nat) (bs : List Byte) : State := records.poke s { part } g bs

/-- R333: what the places' last records have held back for 1 ms. -/
def State.releaseAll (s : State) : State := (s.ecc.heldCe.map Prod.fst).foldl records.releaseCe s

/-- R358: what is left to slew once MTIME has moved on by `d` ns, at 0.1% of rate, and the ticks since the last slewed ns; a held MTIME
is held no more. -/
def Fabric.slewed (f : Fabric) (d : Nat) : Fabric :=
  let n := f.slewTicks + d
  if d = 0 then f
  else if f.slew = 0 then { f with hold := 0 }
  else if 0 < f.slew then
    let left := f.slew - (n / 1001 : Nat)
    { f with hold := 0, slew := max 0 left, slewTicks := if left ≤ 0 then 0 else min 999 (n % 1001) }
  else
    let left := f.slew + ((n - 1) / 999 : Nat)
    { f with hold := 0, slew := min 0 left, slewTicks := if 0 ≤ left then 0 else n - 999 * ((n - 1) / 999) }

/-- MTIME moves to the time at which an event happens; it never goes back (R358). -/
def State.at (s : State) (mt : Nat) : State :=
  ({ s with fab := s.fab.slewed (mt - s.mtime) }.pass (mt - s.mtime)).releaseAll

/-- R322, R333: a scratchpad word read: errors are counted and recorded. -/
def State.spWordRead (s : State) (w ctx : Nat) : State :=
  let e := w / 2 ^ 20
  let addr := 2 ^ 63 + w % 2 ^ 20 * 16
  let sy := syndWord (s.sp.ckAt w)
  match verdict (s.sp.ckAt w) with
  | .clean => s
  | .fix _ _ => s.corrected 2 0 e sy addr ctx
  | .bad => s.uncorrectable 2 0 e sy addr ctx

/-- The effects of one read piece on caches, codes and counts. A read of slot space (length 0) has drawn free
values. -/
def State.noteRead (s : State) (part ctx : Nat) (r : Nat × Nat × Bool) : State :=
  let (p, n, nc) := r
  if n = 0 then s.drew
  else if panelMark ≤ p then s
  else if spMark ≤ p then (wordsOf (p - spMark) n).foldl (fun t w => t.spWordRead w ctx) s
  else
  match records.cacheLine (s.stackUsed p) part p (!nc) with
  | (some true, t) => records.injectCache (records.fillLine t p ctx) (p / 128 * 128) ctx false
  | (some false, t) =>
    let t := records.dropBad t p n ctx
    ((wordsOf p n).filter (fun w => !t.copies.any (fun c => c.1 == w))).foldl (fun t w => t.wordRead w ctx 0) t
  | (none, t) => (wordsOf p n).foldl (fun t w => t.wordRead w ctx 0) t

/-- The effects of all the reads of a piece of work, oldest first; the list comes newest first. -/
def State.noteReads (s : State) (a : Acc) (l : List (Nat × Nat × Bool)) : State :=
  l.reverse.foldl (fun t r => t.noteRead a.part a.ctx r) s

/-- A reading computation made: its result, and the state its reads leave. -/
def State.reading {α : Type} (s : State) (a : Acc) (r : Rd α) : Except Err α × State :=
  let (x, l) := r.run.run []
  (x, s.noteReads a l)

/-- A reading computation of an agent that acts on lines in their home cache, and allocates them whatever their region's NOCACHE
(R299). -/
def State.homeRead {α : Type} (s : State) (a : Acc) (r : Rd α) : Except Err α × State :=
  let (x, l) := r.run.run []
  (x, s.noteReads a (l.map (fun e => (e.1, e.2.1, false))))

/-! ### The fabric's sending side (R342, R350 to R353) -/

/-- R350: the plane an address hashes to. -/
def planeHash (d a : Nat) : Nat := fold 3 (d * 2 ^ 32 ^^^ (a >>> 16))

/-- R353: whether plane `k` reaches module `d`. -/
def State.linked (s : State) (d k : Nat) : Bool := (s.port k).live && (Tbl.get 0 s.fab.reach d).testBit k

/-- R284, R353: whether packets go to module `d` on plane `k`: it is reached, and has not departed. -/
def State.reaches (s : State) (d k : Nat) : Bool := s.linked d k && !s.fab.gone.contains d

/-- R353: whether some plane reaches a module that has not sent DEPARTING. -/
def State.present (s : State) (m : Nat) : Bool := (List.range 8).any (fun k => s.reaches m k)

/-- R350: the plane that a packet for `d` takes, if any reaches it. -/
def State.planeFor (s : State) (part d off : Nat) : Option Nat :=
  let first := match s.regionAt part off with
    | some r => if r.pin then r.plane else planeHash d off
    | none => planeHash d off
  ((List.range 8).map (fun i => (first + i) % 8)).find? (fun k => s.reaches d k)

/-- R221: the shares of bandwidth of the partitions. -/
def State.shares (s : State) : Nat → Nat := fun p => (s.part p).bwShare

/-- R348: the weight of a VC; beyond its share VC0 has weight 1 (notes/assumptions/136). -/
def State.weights (s : State) : Nat → Nat := fun v =>
  match v with
  | 0 => 1
  | 1 => s.fab.w1
  | 2 => s.fab.w2
  | _ => s.fab.w3

/-- The port sends what it may. -/
def State.pumpPort (s : State) (n : Nat) : State := s.setPort n ((s.port n).pump s.weights s.shares s.mtime)

/-- R335 CLASS 5: a packet is written into the burst queue SRAM of port `n`'s hub: an armed mask hits its first word, which is decoded
as it is read again: corrected, or carried on as MARK (R322). Answers whether it is MARK (notes/assumptions/141). -/
def State.burst (s : State) (n : Nat) : Bool × State :=
  let h := n / 4
  if s.ecc.armed ∧ s.ecc.cls = 5 ∧ s.ecc.index = h then
    let ck := s.ecc.maskCk
    let sy := syndWord ck
    let t := records.fired s none 0 0xFFFFFFFF ck
    match verdict ck with
    | .clean => (false, t)
    | .fix _ _ => (false, t.corrected 5 0 h sy 0 0xFFFFFFFF)
    | .bad => (true, t.uncorrectable 5 0 h sy 0 0xFFFFFFFF)
  else (false, s)

/-- A packet of this module's (R342 SRC) joins a port's transmit queue, and the port sends what it may. -/
def State.transmit (s : State) (n : Nat) (k : TxPkt) : State :=
  let (mark, s) := s.burst n
  let p := s.port n
  (s.setPort n { p with txq := p.txq ++ [{ k with src := s.fab.moduleId, mark }] }).pumpPort n

/-- FABRIC_UNREACHABLE for a destination (R65): module ID, and the port of the plane hashed to. -/
def unreachable (g : Nat) : Err :=
  .fail stFabricUnreachable ((g >>> 48) % 2 ^ 16 + planeHash (g >>> 48) (g % 2 ^ 48) * 2 ^ 16)

/-- R352: requests outstanding on a port, those that wait for an entry apart. -/
def State.outstanding (s : State) (n : Nat) : Nat := (s.fab.reqs.filter (fun r => r.port == n && r.queued.isNone)).length

/-- R352: a non-posted request, kind 0 READ, 1 WRITE, 2 ATOMIC, 3 PULL. `hdr` is what follows the TAG in R344.
Where 4,096 requests are outstanding on the port it waits for a free entry. LC marks a READ whose destination offset lies in a
region with LC set, or that is of a WAIT semaphore (R300, R349). -/
def State.request (s : State) (kind pkt part g len : Nat) (tag : Option Nat) (hdr : List Nat) (data : List Byte)
    (task : Nat := 0) (drift : Option (Nat × Nat × Nat × Bool) := none) (land : Nat := 0) (sem : Bool := false) : Except Err State :=
  let d := g >>> 48
  let off := g % 2 ^ 48
  match s.planeFor part d off with
  | none => .error (unreachable g)
  | some k =>
    let t := tag.getD s.fab.tag
    let x : TxPkt := { typ := kind + 1, vc := 2, dest := d, hdr := t :: off :: hdr, data, part,
                       lc := kind == 0 && (sem || ((s.regionAt part off).map (·.lc)).getD false) }
    let r : Req := { tag := t, port := k, dest := d, kind, addr := g, len, total := len, land, pkt, task, drift, sent := s.mtime }
    let free := if kind = 3 then s.fab.released.filter (fun e => !(e.1 == d && e.2.1 == t)) else s.fab.released
    let s' (r : Req) : State := { s with fab := { s.fab with tag := (s.fab.tag + 1) % 2 ^ 32, reqs := s.fab.reqs ++ [r], released := free } }
    .ok (if 4096 ≤ s.outstanding k then s' { r with queued := some x } else (s' r).transmit k x)

/-- R352, R350: a request that waits takes a free entry of the port it goes out on now, oldest first. -/
def State.issueNext (s : State) (n : Nat) : State :=
  if 4096 ≤ s.outstanding n then s
  else match s.fab.reqs.find? (fun r => r.port == n && r.queued.isSome) with
    | none => s
    | some r => match r.queued with
      | none => s
      | some x =>
        let m := (s.planeFor x.part x.dest x.offset).getD n
        let free := decide (s.outstanding m < 4096)
        let t : State := { s with fab := { s.fab with reqs := s.fab.reqs.map (fun y =>
          if y = r then { y with port := m, queued := if free then none else y.queued, sent := s.mtime } else y) } }
        if free then t.transmit m x else t

/-- Requests that are outstanding no more: their entries go to those that wait. -/
def State.dropReqs (s : State) (sel : Req → Bool) : State :=
  let gone := s.fab.reqs.filter sel
  let t : State := { s with fab := { s.fab with reqs := s.fab.reqs.filter (fun r => !sel r) } }
  gone.foldl (fun t r => t.issueNext r.port) t

/-- READ of a piece of peer memory for a packet, unless one is already on its way. -/
def State.askRead (s : State) (part pkt g n : Nat) (task : Nat := 0) (sem : Bool := false) : Except Err State :=
  if s.fab.reqs.any (fun r => decide (r.kind = 0 ∧ r.pkt = pkt ∧ r.addr = g ∧ r.len = n ∧ r.task = task)) then .ok s
  else s.request 0 pkt part g n none [n, 0] [] task (sem := sem)

/-- WRITE of bytes to peer memory for a packet. -/
def State.sendWrite (s : State) (part pkt g : Nat) (bs : List Byte) (task : Nat := 0) : Except Err State :=
  s.request 1 pkt part g bs.length none [0, 0] bs task

/-- One piece of a store. Ordinary writes into slot space (R262), to a lock word in use (R307) and to the reserved
tables (R203) fail. -/
def State.storePiece (s : State) (a : Acc) (g : Nat) (bs : List Byte) : Except Err State :=
  match s.resolve { a with tables := false } g with
  | .error e => .error e
  | .ok (.host h) => .ok (s.setHost h bs)
  | .ok (.table _) => .error (.fail stMemBounds g)
  | .ok .peer => s.sendWrite a.part a.pkt g bs a.task
  | .ok (.mem p nc) =>
    if s.inSlotSpace a.part (g % 2 ^ 48) then .error (.fail stMemBounds g)
    else if s.chanLost p then .error (.fail stMemUncorrectable (g - g % 16))
    else match (List.range bs.length).find? (fun i => (s.lockAt (p + i)).isSome) with
      | some i => .error (.fail stMemBounds (g + i))
      | none => .ok (s.lineWrite a.part a.ctx p nc bs)

/-- A store; on an error the pieces already written stand. -/
def State.store (s : State) (a : Acc) (g : Nat) (bs : List Byte) : State × Option Err :=
  (pieces g bs.length).foldl (fun (r : State × Option Err) c =>
    match r.2 with
    | some _ => r
    | none => match r.1.storePiece a c.1 ((bs.drop (c.1 - g)).take c.2) with
      | .ok t => (t, none)
      | .error e => (r.1, some e)) (s, none)

/-- R323, R324, R335: bytes written into a scratchpad, at place `p` (engine · 2²⁴ + offset). -/
def State.spWrite (s : State) (p ctx : Nat) (bs : List Byte) : State :=
  (cutWords (bs.length / 16 + 2) p bs).foldl (fun t c =>
    let t := t.formSp (c.1 / 16)
    let m := t.sp.merges c.1 c.2
    let e := c.1 / 2 ^ 24
    let addr := 2 ^ 63 + c.1 % 2 ^ 24 / 16 * 16
    let t := if m || wholeWord c.1 c.2 then t else t.spWordRead (c.1 / 16) ctx
    let t : State := { t with sp := t.sp.writeWord c.1 c.2 }
    let t := if m then t.eccEvent 3 2 0 e (syndWord markCk) addr ctx 1 else t
    records.inject t 2 e (c.1 / 16) addr ctx true) s

/-- One store of a list: to an address, or to a scratchpad. -/
def State.storeAt (s : State) (a : Acc) (g : Nat) (bs : List Byte) : State × Option Err :=
  if spAddr ≤ g then (s.spWrite (g - spAddr) a.ctx bs, none) else s.store a g bs

/-- Stores in order, up to the first that fails. -/
def State.storeAll (s : State) (a : Acc) (l : List (Nat × List Byte)) : State × Option Err :=
  l.foldl (fun (r : State × Option Err) c =>
    match r.2 with
    | some _ => r
    | none => r.1.storeAt a c.1 c.2) (s, none)

/-- The store of one byte range would be made: no error now. -/
def State.canStore (s : State) (a : Acc) (g n : Nat) : Option Err :=
  (pieces g n).findSome? (fun c =>
    match s.resolve { a with tables := false } c.1 with
    | .error e => some e
    | .ok (.table _) => some (.fail stMemBounds c.1)
    | .ok (.mem p _) =>
      if s.inSlotSpace a.part (c.1 % 2 ^ 48) then some (.fail stMemBounds c.1)
      else if s.chanLost p then some (.fail stMemUncorrectable (c.1 - c.1 % 16))
      else ((List.range c.2).find? (fun i => (s.lockAt (p + i)).isSome)).map (fun i => .fail stMemBounds (c.1 + i))
    | .ok _ => none)

/-! ### Semaphores (R49, R51) -/

/-- R51, R100: an exact INT64 add: at its home, as a remote ATOMIC, or as a FetchAdd of the host. -/
def State.addAt (s : State) (a : Acc) (g v : Nat) (drift : Option (Nat × Nat × Nat × Bool) := none) : Except Err State :=
  match s.resolve a g with
  | .error e => .error e
  | .ok (.host h) =>
    if s.noAtomics.contains (h / 8) then .error (.fail stMemBounds g)
    else .ok (s.setHost h (toLe 8 (le ((List.range 8).map (fun i => s.hostByte (h + i))) + v)))
  | .ok (.table _) => .error (.fail stMemBounds g)
  | .ok .peer => s.request 2 a.pkt a.part g 8 none [v % 2 ^ 64, 256] [] a.task drift
  | .ok (.mem p _) =>
    if s.inSlotSpace a.part (g % 2 ^ 48) || (s.lockAt p).isSome then .error (.fail stMemBounds g)
    else match (List.range 8).mapM (fun i => s.memByte (p + i)) with
      | none => .error (.fail stMemUncorrectable (g - g % 16))
      | some b => .ok ((s.noteRead a.part a.ctx (p, 8, false)).lineWrite a.part a.ctx p false (toLe 8 (le b + v)))

/-- R51: an add of 1 at a semaphore. -/
def State.signal (s : State) (a : Acc) (g : Nat) : Except Err State := s.addAt { a with host := true } g 1

/-- R328, R333: what an add that failed leaves: the word that it met. -/
def State.addTrace (s : State) (a : Acc) (g n : Nat) : State :=
  match s.resolve a g with
  | .ok (.mem p _) => if s.inSlotSpace a.part (g % 2 ^ 48) || (s.lockAt p).isSome then s else s.noteRead a.part a.ctx (p, n, false)
  | _ => s

/-- R21: 1 added to one of the module's own semaphores: what its home holds is owed; another failure leaves the word it met. -/
def State.signalQuiet (s : State) (a : Acc) (g : Nat) : State :=
  match s.signal a g with
  | .ok t => t
  | .error .held => s.owe { acc := { a with host := true }, addr := g, due := .add 1 }
  | .error _ => s.addTrace { a with host := true } g 8

/-- R21: what is owed is made good where its home takes it now, and is owed still where it does not. -/
def State.pay (s : State) (o : Owed) : State :=
  match o.due with
  | .add v => match s.addAt o.acc o.addr v with
    | .ok t => t
    | .error .held => s.owe o
    | .error _ => s.addTrace o.acc o.addr 8
  | .bytes bs =>
    if s.ringHeld o.acc.part o.addr then s.owe o
    else match o.irq with
      | some v => (records.poke s o.acc o.addr bs).irq v.1 v.2
      | none => records.poke s o.acc o.addr bs

/-- R21, R297, R312: all that is owed, oldest first. -/
def State.payOwed (s : State) : State := s.owed.foldl State.pay { s with owed := [] }

/-! ### Group messages (R344, R354) -/

/-- A message that is repeated until it is acknowledged (R354): GROUP, DEPARTING. -/
def State.message (s : State) (typ dest : Nat) (hdr : List Nat) (data : List Byte) (mseqAt : Nat) : State :=
  let m := s.fab.mseq
  let k : TxPkt := { typ, vc := 0, dest, hdr := hdr.take mseqAt ++ [m] ++ hdr.drop mseqAt, data }
  let t := { s with fab := { s.fab with mseq := (m + 1) % 2 ^ 32,
                                        unacked := s.fab.unacked ++ [(⟨dest, m, k, s.mtime⟩ : Unacked)] } }
  match t.planeFor 0 dest 0 with
  | some n => t.transmit n k
  | none => t

/-- R344: a GROUP message. -/
def State.groupMsg (s : State) (dest sub gid step attempt rank arg : Nat) (data : List Byte := []) : State :=
  s.message 0x11 dest [sub, gid, step, attempt, rank, arg] data 4

/-- A RESP (R344): reply to a request, BULK_DONE or MSG_ACK, in the name of the requester's partition (R342). It carries no address, so
it goes out on the plane of a = 0 (R350); a BULK_DONE goes out on the plane it reports (R352), and a reply goes to a module that has sent
DEPARTING too (R354). -/
def State.respond (s : State) (port dest tag status rkind value detail : Nat) (data : List Byte := []) (part : Nat := 0) : State :=
  let first := if rkind = 3 then port else match s.regionAt part 0 with
    | some r => if r.pin then r.plane else planeHash dest 0
    | none => planeHash dest 0
  match ((List.range 8).map (fun i => (first + i) % 8)).find? (fun k => s.linked dest k) with
  | some n => s.transmit n { typ := 0x10, vc := 0, dest, hdr := [tag, status, rkind, value, detail], data, part }
  | none => s

/-! ### Arrival (R343 to R347) -/

/-- A command whose packet waits in a receive buffer for its held home: the port, and what drains as a packet does (R21, R347, R348). -/
def heldPacket (i : Instr) : Option (Nat × TxPkt) :=
  let of (h : MemHdr) (vc : Nat) (d : List Byte) : Option (Nat × TxPkt) := some (h.port, { typ := 0, vc, dest := 0, part := h.part, lc := h.lc, data := d })
  match i with
  | .read h _ => of h 2 []
  | .write h d => of h 2 d
  | .atomic h _ _ _ => of h 2 []
  | .pull h _ _ => of h 2 []
  | .bulk h _ _ d => of h 3 d
  | .bcast h d => some (h.port, { typ := 0, vc := 3, dest := 0, data := d })
  | _ => none

/-- Flits of VC `v` in the receive buffers of port `n`. -/
def State.rxHeld (s : State) (n v : Nat) : Nat :=
  (((s.held.filterMap heldPacket).filter (fun e => e.1 == n && e.2.vc == v)).map (fun e => e.2.flits)).sum

/-- R346: a LINK flit leaves with what the port has to say, when that is new; `again` sends it in any case, as a NAK is. -/
def State.report (s : State) (n : Nat) (again : Bool := false) : State :=
  let p := s.port n
  let f := p.linkNow (s.rxHeld n)
  if !p.live || (!again && p.links.head? == some f) then s else s.setPort n { p with links := f :: p.links }

/-- R345: a packet of VC `v` comes off the wire of port `n`: the one expected is accepted; one with a bad word, or after a gap, is
discarded and a NAK names what is expected; after the NAK later ones are discarded, and so is one that was accepted before. One whose
header the burst queue keeps as MARK is consumed and discarded (notes/assumptions/141). Answers whether the packet goes on. -/
def State.arrive (s : State) (n : Nat) (via : Via) (v flits : Nat) : Bool × State :=
  let p := s.port n
  let ahead := (via.lseq.getD p.expect + 4096 - p.expect % 4096) % 4096
  if !p.live then (false, s)
  else if via.bad then (false, (s.setPort n { p with nakking := true }).report n true)
  else if ahead = 0 then
    let q : Port := { p with expect := (p.expect + 1) % 4096, nakking := false, got := Tbl.set 0 p.got v ((Tbl.get 0 p.got v + flits) % 2 ^ 32) }
    let (mark, t) := (s.setPort n (q.passed false flits)).burst n
    (!mark, if mark then { t with fab := { t.fab with discards := satTo (2 ^ 32 - 1) (t.fab.discards + 1) } }.report n else t)
  else if ahead < 2048 ∧ !p.nakking then (false, (s.setPort n { p with nakking := true }).report n true)
  else (false, s)

/-- What a packet does once it is accepted; then the port reports what it has received and what room it has (R346, R347). -/
def State.received (s : State) (n : Nat) (via : Via) (v flits : Nat) (act : State → State) : State :=
  match s.arrive n via v flits with
  | (true, t) => (act t).report n
  | (false, t) => t

/-- R349: within this many ns a message has its effect. -/
abbrev messageNs : Nat := 250

/-- Messages that may still be in a message queue. -/
def State.recentMsgs (s : State) : List (Nat × Nat) := s.fab.msgs.filter (fun e => decide (s.mtime < e.2 + messageNs))

/-- The message queue of the hub of port `n`, 64 KiB of a flit each, has room for sure. -/
def State.msgRoom (s : State) (n : Nat) : Bool := decide ((s.recentMsgs.filter (fun e => e.1 == n / 4)).length < 256)

/-- A message enters that queue. -/
def State.noteMsg (s : State) (n : Nat) : State := { s with fab := { s.fab with msgs := s.recentMsgs ++ [(n / 4, s.mtime)] } }

/-- R360: what a GROUP, TIME_SYNC, PORT_STATE or DEPARTING message does, unless its hub's queue is full: it is consumed and dropped then.
Whether as many messages as fill it still are in the queue, of those that came within `messageNs`, is a free choice
(notes/assumptions/72). -/
def State.queued (s : State) (n : Nat) (act : State → State) : State :=
  if s.msgRoom n then act (s.noteMsg n)
  else if s.choice 2 = 0 then act (s.drew.noteMsg n)
  else { s.drew with fab := { s.fab with drops := satTo (2 ^ 32 - 1) (s.fab.drops + 1) } }

/-- R21, R297, R312: a command whose access its home holds is kept, in order, and carried out when the hold ends. -/
def State.hold (s : State) (i : Instr) : State := { s with held := s.held ++ [i] }

end Sys2Proof.Machine
end

