-- ==== Sys2Proof/Machine/Contexts.lean ====
section
/-! DEFINITION. What packets, contexts and engines have in common: accesses in a packet's name, memory locks (R307 to
R310), faulted contexts (R209), task lists (R132 to R134), residency and slices (R201 to R217). -/

namespace Sys2Proof.Machine

/-- The accesses of a packet of queue `q`: its context's partition and range (R205). Where the context does not exist, before
CONTEXT_CREATE or after CONTEXT_DESTROY, the partition's memory is the range (notes/assumptions/126). -/
def State.accOf (s : State) (q : Nat) (k : Packet) : Acc :=
  let c := s.ctx k.ctx
  let whole := decide (c.state = .free)
  { part := s.partOf q, lo := if whole then 0 else c.memBase, hi := if whole then s.memBytes (s.partOf q) else c.memLimit,
    ctx := k.ctx, pkt := k.id }

/-- The accesses that the module makes for context `c` of its own accord (R205). -/
def State.ctxAcc (s : State) (c : Nat) : Acc :=
  let x := s.ctx c
  { part := x.part, lo := x.memBase, hi := x.memLimit, ctx := c, host := true }

/-- The accesses of one of its tasks. -/
def State.taskAcc (s : State) (q : Nat) (k : Packet) (i : Nat) : Acc := { s.accOf q k with task := i + 1 }

/-- Two ranges (address, length) meet. -/
def rangesMeet (x y : Nat × Nat) : Bool := decide (x.1 < y.1 + y.2 ∧ y.1 < x.1 + x.2)

/-- Ranges in ascending order, those that touch taken together. -/
def mergeRanges (l : List (Nat × Nat)) : List (Nat × Nat) :=
  (sortBy (fun x y => decide (x.1 ≤ y.1)) l).foldr (fun e acc => match acc with
    | (b, n) :: r => if b ≤ e.1 + e.2 then (e.1, max e.2 (b + n - e.1)) :: r else e :: acc
    | [] => [e]) []

/-- R160: the tasks that a chain of DEPs from `dep` on puts before a task of the list. -/
def ListRun.depsFrom (r : ListRun) : Nat → Nat → List Nat
  | 0, _ => []
  | f + 1, dep => dep :: (match r.wrote.find? (fun e => e.1 == dep) with
    | some e => r.depsFrom f e.2.1
    | none => [])

/-- R125, R160: the ranges that completed tasks have written which neither a BARRIER nor a DEP puts before the list's next task `d`, nor
the order of packets. -/
def State.foesOf (s : State) (k : Packet) (d : List Byte) : List (Nat × Nat) :=
  let r := k.run
  let deps := r.depsFrom (r.wrote.length + 1) (field d 10 2)
  let own := if (field d 1 1).testBit 0 then [] else r.wrote.filter (fun e => decide (r.fence ≤ e.1) && !deps.contains e.1)
  let others := s.allPkts.flatMap (fun x => if x.2.id = k.id ∨ x.2.phase = .fetched then [] else x.2.run.wrote)
  (own ++ others).flatMap (·.2.2) ++ r.foes

/-- R125, R160: bytes that another agent has written while tasks and instructions run. -/
def State.otherWrite (s : State) (g n : Nat) : State :=
  if s.items.isEmpty then s
  else { s with items := s.items.map (fun x => if x.done then x else { x with rivals := (g, n) :: x.rivals }) }

/-- R125, R160: the ranges that items which run at the same time as a task have written: no BARRIER, DEP or packet order puts them
before or after it. -/
def State.rivalsOf (s : State) (a : Acc) : List (Nat × Nat) :=
  let mine (t : Item) : Bool := t.pkt == a.pkt && t.idx + 1 == a.task
  if a.task = 0 then []
  else ((s.items.filter mine).flatMap (·.rivals)) ++ (s.items.filter (fun t => !mine t)).flatMap (·.wrote)

/-! ### Reset event records and core retirement (R437, R440) -/

/-- R440: a record of the reset event ring; `dur` in µs. -/
def State.rstEvent (s : State) (kind dom cause index ctx dur detail : Nat) : State :=
  let bytes := toLe 8 s.mtime ++ toLe 1 kind ++ toLe 1 dom ++ toLe 1 cause ++ [0#8] ++ toLe 2 index ++ toLe 2 0
    ++ toLe 4 ctx ++ toLe 4 dur ++ toLe 8 detail
  if s.ctrl.ring.closed then s
  else records.put { s with ctrl := { s.ctrl with ring := s.ctrl.ring.next } } s.ctrl.ring bytes

/-- R437: a core leaves service for good; the lowest-numbered spare of its engine takes its place. -/
def State.retireCore (s : State) (n : Nat) : State :=
  let c := s.core n
  if c.kind ≠ .enabled then s
  else
    let t := (s.setCore n { c with kind := .retired, wanted := false }).rstEvent 8 0xFF 0 n 0xFFFFFFFF 0 0
    match (List.range 128).find? (fun i => decide ((t.core (n / 128 * 128 + i)).kind = .spare)) with
    | some i =>
      let m := n / 128 * 128 + i
      (t.setCore m { t.core m with kind := .enabled }).rstEvent 9 0xFF 0 m 0xFFFFFFFF 0 0
    | none => t

/-! ### Acting on a started packet -/

/-- R63: no management command that started earlier is still being executed. -/
def State.mgmtTurn (s : State) (k : Packet) : Bool :=
  !s.allPkts.any (fun r => decide (r.2.opcode / 256 = 7) && r.2.phase == .started && decide (r.2.startSeq < k.startSeq))

/-- R45, R63: the started packets that unit `u` may serve next; of the management commands it is the one that started first. -/
def State.waitAt (s : State) (u : Nat) : List (Nat × Packet) :=
  s.allPkts.filter (fun r => r.2.phase == .started && r.2.unit == u && (r.2.opcode / 256 != 7 || s.mgmtTurn r.2))

/-- R64: the stack controllers together, which SCRUB_CTRL and BUCKET_DEFINE need; stack controller k is unit k + 1. -/
abbrev allStacks : Nat := 17

/-- R45: how many queues of a level come before queue `q` in the round robin of unit `u`. -/
def State.unitTurn (s : State) (u q prio : Nat) : Nat := (q + 4096 - Tbl.get 0 s.unitLast (4 * u + prio % 4) % 4096) % 4096

/-- R45: packet `r` of queue `rq` is served by unit `u` before packet `k` of queue `q`. -/
def State.servedBefore (s : State) (u rq : Nat) (r : Packet) (q : Nat) (k : Packet) : Bool :=
  decide (k.prio < r.prio ∨ (k.prio = r.prio ∧ (s.unitTurn u rq r.prio < s.unitTurn u q k.prio
    ∨ (rq = q ∧ r.startSeq < k.startSeq))))

/-- R45: among the packets that wait for unit `u` none comes before `k` there. -/
def State.firstAt (s : State) (u q : Nat) (k : Packet) : Bool :=
  !(s.waitAt u).any (fun r => r.2.id != k.id && s.servedBefore u r.1 r.2 q k)

/-- R45: no other packet that waits for its unit comes before it. A stack controller also serves, among its own packets, the packet
that is next at the stack controllers together, and that packet waits for all of them. -/
def State.atTurn (s : State) (q : Nat) (k : Packet) : Bool :=
  k.unit == 0 || (s.firstAt k.unit q k
    && (k.unit != allStacks || (List.range 16).all (fun u => s.firstAt (u + 1) q k))
    && (decide (allStacks ≤ k.unit) || !(s.waitAt allStacks).any (fun r =>
      s.firstAt allStacks r.1 r.2 && s.servedBefore k.unit r.1 r.2 q k)))

/-- R45: its unit, or each of the stack controllers, takes the packet, and its queue has had its turn. -/
def State.turned (s : State) (q : Nat) (k : Packet) : State :=
  if k.unit = 0 then s
  else
    let us := if k.unit = allStacks then List.range 18 else [k.unit]
    ({ s with unitLast := us.foldl (fun t u => Tbl.set 0 t (4 * u + k.prio % 4) (q + 1)) s.unitLast } : State).modPkt k.id (fun p => { p with unit := 0 })

/-- The started, unfinished packet `p` with opcode `op`, and its queue, when it is its turn at its unit. -/
def State.started (s : State) (p op : Nat) : Option (Nat × Packet) :=
  match s.pkt p with
  | some (q, k) => if k.phase = .started ∧ k.opcode = op ∧ k.waiting = false ∧ s.atTurn q k then some (q, k) else none
  | none => none

/-- A packet's row found an access that its home holds. -/
def State.waitHeld (s : State) (p : Nat) : State := s.modPkt p (fun k => { k with waits := true })

/-- A packet waits for its end: it has taken effect in part. -/
def State.wait (s : State) (p : Nat) : State := s.modPkt p (fun k => { k with waiting := true })

/-- How a packet ends on an error: it fails (DETAIL under R65), stays where it is, or asks a peer for data. -/
def State.onErr (s : State) (q : Nat) (k : Packet) (e : Err) : State :=
  match e with
  | .fail st d => s.finish k.id st (some d)
  | .held => s.waitHeld k.id
  | .remote g n => match s.askRead (s.partOf q) k.id g n with
    | .ok t => t
    | .error (.fail st d) => s.finish k.id st (some d)
    | .error _ => s

/-- BAD_PARAM at a parameter-block offset (R56). -/
def badParam (off : Nat) : Option (Nat × Nat) := some (stBadParam, 2 ^ 16 + off)

/-- The first failing check of a list: status and DETAIL. -/
def firstBad : List (Bool × Option (Nat × Nat)) → Option (Nat × Nat)
  | [] => none
  | (ok, e) :: r => if ok then firstBad r else e

/-! ### Locks (R307 to R310) -/

/-- An entry with no holder, no waiter and BROKEN clear is freed; the word then reads as zero. -/
def State.tidyLocks (s : State) : State :=
  let gone := s.locks.filter (fun l => l.holder.isNone && !l.broken && l.waiters.isEmpty)
  gone.foldl (fun t l => (t.touchUnit l.addr).putWord l.addr (toLe 8 0))
    { s with locks := s.locks.filter (fun l => !(l.holder.isNone && !l.broken && l.waiters.isEmpty)) }

/-- R309: the first waiter takes a lock that no one holds: LOCK_BROKEN where BROKEN was set, which it clears. -/
def State.passLock (s : State) (addr : Nat) : State :=
  match s.locks.find? (fun l => l.addr == addr) with
  | none => s
  | some l => match l.holder, l.waiters with
    | none, (p, e, c) :: r =>
      let l' : Lock := { l with holder := some (e, c), broken := false, waiters := r }
      let t : State := { s with locks := s.locks.map (fun x => if x.addr == addr then l' else x) }
      t.finish p (if l.broken then stLockBroken else stOk) none
    | _, _ => s

/-- R310: waiters of the revoked party leave with LOCK_WAIT_REMOVED; its locks are broken and pass on. A party is
given by an engine and a context test. -/
def State.revoke (s : State) (party : Nat × Nat → Bool) : State :=
  let leaving := s.locks.flatMap (fun l => l.waiters.filter (fun w => party w.2))
  let t : State := { s with locks := s.locks.map (fun l => { l with waiters := l.waiters.filter (fun w => !party w.2) }) }
  let t := leaving.foldl (fun t w => t.finish w.1 stLockWaitRemoved none) t
  let broken := t.locks.filter (fun l => match l.holder with
    | some h => party h
    | none => false)
  let t : State := { t with locks := t.locks.map (fun l => match l.holder with
    | some h => if party h then { l with holder := none, broken := true } else l
    | none => l) }
  (broken.foldl (fun t l => t.passLock l.addr) t).tidyLocks

/-! ### Task lists -/

abbrev opTasklist : Nat := 0x0201

/-- A list that dispatches: started, begun, not failed and not stopped. -/
def Packet.openList (k : Packet) : Bool :=
  k.opcode == opTasklist && k.phase == .started && k.run.begun && k.run.failed.isNone && k.run.stop.isNone
    && decide (k.run.next < k.run.count)

/-- Tasks and instructions of a packet that run. -/
def State.itemsOf (s : State) (p : Nat) : List Item := s.items.filter (fun i => i.pkt == p)

/-- Task `i` of packet `p`. -/
def State.item (s : State) (p i : Nat) : Option Item := s.items.find? (fun t => t.pkt == p && t.idx == i)

def State.modItem (s : State) (p i : Nat) (f : Item → Item) : State :=
  { s with items := s.items.map (fun t => if t.pkt = p ∧ t.idx = i then f t else t) }

/-- R132: a descriptor of the list. -/
def State.descriptor (s : State) (q : Nat) (k : Packet) (i : Nat) : Except Err (List Byte) :=
  ((load s (s.accOf q k) (k.run.addr + 128 * i) 128).run.run []).1

/-- R132, R329: what the reading of a descriptor leaves. -/
def State.descriptorRead (s : State) (q : Nat) (k : Packet) (i : Nat) : State :=
  (s.reading (s.accOf q k) (load s (s.accOf q k) (k.run.addr + 128 * i) 128)).2

/-- R132: the task's BARRIER and DEP are met: completed tasks are those dispatched that no longer run. -/
def State.depMet (s : State) (k : Packet) (d : List Byte) : Bool :=
  let live := s.itemsOf k.id
  let dep := field d 10 2
  (!(fld (field d 1 1) 0 1 == 1) || live.isEmpty)
    && (dep == 0xFFFF || decide (dep < k.run.next) && !live.any (fun t => t.idx == dep))

/-- R57, R132, R143, R199: a list whose next task cannot be dispatched for a fault of its descriptor, under the context's engine mask
and numerics policy. -/
def badNext (mask policy : Nat) (k : Packet) (d : List Byte) : Bool :=
  kindOf d == .bad || (match kindOf d with
    | .vector (some e) => !mask.testBit e
    | _ => false) || (field d 10 2 != 0xFFFF && decide (k.run.next ≤ field d 10 2)) || !descOk policy d

/-! ### Engine states (R210) -/

/-- Engine `e` is in an engine reset, or its die or the module in theirs. -/
def State.engineReset (s : State) (e : Nat) : Bool :=
  s.ctrl.resets.any (fun r => decide ((r.dom = 0 ∧ r.idx = e) ∨ (r.dom = 2 ∧ r.idx = e / 10) ∨ r.dom = 4))

/-- Whether engine `e` may dispatch at all: fitted, in service, its die neither stopped nor in reset nor under a stack in
protective self-refresh (R312, R457), the power state ACTIVE with no transition under way (R450, R452). -/
def State.engineUp (s : State) (e : Nat) : Bool :=
  decide (e < s.order.engines) && !s.dieStopped (e / 10) && s.power.st == .active && s.power.target.isNone
    && !s.engineReset e

/-- R434: an engine in reset or in replay takes no new work. -/
def State.mayServe (s : State) (e : Nat) : Bool :=
  let g := s.engine e
  s.engineUp e && (match g.mode with
    | .service => true
    | _ => false)

/-- The next item's descriptor of a list, where it can be read and may run on engine `e` (R210). -/
def State.nextOn (s : State) (e q : Nat) (k : Packet) : Option (List Byte) :=
  if k.openList && (s.ctx k.ctx).engines.testBit e then
    match s.descriptor q k k.run.next with
    | .error _ => none
    | .ok d => match kindOf d with
      | .core => some d
      | .vector none => some d
      | .vector (some sp) => if sp = e then some d else none
      | .bad => none
  else none

/-- R210: context `c` has work for engine `e`. -/
def State.hasWork (s : State) (e c : Nat) : Bool :=
  s.allPkts.any (fun r => r.2.ctx == c && (s.nextOn e r.1 r.2).isSome)

/-- R210: an item of its work for `e` can be dispatched, its dependencies being met (notes/assumptions/14). -/
def State.runnable (s : State) (e c : Nat) : Bool :=
  decide ((s.ctx c).state = .active) && s.mayServe e
    && s.allPkts.any (fun r => r.2.ctx == c && (match s.nextOn e r.1 r.2 with
      | some d => s.depMet r.2 d
      | none => false))

/-- A task or instruction of the context runs on the engine. -/
def State.runsOn (s : State) (e c : Nat) : Bool := s.items.any (fun i => i.eng == e && i.ctx == c)

/-- The slot of engine `g` that holds context `c`. -/
def Engine.slotOf (g : Engine) (c : Nat) : Option Nat :=
  g.used.find? (fun k => (Tbl.get ({} : Slot) g.slots k).ctx == c)

def Engine.slot (g : Engine) (k : Nat) : Slot := Tbl.get {} g.slots k
def Engine.setSlot (g : Engine) (k : Nat) (v : Slot) : Engine := { g with slots := Tbl.set {} g.slots k v }

/-- A slot released: its scheduling state is dropped (R215). -/
def Engine.release (g : Engine) (k : Nat) : Engine :=
  { g with used := g.used.filter (· != k), slots := Tbl.set {} g.slots k {}, nextUp := g.nextUp.filter (fun e => e.2 != k + 1),
           holder := if g.holder = some k then none else g.holder }

/-- Slot numbers of a level have this last holder (R212). -/
def Engine.passed (g : Engine) (level k : Nat) : Engine := { g with lastSlot := Tbl.set 0 g.lastSlot level (k + 1) }

/-- R211: contexts with open lists that have the engine in their mask. -/
def State.listCtxs (s : State) : List Nat :=
  (s.allPkts.filter (fun r => r.2.openList)).map (fun r => r.2.ctx) |>.eraseDups

/-- R209 to R213 on one engine: slots of contexts that are no longer ACTIVE and run nothing here are released; the times of
becoming IDLE or BLOCKED are kept; the holder yields or is preempted; contexts with work and no slot wait for one. -/
def State.refreshEngine (s : State) (e : Nat) : State :=
  let g := s.engine e
  let g := g.used.foldl (fun g k =>
    let c := (g.slot k).ctx
    if (s.ctx c).state ≠ .active ∧ !s.runsOn e c then
      (if g.holder = some k then g.passed (s.ctx c).level k else g).release k
    else g) g
  let g := g.used.foldl (fun g k =>
    let v := g.slot k
    let work := s.hasWork e v.ctx
    let blocked := work && !s.runnable e v.ctx && !s.runsOn e v.ctx
    let keep (old : Option Nat) (now : Bool) : Option Nat :=
      if now then some (old.getD s.mtime) else none
    g.setSlot k { v with blockedAt := keep v.blockedAt blocked, idleSince := keep v.idleSince !work }) g
  let g := match g.holder with
    | none => g
    | some k =>
      let c := (g.slot k).ctx
      let level := (s.ctx c).level
      if !s.runnable e c then { g.passed level k with holder := none }
      else if g.used.any (fun j => decide (level < (s.ctx (g.slot j).ctx).level) && s.runnable e (g.slot j).ctx) then
        { g.passed level k with holder := none, nextUp := Tbl.set 0 g.nextUp level (k + 1) }
      else g
  let want := (s.listCtxs.filter (fun c => (g.slotOf c).isNone && decide ((s.ctx c).state = .active) && s.hasWork e c))
  let waiters := g.waiters.filter (fun w => want.contains w.1)
  let waiters := want.foldl (fun w c => if w.any (fun x => x.1 == c) then w else w ++ [(c, s.mtime)]) waiters
  s.setEngine e { g with waiters }

/-- The engines that any of this concerns. -/
def State.busyEngines (s : State) : List Nat :=
  let lists := s.listCtxs.map (fun c => (s.ctx c).engines)
  (List.range s.order.engines).filter (fun e =>
    decide (s.engine e ≠ {}) || lists.any (fun m => m.testBit e))

/-- R209 to R213 on every engine. -/
def State.refresh (s : State) : State := s.busyEngines.foldl State.refreshEngine s

/-! ### Dispatch (R132, R158, R181, R202, R214, R216) -/

/-- R158: the lowest-numbered idle enabled core of engine `e`. -/
def State.idleCore (s : State) (e : Nat) : Option Nat :=
  (List.range 128).find? (fun c => decide ((s.core (128 * e + c)).kind = .enabled)
    && !(s.core (128 * e + c)).wanted
    && !s.items.any (fun i => i.eng == e && i.site == .core c))

/-- R181: whether engine `e`'s vector engine is idle. -/
def State.vectorIdle (s : State) (e : Nat) : Bool := !s.items.any (fun i => i.eng == e && i.site == .vector)

/-- R216: the open lists of a context, higher PRIO first, then in order of starting. -/
def State.listsOf (s : State) (c : Nat) : List (Nat × Packet) :=
  sortBy (fun a b => decide (b.2.prio < a.2.prio ∨ (a.2.prio = b.2.prio ∧ a.2.startSeq ≤ b.2.startSeq)))
    (s.allPkts.filter (fun r => r.2.ctx == c && r.2.openList))

/-- Where a list's next item would go on engine `e`, if it can be dispatched there now. -/
def State.siteFor (s : State) (e q : Nat) (k : Packet) : Option Site :=
  match s.nextOn e q k with
  | none => none
  | some d =>
    if badNext (s.ctx k.ctx).engines (s.ctx k.ctx).policy k d || !s.depMet k d then none
    else match kindOf d with
      | .core => (s.idleCore e).map .core
      | .vector _ => if s.vectorIdle e then some .vector else none
      | .bad => none

/-- The next task of a list as it is dispatched for the slice holder of engine `e`. -/
def State.newItem (s : State) (q : Nat) (k : Packet) (c e : Nat) (site : Site) : Item :=
  { pkt := k.id, idx := k.run.next, ctx := c, eng := e, site, sliceEnd := (s.engine e).sliceEnd, slice := (s.engine e).slice,
    desc := (s.descriptor q k k.run.next).toOption.getD [], policy := (s.ctx c).policy,
    rivals := s.foesOf k ((s.descriptor q k k.run.next).toOption.getD []) }

/-- A started packet holds the stream mover of engine `e`. -/
def State.moverHeld (s : State) (e : Nat) : Bool := s.allPkts.any (fun r => r.2.phase == .started && r.2.mover == some e)

/-- One item placed on engine `e` for its slice holder, if one can be. -/
def State.dispatchOn (s : State) (e : Nat) : Option State :=
  let g := s.engine e
  match g.holder with
  | none => none
  | some k =>
    let c := (g.slot k).ctx
    if !s.mayServe e || decide (g.sliceEnd ≤ s.mtime) || decide ((s.ctx c).state ≠ .active) then none
    else (s.listsOf c).findSome? (fun r => (s.siteFor e r.1 r.2).map (fun site =>
      let t := if s.items.any (fun i => i.eng == e) || s.moverHeld e then s else s.setEngine e { g with heldSince := s.mtime }
      let t : State := { t with items := t.items ++ [s.newItem r.1 r.2 c e site] }
      (t.descriptorRead r.1 r.2 r.2.run.next).modRun r.2.id (fun u =>
        { u with next := u.next + 1, fence := if (field (s.newItem r.1 r.2 c e site).desc 1 1).testBit 0 then u.next else u.fence })))

/-- Items are placed, engines in ascending order, as long as one can be. -/
def State.dispatchFuel : Nat → State → State
  | 0, s => s
  | f + 1, s => match s.busyEngines.findSome? (fun e => s.dispatchOn e) with
    | some t => State.dispatchFuel f t
    | none => s

/-- R201: at most 128 cores and one vector engine on each of 80 engines can take an item. -/
def State.dispatch (s : State) : State := State.dispatchFuel 10320 s

/-! ### Failing and ending lists (R133, R134, R209) -/

/-- R134: the failing task with the lowest index. -/
def ListRun.fail (r : ListRun) (i st d : Nat) : ListRun :=
  match r.failed with
  | some (j, _, _) => if i < j then { r with failed := some (i, st, d) } else r
  | none => { r with failed := some (i, st, d) }

/-- Lists with items left to dispatch stop dispatching with a status (R209). -/
def State.stopLists (s : State) (sel : Packet → Bool) (st : Nat) (d : Option Nat) : State :=
  { s with queues := s.queues.map (fun e => (e.1, { e.2 with pkts := e.2.pkts.map (fun k =>
      if k.opcode == opTasklist && k.phase == .started && k.run.stop.isNone && !(k.run.begun && k.run.next == k.run.count) && sel k
      then { k with run := { k.run with stop := some (st, d.getD 0) } } else k) })) }

/-- R363: the feed of a context is closed as FEED_CLOSE with DISCARD would close it. -/
def State.dropFeeds (s : State) (c : Nat) : State :=
  let mine (f : Nat × Feed) : Bool := f.2.st != .closed && f.2.ctx == c
  let t : State := { s with feeds := s.feeds.filter (fun f => !mine f) }
  (s.feeds.filter mine).foldl (fun t f => match f.2.closePkt with
    | some p => t.finish p stOk none
    | none => t) t

/-- R209: a context enters FAULTED or QUARANTINED: its locks are revoked (R310), its lists dispatch no more, and its
packets that wait for a stream mover end.
A context that is not ACTIVE stays as it is. -/
def State.faultCtx (s : State) (c : Nat) (how : CtxState) (st d : Nat) : State :=
  if (s.ctx c).state ≠ .active then s
  else
    let t := s.setCtx c { s.ctx c with state := how, fStatus := st, fDetail := d }
    let t := (t.revoke (fun h => h.2 == c)).dropFeeds c
    let st := if how = .quarantined then stQuarantined else stContextFaulted
    let t := (t.allPkts.filter (fun r => r.2.ctx == c && decide (0x0101 ≤ r.2.opcode ∧ r.2.opcode ≤ 0x0104) && r.2.phase == .started
      && r.2.mover.isNone)).foldl (fun t r => t.finish r.2.id st none) t
    t.stopLists (fun k => k.ctx == c) st none

/-- R328: a reader that met uncorrectable data faults its context; context 0 is never faulted so. -/
def State.faultData (s : State) (c d : Nat) : State :=
  if c = 0 then s else s.faultCtx c .faulted stMemUncorrectable d

/-- R133, R134, R122, R238: the end of a list none of whose items runs any more. -/
def listEnd (k : Packet) : Option (Nat × Option Nat) :=
  match k.run.failed with
  | some (_, st, d) => some (st, some d)
  | none => match k.run.stop with
    | some (st, _) => some (st, none)
    | none =>
      if k.run.next = k.run.count then
        some (if k.run.aborted then stStepAborted else if k.run.drift then 0x64 else okStatus k.run.marks.counts, none)
      else none

/-- R122: the semaphores of a list's drift events are added to once all its writes stand. -/
def State.driftSignals (s : State) (q : Nat) (k : Packet) : State :=
  k.run.drifts.foldl (fun t g => t.signalQuiet (t.accOf q k) g) s

/-- Every list that has ended finishes (R133, R134, R209); one that a reset interrupted waits for its test (R435). -/
def State.endLists (s : State) : State :=
  let ended := s.allPkts.filter (fun r => r.2.opcode == opTasklist && r.2.phase == .started && r.2.run.begun
    && (s.itemsOf r.2.id).isEmpty && (listEnd r.2).isSome && !s.engines.any (fun g => g.2.cut.contains r.2.id))
  ended.foldl (fun t r => match listEnd r.2 with
    | some (st, d) => (t.driftSignals r.1 r.2).finish r.2.id st d r.2.run.marks.counts
    | none => t) s

/-- A list whose next descriptor cannot be read or is invalid fails at that index (R57, R134). -/
def State.failNext (s : State) : State :=
  s.allPkts.foldl (fun t r =>
    if !r.2.openList then t
    else
      let i := r.2.run.next
      match s.descriptor r.1 r.2 i with
      | .ok d => if badNext (s.ctx r.2.ctx).engines (s.ctx r.2.ctx).policy r.2 d then
          (t.descriptorRead r.1 r.2 i).modRun r.2.id (·.fail i stBadDescriptor i) else t
      | .error (.fail st d) =>
        let t := (t.descriptorRead r.1 r.2 i).modRun r.2.id (·.fail i st d)
        if st = stMemUncorrectable then t.faultData r.2.ctx d else t
      | .error .held => t
      | .error (.remote g n) => match t.askRead (t.partOf r.1) r.2.id g n with
        | .ok t => t
        | .error (.fail st d) => t.modRun r.2.id (·.fail i st d)
        | .error _ => t) s

/-- What follows any change of work: invalid lists fail, the engines' states move, items are dispatched, lists end. -/
def State.settle (s : State) : State := s.failNext.refresh.dispatch.failNext.refresh.endLists

end Sys2Proof.Machine
end

