-- ==== Sys2Proof/Machine/Movers.lean ====
section
/-! DEFINITION. Stream movers (R302) and what runs on them of its own accord: bulk pushes, and the automatic spills and fetches of
activations (R240 to R247, R352). -/

namespace Sys2Proof.Machine

/-- A step is open (R95, R228). -/
def StepState.isOpen (x : StepState) : Bool := x == .fill || x == .drain || x == .exchange

/-! ### Stream movers (R302) -/

/-- Opcodes that a stream mover executes (R64). -/
def isMover (op : Nat) : Bool := decide (0x0101 ≤ op ∧ op ≤ 0x0104)

/-- R92, R228: the engine whose sequencer keeps a context's step and executes its COUNTERS_READ: the lowest-numbered of its mask; of an
empty mask none, and the module controller does. -/
def State.stepEngine (s : State) (c : Nat) : Option Nat := (bitsOf s.order.engines (s.ctx c).engines).head?

/-- R434: the step sequencer of the context works: its engine is neither in reset nor in replay. -/
def State.stepServes (s : State) (c : Nat) : Bool :=
  (s.stepEngine c).all (fun e => (s.engine e).mode == .service && !s.engineReset e)

/-- R244: an automatic transfer runs on the stream mover of engine `e`. -/
def State.xferOn (s : State) (e : Nat) : Bool := s.ctxs.any (fun c => c.2.xfer.isSome && s.stepEngine c.1 == some e)

/-- R244: an automatic transfer waits for the stream mover of engine `e`. -/
def State.xferWaits (s : State) (e : Nat) : Bool :=
  s.ctxs.any (fun c => c.2.xfer.isNone && c.2.stepState.isOpen && !(c.2.spillQ.isEmpty && c.2.fetchQ.isEmpty)
    && s.stepEngine c.1 == some e)

/-- The stream mover of engine `e` is idle, and its engine takes new work (R434). -/
def State.moverIdle (s : State) (e : Nat) : Bool :=
  !s.moverHeld e && !s.xferOn e && (s.engine e).mode == .service
    && !s.ctrl.resets.any (fun r => decide ((r.dom = 0 ∧ r.idx = e) ∨ (r.dom = 2 ∧ r.idx = e / 10)))

/-- A started packet waits for the stream mover of engine `e`, among others of its context's mask. -/
def State.waitsMover (s : State) (e : Nat) (k : Packet) : Bool :=
  isMover k.opcode && k.phase == .started && k.mover.isNone && (s.ctx k.ctx).engines.testBit e

/-- R45: how far queue `q` is from its turn at engine `e`'s stream mover among the queues of a PRIO. -/
def State.moverTurn (s : State) (e q prio : Nat) : Nat := (q + 4096 - Tbl.get 0 s.moverLast (4 * e + prio % 4)) % 4096

/-- R302: the lowest-numbered stream mover of the context's mask that is idle and for which no started packet waits. -/
def State.freeMover (s : State) (k : Packet) : Option Nat :=
  (bitsOf s.order.engines (s.ctx k.ctx).engines).find? (fun e =>
    s.moverIdle e && !(s.xferWaits e && k.prio == 0) && !s.allPkts.any (fun r => s.waitsMover e r.2))

/-- R302, R45: the stream mover that the packet holds, or, while it waits, the lowest-numbered idle one of its context's mask for which
no packet of higher PRIO waits, nor an automatic transfer, which has PRIO 1 (R244), and none of its own PRIO whose queue comes earlier
in turn. -/
def State.takeMover (s : State) (k : Packet) : Option Nat :=
  if k.mover.isSome then k.mover
  else
    let q := ((s.pkt k.id).map Prod.fst).getD 0
    (bitsOf s.order.engines (s.ctx k.ctx).engines).find? (fun e =>
      s.moverIdle e && !(s.xferWaits e && k.prio == 0) && !s.allPkts.any (fun r => s.waitsMover e r.2 && r.2.id != k.id && decide (k.prio < r.2.prio ∨ (k.prio = r.2.prio ∧
        (s.moverTurn e r.1 k.prio < s.moverTurn e q k.prio ∨ (r.1 = q ∧ r.2.startSeq < k.startSeq))))))

/-- The packet of queue `q` takes the stream mover of engine `e`, and its queue has had its turn. An engine that held no work holds it
from now on (R424). -/
def State.giveMover (s : State) (q : Nat) (k : Packet) (e : Nat) : State :=
  if k.mover.isSome then s
  else
    let t := if s.items.any (fun i => i.eng == e) || s.moverHeld e then s
      else s.setEngine e { s.engine e with heldSince := s.mtime }
    ({ t with moverLast := Tbl.set 0 t.moverLast (4 * e + k.prio % 4) (q + 1) } : State).modPkt k.id (fun p => { p with mover := some e })

/-- Bytes that a stream mover's packet moves. -/
def moverBytes (k : Packet) : Nat :=
  match k.opcode with
  | 0x0101 => field k.params 16 8
  | 0x0102 => field k.params 8 8
  | _ => field k.params 16 4

/-- R424: the stream mover of engine `e` has moved `n` bytes; every 64 KiB are progress. -/
def State.moverProgress (s : State) (e n : Nat) : State :=
  let g := s.engine e
  let m := g.moved + n
  if m < 65536 then s.setEngine e { g with moved := m }
  else s.setEngine e { g with moved := m % 65536, progress := g.progress + m / 65536, heldSince := s.mtime }

/-- Whether a host port carries traffic. -/
def State.hostUp (s : State) (port : Nat) : Bool :=
  (if port = 0 then s.ctrl.link0 else s.ctrl.link1) && !s.ctrl.resets.any (fun r => decide (r.dom = 3 ∧ r.idx = port))

/-- R36: a host port that serves queue `q`'s memory in the host: its home hub's, or the other while that hub is reset. -/
def State.hostPath (s : State) (q : Nat) : Bool :=
  s.hostUp (q % 2) || (s.ctrl.resets.any (fun r => decide (r.dom = 3 ∧ r.idx = q % 2)) && s.hostUp ((q + 1) % 2))

/-- Whether an address names host memory. -/
def isHost (g : Nat) : Bool := decide (g >>> 48 = 0xFFFF)

/-- Whether an address names a peer module. -/
def State.isPeer (s : State) (g : Nat) : Bool :=
  decide (g >>> 48 < 0xFFF0) && decide (g >>> 48 ≠ s.fab.moduleId) && decide (g % 2 ^ 48 < 2 ^ 41)

/-! ### Bulk pushes (R352) -/

/-- R352: the BULK packets of one run of bytes at a peer, in packets of 16,352 bytes within 64 KiB units. -/
def bulkCuts : Nat → Nat → List Byte → List (Nat × List Byte)
  | 0, _, _ => []
  | f + 1, off, bs =>
    if bs.isEmpty then [] else
    let unitLeft := 65536 - off % 65536
    let unit := bs.take unitLeft
    let rec cut : Nat → Nat → List Byte → List (Nat × List Byte)
      | 0, _, _ => []
      | g + 1, o, b => if b.isEmpty then [] else (o, b.take 16352) :: cut g (o + 16352) (b.drop 16352)
    cut 5 off unit ++ bulkCuts f (off + unitLeft) (bs.drop unitLeft)

/-- R352: bytes pushed to a peer as BULK, LAST on each plane; the planes used, or why not. -/
def State.sendBulk (s : State) (part tag g : Nat) (bs : List Byte) : Except Err (State × List Nat) :=
  let d := g >>> 48
  let cuts := bulkCuts (bs.length / 65536 + 2) (g % 2 ^ 48) bs
  let placed := cuts.map (fun c => (s.planeFor part d c.1, c))
  if placed.any (fun c => c.1.isNone) then .error (unreachable g)
  else
    let l := placed.map (fun c => (c.1.getD 0, c.2))
    let planes := (l.map Prod.fst).eraseDups
    let t := (List.range l.length).foldl (fun t i =>
      match l[i]? with
      | none => t
      | some (k, off, b) =>
        let last := !(l.drop (i + 1)).any (fun c => c.1 == k)
        let n := ((l.take (i + 1)).filter (fun c => c.1 == k)).length
        t.transmit k { typ := 0x0C, vc := 3, dest := d, hdr := [tag, off, if last then n else 0], data := b, part, last }) s
    .ok (t, planes)

/-! ### The module's own reads -/

/-- A number that the module itself reads, and what the read leaves (R329, R333). -/
def State.readNat (s : State) (a : Acc) (g n : Nat) : Except Err Nat × State := s.reading a (loadNat s a g n)

/-- R51: 1 added to a semaphore of the module's own records. -/
def State.bump (s : State) (a : Acc) (g : Nat) : State := if g = 0 then s else s.signalQuiet a g

/-! ### The activation block (R240 to R242) -/

def actOf (addr : Nat) (b : List Byte) : Act :=
  { addr, nent := field b 0 4, auto := (field b 4 1).testBit 0, kmin := field b 5 1, kmax := field b 6 1, kcur := field b 7 1,
    entA := field b 8 8, mbA := field b 16 8, bw := field b 24 4, tbwd := field b 28 4, fails := field b 32 4 }

/-- R240: what the block must meet. -/
def actOk (b : List Byte) : Bool :=
  decide (field b 0 4 ≤ 65536) && decide (field b 4 1 < 2) && decide (field b 5 1 ≤ 63)
    && decide (field b 5 1 ≤ field b 6 1 ∧ field b 6 1 ≤ 63) && decide (field b 8 8 % 32 = 0) && decide (field b 16 8 % 32 = 0)
    && zeroAt b 36 28

def entOf (b : List Byte) : Ent :=
  { home := field b 0 8, spill := field b 8 8, bytes := field b 16 4, mb := field b 20 2, cls := field b 22 1,
    port := field b 23 1 % 2, st := field b 24 1 }

/-- R241: what an entry must meet. -/
def State.entOk (s : State) (nmb : Nat) (b : List Byte) : Bool :=
  let e := entOf b
  decide (e.home % 256 = 0 ∧ e.home >>> 48 = s.fab.moduleId) && decide (e.cls ≤ 3) && decide (e.spill % 256 = 0)
    && (match e.cls with
      | 1 => isHost e.spill
      | 2 => s.isPeer e.spill
      | _ => decide (e.spill = 0))
    && decide (e.bytes ≠ 0 ∧ e.bytes % 256 = 0) && decide (e.mb < nmb) && decide (field b 23 1 < 2) && zeroAt b 25 7

/-- The context's activation block, when it has one: the step sequencer keeps what STEP_BEGIN has read (notes/assumptions/132). -/
def State.act (s : State) (c : Nat) : Option Act := (s.ctx c).act

/-- Entry `e` of the block. -/
def State.ent (s : State) (c e : Nat) : Ent := (s.ctx c).ents.getD e {}

/-- R241: STATE of an entry written. -/
def State.setEnt (s : State) (c : Nat) (a : Act) (e st : Nat) : State :=
  let x := s.ctx c
  (s.setCtx c { x with ents := x.ents.modify e (fun v => { v with st }) }).poke x.part (a.entA + 32 * e + 24) (toLe 1 st)

/-- A field of the block that the module writes: `n` bytes at `off`. -/
def State.setAct (s : State) (c : Nat) (a : Act) (off n v : Nat) : State :=
  (s.setCtx c { s.ctx c with act := some a }).poke (s.ctx c).part (a.addr + off) (toLe n v)

/-- The entries of micro-batch `j`, ascending. -/
def State.entsOf (s : State) (c : Nat) (a : Act) (j : Nat) : List Nat :=
  (List.range a.nent).filter (fun e => (s.ent c e).mb == j)

/-- R243, R245: an entry of micro-batch `j` is queued for spilling or SPILLING; one is in host memory or at a peer. -/
def State.mbSpilling (s : State) (c : Nat) (a : Act) (j : Nat) : Bool :=
  (s.entsOf c a j).any (fun e => (s.ctx c).spillQ.contains e || (s.ent c e).st == 1)
def State.mbAway (s : State) (c : Nat) (a : Act) (j : Nat) : Bool :=
  (s.entsOf c a j).any (fun e => (s.ent c e).st == 2 || (s.ent c e).st == 3)

/-- R243, R245: the SPILLED and HOME adds of micro-batch `j`, each made once when nothing of `j` is left to spill, or to fetch. -/
def State.mbAdds (s : State) (c : Nat) (a : Act) (j : Nat) : State :=
  let x := s.ctx c
  if !x.fwdSeen.contains j || s.mbSpilling c a j then s
  else
    let t := if x.spilledAdd.contains j then s
      else (s.setCtx c { x with spilledAdd := x.spilledAdd ++ [j] }).bump (s.ctxAcc c) (a.mbA + 32 * j + 8)
    let y := t.ctx c
    if s.mbAway c a j || y.homeAdd.contains j then t
    else (t.setCtx c { y with homeAdd := y.homeAdd ++ [j] }).bump (s.ctxAcc c) (a.mbA + 32 * j + 16)

/-- R248: the add that ends a software transfer of micro-batch `j`: after FWD_DONE, SPILLED when its last spill is done, HOME when its
last fetch is. -/
def State.softAdd (s : State) (c : Nat) (a : Act) (j : Nat) (fetch : Bool) : State :=
  let x := s.ctx c
  if !x.fwdSeen.contains j || (if fetch then s.mbAway c a j else s.mbSpilling c a j) then s
  else s.bump (s.ctxAcc c) (a.mbA + 32 * j + (if fetch then 16 else 8))

/-! ### Automatic transfers (R244, R245, R247) -/

/-- Whether the step of the context is open. -/
def State.stepOpen (s : State) (c : Nat) : Bool := (s.ctx c).stepState.isOpen

/-- The first entry of a queue of transfers: spills by ascending micro-batch, fetches by descending, then by entry. -/
def State.firstOf (s : State) (c : Nat) (fetch : Bool) : Option Nat :=
  let q := if fetch then (s.ctx c).fetchQ else (s.ctx c).spillQ
  let key (e : Nat) : Nat := let j := (s.ent c e).mb; (if fetch then 4096 - j else j) * 2 ^ 17 + e
  (sortBy (fun x y => decide (key x ≤ key y)) q).head?

/-- R247: a failed spill leaves its entry HOME, and KEEP for the step. -/
def State.spillFailed (s : State) (c : Nat) (a : Act) (e : Nat) : State :=
  let t := s.setEnt c a e 0
  let a := (t.act c).getD a
  (t.setCtx c { t.ctx c with spilled := (t.ctx c).spilled.filter (· != e) }).setAct c { a with fails := a.fails + 1 } 32 4 (a.fails + 1)

/-- R247: a failed fetch faults the context, and HOME of its micro-batch is added to. -/
def State.fetchFailed (s : State) (c : Nat) (a : Act) (v : Ent) (st : Nat) : State :=
  let x := s.ctx c
  let t := (s.faultCtx c .faulted (if st = stMemUncorrectable then st else stFabricUnreachable) v.spill).bump (s.ctxAcc c)
    (a.mbA + 32 * v.mb + 16)
  (t.setCtx c { t.ctx c with homeAdd := v.mb :: x.homeAdd }).settle

/-- R244: the transfer of entry `e` begins: one to or from a peer sends what it takes; one that cannot fails (R247). -/
def State.beginXfer (s : State) (c : Nat) (a : Act) (e : Nat) (fetch : Bool) : State :=
  let v := s.ent c e
  let x := s.ctx c
  let tag := s.fab.tag
  let t := (s.setCtx c { x with xfer := some (e, fetch), xferStart := s.mtime, xferTag := tag, xferPlanes := [], xferFail := none,
                                spilled := if fetch then x.spilled else x.spilled.filter (· != e) ++ [e],
                                spillQ := x.spillQ.filter (· != e), fetchQ := x.fetchQ.filter (· != e) }).setEnt c a e (if fetch then 3 else 1)
  let fail (t : State) (st : Nat) : State := t.setCtx c { t.ctx c with xferFail := some st }
  if v.cls ≠ 2 then t
  else if fetch then
    match t.request 3 (2 ^ 62 + c) x.part v.spill v.bytes none [v.home % 2 ^ 48, v.bytes - 1] [] (land := v.home) with
    | .ok t => t
    | .error (.fail st _) => fail t st
    | .error _ => t
  else
    match t.reading (t.ctxAcc c) (load t (t.ctxAcc c) v.home v.bytes) with
    | (.error (.fail st _), t) => fail t st
    | (.error _, _) => s
    | (.ok bs, t) => match t.sendBulk x.part tag v.spill bs with
      | .ok (t, planes) =>
        let t : State := { t with fab := { t.fab with tag := (tag + 1) % 2 ^ 32 } }
        t.setCtx c { t.ctx c with xferPlanes := planes }
      | .error (.fail st _) => fail t st
      | .error _ => s

/-- R244: the next automatic transfer starts, when none is under way, the step is open, the step sequencer serves, and the stream mover
of its engine is idle with no packet of a higher PRIO than 1 waiting for it. Where both a spill and a fetch wait, which goes first is a
free choice. -/
def State.startXfer (s : State) (c : Nat) : State :=
  match s.act c, s.stepEngine c with
  | some a, some eng =>
    let x := s.ctx c
    if x.xfer.isSome || !s.stepOpen c || !s.stepServes c || !s.moverIdle eng
        || s.allPkts.any (fun r => s.waitsMover eng r.2 && decide (2 ≤ r.2.prio)) then s
    else match s.firstOf c true, s.firstOf c false with
      | some e, some e' => if s.choice 2 = 0 then s.drew.beginXfer c a e true else s.drew.beginXfer c a e' false
      | some e, none => s.beginXfer c a e true
      | none, some e' => s.beginXfer c a e' false
      | none, none => s
  | _, _ => s

/-- R244: the stream mover of engine `e` is free: a transfer that waits for it starts. -/
def State.startXfers (s : State) (e : Nat) : State :=
  (s.ctxs.filter (fun c => s.stepEngine c.1 == some e && !(c.2.spillQ.isEmpty && c.2.fetchQ.isEmpty))).foldl (fun t c => t.startXfer c.1) s

/-- R244: the transfers that waited for a packet of a higher PRIO start, on every engine whose stream mover is free for them now. -/
def State.startAllXfers (s : State) : State := ((List.range s.order.engines).filter s.xferWaits).foldl State.startXfers s

/-- The packet takes a stream mover, and waits for no other's any more. -/
def State.moverTaken (s : State) (q : Nat) (k : Packet) (e : Nat) : State :=
  if k.mover.isSome then s else (s.giveMover q k e).startAllXfers

/-! ### How a stream mover's packet ends -/

/-- The stream mover of a packet is free again. -/
def State.moverFree (s : State) (k : Packet) : State :=
  match (s.pkt k.id).bind (fun r => r.2.mover) with
  | some e => s.startXfers e
  | none => s

/-- A stream mover's packet has moved all its bytes, and ends with OK. -/
def State.moverMoved (s : State) (k : Packet) : State :=
  (match (s.pkt k.id).bind (fun r => r.2.mover) with
    | some e => s.moverProgress e (moverBytes k)
    | none => s).finish k.id stOk none

/-- That, and its stream mover is free. -/
def State.moverDone (s : State) (k : Packet) : State := (s.moverMoved k).moverFree k

/-- R328: a stream mover's packet that met uncorrectable data faults its context. -/
def State.moverErr (s : State) (q : Nat) (k : Packet) (e : Err) : State :=
  match e with
  | .fail st d =>
    let t := (s.finish k.id st (some d)).moverFree k
    if st = stMemUncorrectable then (t.faultData k.ctx d).settle else t
  | e => s.onErr q k e


end Sys2Proof.Machine
end

