-- ==== Sys2Proof/Machine/Numerics.lean ====
section
/-! DEFINITION. Element formats, exact values, rounding and conversion (03_number_formats). -/

namespace Sys2Proof.Machine

/-- The value of an operand or result: R72's classes, with a non-zero finite value held exactly. -/
inductive FVal where
  | nan
  | inf (neg : Bool)
  | zero (neg : Bool)
  | num (q : Rat)
  deriving DecidableEq, Repr, Inhabited

/-- A value from a rational: +0 for zero. -/
def FVal.ofRat (q : Rat) : FVal := if q = 0 then .zero false else .num q

/-- Its sign. -/
def FVal.isNeg : FVal → Bool
  | .nan => false
  | .inf s => s
  | .zero s => s
  | .num q => decide (q < 0)

/-- The rational of a finite value; 0 for the specials. -/
def FVal.rat : FVal → Rat
  | .num q => q
  | _ => 0

def FVal.neg : FVal → FVal
  | .nan => .nan
  | .inf s => .inf !s
  | .zero s => .zero !s
  | .num q => .num (-q)

def FVal.abs : FVal → FVal
  | .nan => .nan
  | .inf _ => .inf false
  | .zero _ => .zero false
  | .num q => .num (if q < 0 then -q else q)

def FVal.isNan (v : FVal) : Bool := v == .nan
def FVal.isInf : FVal → Bool
  | .inf _ => true
  | _ => false

/-- R81, R191: the exact product; infinity times zero is NaN. -/
def FVal.mul : FVal → FVal → FVal
  | .nan, _ => .nan
  | _, .nan => .nan
  | .inf _, .zero _ => .nan
  | .zero _, .inf _ => .nan
  | .inf s, b => .inf (s != b.isNeg)
  | a, .inf s => .inf (a.isNeg != s)
  | .zero s, b => .zero (s != b.isNeg)
  | a, .zero s => .zero (a.isNeg != s)
  | .num p, .num q => .num (p * q)

/-- R81, R82, R191: the exact sum; infinities of both signs give NaN; an exact zero is −0 only from two −0. -/
def FVal.add : FVal → FVal → FVal
  | .nan, _ => .nan
  | _, .nan => .nan
  | .inf s, .inf t => if s = t then .inf s else .nan
  | .inf s, _ => .inf s
  | _, .inf t => .inf t
  | .zero s, .zero t => .zero (s && t)
  | .zero _, b => b
  | a, .zero _ => a
  | .num p, .num q => FVal.ofRat (p + q)

/-- 2^e -/
def pow2 (e : Int) : Rat := if 0 ≤ e then ((2 ^ e.toNat : Nat) : Rat) else mkRat 1 (2 ^ (-e).toNat)

/-- |q| -/
def ratAbs (q : Rat) : Rat := if q < 0 then -q else q

/-- ⌊log₂ |q|⌋ of a non-zero rational. -/
def ilog2 (q : Rat) : Int :=
  let n := q.num.natAbs
  let d := q.den
  let k : Int := (n.log2 : Int) - (d.log2 : Int)
  if 0 ≤ k then (if d * 2 ^ k.toNat ≤ n then k else k - 1)
  else (if d ≤ n * 2 ^ (-k).toNat then k else k - 1)

/-- ⌊q⌋ of a non-negative rational. -/
def natFloor (q : Rat) : Nat := q.num.toNat / q.den

/-- How a result is rounded (R83): to nearest with ties to even, or stochastically with the draw `u` (R119). -/
inductive Rnd where
  | rne
  | sr (u : Nat)
  deriving DecidableEq, Repr

/-- A non-negative rational rounded to an integer. -/
def roundNat (r : Rnd) (t : Rat) : Nat :=
  let f := natFloor t
  let x := t - (f : Rat)
  match r with
  | .rne => if x > mkRat 1 2 ∨ (x = mkRat 1 2 ∧ f % 2 = 1) then f + 1 else f
  | .sr u => if natFloor (x * ((2 ^ 24 : Nat) : Rat)) > u then f + 1 else f

/-- A positive magnitude rounded to `p` significant bits, the grid not falling below that of exponent `emin`. -/
def roundMag (p : Nat) (emin : Int) (r : Rnd) (a : Rat) : Rat :=
  let ulp := pow2 (max (ilog2 a) emin - ((p : Int) - 1))
  ((roundNat r (a / ulp) : Nat) : Rat) * ulp

/-- R67: a floating-point format: exponent and fraction widths, bias, the code of the largest finite magnitude,
whether it has infinities, and its canonical NaN (R89). -/
structure Flt where
  eb    : Nat
  mb    : Nat
  bias  : Nat
  top   : Nat
  inf   : Option Nat
  nan   : Option Nat
  deriving DecidableEq, Repr

def Flt.fp32 : Flt := ⟨8, 23, 127, 0x7F7FFFFF, some 0x7F800000, some 0x7FC00000⟩
def Flt.bf16 : Flt := ⟨8, 7, 127, 0x7F7F, some 0x7F80, some 0x7FC0⟩
def Flt.fp16 : Flt := ⟨5, 10, 15, 0x7BFF, some 0x7C00, some 0x7E00⟩
def Flt.e4m3 : Flt := ⟨4, 3, 7, 0x7E, none, some 0x7F⟩
def Flt.e5m2 : Flt := ⟨5, 2, 15, 0x7B, some 0x7C, some 0x7E⟩
def Flt.e3m2 : Flt := ⟨3, 2, 3, 0x1F, none, none⟩
def Flt.e2m3 : Flt := ⟨2, 3, 1, 0x1F, none, none⟩
def Flt.e2m1 : Flt := ⟨2, 1, 1, 0x7, none, none⟩

/-- Bits of an element. -/
def Flt.bits (f : Flt) : Nat := 1 + f.eb + f.mb

/-- The smallest normal exponent. -/
def Flt.emin (f : Flt) : Int := 1 - (f.bias : Int)

/-- The magnitude a finite code denotes (R67). -/
def Flt.magOf (f : Flt) (code : Nat) : Rat :=
  let e := code / 2 ^ f.mb
  let m := code % 2 ^ f.mb
  if e = 0 then ((m : Nat) : Rat) * pow2 (f.emin - f.mb)
  else ((m + 2 ^ f.mb : Nat) : Rat) * pow2 ((e : Int) - f.bias - f.mb)

/-- R67, R73: the value of a code of the format, subnormals at full value. -/
def Flt.decode (f : Flt) (v : Nat) : FVal :=
  let s := v.testBit (f.eb + f.mb)
  let c := v % 2 ^ (f.eb + f.mb)
  if c > f.top then (if f.inf = some c then .inf s else .nan)
  else if c = 0 then .zero s
  else .num (if s then -(f.magOf c) else f.magOf c)

/-- The code of a representable positive magnitude. -/
def Flt.codeOf (f : Flt) (a : Rat) : Nat :=
  let e := ilog2 a
  if e < f.emin then natFloor (a / pow2 (f.emin - f.mb))
  else (e + f.bias).toNat * 2 ^ f.mb + natFloor (a / pow2 (e - f.mb)) - 2 ^ f.mb

/-- A converted element and what it counts (R86 to R88). `nan` also marks an element that poisons its block. -/
structure Conv where
  bits  : Nat
  sat   : Bool := false
  flush : Bool := false
  nan   : Bool := false
  deriving DecidableEq, Repr

/-- R86 to R89: conversion to a floating-point destination. Overflow is judged on the value rounded with an
unbounded exponent, or, under stochastic rounding, on the value itself (R119). -/
def Flt.convert (f : Flt) (r : Rnd) (v : FVal) : Conv :=
  let sgn (s : Bool) (c : Nat) : Nat := if s then c + 2 ^ (f.eb + f.mb) else c
  match v with
  | .nan => ⟨f.nan.getD 0, false, false, true⟩
  | .inf s => match f.inf with
    | some c => ⟨sgn s c, false, false, false⟩
    | none => ⟨sgn s f.top, true, false, false⟩
  | .zero s => ⟨sgn s 0, false, false, false⟩
  | .num q =>
    let s := decide (q < 0)
    let a := ratAbs q
    let m := roundMag (f.mb + 1) f.emin r a
    let huge := match r with
      | .rne => decide (m > f.magOf f.top)
      | .sr _ => decide (a > f.magOf f.top)
    if huge then
      match f.inf with
      | some c => ⟨sgn s c, false, false, false⟩
      | none => ⟨sgn s f.top, true, false, false⟩
    else if m = 0 then ⟨sgn s 0, false, true, false⟩
    else ⟨sgn s (f.codeOf m), false, false, false⟩

/-- R86, R90: conversion to a two's-complement integer of `w` bits, to nearest with ties to even. -/
def intConvert (w : Nat) (v : FVal) : Conv :=
  let hi : Int := 2 ^ (w - 1) - 1
  let lo : Int := -(2 ^ (w - 1))
  match v with
  | .nan => ⟨0, false, false, true⟩
  | .inf s => ⟨wrap w (if s then lo else hi), true, false, false⟩
  | .zero _ => ⟨0, false, false, false⟩
  | .num q =>
    let m : Int := (roundNat .rne (ratAbs q) : Nat)
    let x := if q < 0 then -m else m
    if x > hi then ⟨wrap w hi, true, false, false⟩
    else if x < lo then ⟨wrap w lo, true, false, false⟩
    else ⟨wrap w x, false, false, false⟩

/-- R67: the floating-point format of a FMT code. -/
def fltOf (fmt : Nat) : Option Flt :=
  match fmt with
  | 0 => some .fp32
  | 1 => some .bf16
  | 2 => some .fp16
  | 3 => some .e4m3
  | 4 => some .e5m2
  | 5 => some .e3m2
  | 6 => some .e2m3
  | 7 => some .e2m1
  | 10 => some .e2m1
  | _ => none

/-- R67: bits of an element of a direct or blocked format. -/
def fmtBits (fmt : Nat) : Nat :=
  match fmt with
  | 8 => 8
  | 9 => 4
  | 12 => 32
  | 13 => 8
  | _ => match fltOf fmt with
    | some f => f.bits
    | none => 8

/-- R67: the value of an element code. -/
def decodeFmt (fmt v : Nat) : FVal :=
  match fltOf fmt with
  | some f => f.decode v
  | none => if fmt = 13 then (if v = 0xFF then .nan else .num (pow2 ((v : Int) - 127)))
            else FVal.ofRat ((intW (fmtBits fmt) v : Int) : Rat)

/-- R86: conversion to an element of a direct or blocked format. -/
def convertFmt (fmt : Nat) (r : Rnd) (v : FVal) : Conv :=
  match fltOf fmt with
  | some f => f.convert r v
  | none => intConvert (fmtBits fmt) v

/-- A value rounded once to FP32, to nearest with ties to even (R191). -/
def rnd32 (v : FVal) : FVal := Flt.fp32.decode (Flt.fp32.convert .rne v).bits

/-- The FP32 bits of a value rounded once. -/
def bits32 (v : FVal) : Nat := (Flt.fp32.convert .rne v).bits

/-- The value of FP32 bits. -/
def f32 (v : Nat) : FVal := Flt.fp32.decode v

/-! ### EA48 (R78 to R80) -/

/-- R78, R79: an exact value rounded to EA48, to nearest with ties to even. -/
def ea48 (v : FVal) : FVal :=
  match v with
  | .num q =>
    let m := roundMag 48 (-100000) .rne (ratAbs q)
    if m ≥ pow2 512 then .inf (decide (q < 0))
    else if m < pow2 (-510) then .zero (decide (q < 0))
    else .num (if q < 0 then -m else m)
  | v => v

/-- R79: the 64-bit form. A NaN has S = 0 and the top bit of its fraction (notes/assumptions/147). -/
def ea48Pack (v : FVal) : Nat :=
  match v with
  | .nan => 0x3FF * 2 ^ 53 + 2 ^ 52
  | .inf s => (if s then 2 ^ 63 else 0) + 0x3FF * 2 ^ 53
  | .zero s => if s then 2 ^ 63 else 0
  | .num q =>
    let a := ratAbs q
    let e := ilog2 a
    (if q < 0 then 2 ^ 63 else 0) + (e + 511).toNat * 2 ^ 53
      + (natFloor (a / pow2 (e - 47)) - 2 ^ 47) * 2 ^ 6

/-- R79: the value of a 64-bit form; E = 0 is zero whatever F is, bits [5:0] are ignored. -/
def ea48Unpack (v : Nat) : FVal :=
  let s := v.testBit 63
  let e := fld v 53 10
  let f := fld v 6 47
  if e = 0 then .zero s
  else if e = 0x3FF then (if f = 0 then .inf s else .nan)
  else
    let a := ((f + 2 ^ 47 : Nat) : Rat) * pow2 ((e : Int) - 511 - 47)
    .num (if s then -a else a)

/-- One level of the tree of R80. -/
def treeLevel : List FVal → List FVal
  | a :: b :: r => ea48 (a.add b) :: treeLevel r
  | l => l

/-- R80: the fixed binary tree, each addition rounded to EA48. -/
def treeFuel : Nat → List FVal → FVal
  | _, [] => .zero false
  | _, [a] => a
  | 0, a :: _ => a
  | n + 1, l => treeFuel n (treeLevel l)

/-- R80. -/
def tree (l : List FVal) : FVal := treeFuel l.length l

/-! ### MX32 scales (R70, R71) -/

/-- R71: emax of an element format. -/
def emaxOf (fmt : Nat) : Int :=
  match fmt with
  | 3 => 8
  | 4 => 15
  | 5 => 4
  | 6 => 2
  | 7 => 2
  | _ => 0

/-- R71: the largest magnitude: `none` for an infinite one. -/
def amaxOf (vs : List FVal) : Option Rat :=
  vs.foldl (fun m v => match m, v with
    | none, _ => none
    | _, .inf _ => none
    | some a, .num q => some (max a (ratAbs q))
    | some a, _ => some a) (some 0)

/-- R71: the E8M0 scale of a block without NaN, for elements with the given emax. -/
def mxScale (emax : Int) (vs : List FVal) : Nat :=
  match amaxOf vs with
  | none => 0xFE
  | some a =>
    if a = 0 then 0
    else
      let e := ilog2 a - emax
      if e < -127 then 0 else if e > 127 then 0xFE else (e + 127).toNat

/-- The value of a finite E8M0 scale. -/
def e8m0 (s : Nat) : Rat := pow2 ((s : Int) - 127)

/-- A value divided by a positive rational. -/
def FVal.div (v : FVal) (d : Rat) : FVal :=
  match v with
  | .num q => .num (q / d)
  | v => v

/-! ### Vector-engine arithmetic (R191, R192) -/

/-- R191: ADD, MUL, FMA: exact, then one rounding. -/
def add32 (a b : FVal) : FVal := rnd32 (a.add b)
def mul32 (a b : FVal) : FVal := rnd32 (a.mul b)
def fma32 (a b c : FVal) : FVal := rnd32 ((a.mul b).add c)

/-- The order of values: −∞ < finite < +∞, −0 < +0. -/
def FVal.lt : FVal → FVal → Bool
  | .nan, _ => false
  | _, .nan => false
  | .inf s, .inf t => s && !t
  | .inf s, _ => s
  | _, .inf t => !t
  | .zero s, .zero t => s && !t
  | a, b => decide (a.rat < b.rat)

/-- R191: MIN and MAX, NaN if either is NaN. -/
def fmin (a b : FVal) : FVal := if a.isNan || b.isNan then .nan else if b.lt a then b else a
def fmax (a b : FVal) : FVal := if a.isNan || b.isNan then .nan else if a.lt b then b else a

/-- R191: the comparisons of CMPSEL, by MODE; −0 equals +0. -/
def fcmp (mode : Nat) (a b : FVal) : Bool :=
  if a.isNan || b.isNan then decide (mode = 1)
  else
    let lt := a.lt b && !(a.rat = 0 && b.rat = 0 && !a.isInf && !b.isInf)
    let gt := b.lt a && !(a.rat = 0 && b.rat = 0 && !a.isInf && !b.isInf)
    match mode with
    | 0 => !lt && !gt
    | 1 => lt || gt
    | 2 => lt
    | 3 => !gt
    | 4 => gt
    | _ => !lt

/-- ⌊√n⌋ by bisection of `b` bits. -/
def isqrtBits : Nat → Nat → Nat → Nat
  | 0, _, r => r
  | b + 1, n, r => if (r + 2 ^ b) * (r + 2 ^ b) ≤ n then isqrtBits b n (r + 2 ^ b) else isqrtBits b n r

/-- The largest integer m with m ≤ √(1/q)·2^k, that is m²·q ≤ 4^k, exactly. -/
def rsqrtFloor (q : Rat) (k : Int) : Nat :=
  let t := pow2 (2 * k) / q
  isqrtBits 64 (natFloor t) 0

end Sys2Proof.Machine
end

