-- ==== Sys2Proof/Machine/Memory.lean ====
section
/-! DEFINITION. The memory family: COPY, FILL, MEM_ATOMIC (R302 to R310), SCRUB_CTRL and FLIPMASK_ARM (R331 to R336),
patrol, retirement and stack temperature (R311 to R316, R330). -/

namespace Sys2Proof.Machine

/-! ### COPY and FILL (R302, R303) -/

/-- Bytes read in order up to the first that fails. -/
def loadSome (s : State) (a : Acc) : List (Nat × Nat) → Rd (List Byte × Option Err)
  | [] => pure ([], none)
  | c :: r => fun l =>
    match (loadPiece s a c.1 c.2).run l with
    | (.error e, l') => (.ok ([], some e), l')
    | (.ok b, l') =>
      match (loadSome s a r).run l' with
      | (.ok (bs, e), l'') => (.ok (b ++ bs, e), l'')
      | (.error e, l'') => (.ok (b, some e), l'')

/-- R302: what an overlapping copy writes: each byte whose source lies in the destination takes the old or the new
source byte. -/
def overlapBytes (free src dst : Nat) (old : List Byte) : List Byte :=
  let n := old.length
  if src = dst ∨ src + n ≤ dst ∨ dst + n ≤ src then old
  else if src < dst then
    (List.range n).foldl (fun out j =>
      let fresh := decide (dst ≤ src + j) && decide (Config.freeChoice (free + j) % 2 = 1)
      out ++ [if fresh then (out.drop (src + j - dst)).headD 0#8 else (old.drop j).headD 0#8]) []
  else
    (List.range n).foldr (fun j out =>
      let fresh := decide (src + j < dst + n) && decide (Config.freeChoice (free + j) % 2 = 1)
      (if fresh then (out.drop (src - dst - 1)).headD 0#8 else (old.drop j).headD 0#8) :: out) []

/-- R302, R303: bytes written to a destination; a peer's take BULK packets, and the packet waits for BULK_DONE. -/
def State.deliver (s : State) (q : Nat) (k : Packet) (a : Acc) (dst : Nat) (bs : List Byte) (rest : Option Err) : State :=
  if s.isPeer dst then
    match rest with
    | some e => s.moverErr q k e
    | none => match s.sendBulk a.part k.tag dst bs with
      | .error e => s.moverErr q k e
      | .ok (t, planes) => t.modPkt k.id (fun p => { p with waiting := true, planes })
  else
    let (t, e) := s.store a dst bs
    let t := t.otherWrite dst bs.length
    match e, rest with
    | some e, _ => t.moverErr q k e
    | none, some e => t.moverErr q k e
    | none, none => t.moverDone k

/-- The accesses of a stream mover's packet: host memory may be named (R291), context 0 may read the tables. -/
def State.moverAcc (s : State) (q : Nat) (k : Packet) (nocache : Bool) : Acc :=
  { s.accOf q k with host := true, tables := decide (k.ctx = 0), nocache }

/-- Check 7 for COPY. -/
def copyCheck (b : List Byte) : Option (Nat × Nat) := firstBad
  [(decide (1 ≤ field b 16 8 ∧ field b 16 8 ≤ 2 ^ 40), badParam 16), (decide (field b 24 1 < 4), badParam 24),
   (zeroAt b 25 7, badParam 25)]

/-- COPY (R302). From a peer it is a PULL (R352); one for host memory or another peer lands in a buffer of the mover first
(notes/assumptions/26). -/
def copyRun (s : State) (q : Nat) (k : Packet) : State :=
  let b := k.params
  let src := field b 0 8
  let dst := field b 8 8
  let n := field b 16 8
  let fl := field b 24 1
  match s.takeMover k with
  | none => s
  | some e =>
    if (isHost src || isHost dst) && !s.hostUp (fl % 2) then s
    else
      let s := s.moverTaken q k e
      let a := s.moverAcc q k (fl.testBit 1)
      if src = dst ∧ s.canStore a dst n = none then (s.finish k.id stOk none).moverFree k
      else if s.isPeer src then
        match if dst >>> 48 = s.fab.moduleId then s.canStore a dst n else none with
        | some e => s.moverErr q k e
        | none => match s.request 3 k.id a.part src n (some k.tag) [dst % 2 ^ 48, n - 1] [] (land := dst) with
          | .error e => s.moverErr q k e
          | .ok t => t.modPkt k.id (fun p => { p with waiting := true })
      else
        match s.reading a (loadSome s a (pieces src n)) with
        | (.error e, t) => t.moverErr q k e
        | (.ok (old, rest), t) =>
          match rest with
          | some .held => s.waitHeld k.id
          | some (.remote g n) => s.onErr q k (.remote g n)
          | _ =>
            let laps := decide (src >>> 48 = dst >>> 48 ∧ src < dst + n ∧ dst < src + n)
            let bs := if laps then overlapBytes t.freeAt src dst old else old
            let t := if laps then t.drew else t
            t.deliver q k a dst bs rest

def execCopy (p : Nat) (s : State) : Host.Outcome State Fault Refusal :=
  answer (.copy p) (match s.started p 0x0101 with
    | some (q, k) => copyRun s q k
    | none => s)

/-- Check 7 for FILL. -/
def fillCheck (b : List Byte) : Option (Nat × Nat) := firstBad
  [(decide (field b 0 8 % 8 = 0), badParam 0),
   (decide (field b 8 8 % 8 = 0 ∧ 8 ≤ field b 8 8 ∧ field b 8 8 ≤ 2 ^ 40), badParam 8),
   (decide (field b 24 1 < 4), badParam 24), (zeroAt b 25 7, badParam 25)]

/-- FILL (R303). -/
def fillRun (s : State) (q : Nat) (k : Packet) : State :=
  let b := k.params
  let dst := field b 0 8
  let n := field b 8 8
  let fl := field b 24 1
  match s.takeMover k with
  | none => s
  | some e =>
    if isHost dst && !s.hostUp (fl % 2) then s
    else
      let s := s.moverTaken q k e
      let pat := (b.drop 16).take 8
      s.deliver q k (s.moverAcc q k (fl.testBit 1)) dst (List.replicate (n / 8) pat).flatten none

def execFill (p : Nat) (s : State) : Host.Outcome State Fault Refusal :=
  answer (.fill p) (match s.started p 0x0102 with
    | some (q, k) => fillRun s q k
    | none => s)

/-! ### MEM_ATOMIC (R304 to R309) -/

/-- R304: bytes of an operand. -/
def atypeBytes (ty : Nat) : Nat :=
  match ty with
  | 0 => 4
  | 1 => 8
  | 2 => 4
  | _ => 2

/-- R304, R305: the new value and its counts. -/
def atomicOp (aop ty old opnd : Nat) : Nat × Counts :=
  let w := 8 * atypeBytes ty
  let x := opnd % 2 ^ w
  if ty ≤ 1 then
    let a := intW w old
    let b := intW w x
    (match aop with
      | 0 => wrap w (a + b)
      | 1 => if b < a then x else old
      | 2 => if a < b then x else old
      | _ => x, {})
  else
    let f := if ty = 2 then Flt.fp32 else if ty = 3 then Flt.bf16 else Flt.fp16
    let a := f.decode old
    let b := f.decode x
    let r := match aop with
      | 0 => a.add b
      | 1 => fmin a b
      | _ => fmax a b
    let c := f.convert .rne r
    (c.bits, { sat := if c.sat then 1 else 0, flush := if c.flush then 1 else 0, nans := if c.nan then 1 else 0 })

/-- R304: which combinations are allowed. -/
def atomicAllowed (aop ty opnd : Nat) : Bool :=
  decide (aop ≤ 6 ∧ ty ≤ 4) && (decide (aop ≤ 2) || (decide (aop = 3) && decide (ty ≤ 1))
    || (decide (4 ≤ aop) && decide (ty = 1 ∧ opnd = 0)))

/-- Check 7 for MEM_ATOMIC. -/
def atomicCheck (s : State) (k : Packet) : Option (Nat × Nat) :=
  let b := k.params
  let aop := field b 24 1
  let ty := field b 25 1
  let e := field b 26 1
  firstBad
    [(decide (aop ≤ 6), badParam 24), (decide (ty ≤ 4), badParam 25),
     (atomicAllowed aop ty 0, badParam 25), (decide (aop < 4) || decide (field b 8 8 = 0), badParam 8),
     (decide (field b 0 8 % atypeBytes ty = 0), badParam 0), (decide (field b 16 8 % 8 = 0), badParam 16),
     (decide (aop < 4) || decide (e = 0xFF) || (s.ctx k.ctx).engines.testBit e, badParam 26),
     (decide (aop < 4) || !s.isPeer (field b 0 8), badParam 24), (zeroAt b 27 5, badParam 27)]

/-- The old value stored at RESULT_ADDR, and the packet's end; it completes once a home that holds the store has taken it (R21). -/
def State.atomicEnd (s : State) (q : Nat) (k : Packet) (old st : Nat) (c : Counts) : State :=
  let r := field k.params 16 8
  if r = 0 then s.finish k.id st none c
  else match s.store (s.accOf q k) r (toLe 8 old) with
    | (t, none) => t.finish k.id st none c
    | (t, some .held) => (t.owe { acc := s.accOf q k, addr := r, due := .bytes (toLe 8 old), pkt := some k.id }).finish k.id st none c
    | (t, some e) => t.onErr q k e

/-- R309: a lock operation on the word at place `p`; it acts on the word's line in the home cache (R299). A LOCK that would wait in a
context that is being destroyed is removed as those that wait are (R310). -/
def lockOp (s : State) (q : Nat) (k : Packet) (p : Nat) : State :=
  let aop := field k.params 24 1
  let me := (field k.params 26 1, k.ctx)
  let home := chanOf p / 32
  let s := s.noteRead (s.accOf q k).part k.ctx (p, 8, false)
  let put (l : Lock) : State := { s with locks := s.locks.map (fun x => if x.addr == l.addr then l else x) }
  match s.lockAt p with
  | none =>
    if aop = 6 then s.atomicEnd q k 0 stLockNotHeld {}
    else if (s.locks.filter (fun l => chanOf l.addr / 32 == home)).length ≥ 2048 then s.atomicEnd q k 0 stLockTableFull {}
    else ({ s with locks := s.locks ++ [({ addr := p, holder := some me } : Lock)] } : State).atomicEnd q k 0 stOk {}
  | some l =>
    let word := l.word
    match l.holder with
    | none =>
      if aop = 6 then s.atomicEnd q k word stLockNotHeld {}
      else (put { l with holder := some me, broken := false }).atomicEnd q k word (if l.broken then stLockBroken else stOk) {}
    | some h =>
      if aop = 6 then
        if h = me then
          (((put { l with holder := none }).passLock l.addr).tidyLocks).atomicEnd q k word stOk {}
        else s.atomicEnd q k word stLockNotHeld {}
      else if aop = 5 ∨ h = me then s.atomicEnd q k word stLockBusy {}
      else if (s.ctx k.ctx).destroying.isSome then s.finish k.id stLockWaitRemoved none
      else if l.waiters.length ≥ 64 then s.atomicEnd q k word stLockTableFull {}
      else
        let t := (put { l with waiters := l.waiters ++ [(k.id, me)] }).wait k.id
        let r := field k.params 16 8
        if r = 0 then t else (t.store (t.accOf q k) r (toLe 8 word)).1

/-- MEM_ATOMIC (R304): at its home here, or as a remote ATOMIC. RESULT_ADDR is judged before anything is done. -/
def memAtomicRun (s : State) (q : Nat) (k : Packet) : State :=
  let b := k.params
  let g := field b 0 8
  let aop := field b 24 1
  let ty := field b 25 1
  let n := atypeBytes ty
  let a := s.accOf q k
  let r := field b 16 8
  match if r = 0 then none else s.canStore a r 8 with
  | some e => s.onErr q k e
  | none => match s.resolve a g with
    | .error e => s.onErr q k e
    | .ok .peer => match s.request 2 k.id a.part g n none [field b 8 8, aop + 256 * ty] [] with
      | .error e => s.onErr q k e
      | .ok t => t.wait k.id
    | .ok (.mem p _) =>
      if s.inSlotSpace a.part (g % 2 ^ 48) then s.finish k.id stMemBounds (some g)
      else if s.chanLost p then (s.addTrace a g n).onErr q k (.fail stMemUncorrectable (g - g % 16))
      else if aop ≥ 4 then lockOp s q k p
      else if (s.lockAt p).isSome then s.finish k.id stMemBounds (some g)
      else match s.homeRead a (loadNat s a g n) with
        | (.error e, t) => t.onErr q k e
        | (.ok old, t) =>
          let (new, c) := atomicOp aop ty old (field b 8 8)
          (t.lineWrite a.part a.ctx p false (toLe n new)).atomicEnd q k old (okStatus c) c
    | .ok _ => s.finish k.id stMemBounds (some g)

def execMemAtomic (p : Nat) (s : State) : Host.Outcome State Fault Refusal :=
  answer (.memAtomic p) (match s.started p 0x0301 with
    | some (q, k) => memAtomicRun (s.turned q k) q k
    | none => s)

/-! ### SCRUB_CTRL, FLIPMASK_ARM, the patrol (R330 to R337) -/

/-- The words that are not clean in their stack, with their checks there: those of dirty lines as the stack has them. -/
def State.stackErrors (s : State) : List (Nat × BitVec 16) :=
  s.mem.ck.filter (fun c => !(s.lineAt (16 * c.1)).any (·.dirty)) ++ s.stackCk.filter (fun c => (s.lineAt (16 * c.1)).any (·.dirty))

/-- The offsets of such words of a partition in an offset range, ascending, with their numbers and checks; those of lost channels and of
units never written apart. -/
def State.dirtyWords (s : State) (part lo hi : Nat) : List (Nat × Nat × BitVec 16) :=
  sortBy (fun a b => decide (a.1 ≤ b.1))
    (((s.stackErrors.filter (fun c => decide (s.ownerOf (chanOf (16 * c.1)) = some part) && !s.chanLost (16 * c.1)
        && Tbl.get false s.mem.touched (unitOf (16 * c.1)))).map
      (fun c => (s.offsetOf part (16 * c.1), c.1, c.2))).filter (fun c => decide (lo ≤ c.1 ∧ c.1 < hi)))

/-- The range `x` to `y` without some ranges that lie in it, ascending. -/
def cutOut : Nat → Nat → List (Nat × Nat) → List (Nat × Nat)
  | x, y, [] => if x < y then [(x, y)] else []
  | x, y, (a, b) :: r => (if x < a then [(x, min a y)] else []) ++ cutOut (max x b) y r

/-- R316: the granules of a channel that read as MEM_UNCORRECTABLE whole: all of a lost one's, or those relocated empty whose unit has
not been written since. -/
def State.lostGranules (s : State) (ch : Nat) : List (Nat × Nat) :=
  let c := s.chan ch
  if c.retire = 3 then [(0, 2 ^ 23)]
  else if c.empty.isEmpty then []
  else
    let written := sortBy (fun a b => decide (a.1 ≤ b.1)) ((s.mem.touched.filter (fun u => chanOf (4096 * u.1) == ch)).map
      (fun u => let g := 4096 * u.1 % 2 ^ 31 / 256; (g, g + 16)))
    c.empty.flatMap (fun e => cutOut e.1 e.2 (written.filter (fun w => decide (e.1 < w.2 ∧ w.1 < e.2))))

/-- The least number from `x` on, and below `y`, whose value under a rising `f` is at least `v`; `y` where there is none. -/
def firstFrom (f : Nat → Nat) (v : Nat) : Nat → Nat → Nat → Nat
  | 0, x, _ => x
  | n + 1, x, y =>
    if y ≤ x then y
    else
      let m := (x + y) / 2
      if v ≤ f m then firstFrom f v n x m else firstFrom f v n (m + 1) y

/-- R331, R332: the runs of such granules in an offset range of a partition: the place of the first, and how many. Within a run offsets
rise: it ends where a die-local window begins or ends. -/
def State.lostRuns (s : State) (part lo hi : Nat) : List (Nat × Nat) :=
  let mask := (s.part part).chans
  let n := max 1 (popCount 512 mask)
  let edges := (s.regions.map Prod.snd).flatMap (fun r =>
    if r.valid && r.dieLocal && r.part == part then [r.base / 256 / n, (r.base + 2 ^ r.size) / 256 / n] else [])
  (s.chans.filter (fun c => mask.testBit c.1)).flatMap (fun c =>
    (s.lostGranules c.1).flatMap (fun g =>
      let marks := sortBy (fun a b => decide (a ≤ b)) (g.1 :: g.2 :: edges.filter (fun e => decide (g.1 < e ∧ e < g.2)))
      (marks.zip (marks.drop 1)).filterMap (fun z =>
        let off (u : Nat) : Nat := s.offsetOf part (c.1 * 2 ^ 31 + u * 256)
        let a := firstFrom off lo 24 z.1 z.2
        let b := firstFrom off hi 24 z.1 z.2
        if a < b then some (c.1 * 2 ^ 31 + a * 256, b - a) else none)))

/-- Words of such a run met: all are counted, and recorded as far as the error ring can hold them. -/
def State.runRead (s : State) (eflags : Nat) (r : Nat × Nat) : State :=
  let n := 16 * r.2
  let shown := min n (2 ^ s.ecc.ring.log2)
  let t := (List.range shown).foldl (fun t i => t.wordRead (r.1 / 16 + i) 0xFFFFFFFF eflags) s
  { t with ecc := { t.ecc with ueCount := satTo (2 ^ 32 - 1) (t.ecc.ueCount + (n - shown)) } }

/-- Check 7 for SCRUB_CTRL. -/
def scrubCheck (b : List Byte) : Option (Nat × Nat) := firstBad
  [(decide (field b 0 1 ≤ 3), badParam 0), (zeroAt b 1 1, badParam 1),
   (decide (field b 0 1 ≠ 1) || decide (1 ≤ field b 2 2 ∧ field b 2 2 ≤ 720), badParam 2),
   (decide (field b 0 1 ≠ 0) || decide (1 ≤ field b 4 4), badParam 4),
   (decide (field b 0 1 ≠ 0) || decide (field b 8 8 % 4096 = 0), badParam 8)]

/-- SCRUB_CTRL (R331, R332). A demand scrub reads the words of the stacks, also those whose line a cache holds. -/
def scrubRun (s : State) (q : Nat) (k : Packet) : State :=
  let b := k.params
  let part := s.partOf q
  let off := field b 8 8
  let act := field b 0 1
  if act ≠ 0 ∧ part ≠ 0 then s.finish k.id stPartitionDenied none
  else match act with
  | 0 =>
    let n := field b 4 4 * 4096
    if s.memBytes part < off + n then s.finish k.id stMemBounds (some (s.global (max off (s.memBytes part))))
    else
      let words := s.dirtyWords part off (off + n)
      let runs := s.lostRuns part off (off + n)
      let bad := (words.filter (fun w => decide (verdict w.2.2 = .bad))).map Prod.fst ++ runs.map (fun r => s.offsetOf part r.1)
      let t := words.foldl (fun t w => t.stackRead w.2.1 2) s
      let t := runs.foldl (fun t r => t.runRead 2 r) t
      match bad with
      | [] => t.finish k.id stOk none
      | w :: r => t.finish k.id stScrubUncorrectable (some (s.global (r.foldl min w)))
  | 1 => ({ s with ecc := { s.ecc with period := field b 2 2 } }).finish k.id stOk none
  | 2 => ({ s with ecc := { s.ecc with pause := true } }).finish k.id stOk none
  | _ => ({ s with ecc := { s.ecc with pause := false } }).finish k.id stOk none

def execScrubCtrl (p : Nat) (s : State) : Host.Outcome State Fault Refusal :=
  answer (.scrubCtrl p) (match s.started p 0x0302 with
    | some (q, k) => scrubRun (s.turned q k) q k
    | none => s)

/-- R335: units of a mask class. -/
def eccUnits (o : Order) (cls : Nat) : Nat :=
  match cls with
  | 0 => o.chans
  | 1 => o.dies
  | 2 => o.engines
  | 3 => 128 * o.engines
  | 4 => o.engines
  | 5 => 2
  | _ => 0

/-- Check 7 for FLIPMASK_ARM (R336). -/
def flipCheck (b : List Byte) : Option (Nat × Nat) := firstBad
  [(decide (field b 18 1 ≤ 5), badParam 18), (zeroAt b 19 1, badParam 19), (zeroAt b 22 10, badParam 22)]

/-- FLIPMASK_ARM (R336). -/
def flipRun (s : State) (q : Nat) (k : Packet) : State :=
  let b := k.params
  let part := s.partOf q
  let cls := field b 18 1
  let idx := field b 20 2
  if cls ≠ 0 ∧ part ≠ 0 then s.finish k.id stPartitionDenied none
  else if cls = 0 ∧ (s.part part).chans.testBit idx = false then s.finish k.id stBadParam (some (2 ^ 16 + 20))
  else ({ s with ecc := { s.ecc with dataMask := field b 0 16, checkMask := field b 16 2, armed := true, cls,
                                     index := idx } }).finish k.id stOk none

def execFlipmaskArm (p : Nat) (s : State) : Host.Outcome State Fault Refusal :=
  answer (.flipmaskArm p) (match s.started p 0x0303 with
    | some (q, k) => flipRun (s.turned q k) q k
    | none => s)

/-- R330: the patrol period, in ns. -/
def Ecc.periodNs (e : Ecc) : Nat := max 1 e.period * 3600 * 10 ^ 9

/-- PATROL_SCRUB (R330): the pass of a stack, one in each period, over its written words; a completed pass of every stack counts
(R334). -/
def patrolRun (s : State) (stack : Nat) : State :=
  let last := Tbl.get 0 s.ecc.passAt stack
  if s.ecc.pause ∨ s.order.stackCount ≤ stack ∨ (last ≠ 0 ∧ (last - 1) / s.ecc.periodNs = s.mtime / s.ecc.periodNs) then s
  else
    let here (p : Nat) : Bool := chanOf p / 32 == stack
    let words := (s.stackErrors.map Prod.fst).filter (fun w => here (16 * w) && !s.chanLost (16 * w))
    let lost := (s.mem.touched.map Prod.fst).filter (fun u => here (4096 * u) && s.chanLost (4096 * u))
    let t := words.foldl (fun t w => t.stackRead w 1) s
    let t := lost.foldl (fun t u => t.runRead 1 (4096 * u, 16)) t
    let passes := Tbl.set 0 t.ecc.stackPass stack (Tbl.get 0 t.ecc.stackPass stack + 1)
    let all := ((List.range s.order.stackCount).map (fun k => Tbl.get 0 passes k)).foldl min (Tbl.get 0 passes stack)
    let t : State := { t with ecc := { t.ecc with stackPass := passes, passes := satTo (2 ^ 32 - 1) all,
                                                  passAt := Tbl.set 0 t.ecc.passAt stack (s.mtime + 1) } }
    t.eccEvent 6 0 1 (32 * stack) 0 0 0xFFFFFFFF 1

def execPatrolScrub (stack : Nat) (s : State) : Host.Outcome State Fault Refusal :=
  answer (.patrolScrub stack) (patrolRun s stack)

/-! ### Retirement (R315, R316) -/

/-- CHANNEL_RETIREMENT_DONE (R315): the move ends, unless a die reset or thermal protection has it paused. -/
def retirementDone (s : State) (ch : Nat) : State :=
  let c := s.chan ch
  if c.retire ≠ 1 ∨ (s.stack (ch / 32)).protect
      ∨ s.ctrl.resets.any (fun r => decide (r.dom = 2 ∧ r.idx = ch / 64)) then s
  else (s.setChan ch { c with retire := 2 }).memEvent 3 (ch / 32) (ch % 32) 0 0 (28672 - c.sparesUsed)

def execChannelRetirementDone (ch : Nat) (s : State) : Host.Outcome State Fault Refusal :=
  answer (.channelRetirementDone ch) (retirementDone s ch)

/-- R316: the granules of a channel from `from_` on are relocated empty: their words become uncorrectable in the stack, where
a dirty cache line will still write its own back. -/
def State.emptyChan (s : State) (ch from_ : Nat) : State :=
  let units := (s.mem.touched.map Prod.fst).filter (fun u => decide (chanOf (u * 4096) = ch)
    && decide (from_ ≤ u * 4096 % 2 ^ 31 / 256 + 15))
  let words := (units.flatMap (fun u => (List.range 256).map (fun i => u * 256 + i))).filter (fun w => decide (from_ ≤ 16 * w % 2 ^ 31 / 256))
  let (kept, words) := words.partition (fun w => (s.lineAt (16 * w)).any (·.dirty))
  ({ s with mem := words.foldl Mem.mark s.mem,
            stackCk := kept.map (fun w => (w, markCk)) ++ s.stackCk.filter (fun c => !kept.contains c.1) } : State).setChan ch
    { s.chan ch with retire := 2, empty := if from_ < 2 ^ 23 then [(from_, 2 ^ 23)] else [] }

/-- CHANNEL_LOST (R316): granules not yet moved are relocated empty; with no share left the channel is lost. How far
the move had come is a free value. -/
def channelLost (s : State) (ch : Nat) : State :=
  let c := s.chan ch
  let k := s.stack (ch / 32)
  let left := 28672 - c.sparesUsed
  if s.order.chans ≤ ch ∨ c.retire = 2 ∨ c.retire = 3 then s
  else if c.retire = 1 then (s.drew.emptyChan ch (s.choice (2 ^ 23 + 1))).memEvent 5 (ch / 32) (ch % 32) 0 0 left
  else if k.retired then (s.setChan ch { c with retire := 3 }).memEvent 5 (ch / 32) (ch % 32) 0 0 left
  else ((s.emptyChan ch 0).setStack (ch / 32) { k with retired := true }).memEvent 5 (ch / 32) (ch % 32) 0 0 left

def execChannelLost (ch : Nat) (s : State) : Host.Outcome State Fault Refusal :=
  answer (.channelLost ch) (channelLost s ch)

/-! ### Stack temperature (R311, R312) -/

/-- STACK_THERMAL_SAMPLE: the sample, then a step down every 1 ms above 95 °C, a step back every 10 ms at 90 °C or
below, protective self-refresh from 105 °C until 95 °C. -/
def stackSample (s : State) (stack temp : Nat) : State :=
  if s.order.stackCount ≤ stack ∨ s.power.st = .sleep ∨ s.power.st = .off then s
  else
    let k := { s.stack stack with temp }
    let s1 := s.setStack stack k
    let s2 :=
      if 95 < temp ∧ k.steps < 8 ∧ (k.stepAt = 0 ∨ k.stepAt - 1 + 1000000 ≤ s.mtime) then
        (s1.setStack stack { k with steps := k.steps + 1, stepAt := s.mtime + 1 }).memEvent 0x10 stack 0xFF 0 0 0
      else if temp ≤ 90 ∧ 0 < k.steps ∧ k.stepAt - 1 + 10000000 ≤ s.mtime then
        let n := k.steps - 1
        (s1.setStack stack { k with steps := n, stepAt := if n = 0 then 0 else s.mtime + 1 }).memEvent
          (if n = 0 then 0x11 else 0x10) stack 0xFF 0 0 0
      else s1
    let k2 := s2.stack stack
    if 105 ≤ temp ∧ !k2.protect then (s2.setStack stack { k2 with protect := true }).memEvent 0x12 stack 0xFF 0 0 0
    else if temp ≤ 95 ∧ k2.protect then
      ((s2.setStack stack { k2 with protect := false }).memEvent 0x13 stack 0xFF 0 0 0).settle
    else s2

end Sys2Proof.Machine
end

