-- ==== Sys2Proof/Machine/Scheduling.lean ====
section
/-! DEFINITION. Contexts, partitions, accounting, slices and the running of task lists
(08_engines_scheduling, R92, R95, R131 to R134). -/

namespace Sys2Proof.Machine

/-! ### CONTEXT_CREATE, CONTEXT_DESTROY (R207, R208, R58, R59) -/

/-- The started management command `p` with opcode `op`, when it is its turn among the management commands (R63) and at the module
controller (R45). -/
def State.managed (s : State) (p op : Nat) : Option (Nat × Packet) :=
  match s.pkt p with
  | some (q, k) => if k.phase = .started ∧ k.opcode = op ∧ s.mgmtTurn k ∧ s.atTurn q k then some (q, k) else none
  | none => none

/-- R207 after CTX 0 and CONTEXT_EXISTS: the parameter fields, of R204's layout. -/
def createCheck (s : State) (q : Nat) (b : List Byte) : Option (Nat × Nat) :=
  let part := s.partOf q
  let slice := field b 6 2
  let mask := field b 8 16
  let lo := field b 24 8
  let hi := field b 32 8
  firstBad
    [(zeroAt b 0 1, badParam 0), (decide (field b 1 1 ≤ 2), badParam 1), (decide (field b 2 1 < 4), badParam 2),
     (zeroAt b 3 1, badParam 3), (decide (slice = 0 ∨ (100 ≤ slice ∧ slice ≤ 50000)), badParam 6),
     (decide (field b 1 1 ≠ 0 ∨ mask ≠ 0) && decide (mask &&& (s.part part).engines = mask), badParam 8),
     (decide (lo % 4096 = 0), badParam 24),
     (decide (hi % 4096 = 0 ∧ lo < hi ∧ hi ≤ s.memBytes part), badParam 32), 
    ] |>.or (firstBad ([(40, 1), (41, 7), (48, 8), (56, 4), (60, 1), (61, 3), (64, 8), (72, 8), (80, 8), (88, 8), (96, 16), (112, 8),
      (120, 1), (121, 7), (128, 8), (136, 56), (192, 64)].map (fun (f : Nat × Nat) => (zeroAt b f.1 f.2, badParam f.1))))

/-- CONTEXT_CREATE (R207). CREATED_MTIME is written when the packet completes. -/
def createRun (s : State) (q : Nat) (k : Packet) : State :=
  let b := k.params
  let c : Ctx := { state := .active, kind := field b 1 1, level := field b 2 1, part := s.partOf q,
                   client := field b 4 2, sliceUs := field b 6 2, engines := field b 8 16,
                   memBase := field b 24 8, memLimit := field b 32 8 }
  if (s.ctx k.ctx).state ≠ .free then s.finish k.id stContextExists none
  else (s.setCtx k.ctx c).finish k.id stOk none

def execContextCreate (p : Nat) (s : State) : Host.Outcome State Fault Refusal :=
  answer (.contextCreate p) (match s.managed p 0x0701 with
    | some (q, k) => createRun (s.turned q k) q k
    | none => s)

/-- R59, R310: as CONTEXT_DESTROY starts, fetched packets of the context that have not started complete with CONTEXT_GONE
and no SIGNAL add, whatever they waited for, its waiting LOCK packets leave, and its feed is closed (R363). A CONTEXT_CREATE that names
the number counts among them (notes/assumptions/127). -/
def State.beginDestroy (s : State) (c p : Nat) : State :=
  let gone := (s.allPkts.filter (fun r => r.2.ctx == c && r.2.phase == .fetched)).map (fun r => r.2.id)
  let t := gone.foldl (fun t g => (t.finish g stContextGone none).modPkt g (fun k => { k with signalled := true })) s
  let t := t.dropReqs (fun r => gone.contains r.pkt)
  let leaving := t.locks.flatMap (fun l => l.waiters.filter (fun w => w.2.2 == c))
  let t := leaving.foldl (fun t w => t.finish w.1 stLockWaitRemoved none) t
  let t : State := { t with locks := t.locks.map (fun l =>
    { l with waiters := l.waiters.filter (fun w => w.2.2 != c) }) }
  (t.dropFeeds c).setCtx c { t.ctx c with destroying := some p }

/-- The sequencer without the context's slot (R208). -/
def Engine.without (g : Engine) (c : Nat) : Engine :=
  match g.slotOf c with
  | some k => g.release k
  | none => g

/-- R208: slots released, locks broken, group left (R262), session ended (R401), the entry zeroed. -/
def State.freeCtx (s : State) (c : Nat) : State :=
  let t := s.revoke (fun h => h.2 == c)
  let t : State := { t with
    engines := (t.engines.map (fun e => (e.1, e.2.without c))).filter (fun e => decide (e.2 ≠ {})),
    units := (t.units.map (fun e => (e.1, e.2.without c))).filter (fun e => decide (e.2 ≠ {})),
    groups := t.groups.filter (fun g => g.ctx != c),
    sessions := t.sessions.filter (fun f => !f.2.opened || f.2.ctx != c) }
  t.setCtx c {}

/-- CONTEXT_DESTROY (R208): it waits for every packet of the context that had started before it (R58). -/
def destroyRun (s : State) (_q : Nat) (k : Packet) : State :=
  let t := if (s.ctx k.ctx).destroying.isNone then s.beginDestroy k.ctx k.id else s
  let live := t.allPkts.any (fun r => r.2.ctx == k.ctx && decide (0 < r.2.startSeq ∧ r.2.startSeq < k.startSeq))
  if live then t else ((t.freeCtx k.ctx).settle).finish k.id stOk none

def execContextDestroy (p : Nat) (s : State) : Host.Outcome State Fault Refusal :=
  answer (.contextDestroy p) (match s.managed p 0x0702 with
    | some (q, k) => destroyRun (s.turned q k) q k
    | none => s)

/-! ### PARTITION_SET (R221 to R225) -/

/-- The engines, ways and channels of the block. -/
def partOfBlock (b : List Byte) : Partition :=
  { enabled := (field b 1 1).testBit 0, bwShare := field b 2 1, engines := field b 8 16, ways := field b 24 16,
    feedFirst := field b 40 2, feedLast := field b 42 2, sessFirst := field b 44 2, sessLast := field b 46 2,
    chans := field b 48 64 }

/-- The sum of BW_SHARE over the enabled partitions, with partition `n` as in the block. -/
def State.shareSum (s : State) (n : Nat) (v : Partition) : Nat :=
  ((List.range 8).map (fun p => if p = n then (if v.enabled then v.bwShare else 0)
    else if (s.part p).enabled then (s.part p).bwShare else 0)).sum

/-- R222: the conditions a disabled and an enabled partition must meet. -/
def partitionCheck (s : State) (b : List Byte) : Option (Nat × Nat) :=
  let v := partOfBlock b
  let n := field b 0 1
  let ch := popCount 512 v.chans
  let dies := List.range 8
  firstBad
    [(decide (n < 8), badParam 0), (decide (field b 1 1 < 2), badParam 1), (zeroAt b 3 5, badParam 3),
     (v.enabled || decide (v.bwShare = 0), badParam 2), (v.enabled || decide (v.engines = 0), badParam 8),
     (decide (v.engines < 2 ^ 80), badParam 8),
     (v.enabled || decide (v.ways = 0), badParam 24), (v.enabled || decide (v.feedLast < v.feedFirst), badParam 40),
     (v.enabled || decide (v.sessLast < v.sessFirst), badParam 44), (v.enabled || decide (v.chans = 0), badParam 48),
     (decide (s.shareSum n v ≤ 256), badParam 2),
     (!v.enabled || dies.all (fun d => (decide (fld v.chans (64 * d) 64 = 0) || decide (v.waysOf d ≠ 0))
        && (decide (d < s.order.dies) || decide (v.waysOf d = 0))), badParam 24),
     (!v.enabled || (decide (ch ≠ 0 ∧ 2 ^ Nat.log2 ch = ch) && decide (v.chans < 2 ^ s.order.chans)), badParam 48),
     (zeroAt b 112 16, badParam 112)]

/-- R223: a resource of the block that another partition owns. -/
def State.partConflict (s : State) (n : Nat) (v : Partition) : Bool :=
  let cross (a b c d : Nat) : Bool := decide (a ≤ b ∧ c ≤ d ∧ a ≤ d ∧ c ≤ b)
  (List.range 8).any (fun p => p != n &&
    (let o := s.part p
     decide (o.engines &&& v.engines ≠ 0) || decide (o.chans &&& v.chans ≠ 0) || decide (o.ways &&& v.ways ≠ 0)
      || cross o.feedFirst o.feedLast v.feedFirst v.feedLast || cross o.sessFirst o.sessLast v.sessFirst v.sessLast))

/-- R224: a resource that would leave while it is not idle. -/
def State.partBusy (s : State) (n : Nat) (v : Partition) : Bool :=
  let o := s.part n
  let inRange (a b x : Nat) : Bool := decide (a ≤ x ∧ x ≤ b)
  (bitsOf 80 o.engines).any (fun e => !v.engines.testBit e && !(s.engine e).used.isEmpty)
  || (decide (o.chans ≠ v.chans) && s.ctxs.any (fun c => c.1 != 0 && decide (c.2.part = n) && c.2.state == .active))
  || s.feeds.any (fun f => f.2.st != .closed && inRange o.feedFirst o.feedLast f.1 && !inRange v.feedFirst v.feedLast f.1)
  || s.sessions.any (fun f => f.2.opened && inRange o.sessFirst o.sessLast f.1 && !inRange v.sessFirst v.sessLast f.1)

/-- R225: channels of a mask return to the first-touch state, and their lines leave the caches, their locks the lock tables. -/
def State.forgetChans (s : State) (mask : Nat) : State :=
  let waiters := (s.locks.filter (fun l => mask.testBit (chanOf l.addr))).flatMap (·.waiters)
  let s := waiters.foldl (fun t w => t.finish w.1 stLockWaitRemoved none) s
  { s with mem := s.mem.forget (fun u => mask.testBit (chanOf (u * 4096))),
           locks := s.locks.filter (fun l => !mask.testBit (chanOf l.addr)),
           chans := (s.chans.map (fun c => (c.1, if mask.testBit c.1 then { c.2 with empty := [] } else c.2))).filter (fun c => decide (c.2 ≠ {})),
           caches := (s.caches.map (fun c => (c.1, c.2.filter (fun l => !mask.testBit (chanOf (l.line * 128)))))).filter
             (fun c => !c.2.isEmpty),
           copies := s.copies.filter (fun c => !mask.testBit (chanOf (16 * c.1))),
           stackCk := s.stackCk.filter (fun c => !mask.testBit (chanOf (16 * c.1))) }

/-- R225: lines in ways of a mask (16 bits per die) are written back and invalidated. -/
def State.flushWays (s : State) (mask : Nat) : State :=
  let hit (key : Nat) (l : Line) : Bool := mask.testBit (16 * (key / 32768) + l.way)
  let dirty := s.caches.flatMap (fun c => (c.2.filter (fun l => l.dirty && hit c.1 l)).map (·.line))
  let t := dirty.foldl State.writeBack s
  let gone := t.caches.flatMap (fun c => (c.2.filter (hit c.1)).map (·.line))
  { t with caches := (t.caches.map (fun c => (c.1, c.2.filter (fun l => !hit c.1 l)))).filter (fun c => !c.2.isEmpty),
           copies := t.copies.filter (fun c => !gone.contains (c.1 / 8)), stackCk := t.stackCk.filter (fun c => !gone.contains (c.1 / 8)) }

/-- PARTITION_SET (R221 to R225). -/
def partitionRun (s : State) (q : Nat) (k : Packet) : State :=
  let b := k.params
  let n := field b 0 1
  let v := partOfBlock b
  let o := s.part n
  if s.partOf q ≠ 0 then s.finish k.id stPartitionDenied none
  else if s.partConflict n v then s.finish k.id stPartitionConflict none
  else if s.partBusy n v then s.finish k.id stPartitionBusy none
  else
    let t := s.flushWays (o.ways ^^^ v.ways)
    let t := t.forgetChans (o.chans ^^^ v.chans)
    let t : State := if o.chans = v.chans then t
      else { t with regions := t.regions.map (fun r => (r.1, if r.2.part = n then { r.2 with valid := false } else r.2)) }
    let t := t.setPart n v
    let t := if n = 0 then t.setCtx 0 { t.ctx 0 with engines := v.engines, memLimit := t.memBytes 0 } else t
    t.finish k.id stOk none

def execPartitionSet (p : Nat) (s : State) : Host.Outcome State Fault Refusal :=
  answer (.partitionSet p) (match s.started p 0x0304 with
    | some (q, k) => partitionRun (s.turned q k) q k
    | none => s)

/-! ### COUNTERS_READ, NUMERICS_POLICY (R92 to R95) -/

/-- Check 7 for COUNTERS_READ. -/
def countersCheck (b : List Byte) : Option (Nat × Nat) := firstBad
  [(decide (field b 0 8 % 16 = 0), badParam 0), (decide (field b 8 1 < 2), badParam 8), (zeroAt b 9 7, badParam 9)]

/-- COUNTERS_READ (R93): one snapshot, cleared when it is taken if CLEAR is set. An engine in reset ends it (R433), and one in replay
keeps it waiting (R434). A result block that cannot be stored clears nothing (notes/assumptions/128). -/
def countersRun (s : State) (q : Nat) (k : Packet) : State :=
  let b := k.params
  let c := s.ctx k.ctx
  if (s.stepEngine k.ctx).any (fun e => s.engineReset e) then s.finish k.id stEngineReset none
  else if (s.stepEngine k.ctx).any (fun e => (s.engine e).mode != .service) then s
  else if isHost (field b 0 8) && !s.hostPath q then s
  else
  let block := toLe 8 c.totals.sat ++ toLe 8 c.totals.flush ++ toLe 8 c.totals.promote ++ toLe 8 c.totals.nans
    ++ toLe 8 s.mtime ++ toLe 8 0
  match s.store { s.accOf q k with host := true } (field b 0 8) block with
  | (t, some e) => t.onErr q k e
  | (t, none) =>
    let t := if (field b 8 1).testBit 0 then t.setCtx k.ctx { t.ctx k.ctx with totals := {} } else t
    t.finish k.id stOk none

def execCountersRead (p : Nat) (s : State) : Host.Outcome State Fault Refusal :=
  answer (.countersRead p) (match s.started p 0x0801 with
    | some (q, k) => countersRun (s.turned q k) q k
    | none => s)

/-- Check 7 for NUMERICS_POLICY. -/
def policyCheck (b : List Byte) : Option (Nat × Nat) := firstBad
  [(decide (field b 0 1 ≤ 1), badParam 0), (zeroAt b 1 15, badParam 1)]

/-- NUMERICS_POLICY (R95). The policy is set when the packet completes. -/
def policyRun (s : State) (_q : Nat) (k : Packet) : State :=
  if (s.ctx k.ctx).stepState.isOpen then s.finish k.id 0x60 none else s.finish k.id stOk none

def execNumericsPolicy (p : Nat) (s : State) : Host.Outcome State Fault Refusal :=
  answer (.numericsPolicy p) (match s.started p 0x0802 with
    | some (q, k) => policyRun (s.turned q k) q k
    | none => s)

/-! ### TASKLIST_RUN, EMPTY, TASK_COMPLETE (R131 to R136) -/

/-- Check 7 for TASKLIST_RUN. -/
def tasklistCheck (b : List Byte) : Option (Nat × Nat) := firstBad
  [(decide (field b 0 8 % 128 = 0), badParam 0), (decide (1 ≤ field b 8 4 ∧ field b 8 4 ≤ 65536), badParam 8),
   (decide (field b 12 1 ≤ 2), badParam 12), (zeroAt b 13 19, badParam 13)]

/-- TASKLIST_RUN: the list begins, and what can be dispatched is. -/
def tasklistRun (s : State) (k : Packet) : State :=
  if k.run.begun then s
  else
    let b := k.params
    (s.modRun k.id (fun u => { u with addr := field b 0 8, count := field b 8 4, begun := true })).settle

def execTasklistRun (p : Nat) (s : State) : Host.Outcome State Fault Refusal :=
  answer (.tasklistRun p) (match s.started p opTasklist with
    | some (_, k) => tasklistRun s k
    | none => s)

/-- The running task `i` of packet `p` whose descriptor has operation `op`, with queue, packet and descriptor; nothing once its
work is done, or while its die is stopped and it pauses (R312, R457). -/
def State.task (s : State) (p i op : Nat) : Option (Nat × Packet × Item × List Byte) :=
  match s.pkt p, s.item p i with
  | some (q, k), some it =>
    if it.done || s.dieStopped (it.eng / 10) || field it.desc 0 1 != op then none else some (q, k, it, it.desc)
  | _, _ => none

/-- The work of a task is done: its writes stand, and TASK_COMPLETE is due. -/
def State.workDone (s : State) (p i : Nat) (m : Marks) (drift : Bool := false) (drifts : List Nat := []) (wrote : List (Nat × Nat) := []) :
    State :=
  (s.modItem p i (fun t => { t with done := true, marks := m, drift, drifts, wrote })).dropTaskData p i

/-- A task has failed (R134); what it has written before stands, and is counted. -/
def State.workFailed (s : State) (p i st d : Nat) (m : Marks) (wrote : List (Nat × Nat) := []) : State :=
  (s.modItem p i (fun t => { t with done := true, status := st, detail := some d, marks := m, wrote })).dropTaskData p i

/-- EMPTY (R136): no work. -/
def execEmpty (p i : Nat) (s : State) : Host.Outcome State Fault Refusal :=
  answer (.empty p i) (match s.task p i 0 with
    | some _ => s.workDone p i {}
    | none => s)

/-- R215: an item that outlasts its slice, which has expired, charges its overrun to the context's debt. -/
def Engine.charge (g : Engine) (c slice now : Nat) : Engine :=
  match g.slotOf c with
  | none => g
  | some k =>
    let v := g.slot k
    match v.ends.find? (fun x => x.1 == slice) with
    | none => g
    | some (_, end_, was) =>
      let spent := now - end_
      if spent ≤ was then g
      else g.setSlot k { v with debt := v.debt + (spent - was),
                                ends := v.ends.map (fun x => if x.1 = slice then (slice, end_, spent) else x) }

/-- R91, R122, R160: what an item has counted, raised and written joins its packet's. -/
def ListRun.joins (u : ListRun) (it : Item) : ListRun :=
  { u with marks := u.marks.add it.marks, drift := u.drift || it.drift, drifts := u.drifts ++ it.drifts,
           wrote := if it.wrote.isEmpty then u.wrote else u.wrote ++ [(it.idx, field it.desc 10 2, it.wrote)] }

/-- TASK_COMPLETE (R132 to R134, R424): the item leaves its core, which a wanted retirement then takes (R437); its counts and
outcome join its packet's; whatever it held back goes on. -/
def taskComplete (s : State) (p i mt : Nat) : State :=
  match s.item p i with
  | none => s
  | some it =>
    if !it.done || !decide ((s.engine it.eng).mode = .service)
        || s.fab.reqs.any (fun r => decide (r.pkt = p ∧ r.task = i + 1)) || s.dieStopped (it.eng / 10) then s
    else
      let s := s.at mt
      let g := s.engine it.eng
      let g := { g.charge it.ctx it.slice s.mtime with progress := g.progress + 1, heldSince := s.mtime }
      let t : State := { s.setEngine it.eng g with
        items := (s.items.filter (fun x => !(x.pkt == p && x.idx == i))).map (fun x =>
          if x.done then x else { x with rivals := x.rivals ++ it.wrote }) }
      let t := t.modRun p (fun u => (if it.status = 0 then u else u.fail i it.status (it.detail.getD 0)).joins it)
      let t := if it.status = stMemUncorrectable then t.faultData it.ctx (it.detail.getD 0) else t
      let t := match it.site with
        | .core c => if (t.core (128 * it.eng + c)).wanted then t.retireCore (128 * it.eng + c) else t
        | _ => t
      t.settle

def execTaskComplete (p i mt : Nat) (s : State) : Host.Outcome State Fault Refusal :=
  answer (.taskComplete p i mt) (taskComplete s p i mt)

/-! ### CONTEXT_LOAD, SLICE_GRANT, SLICE_EXPIRY (R211 to R217) -/

/-- R211: `a` goes before `b` among contexts that wait for a slot: LEVEL, waiting time, context number. -/
def State.waitsBefore (s : State) (a b : Nat × Nat) : Bool :=
  let la := (s.ctx a.1).level
  let lb := (s.ctx b.1).level
  decide (lb < la ∨ (la = lb ∧ (a.2 < b.2 ∨ (a.2 = b.2 ∧ a.1 ≤ b.1))))

/-- R211, R217: the slot that a newcomer takes: the lowest free one, that of the context IDLE longest, or, where every slot
holds a BLOCKED context, that of the one BLOCKED longest. -/
def State.slotFor (s : State) (e : Nat) : Option Nat :=
  let g := s.engine e
  match (List.range 32).find? (fun k => !g.used.contains k) with
  | some k => some k
  | none =>
    let best (f : Slot → Option Nat) : Option Nat :=
      (g.used.foldl (fun (b : Option (Nat × Nat × Nat)) k =>
        let v := g.slot k
        match f v, b with
        | none, b => b
        | some t, none => some (t, v.ctx, k)
        | some t, some (t', c', k') => if t < t' ∨ (t = t' ∧ v.ctx < c') then some (t, v.ctx, k) else some (t', c', k'))
        none).map (fun b => b.2.2)
    match best (·.idleSince) with
    | some k => some k
    | none => if g.used.all (fun k => (g.slot k).blockedAt.isSome) then best (·.blockedAt) else none

/-- CONTEXT_LOAD (R211, R217): the first of the waiting contexts takes a slot. -/
def contextLoad (s : State) (e c : Nat) : State :=
  let g := s.engine e
  match g.waiters.find? (fun w => w.1 == c) with
  | none => s
  | some w =>
    if !s.engineUp e || !g.waiters.all (fun x => s.waitsBefore w x) then s
    else match s.slotFor e with
      | none => s
      | some k =>
        let g := if g.used.contains k then g.release k else g
        let g := { g with used := g.used ++ [k], waiters := g.waiters.filter (fun x => x.1 != c) }
        (s.setEngine e (g.setSlot k { ctx := c })).settle

def execContextLoad (e ctx : Nat) (s : State) : Host.Outcome State Fault Refusal :=
  answer (.contextLoad e ctx) (contextLoad s e ctx)

/-- R212: the slice length in ns. -/
def Ctx.slice (c : Ctx) : Nat := (if c.sliceUs = 0 then 1000 else c.sliceUs) * 1000

/-- R212: round robin in ascending slot number after the level's previous holder; a context whose debt is at least a slice is
passed over once and its debt falls by a slice. -/
def State.pick (s : State) (level : Nat) (cand : List Nat) : Nat → Engine → Option (Nat × Engine)
  | 0, _ => none
  | f + 1, g =>
    let from_ := Tbl.get 0 g.lastSlot level
    let k := match cand.find? (fun k => decide (from_ ≤ k)) with
      | some k => some k
      | none => cand.head?
    match k with
    | none => none
    | some k =>
      let v := g.slot k
      let len := (s.ctx v.ctx).slice
      if len ≤ v.debt then State.pick s level cand f ((g.setSlot k { v with debt := v.debt - len }).passed level k)
      else some (k, g)

/-- R212, R213: the holder among candidates of a level: one that was preempted, unless its debt has it passed over, or the next in
turn. -/
def State.chosen (s : State) (level : Nat) (cand : List Nat) (g : Engine) : Option (Nat × Engine) :=
  let next := Tbl.get 0 g.nextUp level
  if next = 0 ∨ !cand.contains (next - 1) then s.pick level cand 100000 g
  else
    let k := next - 1
    let v := g.slot k
    let len := (s.ctx v.ctx).slice
    if v.debt < len then some (k, g)
    else s.pick level cand 100000 ((({ g with nextUp := Tbl.set 0 g.nextUp level 0 } : Engine).setSlot k { v with debt := v.debt - len }).passed level k)

/-- SLICE_GRANT (R212, R213): a holder among the resident RUNNABLE contexts of the highest LEVEL present, a preempted one first
at its level; its slice is shortened by its debt; then its items are dispatched. -/
def sliceGrant (s : State) (e mt : Nat) : State :=
  let s' := s.at mt
  let g := s'.engine e
  let run := ((List.range 32).filter (fun k => g.used.contains k)).filter (fun k => s'.runnable e (g.slot k).ctx)
  if g.holder.isSome || run.isEmpty then s
  else
    let level := (run.map (fun k => (s'.ctx (g.slot k).ctx).level)).foldl max 0
    let cand := run.filter (fun k => (s'.ctx (g.slot k).ctx).level == level)
    match s'.chosen level cand g with
    | none => s
    | some (k, g) =>
      let v := g.slot k
      let len := (s'.ctx v.ctx).slice
      let g := { g.setSlot k { v with debt := 0 } with
        holder := some k, sliceEnd := s'.mtime + (len - v.debt), slice := g.slice + 1, nextUp := Tbl.set 0 g.nextUp level 0 }
      (s'.setEngine e g).settle

def execSliceGrant (e mt : Nat) (s : State) : Host.Outcome State Fault Refusal :=
  answer (.sliceGrant e mt) (sliceGrant s e mt)

/-- SLICE_EXPIRY (R213, R215): MTIME reaches the slice's end, and items still running will charge their overrun. -/
def sliceExpiry (s : State) (e : Nat) : State :=
  let g := s.engine e
  match g.holder with
  | none => s
  | some k =>
    let s := s.at g.sliceEnd
    let v := g.slot k
    let level := (s.ctx v.ctx).level
    let live (n : Nat) : Bool := s.items.any (fun i => i.eng == e && i.ctx == v.ctx && i.slice == n)
    let ends := v.ends.filter (fun x => live x.1)
    let g := (g.setSlot k { v with ends := if live g.slice then ends ++ [(g.slice, g.sliceEnd, 0)] else ends }).passed level k
    (s.setEngine e { g with holder := none }).settle

def execSliceExpiry (e : Nat) (s : State) : Host.Outcome State Fault Refusal :=
  answer (.sliceExpiry e) (sliceExpiry s e)

end Sys2Proof.Machine
end

