-- ==== Sys2Proof/Machine/Operands.lean ====
section
/-! DEFINITION. Operand and destination forms: direct, blocked (R138 to R143) and narrow (R99 to R122). -/

namespace Sys2Proof.Machine

/-- A descriptor that breaks a rule: BAD_DESCRIPTOR, its DETAIL (the list index, R57) set by whoever ends the task. -/
def badDesc : Err := .fail stBadDescriptor 0

/-- Nothing, or BAD_DESCRIPTOR. -/
def need (ok : Bool) : Rd Unit := if ok then pure () else Rd.fail badDesc

/-! ### Format bytes (R68, R69, R138 to R140, R143) -/

/-- Bytes of a direct element. -/
def elemBytes (fmt : Nat) : Nat := fmtBits fmt / 8

/-- R86: formats without a NaN, whose blocks are poisoned. -/
def poisons (fmt : Nat) : Bool := decide ((5 ≤ fmt ∧ fmt ≤ 9) ∨ fmt = 0xC)

/-! ### Elements as the arrays take them (R72, R78) -/

/-- An operand element: unscaled value, block scale, and the number of the scale block, at whose end a chunk ends. A padded one
contributes +0 products whatever it meets (R167). -/
structure El where
  v   : FVal
  sc  : FVal := .num 1
  cut : Nat := 0
  pad : Bool := false
  deriving DecidableEq, Repr, Inhabited

/-- The element's full value. -/
def El.full (e : El) : FVal := e.v.mul e.sc

def El.nan : El := { v := .nan }

/-! ### Headers -/

/-- R140: a blocked operand header. -/
structure BHdr where
  fmt   : Nat
  scale : Nat
  tid   : Nat
  elem  : Nat
  sca   : Nat
  tag   : Nat
  deriving DecidableEq, Repr

def readBHdr (s : State) (a : Acc) (addr : Nat) (f : Fmt) : Rd BHdr := do
  need (addr % 64 == 0)
  let b ← load s a addr 64
  let h : BHdr := { fmt := field b 0 1, scale := field b 1 1, tid := field b 4 4, elem := field b 8 8,
                    sca := field b 16 8, tag := field b 24 8 }
  need (h.fmt == f.fmt && h.scale == f.scale && zeroAt b 2 2 && h.elem % 256 == 0
    && (if h.scale = 0 then h.sca == 0 else h.sca != 0) && (!poisons h.fmt || h.tag != 0) && zeroAt b 32 32)
  pure (if poisons h.fmt then h else { h with tag := 0 })

/-- R100: a narrow tensor header. -/
structure NHdr where
  addr    : Nat
  tid     : Nat
  fmt     : Nat
  sr      : Bool
  halt    : Bool
  scMax   : Nat
  olShift : Nat
  nblocks : Nat
  thresh  : Nat
  glog    : Nat
  dlog    : Nat
  blk     : Nat
  tag     : Nat
  side    : Nat
  pool    : Nat
  slots   : Nat
  limit   : Nat
  sem     : Nat
  deriving DecidableEq, Repr

/-- R100, R101. Bits 63 to 1 of DRIFT_STATE, which the module writes, are not judged (notes/assumptions/148). -/
def readNHdr (s : State) (a : Acc) (addr : Nat) (f : Fmt) : Rd NHdr := do
  need (addr % 64 == 0)
  let b ← load s a addr 128
  let fl := field b 6 1
  let sc := field b 7 1
  let h : NHdr := { addr := addr, tid := field b 0 4, fmt := field b 4 1, sr := fl.testBit 0, halt := fl.testBit 1,
                    scMax := fld sc 0 2, olShift := fld sc 2 3, nblocks := field b 8 4, thresh := field b 12 2, glog := field b 14 1,
                    dlog := field b 15 1, blk := field b 16 8, tag := field b 24 8, side := field b 32 8, pool := field b 40 8,
                    slots := field b 48 2, limit := field b 56 8, sem := field b 64 8 }
  need (h.fmt == f.fmt && field b 5 1 == f.scale && decide (fl < 4) && decide (h.scMax ≤ 2) && decide (sc < 32)
    && decide (1 ≤ h.nblocks) && decide (h.glog ≤ 8) && (h.dlog == 0 || decide (4 ≤ h.dlog ∧ h.dlog ≤ 12))
    && h.blk % 256 == 0 && h.tag % 256 == 0 && h.side % 256 == 0 && h.pool % 64 == 0 && h.blk != 0 && h.tag != 0
    && (h.side != 0 || (h.scMax == 0 && h.thresh == 0)) && (h.pool != 0 || h.thresh == 0)
    && (h.thresh == 0 || (decide (1 ≤ h.slots ∧ h.slots ≤ 2 ^ h.glog)
      && decide (cdiv h.nblocks (2 ^ h.glog) * h.slots ≤ 2 ^ 24)))
    && zeroAt b 50 6 && h.sem % 8 == 0 && zeroAt b 104 24)
  pure h

/-! ### Reading (R103 to R109, R139 to R141) -/

/-- R140, R104, R70: block `n` of a blocked operand. -/
def readBlock (s : State) (a : Acc) (h : BHdr) (n : Nat) : Rd (List El) := do
  let w := fmtBits h.fmt
  Rd.panel (h.elem + n * (4 * w))
  let raw ← loadNat s a (h.elem + n * (4 * w)) (4 * w)
  let tag ← if h.tag = 0 then pure 0 else loadNat s a (h.tag + n) 1
  let sc ← if h.scale = 0 then pure 127 else loadNat s a (h.sca + n) 1
  if tag ≠ 0 ∨ sc = 0xFF then
    pure (List.replicate 32 { El.nan with cut := if h.scale = 0 then 0 else n })
  else
    let k : Rat := if h.scale = 1 ∧ h.fmt = 8 then pow2 (-6) else 1
    pure ((List.range 32).map (fun i =>
      { v := (decodeFmt h.fmt (fld raw (w * i) w)).mul (.num k),
        sc := if h.scale = 0 then .num 1 else .num (e8m0 sc), cut := if h.scale = 0 then 0 else n }))

/-- R109: the sidecar slots in use. -/
def sideSlots (count word : Nat) : List (Nat × Nat) :=
  (List.range count).map (fun j => (fld word (14 * j) 6, fld word (14 * j + 6) 8))

/-- R102, R103: whether a tag and sidecar word make the block read as poisoned. -/
def tagPoisons (h : NHdr) (tag word : Nat) : Bool :=
  let n := fld tag 2 2
  let promoted := tag.testBit 0
  tag.testBit 1 || n == 3 || (promoted && n != 0) || decide (tag ≥ 32)
    || (n == 2 && fld word 0 6 == fld word 14 6) || (n != 0 && h.side == 0)
    || (promoted && (h.pool == 0 || h.side == 0))

/-- Element values with the sidecar's in their places (R106, R108). -/
def withSide (slots : List (Nat × Nat)) (l : List FVal) : List FVal :=
  (List.range l.length).map (fun i => match slots.find? (fun x => x.1 == i) with
    | some (_, v) => Flt.e4m3.decode v
    | none => (l.drop i).headD .nan)

/-- The bytes of block `b` of a narrow tensor, with its tag, sidecar word and scale: the ranges they lie in. -/
def NHdr.ranges (h : NHdr) (b : Nat) : List (Nat × Nat) :=
  (if h.fmt = 0xA then [(h.blk + 35 * b, 35)] else [(h.blk + 28 * (b / 2), 2), (h.blk + 28 * (b / 2) + 2 + 13 * (b % 2), 13)])
    ++ [(h.tag + b, 1)] ++ (if h.side = 0 then [] else [(h.side + 4 * b, 4)])

/-- Where block `b` of a narrow tensor lies, a ternary one with its pair. -/
def NHdr.place (h : NHdr) (b : Nat) : Nat := if h.fmt = 0xA then h.blk + 35 * b else h.blk + 28 * (b / 2)

/-- The promotion pool of a narrow tensor, as far as a sidecar word can name places in it (R109). -/
def NHdr.poolRange (h : NHdr) : List (Nat × Nat) := if h.pool = 0 then [] else [(h.pool, 64 * 2 ^ 24)]

/-- R103, R105 to R109: what block `b` of a narrow tensor holds. -/
def readWhole (s : State) (a : Acc) (h : NHdr) (b : Nat) : Rd (List El) := do
  Rd.panel (h.place b)
  let tag ← loadNat s a (h.tag + b) 1
  let word ← if h.side = 0 then pure 0 else loadNat s a (h.side + 4 * b) 4
  let promoted := tag.testBit 0
  let slots := sideSlots (fld tag 2 2) word
  if h.fmt = 0xA then
    let raw ← load s a (h.blk + 35 * b) 35
    let sc := field raw 0 1
    if tagPoisons h tag word || sc == 0xFF then pure (List.replicate 64 { El.nan with cut := b })
    else
      let x : FVal := .num (e8m0 sc)
      if promoted then
        let p ← load s a (h.pool + 64 * (word % 2 ^ 24)) 64
        pure (p.map (fun v => { v := Flt.e4m3.decode v.toNat, sc := x, cut := b }))
      else
        let offs := field raw 1 2
        let codes := field raw 3 32
        let vals := (List.range 64).map (fun i =>
          (Flt.e2m1.decode (fld codes (4 * i) 4)).mul (.num (pow2 (-((fld offs (2 * (i / 8)) 2 : Nat) : Int)))))
        pure ((withSide slots vals).map (fun v => { v, sc := x, cut := b }))
  else
    let base := h.blk + 28 * (b / 2)
    let sc ← loadNat s a base 2
    let raw ← load s a (base + 2 + 13 * (b % 2)) 13
    let x := Flt.bf16.decode sc
    if tagPoisons h tag word || raw.any (fun t => decide (243 ≤ t.toNat)) then
      pure (List.replicate 64 { El.nan with cut := b / 2 })
    else if promoted then
      let p ← load s a (h.pool + 64 * (word % 2 ^ 24)) 64
      pure (p.map (fun v => { v := Flt.e4m3.decode v.toNat, sc := x, cut := b / 2 }))
    else
      let vals := (List.range 64).map (fun i =>
        let d := ((raw.drop (i / 5)).headD 0#8).toNat / 3 ^ (i % 5) % 3
        FVal.ofRat (((d : Int) - 1 : Int) : Rat))
      pure ((withSide slots vals).map (fun v => { v, sc := x, cut := b / 2 }))

/-- R125: block `b` of a narrow tensor. One that an agent not ordered with the reader has written meanwhile may read as poisoned, its
tag, sidecar word and bytes coming from different writes: a free choice; one that it has written only in part does. That it reads as old
or as new is the order of the rows. -/
def readNarrow (s : State) (a : Acc) (h : NHdr) (b : Nat) : Rd (List El) := do
  let l ← readWhole s a h b
  let rivals := s.rivalsOf a
  if (h.ranges b).any (fun x => rivals.any (rangesMeet x)) then do
    Rd.note 0 0 false
    let whole := (h.ranges b).all (fun x => rivals.any (fun r => decide (r.1 ≤ x.1 ∧ x.1 + x.2 ≤ r.1 + r.2)))
    pure (if !whole || decide (Config.freeChoice (s.freeAt + 2 ^ 62 + (h.tag + b) % 2 ^ 62) % 2 = 1)
      then List.replicate 64 { El.nan with cut := if h.fmt = 0xA then b else b / 2 } else l)
  else pure l

/-- An opened operand. -/
inductive Opnd where
  | direct (fmt : Nat)
  | blocked (h : BHdr)
  | narrow (h : NHdr)
  deriving DecidableEq, Repr

/-- The operand that a format names at an address: its header read and judged. -/
def openOpnd (s : State) (a : Acc) (f : Fmt) (addr : Nat) : Rd Opnd :=
  if !f.hdr then pure (.direct f.fmt)
  else if f.fmt = 0xA ∨ f.fmt = 0xB then do
    let h ← readNHdr s a addr f
    pure (.narrow h)
  else do
    let h ← readBHdr s a addr f
    pure (.blocked h)

/-- Elements of a block of an opened operand. -/
def Opnd.blockLen : Opnd → Nat
  | .direct _ => 1
  | .blocked _ => 32
  | .narrow _ => 64

def Opnd.fmt : Opnd → Nat
  | .direct f => f
  | .blocked h => h.fmt
  | .narrow h => h.fmt

/-- R141: vector of `len` elements from block `first` of a headered operand. -/
def readVec (s : State) (a : Acc) (o : Opnd) (first len : Nat) : Rd (List El) :=
  match o with
  | .direct _ => Rd.fail badDesc
  | .blocked h => do
    let l ← (List.range (cdiv len 32)).mapM (fun j => readBlock s a h (first + j))
    pure (l.flatten.take len)
  | .narrow h => do
    need (decide (first + cdiv len 64 ≤ h.nblocks))
    let l ← (List.range (cdiv len 64)).mapM (fun j => readNarrow s a h (first + j))
    pure (l.flatten.take len)

/-- R139: `n` contiguous direct elements. -/
def readRow (s : State) (a : Acc) (fmt addr n : Nat) : Rd (List El) := do
  let w := elemBytes fmt
  Rd.panel addr
  let b ← load s a addr (n * w)
  pure ((List.range n).map (fun i => { v := decodeFmt fmt (field b (i * w) w) }))

/-- Rows and columns exchanged. -/
def transpose {α : Type} [Inhabited α] (cols : Nat) (m : List (List α)) : List (List α) :=
  (List.range cols).map (fun j => m.map (fun r => (r.drop j).headD default))

/-- R139, R141: a matrix operand as its vectors along the contraction: `n` vectors of `len` elements. A direct operand holds
the vectors as rows, or as columns when `asCols`; a headered one as its own vectors. -/
def readVectors (s : State) (a : Acc) (f : Fmt) (addr ld org n len : Nat) (asCols : Bool) : Rd (List (List El)) := do
  let o ← openOpnd s a f addr
  match o with
  | .direct fmt =>
    if asCols then do
      let rows ← (List.range len).mapM (fun r => readRow s a fmt (addr + r * ld) n)
      pure (transpose n rows)
    else (List.range n).mapM (fun r => readRow s a fmt (addr + r * ld) len)
  | o => (List.range n).mapM (fun v => readVec s a o (org + v * ld) len)

/-- Linear elements `first` to `first + n - 1` of a headered tensor (R185). -/
def readLinear (s : State) (a : Acc) (o : Opnd) (first n : Nat) : Rd (List El) :=
  let k := o.blockLen
  let b0 := first / k
  if n = 0 then pure [] else do
    let l ← readVec s a o b0 ((first + n + k - 1) / k * k - b0 * k)
    pure ((l.drop (first % k)).take n)

/-! ### What a task writes -/

/-- R125, R133, R160: what is written together: an element, or a block with its tag, sidecar word, scale and pool
values. `poison` are the writes that make a block read as poisoned; `marks` what it counts; `block` the output block that stands or
fails whole (R134, R145): its destination and number. -/
structure WUnit where
  writes : List (Nat × List Byte) := []
  poison : List (Nat × List Byte) := []
  marks  : Marks := {}
  block  : Option (Nat × Nat) := none
  deriving DecidableEq, Repr

/-- What a task writes, its adds to narrow headers: header, DRIFT_ACC, DRIFT_SAMPLES, DENIED_TOTAL (R100), and its memory-side
INT32 maxima: address and operand (R257). -/
structure Out where
  units : List WUnit := []
  adds  : List (NHdr × Nat × Nat × Nat) := []
  maxes : List (Nat × Nat) := []
  deriving DecidableEq, Repr

def Out.append (x y : Out) : Out := { units := x.units ++ y.units, adds := x.adds ++ y.adds, maxes := x.maxes ++ y.maxes }

def Out.join (l : List Out) : Out :=
  { units := l.flatMap (·.units), adds := l.flatMap (·.adds), maxes := l.flatMap (·.maxes) }

/-- The writes in order. -/
def Out.writes (o : Out) : List (Nat × List Byte) := o.units.flatMap (·.writes)

/-- What is counted, an element at most once in each count (R91). -/
def Out.marks (o : Out) : Marks := o.units.foldl (fun m u => m.add u.marks) {}

/-- R91: what tells elements apart: the address of an element or block, and the place in it. -/
def elemKey (addr i : Nat) : Nat := 512 * addr + i

/-- The counts of one converted element. -/
def Conv.marks (c : Conv) (key : Nat) : Marks :=
  let on (b : Bool) : List Nat := if b then [key] else []
  { sat := on c.sat, flush := on c.flush, nans := on c.nan }

/-- The counts of the elements of a block. -/
def blockMarks (addr : Nat) (l : List Conv) : Marks :=
  l.zipIdx.foldl (fun m e => m.add (e.1.marks (elemKey addr e.2))) {}

/-- One direct element. -/
def elemUnit (fmt addr : Nat) (c : Conv) : WUnit :=
  { writes := [(addr, toLe (elemBytes fmt) c.bits)], marks := c.marks (elemKey addr 0) }

/-- How a task rounds stochastically: seed, step (R118), or not at all. -/
structure Key where
  seed : Nat
  step : Nat
  deriving DecidableEq, Repr

/-- R118, R119: the rounding of an element. -/
def rndOf (key : Option Key) (tid index : Nat) : Rnd :=
  match key with
  | none => .rne
  | some k => .sr (srbits k.seed k.step tid index)

/-- Elements of `w` bits packed from bit 0 upward (R67). -/
def pack (w : Nat) (l : List Nat) : Nat := l.foldr (fun v acc => v + acc * 2 ^ w) 0

/-- R139, R86: a run of direct elements. -/
def writeRow (fmt addr tid index : Nat) (key : Option Key) (vs : List FVal) : Out :=
  { units := vs.zipIdx.map (fun e =>
      elemUnit fmt (addr + elemBytes fmt * e.2) (convertFmt fmt (rndOf key tid (index + e.2)) e.1)) }

/-- R71, R86, R90, R140: block `n` of a blocked destination; elements past the vector are zero and not counted. -/
def writeBlock (h : BHdr) (key : Option Key) (n : Nat) (vs : List FVal) : Out :=
  let w := fmtBits h.fmt
  let at_ := h.elem + n * (4 * w)
  let tagW (t : Nat) : List (Nat × List Byte) := if h.tag = 0 then [] else [(h.tag + n, toLe 1 t)]
  let scW (x : Nat) : List (Nat × List Byte) := if h.scale = 0 then [] else [(h.sca + n, toLe 1 x)]
  let elems (bits : List Nat) : List (Nat × List Byte) := [(at_, toLe (4 * w) (pack w bits))]
  let bad := elems [] ++ scW 0xFF ++ tagW 2
  let canPoison := poisons h.fmt || h.scale == 1
  let poison := if canPoison then bad else []
  if vs.any FVal.isNan && canPoison then
    { units := [{ writes := bad, poison, marks := { nans := (List.range 32).map (elemKey at_) } }] }
  else
    let x := mxScale (emaxOf h.fmt) vs
    let div : Rat := if h.scale = 0 then 1 else e8m0 x * (if h.fmt = 8 then pow2 (-6) else 1)
    let cs := vs.zipIdx.map (fun e => convertFmt h.fmt (rndOf key h.tid (32 * n + e.2)) (e.1.div div))
    { units := [{ writes := elems (cs.map (·.bits)) ++ scW x ++ tagW 0, poison, marks := blockMarks at_ cs }] }

/-! ### Encoding narrow blocks (R110 to R121) -/

/-- A magnitude; none is infinite. -/
def magOf (v : FVal) : Option Rat :=
  match v with
  | .inf _ => none
  | v => some (ratAbs v.rat)

/-- One magnitude is less than another. -/
def magLt (a b : Option Rat) : Bool :=
  match a, b with
  | some x, some y => decide (x < y)
  | some _, none => true
  | none, _ => false

def magMax (l : List (Option Rat)) : Option Rat := l.foldl (fun a b => if magLt a b then b else a) (some 0)

/-- R110: the positions of the outliers, slot 0 first. -/
def outliers (h : NHdr) (v : List FVal) : List Nat :=
  let m := (List.range v.length).map (fun i => (i, magOf ((v.drop i).headD .nan)))
  let ranked := sortBy (fun a b => magLt b.2 a.2 || (!magLt a.2 b.2 && decide (a.1 ≤ b.1))) m
  let ref := ((ranked.drop h.scMax).head?.map Prod.snd).getD (some 0)
  let bound := ref.map (fun r => r * ((2 ^ h.olShift : Nat) : Rat))
  ((ranked.take h.scMax).takeWhile (fun e => e.2 != some 0 && !magLt e.2 bound)).map Prod.fst

/-- What one block becomes: its bytes in the block array, sidecar word, the values it reads back, how each element was
converted, and how many sidecar slots it uses. -/
structure Enc where
  bytes  : List Byte
  word   : Nat
  q      : List Rat
  convs  : List Conv
  nside  : Nat
  deriving DecidableEq, Repr

/-- R109: the sidecar word of outlier positions and values. -/
def sideWord (l : List (Nat × Nat)) : Nat :=
  (l.zipIdx.map (fun e => (e.1.1 + e.1.2 * 64) * 2 ^ (14 * e.2))).sum

/-- ⌊log₂⌋ of a magnitude; none for an infinite one. -/
def magLog (m : Option Rat) : Option Int := m.map ilog2

/-- How each element was converted: an outlier as its sidecar value. -/
def withConvs (side : List (Nat × Conv)) (cs : List Conv) : List Conv :=
  cs.zipIdx.map (fun e => match side.find? (fun x => x.1 == e.2) with
    | some (_, c) => c
    | none => e.1)

/-- R111: a PF4 block without NaN. -/
def encodePf4 (h : NHdr) (key : Option Key) (b : Nat) (v : List FVal) : Enc :=
  let out := outliers h v
  let at' (i : Nat) : FVal := (v.drop i).headD .nan
  let mags := (List.range 64).map (fun i => if out.contains i then some 0 else magOf (at' i))
  let amax := magMax mags
  let scale : Nat :=
    let clamp (e : Option Int) : Nat := match e with
      | none => 254
      | some e => (max (-127) (min 127 e) + 127).toNat
    if amax ≠ some 0 then clamp ((magLog amax).map (· - 2))
    else if !out.isEmpty then clamp ((magLog (magMax (out.map (fun i => magOf (at' i))))).map (· - 8))
    else 0
  let x := e8m0 scale
  let offs := (List.range 8).map (fun k =>
    let m := magMax ((mags.drop (8 * k)).take 8)
    if m = some 0 then 0
    else match magLog amax, magLog m with
      | none, none => 0
      | none, some _ => 3
      | some a, some c => min 3 (a - c).toNat
      | some _, none => 0)
  let off (i : Nat) : Rat := pow2 (-(((offs.drop (i / 8)).headD 0 : Nat) : Int))
  let cs := (List.range 64).map (fun i =>
    if out.contains i then ({ bits := 0 } : Conv)
    else Flt.e2m1.convert (rndOf key h.tid (64 * b + i)) ((at' i).div (x * off i)))
  let side := out.map (fun i => (i, Flt.e4m3.convert .rne ((at' i).div x)))
  let q := (List.range 64).map (fun i => match side.find? (fun e => e.1 == i) with
    | some (_, c) => (Flt.e4m3.decode c.bits).rat * x
    | none => (Flt.e2m1.decode ((cs.drop i).headD { bits := 0 }).bits).rat * x * off i)
  { bytes := toLe 1 scale ++ toLe 2 (pack 2 offs) ++ toLe 32 (pack 4 (cs.map (·.bits))),
    word := sideWord (side.map (fun e => (e.1, e.2.bits))), q, convs := withConvs side cs, nside := out.length }

/-- R112: an infinite magnitude counts as 2^128. -/
def mag128 (v : FVal) : Rat := (magOf v).getD (pow2 128)

/-- R112, R116: the T128 scale of a pair, from its blocks (`none` for a poisoned one). A last pair that has one block, poisoned, counts as
poisoned whole (notes/assumptions/149). -/
def pairScale (h : NHdr) (blocks : List (Option (List FVal))) : Nat :=
  let parts := blocks.filterMap id
  if parts.isEmpty then 0x7FC0
  else
    let split := parts.map (fun v =>
      let out := outliers h v
      (((List.range 64).filter (fun i => !out.contains i)).map (fun i => mag128 ((v.drop i).headD .nan)),
        out.map (fun i => mag128 ((v.drop i).headD .nan))))
    let ins := split.flatMap Prod.fst
    let outs := split.flatMap Prod.snd
    let toBf (q : Rat) : Nat :=
      let c := (Flt.bf16.convert .rne (FVal.ofRat q)).bits
      if c = 0x7F80 then 0x7F7F else c
    let sum := ins.foldl (· + ·) 0
    if sum ≠ 0 then toBf (sum / ((ins.length : Nat) : Rat))
    else if !outs.isEmpty then toBf (outs.foldl max 0 * pow2 (-8))
    else 0

/-- A value over the pair's scale; over a zero scale a non-zero value is infinite. -/
def overScale (v : FVal) (s : Rat) : FVal :=
  if s = 0 then (match v with
    | .num q => .inf (decide (q < 0))
    | v => v) else v.div s

/-- R112: one trit and whether it was saturated. -/
def toTrit (r : Rnd) (v : FVal) : Int × Bool :=
  match v with
  | .nan => (0, false)
  | .inf s => (if s then -1 else 1, true)
  | .zero _ => (0, false)
  | .num q =>
    let a := ratAbs q
    let n := roundNat r a
    let huge := match r with
      | .rne => decide (1 < n)
      | .sr _ => decide (1 < a)
    let m : Int := if huge then 1 else (n : Int)
    (if q < 0 then -m else m, huge)

/-- R108: the 13 bytes of 64 trits. -/
def packTrits (t : List Int) : List Byte :=
  (List.range 13).map (fun j =>
    let d := (List.range 5).map (fun k => if j = 12 ∧ k = 4 then 1 else (((t.drop (5 * j + k)).headD 0) + 1).toNat)
    BitVec.ofNat 8 ((d.zipIdx.map (fun e => e.1 * 3 ^ e.2)).sum))

/-- R108, R112: a ternary block without NaN, under its pair's scale. Of what it delivers as zero nothing is counted (R124). -/
def encodeTern (h : NHdr) (key : Option Key) (b : Nat) (s : Rat) (v : List FVal) : Enc :=
  let out := outliers h v
  let at' (i : Nat) : FVal := (v.drop i).headD .nan
  let ts := (List.range 64).map (fun i =>
    if out.contains i then (0, false) else toTrit (rndOf key h.tid (64 * b + i)) (overScale (at' i) s))
  let side := out.map (fun i => (i, Flt.e4m3.convert .rne (overScale (at' i) s)))
  let q := (List.range 64).map (fun i => match side.find? (fun e => e.1 == i) with
    | some (_, c) => (Flt.e4m3.decode c.bits).rat * s
    | none => ((((ts.drop i).headD (0, false)).1 : Int) : Rat) * s)
  { bytes := packTrits (ts.map Prod.fst), word := sideWord (side.map (fun e => (e.1, e.2.bits))), q,
    convs := (withConvs side (ts.map (fun e => { bits := 0, sat := e.2 }))).map (fun c => { c with flush := false }), nside := out.length }

/-- R113: the promotion test fails. -/
def failsTest (h : NHdr) (v : List FVal) (q : List Rat) : Bool :=
  if h.thresh = 0 ∨ v.any FVal.isInf then false
  else
    let vs := v.map FVal.rat
    let e := (List.zipWith (fun x y => ratAbs (x - y)) vs q).foldl (· + ·) 0
    let n := (vs.map ratAbs).foldl (· + ·) 0
    decide (e > mkRat h.thresh 65536 * n)

/-- R121: the drift of a sampled block, in units of 2⁻²⁴. -/
def driftOf (v : List FVal) (q : List Rat) : Nat :=
  let x := e8m0 (mxScale 8 v)
  let q8 := v.map (fun e => (Flt.e4m3.decode (Flt.e4m3.convert .rne (e.div x)).bits).rat * x)
  let n := (q8.map ratAbs).foldl (· + ·) 0
  let e := (List.zipWith (fun a b => ratAbs (a - b)) q q8).foldl (· + ·) 0
  let d : Rat := if n = 0 then (if q.all (· == 0) then 0 else 1) else min 1 (e / n)
  natFloor (d * ((2 ^ 24 : Nat) : Rat))

/-- The narrow writer's progress: output, and promoted blocks of the group under way. -/
structure NOut where
  out   : Out := {}
  group : Nat := 0
  used  : Nat := 0
  deriving DecidableEq, Repr

/-- The writes that poison a block: its bytes, its tag and its sidecar word (R116). -/
def poisonWrites (h : NHdr) (b arr : Nat) (bytes : List Byte) : List (Nat × List Byte) :=
  [(arr, bytes), (h.tag + b, toLe 1 2)] ++ (if h.side = 0 then [] else [(h.side + 4 * b, toLe 4 0)])

/-- The tag, sidecar and pool writes of a block, and what it counts (R102, R109, R114 to R117, R120). `arr` is where its
bytes go, `pre` what goes before them, `scale` what pool values are relative to, `promoBytes` the bytes of a promoted block,
`bad` those of a poisoned one. -/
def NOut.block (h : NHdr) (key : Key) (n : NOut) (b : Nat) (v : List FVal) (enc : Enc) (arr : Nat) (pre : List (Nat × List Byte))
    (scale : Rat) (promoBytes bad : List Byte) : NOut :=
  let g := b / 2 ^ h.glog
  let used := if g = n.group then n.used else 0
  let fails := failsTest h v enc.q
  let sideW (w : Nat) : List (Nat × List Byte) := if h.side = 0 then [] else [(h.side + 4 * b, toLe 4 w)]
  let poison := pre ++ poisonWrites h b arr bad
  if fails && decide (used < h.slots) then
    let idx := g * h.slots + used
    let cs := v.zipIdx.map (fun e =>
      Flt.e4m3.convert (rndOf (if h.sr then some key else none) h.tid (64 * b + e.2)) (overScale e.1 scale))
    let u : WUnit := { writes := pre ++ [(arr, promoBytes), (h.tag + b, toLe 1 1),
                                         (h.pool + 64 * idx, cs.map (fun c => BitVec.ofNat 8 c.bits))] ++ sideW idx,
                       poison, marks := { blockMarks arr cs with promote := [elemKey arr 0] } }
    { out := n.out.append { units := [u] }, group := g, used := used + 1 }
  else
    let sampled := decide (h.dlog ≠ 0 ∧ b % 2 ^ h.dlog = key.step % 2 ^ h.dlog)
    let u : WUnit := { writes := pre ++ [(arr, enc.bytes), (h.tag + b, toLe 1 (4 * enc.nside + (if fails then 16 else 0)))]
                                   ++ sideW enc.word,
                       poison, marks := blockMarks arr enc.convs }
    { out := n.out.append { units := [u],
                            adds := if sampled || fails then [(h, if sampled then driftOf v enc.q else 0, if sampled then 1 else 0,
                                                               if fails then 1 else 0)] else [] },
      group := g, used }

/-- R116: a poisoned block. -/
def NOut.poison (h : NHdr) (n : NOut) (b arr : Nat) (pre : List (Nat × List Byte)) (bytes : List Byte) : NOut :=
  let g := b / 2 ^ h.glog
  let w := pre ++ poisonWrites h b arr bytes
  { out := n.out.append { units := [{ writes := w, poison := w, marks := { nans := (List.range 64).map (elemKey arr) } }] },
    group := g, used := if g = n.group then n.used else 0 }

/-- R115, R144: every promotion group and ternary pair of the tensor that a set of blocks touches lies wholly in it. -/
def wholeUnits (h : NHdr) (bs : List Nat) : Bool :=
  bs.all (fun b =>
    let g := 2 ^ h.glog
    (List.range g).all (fun i => decide (h.nblocks ≤ b / g * g + i) || bs.contains (b / g * g + i))
    && (h.fmt == 0xA || decide (h.nblocks ≤ b / 2 * 2 + 1) || (bs.contains (b / 2 * 2) && bs.contains (b / 2 * 2 + 1))))

/-- The two blocks of a ternary pair share a scale, and so stand or fail together. -/
def NOut.pair (n : NOut) : NOut :=
  match n.out.units.reverse with
  | y :: x :: r => { n with out := { n.out with units :=
      ({ writes := x.writes ++ y.writes, poison := x.poison ++ y.poison, marks := x.marks.add y.marks } :: r).reverse } }
  | _ => n

/-- R110 to R122: the blocks of a narrow destination, each with its 64 values, by ascending number. -/
def writeNarrow (h : NHdr) (key : Key) (blocks : List (Nat × List FVal)) : Out :=
  let ek := if h.sr then some key else none
  let nan (v : List FVal) : Bool := v.any FVal.isNan
  (blocks.foldl (fun (n : NOut) e =>
    let (b, v) := e
    if h.fmt = 0xA then
      let arr := h.blk + 35 * b
      let bad := 0xFF#8 :: List.replicate 34 0#8
      if nan v then n.poison h b arr [] bad
      else
        let promo := mxScale 8 v
        n.block h key b v (encodePf4 h ek b v) arr [] (e8m0 promo) (toLe 1 promo ++ List.replicate 34 0#8) bad
    else
      let pair := (blocks.filter (fun x => x.1 / 2 == b / 2)).map (fun x => if nan x.2 then none else some x.2)
      let sc := pairScale h pair
      let base := h.blk + 28 * (b / 2)
      let arr := base + 2 + 13 * (b % 2)
      let pre := if b % 2 = 0 then [(base, toLe 2 sc)] else []
      let s := (Flt.bf16.decode sc).rat
      let bad := List.replicate 13 0#8
      let n := if nan v then n.poison h b arr pre bad
        else n.block h key b v (encodeTern h ek b s v) arr pre s (List.replicate 13 0x79#8) bad
      if b % 2 = 1 ∧ 2 ≤ pair.length then n.pair else n) {}).out

/-! ### Destinations -/

/-- A destination of a task: its format (or EA48 partials), place, stride, origin, and how it rounds. -/
structure Dest where
  fmt     : Fmt
  partial_ : Bool := false
  addr    : Nat
  ld      : Nat
  org     : Nat
  tid     : Nat
  sr      : Bool
  deriving DecidableEq, Repr

/-- Runs of the present elements of a row: position and values (R154). -/
def runs (row : List (Option FVal)) : List (Nat × FVal) :=
  row.zipIdx.filterMap (fun e => e.1.map (fun v => (e.2, v)))

/-- R134, R145: rows written as output blocks of 16 rows and `n` columns, row-major; `f` gives what the present elements from a row and
column on become. -/
def byBlocks (addr n : Nat) (rows : List (List (Option FVal))) (f : Nat → Nat → List (Option FVal) → Out) : Out :=
  let cols := cdiv (rows.headD []).length n
  Out.join ((List.range (cdiv rows.length 16)).flatMap (fun bi => (List.range cols).map (fun bj =>
    let o := Out.join (((rows.drop (16 * bi)).take 16).zipIdx.map (fun r => f (16 * bi + r.2) (n * bj) ((r.1.drop (n * bj)).take n)))
    { o with units := o.units.map (fun u => { u with block := some (addr, bi * cols + bj) }) })))

/-- R139 to R144, R149, R161: rows of values written to a destination; an absent value is not written. Direct elements, partials and
32-element blocks go out by output blocks; a narrow destination by its own blocks in ascending order (R115). A direct LD that is no
multiple of the element size counts whole elements (notes/assumptions/154). -/
def writeDest (s : State) (a : Acc) (d : Dest) (key : Key) (rows : List (List (Option FVal))) : Rd Out :=
  if d.partial_ then
    pure (byBlocks d.addr 16 rows (fun i j vs => Out.join ((runs vs).map (fun e =>
      ({ units := [{ writes := [(d.addr + i * d.ld + 8 * (j + e.1), toLe 8 (ea48Pack e.2))] }] } : Out)))))
  else do
    let o ← openOpnd s a d.fmt d.addr
    let ek := if d.sr then some key else none
    match o with
    | .direct fmt =>
      let w := elemBytes fmt
      pure (byBlocks d.addr 16 rows (fun i j vs => Out.join ((runs vs).map (fun e =>
        writeRow fmt (d.addr + i * d.ld + w * (j + e.1)) d.tid (d.org + i * (d.ld / w) + (j + e.1)) ek [e.2]))))
    | .blocked h =>
      let len := (rows.headD []).length
      need (decide (rows.length ≤ 1 ∨ cdiv len 32 ≤ d.ld))
      pure (byBlocks d.addr 32 rows (fun i j vs => writeBlock h ek (d.org + i * d.ld + j / 32) (vs.map (·.getD .nan))))
    | .narrow h =>
      let len := (rows.headD []).length
      let k := cdiv len 64
      need (decide (rows.length ≤ 1 ∨ k ≤ d.ld))
      let blocks := rows.zipIdx.flatMap (fun r => (List.range k).map (fun j =>
        let vs := ((r.1.drop (64 * j)).take 64).map (·.getD .nan)
        (d.org + r.2 * d.ld + j, vs ++ List.replicate (64 - vs.length) (.zero false))))
      need (blocks.all (fun b => decide (b.1 < h.nblocks)) && wholeUnits h (blocks.map Prod.fst))
      pure (writeNarrow h key (sortBy (fun x y => decide (x.1 ≤ y.1)) blocks))

/-! ### What a task does to the state -/

/-- R100, R122: the adds to a narrow header, exact and memory-side. The add that brings DRIFT_ACC to DRIFT_LIMIT sets TRIPPED and
calls for the semaphore; of a header at a peer the reply tells (R352). Answers the semaphore to add to, and whether the packet is
to end with DRIFT_EXCEEDED. -/
def State.headerAdd (s : State) (a : Acc) (e : NHdr × Nat × Nat × Nat) : Except (State × Err) (State × List Nat × Bool) :=
  let (h, acc, n, den) := e
  let more (r : Except (State × Err) State) (off v : Nat) (drift : Option (Nat × Nat × Nat × Bool)) : Except (State × Err) State := match r with
    | .error e => .error e
    | .ok t => if v = 0 then .ok t else match t.addAt a (h.addr + off) v drift with
      | .ok u => .ok u
      | .error e => .error (t.addTrace a (h.addr + off) 8, e)
  match s.resolve a (h.addr + 72) with
  | .error e => .error (s, e)
  | .ok .peer => match more (more (more (.ok s) 72 acc (some (h.limit, acc, h.sem, h.halt))) 80 n none) 88 den none with
    | .error e => .error e
    | .ok t => .ok (t, [], false)
  | .ok _ =>
    let old := (((loadNat s a (h.addr + 72) 8).run.run []).1).toOption.getD 0
    let trips := decide (h.limit ≠ 0 ∧ old < h.limit ∧ h.limit ≤ old + acc)
    match more (more (more (.ok s) 72 acc none) 80 n none) 88 den none with
    | .error e => .error e
    | .ok t => if !trips then .ok (t, [], false) else match t.store a (h.addr + 96) (toLe 8 1) with
      | (t, some e) => .error (t, e)
      | (t, none) => .ok (t, if h.sem = 0 then [] else [h.sem], h.halt)

/-- All the header adds of a task, up to the first that fails. -/
def State.headerAdds (s : State) (a : Acc) (l : List (NHdr × Nat × Nat × Nat)) : State × List Nat × Bool × Option Err :=
  l.foldl (fun (r : State × List Nat × Bool × Option Err) e => match r with
    | (t, sems, halt, none) => match t.headerAdd a e with
      | .ok (t, x, b) => (t, sems ++ x, halt || b, none)
      | .error (t, e) => (t, sems, halt, some e)
    | r => r) (s, [], false, none)

/-- R257: an exact INT32 maximum made at the operand's home, or asked of a peer's (R352). -/
def State.maxAt (s : State) (a : Acc) (g v : Nat) : State × Option Err :=
  match s.resolve a g with
  | .error e => (s, some e)
  | .ok .peer => match s.request 2 a.pkt a.part g 4 none [v, 2] [] a.task with
    | .ok t => (t, none)
    | .error e => (s, some e)
  | .ok _ => match s.homeRead a (loadNat s a g 4) with
    | (.error e, t) => (t, some e)
    | (.ok old, t) => if int32 v ≤ int32 old then (t, none) else t.store { a with atHome := true } g (toLe 4 v)

/-- All the maxima of a task, up to the first that fails. -/
def State.maxAll (s : State) (a : Acc) (l : List (Nat × Nat)) : State × Option Err :=
  l.foldl (fun (r : State × Option Err) e => match r with
    | (t, none) => t.maxAt a e.1 e.2
    | r => r) (s, none)

/-- R335 CLASS 3 and 4: the address of the first word that a task brings into its core's operand buffer, or an instruction into its
engine's tile buffers (R180), where a mask is armed for that buffer. -/
def State.stageHit (s : State) (it : Item) (l : List (Nat × Nat × Bool)) : Option Nat :=
  let armed := match it.site with
    | .core c => s.aimed 3 (128 * it.eng + c)
    | _ => s.aimed 4 it.eng
  if !armed then none else ((l.filter (fun r => decide (panelMark ≤ r.1))).getLast?).map (fun r => (r.1 - panelMark) / 16 * 16)

/-- The word of module memory at a global address. -/
def State.homeWord (s : State) (part g : Nat) : Option Nat :=
  if g >>> 48 = s.fab.moduleId ∧ g % 2 ^ 48 < s.memBytes part then some (s.place part (g % 2 ^ 48) / 16) else none

/-- R322, R335: the memory as a task sees it whose buffer takes a mask at address `g`: a mask that detection finds has the panel fetched
again; one that is a code word itself changes what is delivered. -/
def State.masked (s : State) (part g : Nat) : State :=
  match s.homeWord part g with
  | some w => if syndWord s.ecc.maskCk ≠ 0 then s
    else { s with copies := (w, (s.mem.flip w s.ecc.dataMask 0).word w, 0#16) :: s.copies.filter (fun c => c.1 != w) }
  | none => s

/-- R333, R335: what that leaves. -/
def State.stageInject (s : State) (it : Item) (part g : Nat) : State :=
  let sy := syndWord s.ecc.maskCk
  let t := records.fired s (s.homeWord part g) g it.ctx s.ecc.maskCk
  if sy = 0 then t else t.uncorrectable s.ecc.cls 0 s.ecc.index sy g it.ctx

/-- A task's computation made, its buffer's injection with it. -/
def State.staged (s : State) (a : Acc) (it : Option Item) (r : State → Rd Out) : Except Err Out × State :=
  match it.bind (fun i => (s.stageHit i ((r s).run.run []).2).map (fun g => (i, g))) with
  | none => s.reading a (r s)
  | some (i, g) =>
    let (x, l) := (r (s.masked a.part g)).run.run []
    (x, (s.noteReads a l).stageInject i a.part g)

/-- Writes that follow one another in memory, taken together. -/
def joined (l : List (Nat × List Byte)) : List (Nat × List Byte) :=
  l.foldr (fun e acc => match acc with
    | (b, y) :: r => if e.1 + e.2.length = b then (e.1, e.2 ++ y) :: r else e :: acc
    | [] => [e]) []

/-- A write cut into its bytes. -/
def byBytes (w : Nat × List Byte) : List (Nat × List Byte) := w.2.zipIdx.map (fun b => (w.1 + b.2, [b.1]))

/-- R125, R160: what a unit writes where items that are not ordered with the task have written the same bytes: its own bytes, what
they have not written, or a poisoned block. `n` tells the free choices of a task apart. -/
def State.contest (s : State) (rivals : List (Nat × Nat)) (n : Nat) (u : WUnit) : List (Nat × List Byte) :=
  let hit (w : Nat × List Byte) : Bool := rivals.any (fun r => rangesMeet r (w.1, w.2.length))
  if !u.writes.any hit then u.writes
  else match Config.freeChoice (s.freeAt + n) % (if u.poison.isEmpty then 2 else 3) with
    | 0 => u.writes
    | 1 => joined (u.writes.flatMap (fun w => ((byBytes w).filter (fun b => !hit b))))
    | _ => u.poison

/-- R134: units by output block, in order. -/
def byOutput (l : List (List (Nat × List Byte) × WUnit)) : List (List (Nat × List Byte) × Marks) :=
  (l.foldr (fun (e : List (Nat × List Byte) × WUnit) (acc : List (Option (Nat × Nat) × List (Nat × List Byte) × Marks)) => match acc with
    | (b, ws, m) :: r => if b.isSome ∧ b = e.2.block then (b, e.1 ++ ws, e.2.marks.add m) :: r else (e.2.block, e.1, e.2.marks) :: acc
    | [] => [(e.2.block, e.1, e.2.marks)]) []).map Prod.snd

/-- R134: units stored in order. Where a store fails, the output blocks before it stand, and nothing of it or after it is written.
Answers what was counted, what was written, and the error. -/
def State.putUnits (s : State) (a : Acc) (l : List (List (Nat × List Byte) × WUnit)) : State × Marks × List (Nat × Nat) × Option Err :=
  let spans (ws : List (Nat × List Byte)) : List (Nat × Nat) := ws.map (fun w => (w.1, w.2.length))
  match s.storeAll a (joined (l.flatMap Prod.fst)) with
  | (t, none) => (t, l.foldl (fun m u => m.add u.2.marks) {}, spans (l.flatMap Prod.fst), none)
  | (_, some (.fail _ _)) => (byOutput l).foldl (fun (r : State × Marks × List (Nat × Nat) × Option Err) u => match r with
      | (t, m, w, none) => match t.storeAll a u.1 with
        | (t', none) => (t', m.add u.2, w ++ spans u.1, none)
        | (_, some e) => (t, m, w, some e)
      | r => r) (s, {}, [], none)
  | (_, some e) => (s, {}, [], some e)

/-- What a task's results do: its units and header adds are written, and its work is done, or it fails at the first store that
does. -/
def State.putOut (s : State) (a : Acc) (p i : Nat) (o : Out) : Except Err State :=
  let rivals := s.rivalsOf a
  let ws := o.units.zipIdx.map (fun u => (s.contest rivals u.2 u.1, u.1))
  let s' := if rivals.isEmpty then s else s.drew
  match s'.putUnits a ws with
  | (t, m, w, some (.fail st d)) => .ok (t.workFailed p i st d m (mergeRanges w))
  | (_, _, _, some e) => .error e
  | (t, m, w, none) =>
    let wrote := mergeRanges w
    match t.maxAll a o.maxes with
    | (t, some (.fail st d)) => .ok (t.workFailed p i st d m wrote)
    | (_, some e) => .error e
    | (t, none) => match t.headerAdds a o.adds with
      | (t, sems, halt, none) => .ok (t.workDone p i m halt sems wrote)
      | (t, _, _, some (.fail st d)) => .ok (t.workFailed p i st d m wrote)
      | (_, _, _, some e) => .error e

/-- What a task's computation does to the state: its reads are noted; on success its writes and adds are made and its work is
done; otherwise it fails, waits, or asks a peer. DETAIL of BAD_DESCRIPTOR is the list index. -/
def State.runTask (s : State) (q : Nat) (k : Packet) (a : Acc) (p i : Nat) (r : State → Rd Out) : State :=
  let bad (t : State) (e : Err) : State := match e with
    | .fail st d => t.workFailed p i st (if st = stBadDescriptor then i else d) {}
    | .held => s.modItem p i (fun t => { t with waits := true })
    | .remote g n => match s.askRead (s.partOf q) k.id g n a.task with
      | .ok t => t
      | .error (.fail st d) => s.workFailed p i st d {}
      | .error _ => s
  match s.staged a (s.item p i) r with
  | (.error e, t) => bad t e
  | (.ok o, t) => match t.putOut a p i o with
    | .ok t => t
    | .error e => bad t e

end Sys2Proof.Machine
end

