-- ==== Sys2Proof/Machine/Training.lean ====
section
/-! DEFINITION. The step sequencer: STEP_BEGIN, the judging of lists, aborts of a step, activation residency, HOST_SPILL and
HOST_FETCH (R228 to R248). An automatic transfer under way goes on through a reset of its engine, whose watchdog does not count it
(notes/assumptions/133). -/

namespace Sys2Proof.Machine

/-- A packet ends with no effect at all: its completion record alone, with no SIGNAL add (R56, R59, R238). -/
def State.finishSilent (s : State) (p st : Nat) (d : Option Nat) : State :=
  if (s.pkt p).any (fun r => r.2.phase == .finished) then s
  else (s.finish p st d).modPkt p (fun k => { k with signalled := true })

/-! ### Prefetch (R245, R246) -/

/-- R245: whether micro-batch `j` is due to be in module memory. -/
def State.mbDue (s : State) (c : Nat) (a : Act) (j : Nat) : Bool :=
  let x := s.ctx c
  x.stepState == .drain && decide (x.nmb ≤ j + x.bwdMet / max 1 x.lpmb + a.kcur)

/-- R246: the prefetch distance from the block. -/
def prefetch (bytesMax bw tbwd kmin kmax : Nat) : Nat :=
  let k := if bw = 0 ∨ tbwd = 0 then kmin else cdiv (cdiv bytesMax bw) tbwd + 1
  max kmin (min k kmax)

/-- R246: the largest spilled bytes of any micro-batch: of the entries that the step has spilled. -/
def State.bytesMax (s : State) (c : Nat) : Nat :=
  let es := (s.ctx c).spilled.map (s.ent c)
  ((List.range (s.ctx c).nmb).map (fun j => ((es.filter (fun e => e.mb == j)).map (·.bytes)).sum)).foldl max 0

/-- R246: K_CUR recomputed. -/
def State.newK (s : State) (c : Nat) : State :=
  match s.act c with
  | none => s
  | some a =>
    let k := prefetch (s.bytesMax c) a.bw a.tbwd a.kmin a.kmax
    s.setAct c { a with kcur := k } 7 1 k

/-- R246: one sample into a running average. -/
def average (old sample : Nat) : Nat :=
  if old = 0 then sample else if old ≤ sample then old + (sample - old) / 8 else old - (old - sample) / 8

/-- R245: what has come due: queued spills are cancelled, spilled entries are queued for fetching. With AUTO 0 software fetches (R240). -/
def State.comeDue (s : State) (c : Nat) : State :=
  match s.act c with
  | none => s
  | some a =>
    if !a.auto then s
    else
      let due := (List.range (s.ctx c).nmb).filter (fun j => s.mbDue c a j)
      let t := due.foldl (fun t j =>
        let es := t.entsOf c a j
        let x := t.ctx c
        let back := es.filter (fun e => (t.ent c e).st == 2 && !x.fetchQ.contains e)
        (t.setCtx c { x with spillQ := x.spillQ.filter (fun e => !es.contains e), fetchQ := x.fetchQ ++ back }).mbAdds c a j) s
      t.startXfer c

/-! ### STEP_BEGIN (R229 to R231) -/

/-- Check 7 for STEP_BEGIN. -/
def stepCheck (s : State) (b : List Byte) : Option (Nat × Nat) := firstBad
  [(decide (1 ≤ field b 12 2 ∧ field b 12 2 ≤ 4096), badParam 12), (decide (1 ≤ field b 14 1 ∧ field b 14 1 ≤ 16), badParam 14),
   (decide (field b 15 1 < 2), badParam 15),
   (decide (field b 16 8 % 64 = 0) && (field b 16 8 == 0 || decide (field b 16 8 >>> 48 = s.fab.moduleId)), badParam 16),
   (decide (field b 24 8 % 128 = 0) && (field b 24 8 == 0 || decide (field b 24 8 >>> 48 = s.fab.moduleId)), badParam 24)]

/-- R230: the step number is accepted; otherwise why not. -/
def stepRefused (x : Ctx) (step : Nat) : Option Nat :=
  let next := (x.step + 1) % 2 ^ 32
  match x.stepState with
  | .none => none
  | .committed => if step = next then none else some 0x4D
  | .aborted => if step = x.step ∨ step = next then none else some 0x4D
  | _ => some 0x4C

/-- R231: the activation block and its entries judged: what STEP_BEGIN writes for them, and the block and entries as it leaves them, or
how it fails. -/
def actBegin (s : State) (a : Acc) (addr nmb : Nat) : Rd (List (Nat × List Byte) × Option Act × List Ent) := do
  if addr = 0 then pure ([], none, [])
  else
    let b ← load s a addr 64
    if !actOk b then Rd.fail (.fail stBadDescriptor 0xFFFFFFFF)
    else
      let v := actOf addr b
      let l ← (List.range v.nent).mapM (fun e => do
        let eb ← load s a (v.entA + 32 * e) 32
        if s.entOk nmb eb then pure { entOf eb with st := 0 } else Rd.fail (.fail stBadDescriptor e))
      pure ((List.range v.nent).map (fun e => (v.entA + 32 * e + 24, toLe 1 0)) ++ [(addr + 32, toLe 4 0), (v.mbA, List.replicate (32 * nmb) 0#8)],
        some { v with fails := 0 }, l)

/-- R249, R231: the norm block as STEP_BEGIN leaves it, but for MAXNORM and SEM. -/
def normBegin (addr step : Nat) : List (Nat × List Byte) :=
  if addr = 0 then [] else [(addr + 4, toLe 4 step ++ List.replicate 108 0#8)]

/-- R268, R275, R287: what a group's step begins with: the new pair map, the bucket records' SEND and STEP; what was collected for
another step or attempt is dropped; a member that rejoins with this step is a member again, and its adoption ends. -/
def Group.begin (g : Group) (step : Nat) : Group :=
  let same : Bool := match g.keyState with
    | 0 => true
    | 1 => decide (g.step = step)
    | _ => decide ((g.step + 1) % 2 ^ 32 = step)
  let keep (o : Own) : Own := if same ∧ o.step = step then o else {}
  let back := (g.rejoiners.filter (fun r => r.2.2 && r.2.1 == step)).map Prod.fst
  let adopted := if g.adoptedRank ≠ 0xFFFF ∧ back.contains (g.members.getD g.adoptedRank 0xFFFF) then 0xFFFF else g.adoptedRank
  { g with
    step, attempt := if g.keyState = 1 ∧ g.step = step then g.attempt else 0, keyState := 1,
    shadows := g.newMap.getD g.shadows, newMap := none, rejoining := false, resendAt := [], dueSends := [], normRes := none,
    holdCommit := g.holdCommit && same && decide (g.keyState ≠ 0 ∨ g.step = step),
    normKids := if same then g.normKids else [], normUp := [], readyKids := if same then g.readyKids else [], normAdopt := [],
    sets := if same then g.sets else [], sets2 := if same then g.sets2 else [],
    departed := g.departed.filter (fun m => !back.contains m), adoptedRank := adopted,
    rejoiners := g.rejoiners.filter (fun r => !(r.2.2 && r.2.1 == step)),
    buckets := g.buckets.map (fun b =>
      let c : Bucket := if same then b else { b with landed := [], mirrored := [] }
      { c with send := 0, step, mine := keep b.mine, adopted := keep b.adopted, resent := [] }) }

/-- Ranks whose contribution fills a slot. -/
def Own.ranks (o : Own) (n : Nat) (shadows : List (Nat × Nat)) : List Nat :=
  (o.present.map (fun k => if k < n then k else (shadows.getD (k - n) (0xFFFF, 0)).1)).eraseDups

/-- R266: the shard size of a bucket among `n` ranks. -/
def Bucket.sh (b : Bucket) (n : Nat) : Nat := cdiv b.size (n * 256) * 256

/-- R266: shard `k`: its first byte in the bucket and its length. -/
def Bucket.shard (b : Bucket) (n k : Nat) : Nat × Nat :=
  let lo := min (k * b.sh n) b.size
  (lo, min (lo + b.sh n) b.size - lo)

/-- R267: shard `k` of a parameter region: its first byte in the region and its length. -/
def BReg.shard (r : BReg) (k : Nat) : Nat × Nat :=
  if r.kind = 0 then
    let lo := min (k * r.psh) r.pbytes
    (lo, min (lo + r.psh) r.pbytes - lo)
  else (0, 0)

/-- R278: bytes that rank `k`'s shards of a bucket's parameter regions hold, and what of them has landed. -/
def Bucket.owed (b : Bucket) (k : Nat) : Nat := (b.regions.map (fun r => (r.shard k).2)).sum
def Bucket.got (b : Bucket) (k : Nat) : Nat := ((b.landed.filter (fun e => e.1 == k)).map (·.2.2)).sum

/-- R268: the record of a bucket written out, but for its semaphores. -/
def State.syncBucket (s : State) (g : Group) (b : Bucket) : State :=
  let n := g.members.length
  let o := b.mine
  let landed := ((List.range n).filter (fun k => 0 < b.owed k && decide (b.owed k ≤ b.got k) && !(g.rank == k))).length
  let dl := (o.firstMt.map (fun t => t + g.dUs * 1000)).getD 0
  (s.poke g.part (s.global b.recOff) (toLe 1 b.send ++ toLe 1 o.own ++ toLe 2 0 ++ toLe 4 b.step)).poke g.part
    (s.global (b.recOff + 32)) (toLe 8 (o.firstMt.getD 0) ++ toLe 8 dl ++ toLe 2 (o.ranks n g.shadows).length
      ++ toLe 2 o.fromShadow ++ toLe 2 landed ++ toLe 10 0)

/-- The record bytes of a bucket that STEP_BEGIN resets: SEND, STEP, FILL, PUBLISH. -/
def bucketBegin (t : State) (g : Group) (b : Bucket) : State :=
  let a (o : Nat) : Nat := t.global (b.recOff + o)
  ((t.syncBucket g b).poke g.part (a 8) (toLe 8 0)).poke g.part (a 24) (toLe 8 0)

/-- R263: the group record written out, but for EVENT_SEM. -/
def State.syncGroup (s : State) (g : Group) : State :=
  let live := (List.range g.members.length).filter (fun r => !g.departed.contains (g.members.getD r 0))
  let root := g.rank ≠ 0xFFFF ∧ live.head? = some g.rank
  let sat (n : Nat) : Nat := satTo (2 ^ 32 - 1) n
  let b := toLe 2 g.gid ++ toLe 2 g.rank ++ toLe 1 (g.cur % 2 + if root then 2 else 0) ++ toLe 1 g.attempt
    ++ toLe 2 g.adoptedRank ++ toLe 4 g.step ++ toLe 4 (sat g.stale) ++ toLe 4 (sat g.cksumFails) ++ toLe 4 (sat g.mismatches)
    ++ toLe 4 (sat g.retries) ++ toLe 2 (g.members.filter (fun m => m != s.fab.moduleId && !s.present m)).length ++ toLe 2 0
  let e := toLe 8 g.lastEvent ++ toLe 8 g.eventMt ++ toLe 8 g.commitMt
  (s.poke g.part g.grec b).poke g.part (g.grec + 40) e

/-- The group of a context. -/
def State.groupOf (s : State) (c : Nat) : Option Group := s.groups.find? (fun g => g.ctx == c)

/-- One group changed, and its record written. -/
def State.putGroup (s : State) (g : Group) : State :=
  ({ s with groups := s.groups.map (fun x => if x.gid = g.gid then g else x) } : State).syncGroup g

/-- The context's group begins the step. -/
def State.groupBegin (s : State) (c step : Nat) : State :=
  match s.groupOf c with
  | none => s
  | some g =>
    let g := g.begin step
    g.buckets.foldl (fun t b => bucketBegin t g b) (s.putGroup g)

/-- R236: lookahead lists of the step become forward lists of it. -/
def State.adoptLookahead (s : State) (c step : Nat) : State :=
  { s with queues := s.queues.map (fun e => (e.1, { e.2 with pkts := e.2.pkts.map (fun k =>
      if k.ctx == c && k.phase == .started && k.run.role == .lookahead && k.run.step == step
      then { k with run := { k.run with role := .forward } } else k) })) }

/-- R433, R434: a packet of the step sequencer ends with ENGINE_RESET while its engine is in reset, and waits while the engine is in
replay; otherwise it runs. -/
def State.onSequencer (s : State) (k : Packet) (run : State → State) : State :=
  if (s.stepEngine k.ctx).any (fun e => s.engineReset e) then s.finish k.id stEngineReset none
  else if s.stepServes k.ctx then run s
  else s

/-- STEP_BEGIN (R230, R231). A failed one changes nothing. A bad block or entry fails check 7, and leaves its record alone (R56). -/
def stepBeginRun (s : State) (q : Nat) (k : Packet) : State :=
  let b := k.params
  let step := field b 8 4
  let nmb := field b 12 2
  let x := s.ctx k.ctx
  let a := s.accOf q k
  match s.reading a (actBegin s a (field b 16 8) nmb) with
  | (.error (.fail st d), t) => if st = stBadDescriptor then t.finishSilent k.id st (some d) else t.onErr q k (.fail st d)
  | (.error e, t) => t.onErr q k e
  | (.ok (ws, act, ents), t) =>
    match stepRefused x step with
    | some st => t.finish k.id st none
    | none =>
      let ws := ws ++ normBegin (field b 24 8) step
      match ws.findSome? (fun w => t.canStore a w.1 w.2.length) with
      | some e => t.onErr q k e
      | none =>
        let t := (t.storeAll a ws).1
        let x' : Ctx := { x with
          seed := field b 0 8, step, stepState := .fill, nmb, lpmb := field b 14 1, lookahead := (field b 15 1).testBit 0,
          act, ents, normAddr := field b 24 8, normDue := none, kStart := (act.map (·.kcur)).getD 0, bwdMet := 0, bwdDone := 0, spillQ := [],
          fetchQ := [], spilled := [], fwdSeen := [], spilledAdd := [], homeAdd := [], localDone := false, readyDone := false }
        ((((t.setCtx k.ctx x').adoptLookahead k.ctx step).groupBegin k.ctx step)).finish k.id stOk none

/-! ### The judging of lists (R233, R234) -/

/-- What becomes of a list that meets the start conditions. -/
inductive Judge where
  | start (role : Role)
  | hold
  | closed
  deriving DecidableEq, Repr

/-- Forward lists of the context's step that have not completed; one of an aborted attempt is none of them. -/
def State.forwardLeft (s : State) (c : Nat) : Bool :=
  s.allPkts.any (fun r => r.2.ctx == c && r.2.phase != .fetched && r.2.run.role == .forward && r.2.opcode == opTasklist
    && r.2.run.step == (s.ctx c).step && !r.2.run.aborted)

/-- R228, R245, R246: one more backward list meets its start conditions. -/
def State.meetBackward (s : State) (p c : Nat) : State :=
  let x := s.ctx c
  let t := (s.setCtx c { x with stepState := .drain, bwdMet := x.bwdMet + 1 }).modPkt p
    (fun k => { k with run := { k.run with role := .backward, step := x.step } })
  (t.newK c).comeDue c

/-- R233, R234: a list of class `cls` judged against the step state; it waits while the step sequencer's engine is in reset or in replay
(R228, R434). -/
def State.judge (s : State) (k : Packet) (cls : Nat) : State × Judge :=
  let x := s.ctx k.ctx
  if cls ≠ 0 ∧ !s.stepServes k.ctx then (s, .hold)
  else match cls with
  | 0 => (s, .start .ordinary)
  | 1 => match x.stepState with
    | .fill => (s, .start .forward)
    | .drain | .exchange | .committed => (s, if x.lookahead then .start .lookahead else .closed)
    | _ => (s, .closed)
  | _ =>
    if k.run.role == .backward then (s, if s.forwardLeft k.ctx then .hold else .start .backward)
    else if x.stepState = .fill ∨ (x.stepState = .drain ∧ x.bwdMet < x.nmb * x.lpmb) then
      let t := s.meetBackward k.id k.ctx
      (t, if t.forwardLeft k.ctx then .hold else .start .backward)
    else (s, .closed)

/-! ### Aborts of a step (R238) -/

/-- R238: the step of context `c` is aborted. -/
def State.abortStep (s : State) (c : Nat) : State :=
  let x := s.ctx c
  let cls (k : Packet) : Nat := field k.params 12 1
  let gone := (s.allPkts.filter (fun r => r.2.ctx == c && r.2.opcode == opTasklist && r.2.phase == .fetched && r.2.indirect.isNone
    && (cls r.2 == 2 || (cls r.2 == 1 && x.stepState == .fill)))).map (fun r => r.2.id)
  let t := gone.foldl (fun t p => t.finishSilent p stStepAborted none) s
  let mine (k : Packet) : Bool := k.ctx == c && k.opcode == opTasklist && k.phase != .fetched && (k.run.role == .forward || k.run.role == .backward)
  let t := t.stopLists mine stStepAborted none
  let t : State := { t with queues := t.queues.map (fun e => (e.1, { e.2 with pkts := e.2.pkts.map (fun k =>
    if mine k then { k with run := { k.run with aborted := true } } else k) })) }
  ((t.setCtx c { t.ctx c with stepState := .aborted, spillQ := [], fetchQ := [] }).newK c).settle

/-! ### FWD_DONE, SPILL_DONE, FETCH_DONE (R243 to R247) -/

/-- FWD_DONE (R243): the semaphore of micro-batch `j` has become non-zero in FILL. -/
def fwdDone (s : State) (c j : Nat) : State :=
  match s.act c with
  | none => s
  | some a =>
    let x := s.ctx c
    if x.stepState ≠ .fill ∨ x.nmb ≤ j ∨ x.fwdSeen.contains j ∨ !s.stepServes c then s
    else match s.reading (s.ctxAcc c) (loadNat s (s.ctxAcc c) (a.mbA + 32 * j) 8) with
      | (.error _, _) => s
      | (.ok 0, _) => s
      | (.ok _, s) =>
        let es := s.entsOf c a j
        let t := es.foldl (fun t e => if (t.ent c e).cls = 3 then t.setEnt c a e 4 else t) s
        let y := t.ctx c
        let spill := if a.auto && decide (j + y.kStart < y.nmb) then
            es.filter (fun e => (t.ent c e).cls == 1 || (t.ent c e).cls == 2) else []
        ((t.setCtx c { y with fwdSeen := y.fwdSeen ++ [j], spillQ := y.spillQ ++ spill }).mbAdds c a j).startXfer c

def execFwdDone (ctx j : Nat) (s : State) : Host.Outcome State Fault Refusal :=
  answer (.fwdDone ctx j) (fwdDone s ctx j)

/-- The bytes of an entry moved between home and host memory, or found moved already to or from a peer; or why they are not. -/
def State.moveEnt (s : State) (c : Nat) (v : Ent) (fetch : Bool) : State × Option Err :=
  if v.cls = 2 then (s, none)
  else
    let (src, dst) := if fetch then (v.spill, v.home) else (v.home, v.spill)
    match s.reading (s.ctxAcc c) (load s (s.ctxAcc c) src v.bytes) with
    | (.error e, t) => (t, some e)
    | (.ok bs, t) => t.store (s.ctxAcc c) dst bs

/-- The transfer under way is over, and its stream mover is free. -/
def State.xferOver (s : State) (c : Nat) : State := s.setCtx c { s.ctx c with xfer := none, xferPlanes := [], xferFail := none }

/-- What follows a transfer of context `c`: it, or another of its engine, goes on. -/
def State.nextXfer (s : State) (c : Nat) : State :=
  match s.stepEngine c with
  | some e => (s.startXfer c).startXfers e
  | none => s

/-- R241: a transfer to or from host memory goes through the entry's host port, and waits while that is down. -/
def State.portWaits (s : State) (v : Ent) (st : Nat) : Bool := v.cls == 1 && st == 0 && !s.hostUp v.port

/-- SPILL_DONE (R244, R247): the spill under way ends at MTIME `mt`; a status other than 0 is a failure on the way. -/
def spillDone (s : State) (c e st mt : Nat) : State :=
  let x := s.ctx c
  match s.act c with
  | none => s
  | some a =>
    let st := x.xferFail.getD st
    let v := s.ent c e
    if x.xfer ≠ some (e, false) ∨ (!x.xferPlanes.isEmpty ∧ st = 0) ∨ s.portWaits v st then s
    else
      let s := s.at mt
      match (if st = 0 then s.moveEnt c v false else (s, some (.fail st 0))) with
      | (_, some .held) => s
      | (t, none) => (((t.xferOver c).setEnt c a e 2).mbAdds c a v.mb |>.comeDue c).nextXfer c
      | (t, some _) => (((t.xferOver c).spillFailed c a e).mbAdds c a v.mb |>.comeDue c).nextXfer c

def execSpillDone (ctx ent status mt : Nat) (s : State) : Host.Outcome State Fault Refusal :=
  answer (.spillDone ctx ent status mt) (spillDone s ctx ent status mt)

/-- FETCH_DONE (R245 to R247): the fetch under way ends at MTIME `mt`. One that fails in module memory gives MEM_UNCORRECTABLE. -/
def fetchDone (s : State) (c e st mt : Nat) : State :=
  let x := s.ctx c
  match s.act c with
  | none => s
  | some a =>
    let st := x.xferFail.getD st
    let v := s.ent c e
    if x.xfer ≠ some (e, true) ∨ (st = 0 ∧ s.fab.reqs.any (fun r => r.pkt == 2 ^ 62 + c)) ∨ s.portWaits v st then s
    else
      let s := s.at mt
      match (if st = 0 then s.moveEnt c v true else (s, some (.fail st 0))) with
      | (_, some .held) => s
      | (t, none) =>
        let bw := average a.bw (v.bytes / max 1 ((s.mtime - x.xferStart) / 1000))
        ((((t.xferOver c).setEnt c a e 0).setAct c { a with bw } 24 4 bw).mbAdds c a v.mb).nextXfer c
      | (t, some _) =>
        let t := (t.xferOver c).dropReqs (fun r => r.pkt == 2 ^ 62 + c)
        (t.fetchFailed c a v (if st = 0 then stMemUncorrectable else st)).nextXfer c

def execFetchDone (ctx ent status mt : Nat) (s : State) : Host.Outcome State Fault Refusal :=
  answer (.fetchDone ctx ent status mt) (fetchDone s ctx ent status mt)

/-! ### HOST_SPILL and HOST_FETCH (R248) -/

/-- Check 7 for HOST_SPILL and HOST_FETCH. -/
def hostCheck (s : State) (spill : Bool) (b : List Byte) : Option (Nat × Nat) :=
  let src := field b 0 8
  let dst := field b 8 8
  let here (g : Nat) : Bool := decide (g >>> 48 = s.fab.moduleId)
  firstBad
    [(decide (src % 256 = 0) && (if spill then here src else isHost src), badParam 0),
     (decide (dst % 256 = 0) && (if spill then isHost dst else here dst), badParam 8),
     (decide (field b 16 4 ≠ 0 ∧ field b 16 4 % 256 = 0), badParam 16), (decide (field b 20 1 < 2), badParam 20),
     (zeroAt b 21 3, badParam 21), (zeroAt b 28 4, badParam 28)]

/-- The activation entry that the packet names, when it matches; an error otherwise. -/
def State.namedEnt (s : State) (c e src dst n : Nat) (spill : Bool) : Option (Act × Ent) :=
  match s.act c with
  | none => none
  | some a =>
    let v := s.ent c e
    let (h, x) := if spill then (src, dst) else (dst, src)
    if !a.auto && decide (e < a.nent ∧ v.home = h ∧ v.spill = x ∧ v.bytes = n ∧ v.cls = 1) then some (a, v) else none

/-- HOST_SPILL and HOST_FETCH: a copy through a host port; with ENTRY, STATE and the semaphores move with it, and a failed fetch faults
the context with SPILL_ADDR (R247). -/
def hostRun (s : State) (q : Nat) (k : Packet) (spill : Bool) : State :=
  let b := k.params
  let src := field b 0 8
  let dst := field b 8 8
  let n := field b 16 4
  let e := field b 24 4
  match s.takeMover k with
  | none => s
  | some mv =>
    if !s.hostUp (field b 20 1 % 2) then s
    else
      let named := s.namedEnt k.ctx e src dst n spill
      if e ≠ 0xFFFFFFFF ∧ named.isNone then (s.finishSilent k.id stBadParam (some (2 ^ 16 + 24))).moverFree k
      else
        let s := s.moverTaken q k mv
        let a := { s.accOf q k with host := true }
        let after (t : State) (ok : Bool) (st : Nat) : State := match named with
          | none => t
          | some (act, v) =>
            if ok then
              let t := t.setEnt k.ctx act e (if spill then 2 else 0)
              let x := t.ctx k.ctx
              let t := if spill then t.setCtx k.ctx { x with spilled := x.spilled.filter (· != e) ++ [e] }
                else t.setCtx k.ctx { x with homeAdd := x.homeAdd.filter (· != v.mb) ++ [v.mb] }
              t.softAdd k.ctx act v.mb (!spill)
            else if spill then (t.spillFailed k.ctx act e).softAdd k.ctx act v.mb false
            else t.fetchFailed k.ctx act v st
        let failed (t : State) (st d : Nat) : State :=
          if spill || named.isNone then after (t.moverErr q k (.fail st d)) false st
          else after ((t.finish k.id st (some d)).moverFree k) false st
        match s.reading a (load s a src n) with
        | (.error (.fail st d), t) => failed t st d
        | (.error e, t) => t.moverErr q k e
        | (.ok bs, t) => match t.store a dst bs with
          | (t, none) => (after (t.moverMoved k) true 0).moverFree k
          | (t, some (.fail st d)) => failed t st d
          | (_, some e) => s.moverErr q k e

def execHostSpill (p : Nat) (s : State) : Host.Outcome State Fault Refusal :=
  answer (.hostSpill p) (match s.started p 0x0103 with
    | some (q, k) => hostRun s q k true
    | none => s)

def execHostFetch (p : Nat) (s : State) : Host.Outcome State Fault Refusal :=
  answer (.hostFetch p) (match s.started p 0x0104 with
    | some (q, k) => hostRun s q k false
    | none => s)

end Sys2Proof.Machine
end

