-- ==== Sys2Proof/Machine/Units.lean ====
section
/-! DEFINITION. The sequencers of the units other than engines: feed units, codec engines and the memory side (R219). -/

namespace Sys2Proof.Machine

/-- R361: the feed units of hub `h`. -/
def feedUnit (h : Nat) : Nat := h
/-- R398, R401: the codec engine of session `n`: sessions of a hub take its eight engines in turn (notes/assumptions/142). -/
def codecUnit (n : Nat) : Nat := 2 + n % 2 * 8 + n / 2 % 8
/-- R219, R272: the memory-side sequencer. -/
abbrev memoryUnit : Nat := 18

/-- R398: a codec engine holds 16 resident sessions; for the other units the spec gives no bound. -/
def unitSlots (u : Nat) : Nat := if 2 ≤ u ∧ u < 18 then 16 else 2 ^ 20

def State.unit (s : State) (u : Nat) : Engine := Tbl.get {} s.units u
def State.setUnit (s : State) (u : Nat) (g : Engine) : State := { s with units := Tbl.set {} s.units u g }

/-- The contexts that a unit can run an item of now, and the items that run on it: context, and the slice that it was dispatched in. -/
structure UnitWork where
  ready : List Nat
  runs  : List (Nat × Nat)
  /-- R401: LEVEL 1 and 0 are one class -/
  classes : Bool := false

/-- R212, R401: the level of a context among a unit's. -/
def State.unitLevel (s : State) (w : UnitWork) (c : Nat) : Nat := if w.classes then max 1 (s.ctx c).level else (s.ctx c).level

/-- R213, R215: the holder's slice has ended: by expiry, by yield or by preemption. -/
def State.unitEnds (s : State) (w : UnitWork) (g : Engine) : Engine :=
  match g.holder with
  | none => g
  | some k =>
    let v := g.slot k
    let level := s.unitLevel w v.ctx
    if g.sliceEnd ≤ s.mtime then
      let ends := v.ends.filter (fun x => w.runs.contains (v.ctx, x.1))
      let ends := if w.runs.contains (v.ctx, g.slice) then ends ++ [(g.slice, g.sliceEnd, 0)] else ends
      { (g.setSlot k { v with ends }).passed level k with holder := none }
    else if !w.ready.contains v.ctx then { g.passed level k with holder := none }
    else if g.used.any (fun j => w.ready.contains (g.slot j).ctx && decide (level < s.unitLevel w (g.slot j).ctx)) then
      { g.passed level k with holder := none, nextUp := Tbl.set 0 g.nextUp level (k + 1) }
    else g

/-- R211: contexts with work take slots in order of LEVEL and number: a free one, or that of a context that has none. -/
def State.unitLoads (s : State) (u : Nat) (w : UnitWork) (g : Engine) : Engine :=
  let want := sortBy (fun a b => decide (s.unitLevel w b < s.unitLevel w a ∨ (s.unitLevel w a = s.unitLevel w b ∧ a ≤ b)))
    (w.ready.filter (fun c => (g.slotOf c).isNone))
  want.foldl (fun g c =>
    let free := (List.range (min (unitSlots u) (g.used.length + 1))).find? (fun k => !g.used.contains k)
    let idle := g.used.find? (fun k => !w.ready.contains (g.slot k).ctx && !w.runs.any (fun r => r.1 == (g.slot k).ctx))
    match free.or idle with
    | none => g
    | some k =>
      let g := if g.used.contains k then g.release k else g
      ({ g with used := g.used ++ [k] } : Engine).setSlot k { ctx := c }) g

/-- R212: a holder among the resident contexts with an item ready, at the highest LEVEL. -/
def State.unitGrants (s : State) (w : UnitWork) (g : Engine) : Engine :=
  let run := (sortBy (fun a b => decide (a ≤ b)) g.used).filter (fun k => w.ready.contains (g.slot k).ctx)
  if g.holder.isSome || run.isEmpty then g
  else
    let level := (run.map (fun k => s.unitLevel w (g.slot k).ctx)).foldl max 0
    let cand := run.filter (fun k => s.unitLevel w (g.slot k).ctx == level)
    match s.chosen level cand g with
    | none => g
    | some (k, g) =>
      let v := g.slot k
      { g.setSlot k { v with debt := 0 } with
        holder := some k, sliceEnd := s.mtime + ((s.ctx v.ctx).slice - v.debt), slice := g.slice + 1, nextUp := Tbl.set 0 g.nextUp level 0 }

/-- R219: what the sequencer of unit `u` does before an item: slots of contexts that have left ACTIVE are released, the slice of the
holder ends where it has, contexts are loaded, and a holder is chosen. -/
def State.unitReady (s : State) (u : Nat) (w : UnitWork) : Engine :=
  let g := s.unit u
  let g := g.used.foldl (fun g k =>
    let c := (g.slot k).ctx
    if (s.ctx c).state ≠ .active ∧ !w.runs.any (fun r => r.1 == c) then
      (if g.holder = some k then g.passed (s.unitLevel w c) k else g).release k
    else g) g
  s.unitGrants w (s.unitLoads u w (s.unitEnds w g))

/-- Whether the unit dispatches an item of context `c` now, the slice that it counts in, and the state. -/
def State.unitTakes (s : State) (u : Nat) (w : UnitWork) (c : Nat) : Bool × Nat × State :=
  let g := s.unitReady u w
  (g.holder.any (fun k => (g.slot k).ctx == c), g.slice, s.setUnit u g)

/-- R215: an item of context `c` ends that was dispatched in slice `slice`: one that has outlasted its slice finds it expired. -/
def State.unitCharge (s : State) (u c slice : Nat) (w : UnitWork) : State :=
  s.setUnit u ((s.unitEnds { w with runs := (c, slice) :: w.runs } (s.unit u)).charge c slice s.mtime)

end Sys2Proof.Machine
end

