-- ==== Sys2Proof/Machine/Functions.lean ====
section
/-! DEFINITION. The function stages (R192) and the logarithm of LSE (R193, R196): the two FP32 values that bracket an exact result, found
in fixed point with 320 fraction bits, of which the reference model's choice (R96) takes one. -/

namespace Sys2Proof.Machine

/-! ### Fixed point with 320 fraction bits -/

/-- One, in fixed point. -/
abbrev fxOne : Int := 2 ^ 320

def fxMul (a b : Int) : Int := a * b / fxOne
def fxDiv (a b : Int) : Int := a * fxOne / b

/-- A rational in fixed point. -/
def fxOf (q : Rat) : Int := q.num * fxOne / (q.den : Int)

/-- A fixed-point number as a rational. -/
def fxRat (a : Int) : Rat := (a : Rat) / (fxOne : Rat)

/-- Σ term k · x^(2k+1) / (2k+1) from `k` on, `t` being x^(2k+1) and `x2` the signed square that takes one power to the next. -/
def oddSeries (x2 : Int) : Nat → Nat → Int → Int
  | 0, _, _ => 0
  | f + 1, k, t => t / ((2 * k + 1 : Nat) : Int) + oddSeries x2 f (k + 1) (fxMul t x2)

/-- ln m = 2 artanh ((m − 1) / (m + 1)) for m in [1, 2]. -/
def fxLn (m : Int) : Int :=
  let z := fxDiv (m - fxOne) (m + fxOne)
  2 * oddSeries (fxMul z z) 110 0 z

/-- ln 2. -/
def fxLn2 : Int := fxLn (2 * fxOne)

/-- Σ x^j / j! from `j` on, `t` being x^j / j!. -/
def expSeries (x : Int) : Nat → Nat → Int → Int
  | 0, _, _ => 0
  | f + 1, j, t => t + expSeries x f (j + 1) (fxMul t x / ((j + 1 : Nat) : Int))

/-- 2^f for f in [0, 1). -/
def fxExp2 (f : Int) : Int := expSeries (fxMul f fxLn2) 90 0 fxOne

/-- e^x, for |x| below 2^20. -/
def fxExp (x : Int) : Int :=
  let y := fxDiv x fxLn2
  let n := y / fxOne
  let m := fxExp2 (y - n * fxOne)
  if 0 ≤ n then m * 2 ^ n.toNat else m / 2 ^ (-n).toNat

/-- log2 of a positive rational. -/
def fxLog2 (q : Rat) : Int :=
  let e := ilog2 q
  e * fxOne + fxDiv (fxLn (fxOf (q / pow2 e))) fxLn2

/-- π, by Machin's formula. -/
def fxPi : Int :=
  let inv (n : Int) : Int := fxOne / n
  4 * (4 * oddSeries (-(fxMul (inv 5) (inv 5))) 75 0 (inv 5) - oddSeries (-(fxMul (inv 239) (inv 239))) 25 0 (inv 239))

/-- √π. -/
def fxSqrtPi : Int := (isqrtBits 322 (fxPi * fxOne).toNat 0 : Nat)

/-- Σ (−1)^n x^(2n+1) / (n! (2n+1)) from `n` on, `t` being (−1)^n x^(2n+1) / n!. -/
def erfSeries (x2 : Int) : Nat → Nat → Int → Int
  | 0, _, _ => 0
  | f + 1, n, t => t / ((2 * n + 1 : Nat) : Int) + erfSeries x2 f (n + 1) (-(fxMul t x2) / ((n + 1 : Nat) : Int))

/-- erf x for x in (0, 6). -/
def fxErf (x : Int) : Int := fxDiv (2 * erfSeries (fxMul x x) 320 0 x) fxSqrtPi

/-! ### The bracket -/

/-- The larger of the FP32 magnitudes that bracket a positive value which FP32 does not hold, or the smaller. -/
def bracket (a : Rat) (up : Bool) : Rat :=
  let ulp := pow2 (max (ilog2 a) (-126) - 23)
  (((natFloor (a / ulp) + if up then 1 else 0 : Nat)) : Rat) * ulp

/-- The value with the magnitude taken, and a sign. -/
def signed (neg : Bool) (m : Rat) : FVal :=
  if m = 0 then .zero neg else .num (if neg then -m else m)

/-- R192: the result of function `sop` at `q`, whose exact value has the sign and about the magnitude given and lies in no FP32
value: the bracketing value that the reference model fixes. -/
def fnPick (sop : Nat) (q : Rat) (neg : Bool) (a : Rat) : FVal := signed neg (bracket a (Config.fnAway sop q.num q.den))

/-- A magnitude just below `a`, so that it lies between `a`'s FP32 neighbour below and `a`. -/
def justBelow (a : Rat) : Rat := a * (1 - pow2 (-60))

/-- EXP2 of a non-integer in (−149, 128), and of a fraction that FP32 does not hold (R196). -/
def exp2At (q : Rat) : FVal :=
  let n := q.floor
  fnPick 0x08 q false (fxRat (fxExp2 (fxOf (q - (n : Rat)))) * pow2 n)

/-- TANH of a positive magnitude: a little below a tiny argument, a little below 1 for a large one. -/
def tanhMag (a : Rat) : Rat :=
  if a < pow2 (-30) then justBelow a
  else if 24 ≤ a then justBelow 1
  else
    let e := fxExp (fxOf (2 * a))
    fxRat (fxDiv (e - fxOne) (e + fxOne))

/-- ERF of a positive magnitude. -/
def erfMag (a : Rat) : Rat :=
  if 6 ≤ a then justBelow 1
  else if a < pow2 (-40) then justBelow (a * (2 / fxRat fxSqrtPi))
  else fxRat (fxErf (fxOf a))

/-- SIGMOID. -/
def sigmoidMag (q : Rat) : Rat :=
  if 100 ≤ q then justBelow 1
  else if q ≤ -104 then pow2 (-150)
  else if -(pow2 (-30)) < q ∧ q < 0 then justBelow (mkRat 1 2)
  else if 0 < q ∧ q < pow2 (-30) then mkRat 1 2 * (1 + pow2 (-60))
  else fxRat (fxDiv fxOne (fxOne + fxExp (fxOf (-q))))

/-- Whether a rational is an integer. -/
def isInt (q : Rat) : Bool := q.den == 1

/-- R192: LOG2 of a positive rational: exact where FP32 holds it. -/
def log2At (q : Rat) : FVal :=
  if q = pow2 (ilog2 q) then rnd32 (FVal.ofRat ((ilog2 q : Int) : Rat))
  else
    let v := fxRat (fxLog2 q)
    fnPick 0x09 q (decide (v < 0)) (ratAbs v)

/-- R192: RSQRT of an exact value. -/
def rsqrt (v : FVal) : FVal :=
  match v with
  | .nan => .nan
  | .inf s => if s then .nan else .zero false
  | .zero s => .inf s
  | .num q =>
    if q < 0 then .nan
    else
      let k := 24 + ilog2 q / 2
      let m := rsqrtFloor q k
      let exact := decide (((m * m : Nat) : Rat) * q = pow2 (2 * k))
      let m' := if !exact && Config.fnAway 0x0A q.num q.den then m + 1 else m
      .num (((m' : Nat) : Rat) * pow2 (-k))

/-- R192: the function stages 0x08 to 0x0E of an FP32 value. -/
def fnStage (sop : Nat) (v : FVal) : FVal :=
  match sop, v with
  | _, .nan => .nan
  | 0x08, .inf s => if s then .zero false else .inf false
  | 0x08, .zero _ => .num 1
  | 0x08, .num q =>
    if 128 ≤ q then .inf false
    else if q < -149 then fnPick 0x08 q false (pow2 (-150))
    else if isInt q then .num (pow2 q.num)
    else exp2At q
  | 0x09, .inf s => if s then .nan else .inf false
  | 0x09, .zero _ => .inf true
  | 0x09, .num q => if q < 0 then .nan else log2At q
  | 0x0A, v => rsqrt v
  | 0x0B, .inf s => .zero s
  | 0x0B, .zero s => .inf s
  | 0x0B, .num q => rnd32 (.num q⁻¹)
  | 0x0E, .inf s => if s then .zero false else .num 1
  | 0x0E, .zero _ => .num (mkRat 1 2)
  | 0x0E, .num q => fnPick 0x0E q false (sigmoidMag q)
  | _, .inf s => .num (if s then -1 else 1)
  | _, .zero s => .zero s
  | 0x0C, .num q => fnPick 0x0C q (decide (q < 0)) (tanhMag (ratAbs q))
  | _, .num q => fnPick 0x0D q (decide (q < 0)) (erfMag (ratAbs q))

/-! ### LSE (R193, R196) -/

/-- R196: EXP2 of X − ⌊X⌋ as the EXP2 stage evaluates it, in units of 2^−23: a significand in [2^23, 2^24). -/
def expSig (q : Rat) : Nat :=
  let f := q - (q.floor : Rat)
  if f = 0 then 2 ^ 23 else min (2 ^ 24 - 1) (natFloor ((exp2At f).rat * ((2 ^ 23 : Nat) : Rat)))

/-- R193: log2 of a sum acc · 2^w: exact where FP32 holds it, else the bracketing value that the reference model fixes. -/
def lseLog2 (acc : Nat) (w : Int) : FVal :=
  let q : Rat := ((acc : Nat) : Rat)
  let e := ilog2 q
  if q = pow2 e then rnd32 (FVal.ofRat ((e + w : Int) : Rat))
  else
    let v := fxRat (fxLog2 q) + ((w : Int) : Rat)
    let (neg, a) := (decide (v < 0), ratAbs v)
    signed neg (bracket a (Config.fnAway 0x14 (acc : Int) (w + 2 ^ 32).toNat))

end Sys2Proof.Machine
end

