-- ==== Sys2Proof/Machine/Matrix.lean ====
section
/-! DEFINITION. Dot products (R75 to R82) and the matrix tasks MATMUL, BACKWARD and COMBINE (05_matrix_cores). -/

namespace Sys2Proof.Machine

/-! ### Dot products -/

/-- R75: the three parts of a non-zero FP32 value, most significant first; specials and zero are not split. -/
def split32 (v : FVal) : List FVal :=
  match v with
  | .num q =>
    let e := ilog2 q
    let sig := natFloor (ratAbs q / pow2 (e - 23))
    let s := decide (q < 0)
    [(sig / 65536, 7), (sig / 256 % 256, 15), (sig % 256, 23)].map (fun p =>
      if p.1 = 0 then FVal.zero s
      else
        let m := ((p.1 : Nat) : Rat) * pow2 (e - (p.2 : Nat))
        .num (if s then -m else m))
  | v => [v]

/-- R74, R75: the products that a pair of elements of formats `fa` and `fb` forms. -/
def products (fa fb : Nat) (a b : FVal) : List FVal :=
  let xs := (if fa = 0 then split32 a else [a]).zipIdx
  let ys := (if fb = 0 then split32 b else [b]).zipIdx
  xs.flatMap (fun x => (ys.filter (fun y => decide (x.2 + y.2 ≤ 2))).map (fun y => x.1.mul y.1))

/-- R78: a contraction cut into chunks of at most `n`, none spanning two scale blocks of either operand. `cur` is the chunk
under way, newest first. -/
def chunks (n : Nat) : List (El × El) → List (El × El) → List (List (El × El))
  | [], cur => if cur.isEmpty then [] else [cur.reverse]
  | p :: r, [] => chunks n r [p]
  | p :: r, c :: cs =>
    if n ≤ (c :: cs).length ∨ c.1.cut ≠ p.1.cut ∨ c.2.cut ≠ p.2.cut then (c :: cs).reverse :: chunks n r [p]
    else chunks n r (p :: c :: cs)

/-- R77: a product truncated toward zero at weight `w`. -/
def truncAt (w q : Rat) : Rat :=
  let m := ((natFloor (ratAbs q / w) : Nat) : Rat) * w
  if q < 0 then -m else m

/-- R76 to R78, R81, R82, R167: one chunk: the exact or windowed sum, times the block scales, rounded into EA48. -/
def chunkSum (fa fb : Nat) (l : List (El × El)) : FVal :=
  let ps := l.flatMap (fun e =>
    let f := e.1.sc.mul e.2.sc
    if e.1.pad || e.2.pad then [((.zero false : FVal), FVal.num 1)] else (products fa fb e.1.v e.2.v).map (fun p => (p, f)))
  let full := ps.map (fun p => p.1.mul p.2)
  if full.any (fun v => v.isNan || v.isInf) then (full.filter (fun v => v.isNan || v.isInf)).foldl FVal.add (.zero false)
  else
    let live := ps.filter (fun p => p.1.rat != 0)
    let top := live.foldl (fun m p => max m (ratAbs p.1.rat)) 0
    let wide := decide (fa ≤ 2 ∨ fb ≤ 2)
    let w := pow2 (ilog2 top - 64)
    let sum := (live.map (fun p => (if wide then truncAt w p.1.rat else p.1.rat) * p.2.rat)).foldl (· + ·) 0
    if sum = 0 then .zero (full.all (fun v => v == .zero true)) else ea48 (.num sum)

/-- Formats and element pairs of one run of contraction positions. -/
structure Seg where
  fa : Nat
  fb : Nat
  xs : List El
  ys : List El
  deriving DecidableEq, Repr

/-- R145, R152: one dot product over segments, each of which starts a new chunk: the tree over all chunk sums. -/
def dot (n : Nat) (segs : List Seg) : FVal :=
  tree (segs.flatMap (fun g => (chunks n (g.xs.zip g.ys) []).map (chunkSum g.fa g.fb)))

/-- The products of every row vector with every column vector; `extra` gives the further segment of an output. -/
def grid (n fa fb : Nat) (rows cols : List (List El)) (extra : Nat → Nat → List Seg) : List (List FVal) :=
  rows.zipIdx.map (fun r => cols.zipIdx.map (fun c => dot n (({ fa, fb, xs := r.1, ys := c.1 } : Seg) :: extra r.2 c.2)))

/-! ### The descriptor (R135 to R137) -/

/-- R151: the adapter block: A, B, H, dH, dA, dB. -/
def readAdapter (s : State) (a : Acc) (addr : Nat) : Rd (List Nat) := do
  need (addr % 64 == 0)
  let b ← load s a addr 64
  need (zeroAt b 48 16)
  pure ((List.range 6).map (fun i => field b (8 * i) 8))

/-- A direct dense BF16 operand. -/
def bf16Fmt : Fmt := { fmt := 1, scale := 0, hdr := false }

/-- Values rounded to BF16, as operand elements (R152, R153). -/
def asBf16 (rows : List (List FVal)) : List (List El) :=
  rows.map (fun r => r.map (fun v => ({ v := Flt.bf16.decode (Flt.bf16.convert .rne v).bits } : El)))

/-- R152, R153, R161: H or dH written dense in BF16, to nearest, and counted, with PARTIAL too (notes/assumptions/165). -/
def writeBf16 (addr cols : Nat) (rows : List (List FVal)) : Out :=
  Out.join (rows.zipIdx.map (fun r => writeRow 1 (addr + r.2 * (2 * cols)) 0 0 none r.1))

/-! ### MATMUL (R145, R146, R152) -/

/-- What MATMUL writes. -/
def matmulOut (s : State) (a : Acc) (key : Key) (d : List Byte) (v : MDesc) : Rd Out := do
  need (matmulOk d v)
  let xs ← readVectors s a v.fx v.x v.ldx v.orgx v.m v.k v.transX
  let ws ← readVectors s a v.fw v.w v.ldw v.orgw v.n v.k (!v.transW)
  let dest : Dest := { fmt := v.fy, partial_ := v.part, addr := v.y, ld := v.ldy, org := v.orgy, tid := v.tid, sr := v.sr }
  if v.pt = 1 then do
    let ad ← readAdapter s a v.aux
    let as_ ← readVectors s a bf16Fmt (ad.getD 0 0) (2 * v.rank) 0 v.rank v.k true
    let bs ← readVectors s a bf16Fmt (ad.getD 1 0) (2 * v.n) 0 v.n v.rank true
    let h := grid v.chunk v.fx.fmt 1 xs as_ (fun _ _ => [])
    let hb := asBf16 h
    let y := grid v.chunk v.fx.fmt v.fw.fmt xs ws (fun i j =>
      [({ fa := 1, fb := 1, xs := hb.getD i [], ys := bs.getD j [] } : Seg)])
    let o ← writeDest s a dest key (y.map (fun r => r.map some))
    pure ((writeBf16 (ad.getD 2 0) v.rank h).append o)
  else
    writeDest s a dest key ((grid v.chunk v.fx.fmt v.fw.fmt xs ws (fun _ _ => [])).map (fun r => r.map some))

/-- The seed and step with which a list's tasks round (R118). -/
def ListRun.key (r : ListRun) : Key := { seed := r.seed, step := r.step }

/-- MATMUL. -/
def execMatmul (p i : Nat) (s : State) : Host.Outcome State Fault Refusal :=
  answer (.matmul p i) (match s.task p i 1 with
    | some (q, k, it, d) =>
      let a := s.taskAcc q k i
      s.runTask q k a p i (fun s => matmulOut s a k.run.key d (mdesc it.policy d))
    | none => s)

/-! ### BACKWARD (R147, R148, R153, R154) -/

/-- R154: bits of the mask bitmap. -/
def readMask (s : State) (a : Acc) (addr bits : Nat) : Rd Nat := loadNat s a addr (cdiv bits 8)

/-- What BACKWARD writes. How dA and dB lie is notes/assumptions/19. -/
def backwardOut (s : State) (a : Acc) (key : Key) (d : List Byte) (v : MDesc) : Rd Out := do
  let adapter := decide (v.pt = 1)
  need (backwardOk d v)
  let nbk := b16 v.k * b16 v.n
  let mask ← if v.pt = 2 then readMask s a v.aux nbk else pure (2 ^ nbk - 1)
  need (decide (v.backwardSteps (if v.pt = 2 then (bitsOf nbk mask).length else nbk) ≤ stepLimit))
  let xs ← readVectors s a v.fx v.x v.ldx v.orgx v.k v.m (!v.transX)
  let ws ← readVectors s a v.fw v.w v.ldw v.orgw v.k v.n v.transW
  let gs ← readVectors s a v.fg v.g v.ldg 0 v.m v.n false
  let gc := transpose v.n gs
  let dxDest : Dest := { fmt := v.fy, partial_ := v.part, addr := v.y, ld := v.ldy, org := v.orgy, tid := v.tid, sr := v.sr }
  if adapter then do
    let ad ← readAdapter s a v.aux
    let aRow ← readVectors s a bf16Fmt (ad.getD 0 0) (2 * v.rank) 0 v.k v.rank false
    let bRow ← readVectors s a bf16Fmt (ad.getD 1 0) (2 * v.n) 0 v.rank v.n false
    let hc ← readVectors s a bf16Fmt (ad.getD 2 0) (2 * v.rank) 0 v.rank v.m true
    let dh := grid v.chunk v.fg.fmt 1 gs bRow (fun _ _ => [])
    let dhb := asBf16 dh
    let dx := grid v.chunk v.fg.fmt v.fw.fmt gs ws (fun i j =>
      [({ fa := 1, fb := 1, xs := dhb.getD i [], ys := aRow.getD j [] } : Seg)])
    let db := grid v.chunk 1 v.fg.fmt hc gc (fun _ _ => [])
    let da := grid v.chunk v.fx.fmt 1 xs (transpose v.rank dhb) (fun _ _ => [])
    let ld (cols : Nat) : Nat := if v.part then 8 * cols else if v.fdw.hdr then v.lddw else elemBytes v.fdw.fmt * cols
    let dest (addr cols : Nat) : Dest :=
      { fmt := v.fdw, partial_ := v.part, addr, ld := ld cols, org := v.orgdw, tid := (v.tid + 1) % 2 ^ 32, sr := v.sr }
    let o1 ← writeDest s a dxDest key (dx.map (fun r => r.map some))
    let o2 ← writeDest s a (dest (ad.getD 4 0) v.rank) key (da.map (fun r => r.map some))
    let o3 ← writeDest s a (dest (ad.getD 5 0) v.n) key (db.map (fun r => r.map some))
    pure (Out.join [writeBf16 (ad.getD 3 0) v.rank dh, o1, o2, o3])
  else do
    let dx := grid v.chunk v.fg.fmt v.fw.fmt gs ws (fun _ _ => [])
    let dw := xs.zipIdx.map (fun r => gc.zipIdx.map (fun c =>
      if mask.testBit (r.2 / 16 * b16 v.n + c.2 / 16) then
        some (dot v.chunk [({ fa := v.fx.fmt, fb := v.fg.fmt, xs := r.1, ys := c.1 } : Seg)]) else none))
    let o1 ← writeDest s a dxDest key (dx.map (fun r => r.map some))
    let o2 ← writeDest s a { fmt := v.fdw, partial_ := v.part, addr := v.dw, ld := v.lddw, org := v.orgdw,
                             tid := (v.tid + 1) % 2 ^ 32, sr := v.sr } key dw
    pure (o1.append o2)

/-- BACKWARD. -/
def execBackward (p i : Nat) (s : State) : Host.Outcome State Fault Refusal :=
  answer (.backward p i) (match s.task p i 2 with
    | some (q, k, it, d) =>
      let a := s.taskAcc q k i
      s.runTask q k a p i (fun s => backwardOut s a k.run.key d (mdesc it.policy d))
    | none => s)

/-! ### COMBINE (R150) -/

/-- One row of EA48 partials. -/
def readPartials (s : State) (a : Acc) (addr n : Nat) : Rd (List FVal) := do
  let b ← load s a addr (8 * n)
  pure ((List.range n).map (fun j => ea48Unpack (field b (8 * j) 8)))

/-- What COMBINE writes. -/
def combineOut (s : State) (a : Acc) (key : Key) (d : List Byte) (v : MDesc) : Rd Out := do
  need (combineOk d v)
  let sets ← (List.range v.npart).mapM (fun p => (List.range v.m).mapM (fun i =>
    readPartials s a (v.x + (p * v.m + i) * v.ldx) v.n))
  let y := (List.range v.m).map (fun i => (List.range v.n).map (fun j =>
    some (tree (sets.map (fun m => (m.getD i []).getD j (.zero false))))))
  writeDest s a { fmt := v.fy, partial_ := v.part, addr := v.y, ld := v.ldy, org := v.orgy, tid := v.tid, sr := v.sr } key y

/-- COMBINE. -/
def execCombine (p i : Nat) (s : State) : Host.Outcome State Fault Refusal :=
  answer (.combine p i) (match s.task p i 3 with
    | some (q, k, it, d) =>
      let a := s.taskAcc q k i
      s.runTask q k a p i (fun s => combineOut s a k.run.key d (mdesc it.policy d))
    | none => s)

end Sys2Proof.Machine
end

