-- ==== Sys2Proof/Machine/Vector.lean ====
section
/-! DEFINITION. The vector engine: VCHAIN and VFINISH (07_vector_engine). -/

namespace Sys2Proof.Machine

/-! ### Stages (R187, R188, R191) -/

/-- What the sources name for one element of one row (R188). -/
structure Env where
  p   : FVal := .zero false
  a   : FVal := .zero false
  b   : FVal := .zero false
  c   : FVal := .zero false
  s0  : FVal := .zero false
  s1  : FVal := .zero false
  e0  : Int := 0
  i   : Nat := 0
  deriving DecidableEq, Repr

def Env.src (v : Env) (imm code : Nat) : FVal :=
  match code with
  | 0 => v.p
  | 1 => v.a
  | 2 => v.b
  | 3 => v.c
  | 4 => v.s0
  | 5 => v.s1
  | 6 => f32 imm
  | 7 => .zero false
  | _ => FVal.ofRat ((v.i : Nat) : Rat)

/-- R188: a source with its flags applied. -/
def flagged (neg ab : Bool) (v : FVal) : FVal :=
  let v := if ab then v.abs else v
  if neg then v.neg else v

def Stage.x (g : Stage) (v : Env) : FVal := flagged (g.fl.testBit 0) (g.fl.testBit 1) (v.src g.imm g.sx)
def Stage.y (g : Stage) (v : Env) : FVal := flagged (g.fl.testBit 2) false (v.src g.imm g.sy)
def Stage.z (g : Stage) (v : Env) : FVal := flagged (g.fl.testBit 3) false (v.src g.imm g.sz)

/-- R191 to R193: the result of a stage. -/
def Stage.run (g : Stage) (v : Env) : FVal :=
  let x := g.x v
  match g.sop with
  | 0x01 => add32 x (g.y v)
  | 0x02 => mul32 x (g.y v)
  | 0x03 => fma32 x (g.y v) (g.z v)
  | 0x04 => fmin x (g.y v)
  | 0x05 => fmax x (g.y v)
  | 0x06 => if fcmp g.mode x (g.y v) then g.z v else f32 g.imm
  | 0x07 => if x.isNan then .nan else decodeFmt g.mode (convertFmt g.mode .rne x).bits
  | 0x0F => rnd32 ((x.mul (g.y v)).mul (.num (pow2 (max (-300) (min 300 v.e0)))))
  | sop => if 0x10 ≤ sop then x else fnStage sop x

/-- The inputs of every stage of a chain on one element, and the last result: as FP32, and unrounded where the last stage that
computes is an ADD (R94). -/
def chainRun (v : Env) (exact : FVal) : List Stage → List (Stage × FVal) × FVal × FVal
  | [] => ([], v.p, exact)
  | g :: r =>
    let x := g.x v
    let p := g.run v
    let (l, out) := chainRun { v with p } (if g.isRed then exact else if g.sop = 0x01 then x.add (g.y v) else p) r
    ((g, x) :: l, out)

/-! ### Reductions (R193 to R197) -/

/-- One image: the exact sum (in units of 1), or for LSE the register and its anchor, or the maximum and its first index. -/
structure Red where
  sum    : Rat := 0
  acc    : Nat := 0
  anchor : Int := 0
  top    : Option FVal := none
  idx    : Nat := 0
  nan    : Bool := false
  pinf   : Bool := false
  ninf   : Bool := false
  some_  : Bool := false
  n      : Nat := 0
  /-- every term so far was −0 -/
  negz   : Bool := true
  deriving DecidableEq, Repr

/-- A term enters: NaN and infinities beside the register. -/
def Red.term (r : Red) (v : FVal) : Red :=
  { r with sum := r.sum + v.rat, nan := r.nan || v.isNan, pinf := r.pinf || v == .inf false, ninf := r.ninf || v == .inf true,
           some_ := true, n := satTo (2 ^ 32 - 1) (r.n + 1), negz := r.negz && v == .zero true }

/-- R194: the exact value of a sum. -/
def Red.value (r : Red) : FVal :=
  if r.nan || (r.pinf && r.ninf) then .nan
  else if r.pinf then .inf false
  else if r.ninf then .inf true
  else if r.sum = 0 then .zero (r.some_ && r.negz)
  else .num r.sum

/-- R196: a term of LSE. -/
def Red.expTerm (r : Red) (x : FVal) : Red :=
  let r : Red := { r with some_ := true, n := satTo (2 ^ 32 - 1) (r.n + 1) }
  match x with
  | .nan => { r with nan := true }
  | .inf s => if s then r else { r with pinf := true }
  | v =>
    let q : Rat := max (-(((2 ^ 30 : Nat) : Rat))) (min ((2 ^ 30 : Nat) : Rat) v.rat)
    let f : Int := q.num / (q.den : Int)
    let m := expSig q
    let a := if r.acc = 0 then f else max r.anchor f
    let old := if r.acc = 0 then 0 else r.acc >>> (a - r.anchor).toNat
    let k := f - a + 597
    { r with anchor := a, acc := old + (if 0 ≤ k then m * 2 ^ k.toNat else m >>> (-k).toNat) }

/-- R193: a term of MAXR. -/
def Red.maxTerm (r : Red) (i : Nat) (x : FVal) : Red :=
  let r : Red := { r with some_ := true, n := satTo (2 ^ 32 - 1) (r.n + 1) }
  match r.top with
  | none => { r with top := some x, idx := i, nan := x.isNan }
  | some t =>
    if !t.isNan && (x.isNan || t.lt x) then { r with top := some x, idx := i, nan := r.nan || x.isNan } else r

/-- The images of a reduction stage (MOMENTS has two) after one more term. -/
def Stage.accum (g : Stage) (i : Nat) (x : FVal) (r : Red × Red) : Red × Red :=
  match g.sop with
  | 0x10 => (r.1.term x, r.2)
  | 0x11 => (r.1.term (x.mul x), r.2)
  | 0x12 => (r.1.term x, r.2.term (x.mul x))
  | 0x13 => (r.1.maxTerm i x, r.2)
  | _ => (r.1.expTerm x, r.2)

/-- R193: E of the exponent mode of MAXR. -/
def maxExp (m : FVal) : Int :=
  match m with
  | .num q => 14 - ilog2 q
  | _ => 0

/-- A slot of an R record: slot, bits, and how the value was converted. -/
abbrev SlotOut := Nat × Nat × Conv

/-- A value rounded once to FP32 into a slot, counted (R189, R91). -/
def fpSlot (slot : Nat) (v : FVal) : SlotOut :=
  let c := Flt.fp32.convert .rne v
  (slot, c.bits, c)

/-- R193, R197: what a reduction writes into its slots. -/
def Stage.finish (g : Stage) (r : Red × Red) : List SlotOut :=
  match g.sop with
  | 0x10 | 0x11 => [fpSlot (g.mode % 2) r.1.value]
  | 0x12 =>
    let n : Rat := ((r.2.n : Nat) : Rat)
    if r.2.n = 0 then [fpSlot 0 .nan, fpSlot 1 .nan]
    else if g.mode = 0 then
      let s := r.1.value
      let var := ((r.2.value.mul (.num n)).add (s.mul s).neg).div (n * n)
      [fpSlot 0 (s.div n), fpSlot 1 (rsqrt (var.add (f32 g.imm)))]
    else
      let m := r.2.value.div n
      [fpSlot 0 m, fpSlot 1 (rsqrt (m.add (f32 g.imm)))]
  | 0x13 =>
    let m := r.1.top.getD (.inf true)
    match g.mode / 2 with
    | 0 => [fpSlot (g.mode % 2) m]
    | 1 => [fpSlot 0 m, (1, r.1.idx, { bits := 0 })]
    | _ => [(g.mode % 2, wrap 32 (maxExp m), { bits := 0 })]
  | _ =>
    let v : FVal := if r.1.nan then .nan else if r.1.pinf then .inf false
      else if r.1.acc = 0 then .inf true
      else lseLog2 r.1.acc (r.1.anchor - 620)
    [fpSlot (g.mode % 2) v]

/-- R186: an R record from the slots written. -/
def recordOf (l : List SlotOut) : List Byte :=
  let w (k : Nat) : Nat := ((l.find? (fun e => e.1 == k)).map (·.2.1)).getD 0
  toLe 4 (w 0) ++ toLe 4 (w 1)

/-- An R record written at `addr`, with what its slots count (R189). -/
def recordUnit (addr : Nat) (l : List SlotOut) : WUnit :=
  { writes := [(addr, recordOf l)], marks := l.foldl (fun m e => m.add (e.2.2.marks (elemKey addr e.1))) {} }

/-- R195: an image written out. -/
def Red.image (g : Stage) (r : Red) : List Byte :=
  let acc : Nat := match g.sop with
    | 0x13 => (r.top.map bits32).getD 0
    | 0x14 => r.acc % 2 ^ 640
    | _ => wrap 640 (r.sum * pow2 300).num
  let fl := (if r.nan then 1 else 0) + (if r.pinf then 2 else 0) + (if r.ninf then 4 else 0) + (if r.some_ then 8 else 0)
  toLe 80 acc ++ toLe 4 fl ++ toLe 4 r.n ++ toLe 4 (if g.sop = 0x14 then wrap 32 r.anchor else 0) ++ toLe 4 0

/-- R195, R197: an image read. Which of its terms were −0 it does not hold (notes/assumptions/24). -/
def imageOf (g : Stage) (b : List Byte) : Red :=
  let fl := field b 80 4
  let r : Red := { nan := fl.testBit 0, pinf := fl.testBit 1, ninf := fl.testBit 2, some_ := fl.testBit 3, n := field b 84 4,
                   negz := b.all (· == 0#8) }
  match g.sop with
  | 0x13 => { r with top := if b.all (· == 0#8) then none else some (f32 (field b 0 4)) }
  | 0x14 => { r with acc := field b 0 80, anchor := int32 (field b 88 4) }
  | _ => { r with sum := ((intW 640 (field b 0 80) : Int) : Rat) * pow2 (-300) }

/-- The images of a stage in a 192-byte record. -/
def imagesOf (g : Stage) (b : List Byte) : Red × Red :=
  if g.sop = 0x12 then (imageOf g (b.take 96), imageOf g (b.drop 96))
  else (imageOf g ((b.drop (96 * (g.mode % 2))).take 96), {})

/-- A record with a stage's images put in. -/
def putImages (b : List Byte) (e : Stage × (Red × Red)) : List Byte :=
  let (g, r) := e
  if g.sop = 0x12 then r.1.image g ++ r.2.image g
  else if g.mode % 2 = 0 then r.1.image g ++ b.drop 96 else b.take 96 ++ r.1.image g

/-! ### Streams (R179 to R186) -/

/-- Bytes at a place of a stream: its engine's scratchpad, or memory. -/
def loadAt (s : State) (a : Acc) (v : VDesc) (global : Bool) (addr n : Nat) : Rd (List Byte) :=
  if global then load s a addr n else loadSp s v.eng addr n

/-- The write address of a place of a stream. -/
def VDesc.target (v : VDesc) (global : Bool) (addr : Nat) : Nat :=
  if global then addr else spAddr + v.eng * 2 ^ 24 + addr

/-- R199: a scratchpad stream of `n` bytes ends within the scratchpad. -/
def spFits (global : Bool) (base n : Nat) : Rd Unit :=
  if !global && decide (2 ^ 24 < base + n) then Rd.fail (.fail stMemBounds (2 ^ 63 + max base (2 ^ 24))) else pure ()

/-- R189: a decoded element as FP32. -/
def widen (e : El) : FVal := rnd32 e.full

/-- One of the streams A to D: its place and form. -/
structure Stream where
  fmt    : Fmt
  global : Bool
  base   : Nat
  org    : Nat
  ld     : Nat
  deriving DecidableEq, Repr

def VDesc.stream (v : VDesc) (ext : List Byte) (k : Nat) : Stream :=
  let global := v.space.testBit k
  let fmt := v.fmts.getD k { fmt := 15, scale := 0, hdr := false }
  let off := v.offs.getD k 0
  { fmt, global, base := if global then field ext (8 + 8 * k) 8 else off, org := off, ld := v.lds.getD k 0 }

/-- First and one past the last byte (or linear element of a headered tensor) of `n` elements from element (r, i). -/
def Stream.span (t : Stream) (r i n : Nat) : Nat × Nat :=
  if t.fmt.hdr then (t.org + r * t.ld + i, t.org + r * t.ld + i + n)
  else
    let w := elemBytes t.fmt.fmt
    (t.base + (r * t.ld + i) * w, t.base + (r * t.ld + i + n) * w)

/-- Where a stream starts: its first element, or the first block of a headered tensor. -/
def Stream.start (t : Stream) (o : Opnd) : Nat :=
  match o with
  | .direct _ => if t.global then t.base else 2 ^ 63 + t.base
  | .blocked h => h.elem + t.org / 32 * (4 * fmtBits h.fmt)
  | .narrow h => h.place (t.org / 64)

/-- R198: D names exactly the elements of an input: every element is read before it is written. -/
def sameElems (v : VDesc) (t d : Stream) : Bool :=
  t.global == d.global && t.fmt.hdr == d.fmt.hdr && t.base == d.base && (v.nrows == 1 || t.ld == d.ld)
    && (if t.fmt.hdr then t.org == d.org else elemBytes t.fmt.fmt == elemBytes d.fmt.fmt)

/-- The values of `n` elements of row `r` of an input, from element `i` on. -/
def readStream (s : State) (a : Acc) (v : VDesc) (t : Stream) (o : Opnd) (r i n : Nat) : Rd (List FVal) :=
  match o with
  | .direct fmt => do
    let w := elemBytes fmt
    let at_ := (t.span r i n).1
    Rd.panel (if t.global then at_ else 2 ^ 63 + at_)
    let b ← loadAt s a v t.global at_ (n * w)
    pure ((List.range n).map (fun k => rnd32 (decodeFmt fmt (field b (k * w) w))))
  | h => do
    let e ← readLinear s a h (t.org + r * t.ld + i) n
    pure (e.map widen)

/-- The addresses, as those of writes, of what `n` elements from (r, i) of an input are read from. -/
def Stream.ranges (v : VDesc) (t : Stream) (o : Opnd) (r i n : Nat) : List (Nat × Nat) :=
  let e := t.org + r * t.ld + i
  let blocks (k : Nat) : List Nat := (List.range ((e + n + k - 1) / k - e / k)).map (e / k + ·)
  match o with
  | .direct fmt => [(v.target t.global (t.span r i 1).1, n * elemBytes fmt)]
  | .blocked h =>
    let w := 4 * fmtBits h.fmt
    (blocks 32).flatMap (fun b => [(h.elem + b * w, w)] ++ (if h.tag = 0 then [] else [(h.tag + b, 1)])
      ++ (if h.scale = 0 then [] else [(h.sca + b, 1)]))
  | .narrow h => (blocks 64).flatMap h.ranges ++ h.poolRange

/-- R184: the extension block; zeros where there is none. -/
def readExt (s : State) (a : Acc) (v : VDesc) (use : List Bool) : Rd (List Byte) :=
  if v.ext = 0 then pure (List.replicate 64 0#8)
  else do
    let e ← load s a v.ext 64
    need (zeroAt e 56 8 && (!(use.getD 4 false && v.space.testBit 4) || field e 40 8 % 8 == 0)
      && (!(use.getD 5 false && v.space.testBit 5) || field e 48 8 % 8 == 0))
    pure e

/-! ### The destination D -/

/-- R185: whole blocks of consecutive linear elements. -/
def wholeBlocks (n : Nat) : Nat → List (Nat × FVal) → Option (List (Nat × List FVal))
  | 0, l => if l.isEmpty then some [] else none
  | f + 1, l =>
    match l with
    | [] => some []
    | (i, _) :: _ =>
      let c := l.take n
      if i % n = 0 ∧ c.length = n ∧ c.zipIdx.all (fun e => e.1.1 == i + e.2) then
        (wholeBlocks n f (l.drop n)).map (fun r => (i / n, c.map Prod.snd) :: r)
      else none

/-- R185, R189: the rows of D written. -/
def writeD (v : VDesc) (key : Key) (t : Stream) (o : Opnd) (ext : List Byte) (rows : List (List FVal)) : Rd Out := do
  let ek := if v.sr then some key else none
  let lin := rows.zipIdx.flatMap (fun r => r.1.zipIdx.map (fun e => (t.org + r.2 * t.ld + e.2, e.1)))
  match o with
  | .direct fmt =>
    let tid := field ext 0 4
    let org := field ext 4 4
    pure (Out.join (rows.zipIdx.map (fun r =>
      writeRow fmt (v.target t.global (t.span r.2 0 0).1) tid (org + r.2 * t.ld) ek r.1)))
  | .blocked h => match wholeBlocks 32 (lin.length + 1) lin with
    | none => Rd.fail badDesc
    | some bs => pure (Out.join (bs.map (fun b => writeBlock h ek b.1 b.2)))
  | .narrow h => match wholeBlocks 64 (lin.length + 1) lin with
    | none => Rd.fail badDesc
    | some bs => do
      need (bs.all (fun b => decide (b.1 < h.nblocks)) && wholeUnits h (bs.map Prod.fst))
      pure (writeNarrow h key bs)

/-! ### VCHAIN and VFINISH -/

/-- The images of the reductions of a chain. -/
abbrev Images := List (Stage × (Red × Red))

/-- One element of a chain: its result, and the images after it. -/
def elemRun (gs : List Stage) (kernel : Bool) (v : Env) (imgs : Images) : FVal × Images :=
  let (ins, out, exact) := chainRun v v.p gs
  let terms := ins.filter (fun e => e.1.isRed)
  (if kernel then exact else out, (imgs.zip terms).map (fun e => (e.1.1, e.1.1.accum v.i e.2.2 e.1.2)))

/-- One row of a chain: the results, and the images of its reductions. -/
def rowRun (gs : List Stage) (kernel : Bool) (envs : List Env) (imgs : Images) : List FVal × Images :=
  envs.foldl (fun (acc : List FVal × Images) v =>
    let (out, imgs) := elemRun gs kernel v acc.2
    (acc.1 ++ [out], imgs)) ([], imgs)

/-- What a chain reads of a row: the elements of A, B and C, and the S record. -/
structure RowIn where
  vals : List (List FVal)
  srec : List Byte
  deriving DecidableEq, Repr

/-- The sources of element `i`. -/
def RowIn.env (x : RowIn) (i : Nat) : Env :=
  let at_ (k : Nat) : FVal := (x.vals.getD k []).getD i (.zero false)
  { p := at_ 0, a := at_ 0, b := at_ 1, c := at_ 2, s0 := f32 (field x.srec 0 4), s1 := f32 (field x.srec 4 4),
    e0 := int32 (field x.srec 0 4), i }

/-- An instruction's opened streams. -/
structure Streams where
  use  : List Bool
  ext  : List Byte
  ins  : List (Stream × Opnd)
  d    : Stream
  dop  : Opnd
  sBase : Nat
  deriving DecidableEq, Repr

/-- A stream is in use: A to D, S, R. -/
def Streams.on (x : Streams) (k : Nat) : Bool := x.use.getD k false

/-- The inputs of row `r`. -/
def Streams.row (x : Streams) (s : State) (a : Acc) (v : VDesc) (r : Nat) : Rd RowIn := do
  let vals ← x.ins.zipIdx.mapM (fun e => if x.on e.2 then readStream s a v e.1.1 e.1.2 r 0 v.count else pure [])
  let srec ← if x.on 4 then loadAt s a v (v.space.testBit 4) (x.sBase + 8 * r) 8 else pure []
  pure { vals, srec }

/-- R198: the ranges that D takes, where an input lies in D in a way other than as the same elements. -/
def Streams.clash (x : Streams) (v : VDesc) (o : Out) : List (Nat × Nat) :=
  let w := if x.on 3 then mergeRanges (o.writes.map (fun e => (e.1, e.2.length))) else []
  let hits (l : List (Nat × Nat)) : Bool := l.any (fun y => w.any (rangesMeet y))
  let ins := x.ins.zipIdx.any (fun e => x.on e.2 && !sameElems v e.1.1 x.d && (List.range v.nrows).any (fun r =>
    hits (e.1.1.ranges v e.1.2 r 0 v.count)))
  let rec_ := x.on 4 && (List.range v.nrows).any (fun r => hits [(v.target (v.space.testBit 4) (x.sBase + 8 * r), 8)])
  if ins || rec_ then w else []

/-- R198: the elements of D from linear element `first` on, as far as whole blocks of them are complete. -/
def Streams.soFar (x : Streams) (v : VDesc) (key : Key) (rows : List (List FVal)) : Rd Out :=
  let n := match x.dop with
    | .direct _ => 1
    | .blocked _ => 32
    | .narrow h => if h.fmt = 0xA then 64 else 128
  let rows' := if n = 1 then rows else rows.zipIdx.map (fun r => if r.2 + 1 = rows.length then r.1.take (r.1.length / n * n) else r.1)
  fun l => match (writeD v key x.d x.dop x.ext rows' []).1 with
    | .ok o => (.ok o, l)
    | .error _ => (.ok {}, l)

/-- R198: element (r, i) of a row where D, as written so far in `s'`, overlaps it: its old value or its new one, a free choice. -/
def Streams.elem (x : Streams) (s s' : State) (a : Acc) (v : VDesc) (w : List (Nat × Nat)) (r i : Nat) (old : RowIn) : Rd RowIn := do
  let pick (k : Nat) : Bool := Config.freeChoice (s.freeAt + 2 ^ 61 + ((r * 2 ^ 14 + i) * 8 + k)) % 2 == 1
  let vals ← x.ins.zipIdx.mapM (fun e => do
    let l := old.vals.getD e.2 []
    if x.on e.2 && !sameElems v e.1.1 x.d && (e.1.1.ranges v e.1.2 r i 1).any (fun y => w.any (rangesMeet y)) && pick e.2 then do
      let new ← readStream s' a v e.1.1 e.1.2 r i 1
      pure (l.set i (new.headD .nan))
    else pure l)
  let srec ← if x.on 4 && w.any (rangesMeet (v.target (v.space.testBit 4) (x.sBase + 8 * r), 8)) && pick 4
    then loadAt s' a v (v.space.testBit 4) (x.sBase + 8 * r) 8 else pure old.srec
  pure { vals, srec }

/-- R198: one row in an instruction whose D overlaps its inputs: element by element, after the rows `done`. -/
def Streams.slowRow (x : Streams) (s : State) (a : Acc) (v : VDesc) (key : Key) (w : List (Nat × Nat)) (done : List (List FVal))
    (r : Nat) (old : RowIn) (imgs : Images) : Rd (List FVal × Images) :=
  (List.range v.count).foldlM (fun (acc : List FVal × Images) i => do
    let o ← x.soFar v key (done ++ [acc.1])
    let now ← x.elem s (s.storeAll a o.writes).1 a v w r i old
    let (y, imgs) := elemRun v.stages v.kernel (now.env i) acc.2
    pure (acc.1 ++ [y], imgs)) ([], imgs)

/-- What VCHAIN writes. -/
def vchainOut (s : State) (a : Acc) (key : Key) (d : List Byte) (v : VDesc) : Rd Out := do
  let use := vecStreams d
  let on (k : Nat) : Bool := use.getD k false
  need (vectorOk d v use)
  let ext ← readExt s a v use
  let st (k : Nat) : Stream := v.stream ext k
  let bytes (k : Nat) : Nat := if (st k).fmt.hdr then 0 else (((v.nrows - 1) * (st k).ld) + v.count) * elemBytes (st k).fmt.fmt
  let sBase := if v.space.testBit 4 then field ext 40 8 else v.sOff
  let rBase := if v.space.testBit 5 then field ext 48 8 else v.rOff
  let rLen := if v.wide then 192 else 8
  for k in [0, 1, 2, 3] do
    if on k then spFits (v.space.testBit k) (st k).base (bytes k)
  if on 4 then spFits (v.space.testBit 4) sBase (8 * v.nrows)
  if on 5 then spFits (v.space.testBit 5) rBase (rLen * v.nrows)
  let open_ (k : Nat) : Rd Opnd := if on k then openOpnd s a (st k).fmt (st k).base else pure (.direct 0)
  let ins ← [0, 1, 2].mapM open_
  let dop ← open_ 3
  let x : Streams := { use, ext, ins := ([0, 1, 2].map st).zip ins, d := st 3, dop, sBase }
  let reds := v.stages.filter (·.isRed)
  let raw ← (List.range v.nrows).mapM (fun r => do
    let i ← x.row s a v r
    let old ← if on 5 && v.accum then loadAt s a v (v.space.testBit 5) (rBase + 192 * r) 192 else pure (List.replicate 192 0#8)
    pure (i, old))
  if on 3 then Rd.panel ((st 3).start dop)
  let start (old : List Byte) : Images := reds.map (fun g => (g, if v.accum then imagesOf g old else ({}, {})))
  let fast := raw.map (fun e => rowRun v.stages v.kernel ((List.range v.count).map e.1.env) (start e.2))
  let o ← if on 3 then writeD v key x.d dop ext (fast.map Prod.fst) else pure {}
  let w := x.clash v o
  let rows ← if w.isEmpty then pure fast else do
    Rd.note 0 0 false
    raw.zipIdx.foldlM (fun (acc : List (List FVal × Images)) e => do
      let y ← x.slowRow s a v key w (acc.map Prod.fst) e.2 e.1.1 (start e.1.2)
      pure (acc ++ [y])) []
  let o ← if on 3 && !w.isEmpty then writeD v key x.d dop ext (rows.map Prod.fst) else pure o
  let rec_ (e : (List FVal × Images) × Nat) (old : List Byte) : Out :=
    if reds.isEmpty then {}
    else if v.wide then { units := [{ writes := [(v.target (v.space.testBit 5) (rBase + 192 * e.2), e.1.2.foldl putImages old)] }] }
    else { units := [recordUnit (v.target (v.space.testBit 5) (rBase + 8 * e.2)) (e.1.2.flatMap (fun g => g.1.finish g.2))] }
  pure (o.append (Out.join (List.zipWith (fun e y => rec_ e y.2) rows.zipIdx raw)))

/-- VCHAIN. -/
def execVchain (p i : Nat) (s : State) : Host.Outcome State Fault Refusal :=
  answer (.vchain p i) (match s.task p i 0x20 with
    | some (q, k, it, d) =>
      let a := s.taskAcc q k i
      s.runTask q k a p i (fun s => vchainOut s a k.run.key d (vdesc it.policy d))
    | none => s)

/-- What VFINISH writes (R197). -/
def vfinishOut (s : State) (a : Acc) (d : List Byte) (v : VDesc) : Rd Out := do
  let use := vecStreams d
  need (vectorOk d v use)
  let ext ← readExt s a v use
  let rBase := if v.space.testBit 5 then field ext 48 8 else v.rOff
  let dBase := if v.space.testBit 3 then field ext 32 8 else v.offs.getD 3 0
  need (dBase % 8 == 0)
  spFits (v.space.testBit 5) rBase (192 * v.nrows)
  spFits (v.space.testBit 3) dBase (8 * v.nrows)
  let l ← (List.range v.nrows).mapM (fun r => do
    let b ← loadAt s a v (v.space.testBit 5) (rBase + 192 * r) 192
    let slots := v.stages.flatMap (fun g => g.finish (imagesOf g b))
    pure ({ units := [recordUnit (v.target (v.space.testBit 3) (dBase + 8 * r)) slots] } : Out))
  pure (Out.join l)

/-- VFINISH. -/
def execVfinish (p i : Nat) (s : State) : Host.Outcome State Fault Refusal :=
  answer (.vfinish p i) (match s.task p i 0x21 with
    | some (q, k, it, d) =>
      let a := s.taskAcc q k i
      s.runTask q k a p i (fun s => vfinishOut s a d (vdesc it.policy d))
    | none => s)

end Sys2Proof.Machine
end

