-- ==== Sys2Proof/Machine/Groups.lean ====
section
/-! DEFINITION. Gradient buckets and the group protocol: joining, buckets, contributions, sums, the norm tree, publication,
commit, abort, departures and rejoining (R249 to R251, R260 to R287, R490). -/

namespace Sys2Proof.Machine

/-! ### Groups, ranks and keys -/

/-- The group numbered `gid` that this module has joined. -/
def State.group (s : State) (gid : Nat) : Option Group := s.groups.find? (fun g => g.gid == gid)

def Group.n (g : Group) : Nat := g.members.length

def Group.bucket (g : Group) (b : Nat) : Option Bucket := g.buckets.find? (fun x => x.id == b)

/-- One bucket of a group changed, and its record and the group's written. -/
def State.putBucket (s : State) (g : Group) (b : Bucket) : State :=
  let g' : Group := { g with buckets := g.buckets.map (fun x => if x.id = b.id then b else x) }
  (s.putGroup g').syncBucket g' b

/-- Whether rank `k` has not departed. -/
def Group.live (g : Group) (k : Nat) : Bool := decide (k < g.n) && !g.departed.contains (g.members.getD k 0xFFFF)

/-- R285: the module that stands as rank `k`: the member, its deputy after it has departed, or none. -/
def Group.home (g : Group) (k : Nat) : Option Nat :=
  if g.live k then some (g.members.getD k 0xFFFF)
  else if g.deputy ∧ g.live ((k + 1) % g.n) then some (g.members.getD ((k + 1) % g.n) 0xFFFF)
  else none

/-- R280, R281: the rank that holds the root role. -/
def Group.root (g : Group) : Nat := ((List.range g.n).find? g.live).getD 0

/-- The ranks this module stands as. -/
def Group.nodes (g : Group) : List Nat :=
  (if g.rank = 0xFFFF then [] else [g.rank]) ++ (if g.adoptedRank = 0xFFFF then [] else [g.adoptedRank])

/-- R251: the children of rank `k`. -/
def Group.kids (g : Group) (k : Nat) : List Nat := [2 * k + 1, 2 * k + 2].filter (fun c => decide (c < g.n))

/-- The module that shadows rank `k`. -/
def Group.shadowFor (g : Group) (k : Nat) : Option Nat := (g.shadows.find? (fun p => p.1 == k)).map Prod.snd

/-- R271: the key under way: step and attempt. -/
def Group.key (g : Group) : Nat × Nat := if g.keyState = 2 then ((g.step + 1) % 2 ^ 32, 0) else (g.step, g.attempt)

/-- R271: whether a write or message carries the expected key; before the first step here, any step of attempt 0 does. -/
def Group.keyOk (g : Group) (step attempt : Nat) : Bool :=
  if g.keyState = 0 then decide (attempt = 0) else decide ((step, attempt) = g.key)

/-- Accesses of the group protocol itself. -/
def State.groupAcc (s : State) (g : Group) : Acc := { s.ctxAcc g.ctx with part := g.part, host := false }

/-- R263: an event of the group: code, bucket and rank. -/
def State.groupEvent (s : State) (g : Group) (code bucket rank : Nat) : State :=
  let g : Group := { g with lastEvent := code + bucket * 2 ^ 8 + rank % 4096 * 2 ^ 24, eventMt := s.mtime }
  (s.putGroup g).bump { part := g.part, host := true } (g.grec + 32)

/-- R271: a write discarded as stale. -/
def State.stale (s : State) (g : Group) : State := s.putGroup { g with stale := g.stale + 1 }

/-- A message under a key to a module, unless that is this module. -/
def State.tellAt (s : State) (g : Group) (key : Nat × Nat) (m : Option Nat) (sub rank arg : Nat) (data : List Byte := []) : State :=
  match m with
  | some d => if d = s.fab.moduleId then s else s.groupMsg d sub g.gid key.1 key.2 rank arg data
  | none => s

/-- A message under the key under way. -/
def State.tell (s : State) (g : Group) (m : Option Nat) (sub rank arg : Nat) (data : List Byte := []) : State :=
  s.tellAt g g.key m sub rank arg data

/-! ### Abort (R281, R283) -/

/-- The owner fields of every bucket as a commit or an abort leaves them, and all slot sets free (R268, R283). -/
def Group.clear (g : Group) : Group :=
  { g with sets := [], sets2 := [], normKids := [], normUp := [], readyKids := [], normAdopt := [], holdCommit := false,
           asked := [], heldAbort := none, resendAt := [], dueSends := [], commitPkts := [], abortPkts := [],
           buckets := g.buckets.map (fun b => { b with mine := {}, adopted := {}, landed := [], mirrored := [], resent := [] }) }

/-- The records of all buckets written, SUMMED zero (R268). -/
def State.syncBuckets (s : State) (g : Group) : State :=
  g.buckets.foldl (fun t b => (t.syncBucket g b).poke g.part (t.global (b.recOff + 16)) (toLe 8 0)) s

/-- ABORT applied (R283): the step of the key under way is aborted with cause, bucket and rank `arg`. -/
def State.applyAbort (s : State) (g : Group) (key : Nat × Nat) (arg : Nat) : State :=
  let t := g.commitPkts.foldl (fun t p => t.finish p stStepAborted (some arg)) s
  let t := g.abortPkts.foldl (fun t p => t.finish p stOk none) t
  let g' : Group := { g.clear with step := key.1, attempt := (key.2 + 1) % 256, keyState := 1, decision := some (false, key.1, key.2, arg) }
  let t := (t.putGroup g').syncBuckets g'
  (t.setCtx g.ctx { t.ctx g.ctx with step := key.1 }).abortStep g.ctx

/-- The modules that a message down the tree to rank `k` reaches: the one that stands as `k`, or, where none does, those that its
children's ranks reach, so that every member that has not departed sees the decision (R281). -/
def Group.heirs (g : Group) : Nat → Nat → List Nat
  | 0, _ => []
  | f + 1, k => match g.home k with
    | some m => [m]
    | none => (g.kids k).flatMap (g.heirs f)

/-- The modules an ABORT or COMMIT goes to from here: the children of the ranks this module stands as, and their shadows. -/
def Group.below (g : Group) : List Nat :=
  ((g.nodes.flatMap g.kids).flatMap (g.heirs 12) ++ g.nodes.filterMap g.shadowFor).eraseDups

/-- R281: the root has an abort request: it decides ABORT, unless it still asks a departed root's children. -/
def State.rootAbort (s : State) (g : Group) (arg : Nat) : State :=
  if !g.asked.isEmpty then s.putGroup { g with heldAbort := some (g.heldAbort.getD arg) }
  else
    let tgts := (g.below ++ (if g.live 0 then [] else (List.range g.n).filterMap g.home) ++ g.shadows.map Prod.snd).eraseDups
    let t := tgts.foldl (fun t m => t.tell g (some m) 0x08 g.rank arg) s
    t.applyAbort g g.key arg

/-- R281: an abort request of this module for the attempt with a key; a root that expects another key has decided it already. -/
def State.requestAbortAt (s : State) (gid : Nat) (key : Nat × Nat) (cause bucket rank : Nat) : State :=
  match s.group gid with
  | none => s
  | some g =>
    let arg := cause % 256 + bucket * 2 ^ 8 + rank % 4096 * 2 ^ 24
    if g.rank = g.root then
      if !g.keyOk key.1 key.2 then s else s.rootAbort (if g.keyState = 0 then { g with step := key.1 } else g) arg
    else s.tellAt g key (some (g.members.getD g.root 0xFFFF)) 0x07 g.rank arg

/-- An abort request for the step and attempt under way, or, once that is committed, for it still: the root then ignores it. -/
def State.requestAbort (s : State) (gid cause bucket rank : Nat) : State :=
  match s.group gid with
  | none => s
  | some g => s.requestAbortAt gid (g.step, g.attempt) cause bucket rank

/-! ### The norm (R249 to R251) -/

/-- The SUMSQ reduction, whose images the norm block holds. -/
def sumsq : Stage := stageOf [0x11#8, 0#8, 0#8, 0#8, 0#8, 0#8, 0#8, 0#8]

/-- R251: two images added exactly. -/
def Red.plus (a b : Red) : Red :=
  { a with sum := a.sum + b.sum, nan := a.nan || b.nan, pinf := a.pinf || b.pinf, ninf := a.ninf || b.ninf,
           some_ := a.some_ || b.some_, n := satTo (2 ^ 32 - 1) (a.n + b.n), negz := a.negz && b.negz }

/-- An image with the exact squares of FP32 numbers added. -/
def Red.squares (r : Red) (bs : List Byte) : Red :=
  (List.range (bs.length / 4)).foldl (fun r i => let x := f32 (field bs (4 * i) 4); r.term (x.mul x)) r

/-- R251: NORM2, FACTOR and the NONFINITE flag from the whole sum and MAXNORM. -/
def normOf (maxnorm : Nat) (r : Red) : Nat × Nat × Nat :=
  if r.nan || r.pinf || r.ninf then (0x7FC00000, 0x7FC00000, 4)
  else
    let norm2 := bits32 (FVal.ofRat r.sum)
    let m := f32 maxnorm
    let within : Bool := match m with
      | .nan => false
      | .inf _ => true
      | .zero _ => true
      | .num q => decide (r.sum ≤ q * q)
    (norm2, if within then 0x3F800000 else bits32 (mul32 m (rsqrt (f32 norm2))), 0)

/-- R250: a failed access to the norm block: an abort request in a group; otherwise a faulted context, and its packets that
wait on SEM complete with CONTEXT_FAULTED. -/
def State.normFailed (s : State) (c : Nat) (e : Err) : State :=
  match e with
  | .fail st d => match s.groupOf c with
    | some g => s.requestAbort g.gid st 0 g.rank
    | none =>
      let sem := (s.ctx c).normAddr + 120
      let waits (r : Nat × Packet) : Bool :=
        r.2.ctx == c && r.2.phase == .fetched && r.2.flags.testBit 0 && r.2.waitAddr == sem
      ((s.allPkts.filter waits).foldl (fun t r => t.finishSilent r.2.id stContextFaulted none) (s.faultCtx c .faulted st d)).settle
  | _ => s

/-- R251: NORM2, FACTOR and NB_FLAGS written, READY set, SEM added to. Where the add fails, READY is not set (R250); where the block's
home holds it, the result is kept. -/
def State.normReady (s : State) (c : Nat) (v : Nat × Nat × Nat) : State :=
  let x := s.ctx c
  let keep (s : State) : State := s.setCtx c { s.ctx c with normDue := some v }
  if x.normAddr = 0 ∨ x.readyDone then s
  else
    let a : Acc := { s.ctxAcc c with host := false }
    let sum := toLe 4 v.1 ++ toLe 4 v.2.1
    match s.store a (x.normAddr + 104) (sum ++ toLe 4 (3 + v.2.2)) with
    | (_, some .held) => keep s
    | (t, some e) => t.normFailed c e
    | (t, none) =>
      match t.signal a (x.normAddr + 120) with
      | .ok t => t.setCtx c { t.ctx c with readyDone := true, normDue := none }
      | .error .held => keep s
      | .error e => (s.store a (x.normAddr + 104) sum).1.normFailed c e

/-- R251: the norm result sent down to the modules that stand as the children of this module's ranks. -/
def State.normDown (s : State) (g : Group) (v : Nat × Nat × Nat) : State :=
  let s := s.putGroup { g with normRes := some v }
  ((g.nodes.flatMap g.kids).filterMap g.home).eraseDups.foldl
    (fun t m => t.tell g (some m) 0x04 g.rank 0 (toLe 4 v.1 ++ toLe 4 v.2.1 ++ toLe 4 v.2.2)) s

/-- One rank this module stands as sends its image up, once LOCAL_DONE is set and its children's images are here; rank 0
makes the result (R251). -/
def State.normNode (s : State) (gid k : Nat) : State :=
  match s.group gid with
  | none => s
  | some g =>
    let x := s.ctx g.ctx
    let ready := (g.kids k).all (fun c => g.normKids.any (fun e => e.1 == c))
      && (k == g.rank || g.buckets.all (fun b => b.manual || b.adopted.own == 1 || b.adopted.own == 2))
    if !x.localDone || x.normAddr = 0 || g.normUp.contains k || !ready then s
    else
      let a := s.groupAcc g
      let kids := ((g.normKids.filter (fun e => (g.kids k).contains e.1 && !e.2.isEmpty)).map (fun e => imageOf sumsq e.2))
      let own := decide (k = g.rank)
      match s.reading a (if own then load s a (x.normAddr + 8) 96 else pure g.normAdopt) with
      | (.error e, t) => t.normFailed g.ctx e
      | (.ok b, t) =>
        let img := (kids.foldl Red.plus (imageOf sumsq b)).image sumsq
        let (t, bad) := if own then t.store a (x.normAddr + 8) img else (t, none)
        match bad with
        | some e => t.normFailed g.ctx e
        | none =>
          let g' : Group := { g with
            normUp := g.normUp ++ [k], normAdopt := if own then g.normAdopt else img,
            normKids := g.normKids.map (fun e => if (g.kids k).contains e.1 then (e.1, []) else e) }
          if k = 0 then
            let t := t.putGroup g'
            match t.reading a (load t a x.normAddr 4) with
            | (.error e, t) => t.normFailed g.ctx e
            | (.ok m, t) =>
              let v := normOf (le m) (imageOf sumsq img)
              (t.normDown g' v).normReady g.ctx v
          else
            let up := (k - 1) / 2
            if g.home up = some s.fab.moduleId then
              t.putGroup { g' with normKids := g'.normKids.filter (fun e => e.1 != k) ++ [(k, img)] }
            else (t.putGroup g').tell g' (g.home up) 0x03 k 0 img

/-- R250, R251: LOCAL_DONE is set when it is due, and what can go up the norm tree goes. -/
def State.normStep (s : State) (gid : Nat) : State :=
  match s.group gid with
  | none => s
  | some g =>
    let x := s.ctx g.ctx
    let summed (o : Own) : Bool := o.own = 1 ∨ o.own = 2
    let all := g.buckets.all (fun b => b.manual || (summed b.mine && (g.adoptedRank = 0xFFFF || summed b.adopted)))
    if g.rank = 0xFFFF ∨ x.normAddr = 0 ∨ x.stepState ≠ .exchange then s
    else
      let t := if x.localDone then s
        else if all then
          match s.store (s.groupAcc g) (x.normAddr + 112) (toLe 4 1) with
          | (t, none) => t.setCtx g.ctx { t.ctx g.ctx with localDone := true }
          | (t, some e) => t.normFailed g.ctx e
        else s
      (g.nodes ++ g.nodes).foldl (fun t k => t.normNode gid k) t

/-- R250, R251: a context in no group enters EXCHANGE: LOCAL_DONE, then the result from its own ACC and MAXNORM. -/
def State.normAlone (s : State) (c : Nat) : State :=
  let x := s.ctx c
  if x.normAddr = 0 ∨ x.readyDone then s
  else
    let a : Acc := { s.ctxAcc c with host := false }
    match s.store a (x.normAddr + 112) (toLe 4 1) with
    | (t, some e) => t.normFailed c e
    | (t, none) =>
      let t := t.setCtx c { t.ctx c with localDone := true }
      match t.reading a (load t a x.normAddr 104) with
      | (.error e, t) => t.normFailed c e
      | (.ok b, t) => t.normReady c (normOf (field b 0 4) (imageOf sumsq (b.drop 8)))

/-! ### Readiness and commit (R279, R280) -/

/-- R280: every bucket has landed: the parameter shards of every other rank, and of this module's own ranks, no. -/
def Group.allLanded (g : Group) : Bool :=
  g.buckets.all (fun b => (List.range g.n).all (fun k => g.nodes.contains k || decide (b.owed k ≤ b.got k)))

/-- R280: what this module owns or has adopted is PUBLISHED. -/
def Group.allPublished (g : Group) : Bool :=
  g.buckets.all (fun b =>
    (b.owed g.rank == 0 || g.rank == 0xFFFF || decide (b.mine.own = 2))
      && (g.adoptedRank == 0xFFFF || b.owed g.adoptedRank == 0 || decide (b.adopted.own = 2)))

/-- R280: with DEPUTY, the predecessor's mirror has landed, unless that predecessor has departed. -/
def Group.mirrorLanded (g : Group) : Bool :=
  let p := (g.rank + g.n - 1) % g.n
  !g.deputy || g.n ≤ 1 || g.rank == 0xFFFF || !g.live p
    || g.buckets.all (fun b => (b.shard g.n p).2 == 0
      || decide (((b.regions.filter (fun r => r.kind == 1)).map (·.psh)).sum ≤ (b.mirrored.map Prod.snd).sum))

/-- R287: a member that has committed the step before a returning module's first sends its parameter shards, and the state
it holds as deputy, from half CUR, and answers. While a home holds one of the reads it waits (R21); where one cannot be read it refuses
(notes/assumptions/157). -/
def State.answerRejoin (s : State) (g : Group) (m step : Nat) : State :=
  let h := g.cur % 2
  -- bucket, source, length, destination, MIRROR
  let parts : List (Bucket × Nat × Nat × Nat × Nat) := g.buckets.flatMap (fun b => b.regions.flatMap (fun r =>
    if r.kind = 0 then
      g.nodes.map (fun k =>
        let (lo, len) := r.shard k
        let a := (if h = 0 then r.base0 else r.base1) + lo
        (b, a, len, a, 0))
    else if g.adoptedRank ≠ 0xFFFF ∧ g.members.getD g.adoptedRank 0xFFFF = m then
      [(b, r.base1 + h * r.psh, r.psh, r.base0 + h * r.psh, 1)]
    else []))
  let send (t : State) (c : Bucket × Nat × Nat × Nat × Nat) (bs : List Byte) : State :=
    (List.range (cdiv c.2.2.1 16352)).foldl (fun t i =>
      let addr := c.2.2.2.1 + i * 16352
      match t.planeFor g.part m addr with
      | none => t
      | some p => t.transmit p { typ := 0x0D, vc := 3, dest := m, part := g.part, data := (bs.drop (i * 16352)).take 16352,
                                 hdr := [g.gid, c.1.id, (step + 2 ^ 32 - 1) % 2 ^ 32, 0, c.2.2.2.2, g.rank, addr, c.1.crc] }) t
  match s.reading (s.groupAcc g) (parts.mapM (fun c => load s (s.groupAcc g) (s.global c.2.1) c.2.2.1)) with
  | (.error (.fail _ _), t) =>
    (t.groupMsg m 0x0C g.gid step 0 g.rank 0).putGroup { g with rejoiners := g.rejoiners.filter (fun x => x.1 != m) }
  | (.error _, _) => s
  | (.ok l, t) =>
    let t := (parts.zip l).foldl (fun t e => send t e.1 e.2) t
    let k := (g.members.findIdx? (· == m)).getD 0
    let g' : Group := { g with rejoiners := g.rejoiners.map (fun r => if r.1 = m then (m, step, true) else r) }
    ((t.groupMsg m 0x0C g.gid step 0 g.rank 1).putGroup g').groupEvent g' 0x00 0 k

/-- R287: the rejoins that this member's last commit lets it answer, or makes it refuse. -/
def State.serveRejoins (s : State) (gid : Nat) : State :=
  match s.group gid with
  | none => s
  | some g => g.rejoiners.foldl (fun t r =>
      match t.group gid, g.lastCommit with
      | some g, some last =>
        if r.2.2 then t
        else if (last + 1) % 2 ^ 32 = r.2.1 then t.answerRejoin g r.1 r.2.1
        else if !decide (2 ≤ (r.2.1 + 2 ^ 32 - last) % 2 ^ 32 ∧ (r.2.1 + 2 ^ 32 - last) % 2 ^ 32 < 2 ^ 31) then
          (t.groupMsg r.1 0x0C gid r.2.1 0 g.rank 0).putGroup { g with rejoiners := g.rejoiners.filter (fun x => x.1 != r.1) }
        else t
      | _, _ => t) s

/-- COMMIT applied (R280): CUR flips, the step is COMMITTED, STEP_COMMIT completes. -/
def State.applyCommit (s : State) (g : Group) : State :=
  let t := g.commitPkts.foldl (fun t p => t.finish p stOk none) s
  let t := g.abortPkts.foldl (fun t p => t.finish p stStaleStep none) t
  let g' : Group := { g.clear with
    cur := 1 - g.cur % 2, commitMt := s.mtime, keyState := 2, lastCommit := some g.step, decision := some (true, g.step, g.attempt, 0) }
  let t := (t.putGroup g').syncBuckets g'
  ((t.setCtx g.ctx { t.ctx g.ctx with stepState := .committed }).newK g.ctx).serveRejoins g.gid

/-- COMMIT sent down the tree and to the shadows, and applied here. -/
def State.commitHere (s : State) (g : Group) : State :=
  (g.below.foldl (fun t m => t.tell g (some m) 0x06 g.rank 0) s).applyCommit g

/-- One rank this module stands as becomes ready when the module and the rank's whole tree are (R280). -/
def State.readyNode (s : State) (gid k : Nat) : State :=
  match s.group gid with
  | none => s
  | some g =>
    if g.keyState ≠ 1 ∨ g.readyKids.contains k ∨ !(g.kids k).all (fun c => g.readyKids.contains c) then s
    else
      let g' : Group := { g with readyKids := g.readyKids ++ [k] }
      let t := s.putGroup g'
      if k = 0 then (if g.asked.isEmpty then t.commitHere g' else t)
      else t.tell g' (g.home ((k - 1) / 2)) 0x05 k 0

/-- R280: readiness climbs; a shadow that holds COMMIT commits once all has landed. -/
def State.readyStep (s : State) (gid : Nat) : State :=
  match s.group gid with
  | none => s
  | some g =>
    if g.rank = 0xFFFF then (if g.holdCommit && g.keyState == 1 && g.allLanded then s.applyCommit g else s)
    else if g.commitPkts.isEmpty || !g.allPublished || !g.allLanded || !g.mirrorLanded then s
    else (g.nodes ++ g.nodes).foldl (fun t k => t.readyNode gid k) s

/-- Check 7 for STEP_COMMIT and GROUP_ABORT. -/
def commitCheck (b : List Byte) : Option (Nat × Nat) := firstBad
  [(zeroAt b 2 2, badParam 2), (zeroAt b 8 8, badParam 8)]

/-- STEP_COMMIT (R279, R280). -/
def stepCommitRun (s : State) (_q : Nat) (k : Packet) : State :=
  let gid := field k.params 0 2
  let step := field k.params 4 4
  let x := s.ctx k.ctx
  let group := s.groupOf k.ctx
  if gid ≠ (group.map (·.gid)).getD 0xFFFF ∨ (gid = 0xFFFF ∧ group.isSome) then s.finish k.id 0x43 none
  else if !x.stepState.isOpen || step ≠ x.step then s.finish k.id stStaleStep none
  else if x.stepState ≠ .exchange then s.finish k.id 0x4E none
  else match group with
    | none => ((s.setCtx k.ctx { x with stepState := .committed }).newK k.ctx).finish k.id stOk none
    | some g => ((s.wait k.id).putGroup { g with commitPkts := g.commitPkts ++ [k.id] }).readyStep g.gid

def execStepCommit (p : Nat) (s : State) : Host.Outcome State Fault Refusal :=
  answer (.stepCommit p) (match s.started p 0x0203 with
    | some (q, k) => if k.waiting then s else s.onSequencer k (fun s => stepCommitRun (s.turned q k) q k)
    | none => s)

/-- GROUP_ABORT (R282). -/
def groupAbortRun (s : State) (_q : Nat) (k : Packet) : State :=
  let step := field k.params 4 4
  match s.groupOf k.ctx with
  | none => s.finish k.id 0x43 none
  | some g =>
    if g.gid ≠ field k.params 0 2 then s.finish k.id 0x43 none
    else if g.keyState ≠ 1 ∨ step ≠ g.step then s.finish k.id stStaleStep none
    else if (s.ctx k.ctx).stepState = .aborted then s.finish k.id stOk none
    else
      ((s.wait k.id).putGroup { g with abortPkts := g.abortPkts ++ [k.id] }).requestAbort g.gid 0 0 g.rank

def execGroupAbort (p : Nat) (s : State) : Host.Outcome State Fault Refusal :=
  answer (.groupAbort p) (match s.started p 0x0403 with
    | some (q, k) => groupAbortRun (s.turned q k) q k
    | none => s)

/-! ### GROUP_JOIN, BUCKET_DEFINE, SHADOW_MAP (R260 to R267, R275) -/

/-- R260: the defaults of the block applied. -/
def groupOfBlock (k : Packet) (part : Nat) (self : Nat) : Group :=
  let b := k.params
  let n := field b 2 2
  let or (v d : Nat) : Nat := if v = 0 then d else v
  let members := (List.range n).map (fun i => field b (64 + 2 * i) 2)
  let sh := field b 6 2
  { gid := field b 0 2, ctx := k.ctx, part, members,
    rank := if sh = 0xFFFF then (members.findIdx? (· == self)).getD 0xFFFF else 0xFFFF, shadowOf := sh,
    abortPol := (field b 4 1).testBit 0, deputy := (field b 4 1).testBit 1, inflight := or (field b 5 1) 8,
    bmax := or (field b 8 4) (2 ^ 25), dUs := or (field b 12 4) 2000, maxShadow := field b 16 2,
    slotOff := field b 24 8, slotBytes := field b 32 8, grec := field b 40 8 }

/-- Check 7 for GROUP_JOIN. -/
def joinCheck (s : State) (b : List Byte) : Option (Nat × Nat) :=
  let n := field b 2 2
  let rejoin := (field b 4 1).testBit 2
  let bmax := field b 8 4
  let d := field b 12 4
  firstBad
    [(decide (field b 0 2 ≠ 0xFFFF), badParam 0), (decide (1 ≤ n ∧ n ≤ 4096), badParam 2), (decide (field b 4 1 < 8), badParam 4), (decide (field b 5 1 ≤ 32), badParam 5),
     (decide (field b 6 2 = 0xFFFF ∨ field b 6 2 < n), badParam 6),
     (decide (bmax = 0 ∨ (bmax % 2 ^ 20 = 0 ∧ 2 ^ 22 ≤ bmax ∧ bmax ≤ 2 ^ 28)), badParam 8),
     (decide (d = 0 ∨ (10 ≤ d ∧ d ≤ 1000000)), badParam 12), (decide (field b 16 2 ≤ n), badParam 16),
     (zeroAt b 18 2, badParam 18), (rejoin || zeroAt b 20 4, badParam 20), (decide (field b 24 8 % 4096 = 0), badParam 24),
     (decide (field b 40 8 % 128 = 0 ∧ field b 40 8 >>> 48 = s.fab.moduleId), badParam 40),
     (rejoin || zeroAt b 48 1, badParam 48), (zeroAt b 49 15, badParam 49),
     (decide (b.length = 64 + 8 * cdiv n 4), badParam 2), (zeroAt b (64 + 2 * n) (8 * cdiv n 4 - 2 * n), badParam (64 + 2 * n))]

/-- R261: SH_MAX, and the slot space that a member needs. -/
def Group.shMax (g : Group) : Nat := cdiv g.bmax (g.n * 256) * 256
def Group.tables (g : Group) : Nat := if g.deputy then 2 else 1
def Group.slotNeed (g : Group) : Nat := g.inflight * g.tables * (g.n + g.maxShadow) * (g.shMax + 32)

/-- GROUP_JOIN (R260 to R263, R287). -/
def groupJoinRun (s : State) (q : Nat) (k : Packet) : State :=
  let b := k.params
  let self := s.fab.moduleId
  let g := groupOfBlock k (s.partOf q) self
  let times := (g.members.filter (· == self)).length
  let member := decide (g.shadowOf = 0xFFFF)
  let rejoin := (field b 4 1).testBit 2
  let endOff := g.slotOff + g.slotBytes
  if (s.groupOf k.ctx).isSome || (s.group g.gid).isSome || decide (8 ≤ s.groups.length) || (s.ctx k.ctx).stepState.isOpen
      || decide (times ≠ if member then 1 else 0) then s.finish k.id 0x43 none
  else if member && decide (g.slotBytes < g.slotNeed) then s.finish k.id 0x44 none
  else if s.memBytes g.part < endOff ∨ (s.ctx k.ctx).memLimit < endOff ∨ g.slotOff < (s.ctx k.ctx).memBase then
    let top := min (s.memBytes g.part) (s.ctx k.ctx).memLimit
    s.finish k.id stMemBounds (some (s.global (if g.slotOff < (s.ctx k.ctx).memBase then g.slotOff else max g.slotOff top)))
  else match s.canStore (s.accOf q k) g.grec 128 with
    | some e => s.onErr q k e
    | none =>
      let step := field b 20 4
      let others := (g.members.filter (fun m => m != self && (s.planeFor 0 m 0).isSome)).eraseDups
      let g : Group := if rejoin then
          { g with step, attempt := field b 48 1, keyState := 1, rejoining := true, rejoinPkt := some k.id,
                   rejoinAwait := others }
        else g
      let t : State := { s with groups := s.groups ++ [g] }
      let t := (t.poke g.part g.grec (List.replicate 128 0#8)).syncGroup g
      if !rejoin || others.isEmpty then
        (if rejoin then t.putGroup { g with rejoinPkt := none } else t).finish k.id stOk none
      else others.foldl (fun t m => t.groupMsg m 0x0B g.gid step g.attempt g.rank 0) (t.wait k.id)

def execGroupJoin (p : Nat) (s : State) : Host.Outcome State Fault Refusal :=
  answer (.groupJoin p) (match s.started p 0x0401 with
    | some (q, k) => groupJoinRun (s.turned q k) q k
    | none => s)

/-- Check 7 for BUCKET_DEFINE. -/
def bucketCheck (b : List Byte) : Option (Nat × Nat) := firstBad
  [(decide (field b 4 1 < 2), badParam 4), (decide (field b 5 1 ≤ 4), badParam 5), (zeroAt b 6 2, badParam 6),
   (decide (field b 8 4 % 256 = 0 ∧ 256 ≤ field b 8 4), badParam 8), (decide (1 ≤ field b 12 4), badParam 12),
   (decide (field b 16 8 % 256 = 0), badParam 16), (decide (field b 24 8 % 256 = 0), badParam 24),
   (decide (field b 32 8 % 32 = 0), badParam 32), (decide (field b 40 8 % 64 = 0), badParam 40), (zeroAt b 48 16, badParam 48)]

/-- R267: one region table entry, and whether it is allowed. -/
def bregOf (b : List Byte) : BReg :=
  { kind := field b 0 1, base0 := field b 8 8, base1 := field b 16 8, pbytes := field b 24 4, psh := field b 28 4 }

def bregOk (n : Nat) (b : List Byte) : Bool :=
  let r := bregOf b
  decide (r.kind ≤ 1) && zeroAt b 1 7 && decide (r.psh % 256 = 0) && decide (r.pbytes ≤ n * r.psh)
    && (r.kind == 0 || r.pbytes == 0)

/-- BUCKET_DEFINE (R265 to R268). -/
def bucketDefineRun (s : State) (q : Nat) (k : Packet) : State :=
  let b := k.params
  match s.groupOf k.ctx with
  | none => s.finish k.id 0x43 none
  | some g =>
    if g.gid ≠ field b 0 2 then s.finish k.id 0x43 none
    else if (s.ctx k.ctx).stepState.isOpen then s.finish k.id 0x45 none
    else if g.bmax < field b 8 4 then s.finish k.id 0x44 none
    else
      let a := s.accOf q k
      match s.reading a ((List.range (field b 5 1)).mapM (fun i => load s a (s.global (field b 32 8 + 32 * i)) 32)) with
      | (.error e, t) => t.onErr q k e
      | (.ok es, t) =>
        if !es.all (bregOk g.n) then t.finish k.id stBadParam (some (2 ^ 16 + 32))
        else
          let v : Bucket := { id := field b 2 2, manual := (field b 4 1).testBit 0, nreg := field b 5 1, size := field b 8 4,
                              target := field b 12 4, gradOff := field b 16 8, sumOff := field b 24 8, regOff := field b 32 8,
                              recOff := field b 40 8, crc := crc32c b, regions := es.map bregOf }
          match t.canStore a (t.global v.recOff) 64 with
          | some e => t.onErr q k e
          | none =>
            let g' : Group := { g with buckets := g.buckets.filter (fun x => x.id != v.id) ++ [v] }
            let t := t.poke g.part (t.global v.recOff) (List.replicate 64 0#8)
            ((t.putGroup g').syncBucket g' v).finish k.id stOk none

def execBucketDefine (p : Nat) (s : State) : Host.Outcome State Fault Refusal :=
  answer (.bucketDefine p) (match s.started p 0x0402 with
    | some (q, k) => bucketDefineRun (s.turned q k) q k
    | none => s)

/-- Check 7 for SHADOW_MAP: `n` is the group's number of ranks, where the context has one. -/
def shadowCheck (s : State) (c : Nat) (b : List Byte) : Option (Nat × Nat) :=
  let np := field b 2 2
  let ranks := (List.range np).map (fun i => field b (16 + 8 * i) 2)
  let n := ((s.groupOf c).map Group.n).getD 4096
  firstBad
    [(zeroAt b 4 12, badParam 4), (decide (b.length = 16 + 8 * np), badParam 2),
     ((List.range np).all (fun i => zeroAt b (20 + 8 * i) 4), badParam 16),
     (ranks.all (fun r => decide (r < n)), badParam 16), (decide ranks.Nodup, badParam 16)]

/-- SHADOW_MAP (R275): it takes effect at the next STEP_BEGIN. -/
def shadowMapRun (s : State) (_q : Nat) (k : Packet) : State :=
  let b := k.params
  let np := field b 2 2
  match s.groupOf k.ctx with
  | none => s.finish k.id 0x43 none
  | some g =>
    if g.gid ≠ field b 0 2 then s.finish k.id 0x43 none
    else if (s.ctx k.ctx).stepState.isOpen then s.finish k.id 0x45 none
    else if g.maxShadow < np then s.finish k.id 0x44 none
    else
      let l := (List.range np).map (fun i => (field b (16 + 8 * i) 2, field b (18 + 8 * i) 2))
      (s.putGroup { g with newMap := some l }).finish k.id stOk none

def execShadowMap (p : Nat) (s : State) : Host.Outcome State Fault Refusal :=
  answer (.shadowMap p) (match s.started p 0x0404 with
    | some (q, k) => shadowMapRun (s.turned q k) q k
    | none => s)

/-! ### Slots (R266, R271, R276, R490) -/

/-- Bytes that the module writes for the protocol at a partition-local offset, as any write of that home (R298, R335). Slots are written
in their home cache (R299). -/
def State.landAt (s : State) (g : Group) (off : Nat) (bs : List Byte) (slot : Bool := false) : State :=
  let t := (pieces off bs.length).foldl (fun t c =>
    let nc := !slot && ((t.regionAt g.part c.1).map (·.nocache)).getD false
    t.lineWrite g.part g.ctx (t.place g.part c.1) nc ((bs.drop (c.1 - off)).take c.2)) s
  if slot then t else t.otherWrite (s.global off) bs.length

/-- R21: bytes that the module would read or write for the protocol lie at a home that holds accesses. -/
def State.landHeld (s : State) (g : Group) (off n : Nat) : Bool :=
  (pieces off n).any (fun c => s.heldAt g.part c.1 (s.place g.part c.1))

/-- Bytes of the slot space as the sequencer reads them. -/
def slotLoad (s : State) (g : Group) (off n : Nat) : Rd (List Byte) := do
  let l ← (pieces off n).mapM (fun c => do
    let p := s.place g.part c.1
    if s.heldAt g.part c.1 p then Rd.fail .held
    Rd.note p c.2 false
    match (List.range c.2).find? (fun i => (s.memByte (p + i)).isNone) with
    | some i => Rd.fail (.fail stMemUncorrectable (s.global (c.1 + i)))
    | none => pure ((List.range c.2).map (fun i => (s.memByte (p + i)).getD 0#8)))
  pure l.flatten

/-- The data of slot `k` of a bucket's set, in the own or the adopted tables (notes/assumptions/11). -/
def Group.slotAddr (g : Group) (b : Bucket) (adopted : Bool) (k : Nat) : Nat :=
  let set := (b.id % g.inflight) * g.tables + (if adopted then 1 else 0)
  g.slotOff + (set * (g.n + g.maxShadow) + k) * (g.shMax + 32) + 32

def Bucket.table (b : Bucket) (adopted : Bool) : Own := if adopted then b.adopted else b.mine
def Bucket.setTable (b : Bucket) (adopted : Bool) (o : Own) : Bucket :=
  if adopted then { b with adopted := o } else { b with mine := o }

/-- R275: the slots of rank `r`: its own, and its shadow's where it has one. -/
def Group.slotsOf (g : Group) (r : Nat) : List Nat :=
  r :: (match g.shadows.findIdx? (fun p => p.1 == r) with
    | some i => [g.n + i]
    | none => [])

/-- The slot set of a bucket and the bucket it holds. -/
def Group.holder (g : Group) (b : Bucket) (adopted : Bool) : Nat :=
  Tbl.get 0 (if adopted then g.sets2 else g.sets) (b.id % g.inflight)

def Group.hold (g : Group) (b : Bucket) (adopted : Bool) : Group :=
  if adopted then { g with sets2 := Tbl.set 0 g.sets2 (b.id % g.inflight) (b.id + 1) }
  else { g with sets := Tbl.set 0 g.sets (b.id % g.inflight) (b.id + 1) }

/-- R276: the second copy of a shadowed rank's contribution under a key is compared with the first. -/
def State.compareCopy (s : State) (g : Group) (b : Bucket) (adopted : Bool) (key : Nat × Nat) (rank other : Nat) (bs : List Byte) : State :=
  match s.reading (s.groupAcc g) (slotLoad s g (g.slotAddr b adopted other) bs.length) with
  | (.error (.fail st _), t) => t.requestAbortAt g.gid key st b.id rank
  | (.error _, t) => t
  | (.ok old, t) => if old = bs then t else t.requestAbortAt g.gid key 0x46 b.id rank

/-- R271, R276, R490: a contribution under the expected key comes to the table: rank, slot, the shard's bytes, whether its
CRC-64 is right, its key, the stamp of its first flit, and the module that sent it. A deputy that has not seen the departure yet collects
for its predecessor all the same. -/
def State.takeIn (s : State) (g : Group) (b : Bucket) (adopted : Bool) (rank slot : Nat) (bs : List Byte) (good : Bool)
    (key : Nat × Nat) (first from_ : Nat) : State :=
  let me := if adopted then (g.rank + g.n - 1) % g.n else g.rank
  let step := key.1
  let o : Own := if (b.table adopted).step = step then b.table adopted else { step := step }
  let o : Own := { o with firstMt := some (o.firstMt.getD first) }
  let here := g.holder b adopted
  let pair := (g.slotsOf rank).find? (fun k => k != slot && o.present.contains k)
  let b := b.setTable adopted o
  let busy : Bool := decide (here ≠ 0 ∧ here ≠ b.id + 1) && (match g.bucket (here - 1) with
    | some h => let x := (h.table adopted).own; x == 0 || x == 3
    | none => false)
  let resend (t : State) : State :=
    if o.crcFails.contains slot then t.putBucket { g with cksumFails := g.cksumFails + 1 } b
    else
      let b := b.setTable adopted { o with crcFails := o.crcFails ++ [slot] }
      (t.putBucket { g with cksumFails := g.cksumFails + 1 } b).tellAt g key (some from_) 0x02 me b.id
  if o.own ≠ 0 then
    if (g.slotsOf rank).length < 2 ∨ here ≠ b.id + 1 ∨ o.own = 3 then s
    else if !good then resend s
    else match pair with
      | some k => if o.present.contains slot then s else s.compareCopy g b adopted key rank k bs
      | none => s
  else if busy then
    if from_ = s.fab.moduleId then
      s.putBucket { g with resendAt := g.resendAt ++ [(b.id, me, s.mtime + 10000)] } b
    else (s.putBucket { g with retries := g.retries + 1 } b).tellAt g key (some from_) 0x01 me b.id
  else if !good then resend s
  else if o.present.contains slot then s.putBucket g b
  else match pair with
    | some k => (s.putBucket g b).compareCopy g b adopted key rank k bs
    | none =>
      let o : Own := { o with present := o.present ++ [slot], fromShadow := o.fromShadow + if slot < g.n then 0 else 1 }
      let t := s.landAt g (g.slotAddr b adopted slot) bs true
      t.putBucket (g.hold b adopted) (b.setTable adopted o)

/-- R274: whether DEADLINE has passed at MTIME `now` with a rank missing, and the lowest missing rank. -/
def Group.overdue (g : Group) (b : Bucket) (adopted : Bool) (now : Nat) : Option Nat :=
  let o := b.table adopted
  match o.firstMt with
  | none => none
  | some t =>
    if o.own ≠ 0 ∨ now ≤ t + g.dUs * 1000 then none
    else (List.range g.n).find? (fun r => !(o.ranks g.n g.shadows).contains r)

/-- BUCKET_DEADLINE (R274): MTIME passes DEADLINE; under ABORT a missing rank aborts the step. -/
def bucketDeadline (s : State) (gid bid : Nat) (adopted : Bool) : State :=
  match s.group gid with
  | none => s
  | some g => match g.bucket bid with
    | none => s
    | some b => match (b.table adopted).firstMt with
      | none => s
      | some first =>
        let due := first + g.dUs * 1000 + 1
        let key := if g.keyState = 0 then ((b.table adopted).step, 0) else g.key
        match g.overdue b adopted due with
        | none => s
        | some r =>
          if adopted && g.adoptedRank == 0xFFFF then s
          else if g.abortPol then (s.at due).requestAbortAt gid key 0x41 bid r else s.at due

def execBucketDeadline (gid b : Nat) (adopted : Bool) (s : State) : Host.Outcome State Fault Refusal :=
  answer (.bucketDeadline gid b adopted) (bucketDeadline s gid b adopted)

/-- R21, R276: the slots that a contribution of `rank` is written to or compared with lie at a home that holds accesses. -/
def State.slotsHeld (s : State) (g : Group) (b : Bucket) (adopted : Bool) (rank n : Nat) : Bool :=
  (g.slotsOf rank).any (fun k => s.landHeld g (g.slotAddr b adopted k) n)

/-- R271, R274: a contribution has arrived whole at MTIME `lastMt`: its bytes, its CRC-64 and the stamp of its first flit. -/
def contributionIn (s : State) (h : ReduceHdr) (first : Nat) (data : List Byte) (crc : Nat) : State :=
  match s.group h.gid with
  | none => s.at h.lastMt
  | some g0 =>
    let adopted := decide (h.shard ≠ g0.rank)
    let late := match g0.bucket h.bucket with
      | some b => g0.abortPol && (g0.overdue b adopted h.lastMt).isSome
      | none => false
    let s := (if late then bucketDeadline s h.gid h.bucket adopted else s).at h.lastMt
    match s.group h.gid with
    | none => s
    | some g => match g.bucket h.bucket with
      | none => s.stale g
      | some b =>
        let slots := g.slotsOf h.srcRank
        let slot := if h.shadow then slots[1]? else some h.srcRank
        let mine := h.shard = g.rank ∨ (g.deputy ∧ h.shard = (g.rank + g.n - 1) % g.n)
        if b.crc ≠ h.defCrc ∨ !g.keyOk h.step h.attempt ∨ g.rank = 0xFFFF ∨ g.n ≤ h.srcRank ∨ !mine then s.stale g
        else match slot with
          | none => s.stale g
          | some slot =>
            let good := decide (crc64 data = crc ∧ data.length = (b.shard g.n h.shard).2)
            if s.slotsHeld g b adopted h.srcRank data.length then s.hold (.reduce { h with firstMt := first, shardOff := 0, last := true } (data ++ toLe 8 crc))
            else s.takeIn g b adopted h.srcRank slot data good (h.step, h.attempt) first h.src

/-- R344: a REDUCE packet carries on the contribution that `r` has begun. -/
def Run.isOf (r : Run) (h : ReduceHdr) : Bool :=
  r.src == h.src && r.srcRank == h.srcRank && r.shadow == h.shadow && r.gid == h.gid && r.bucket == h.bucket && r.shard == h.shard
    && r.step == h.step && r.attempt == h.attempt

/-- The contribution that a REDUCE packet carries on, unless it is the first of one. -/
def State.runOf (s : State) (h : ReduceHdr) : Option Run := if h.shardOff = 0 then none else s.fab.runs.find? (·.isOf h)

/-- The contributions under way, but for that one. -/
def State.dropRun (s : State) (h : ReduceHdr) : State := { s with fab := { s.fab with runs := s.fab.runs.filter (fun r => !r.isOf h) } }

/-- What has come of a contribution once the packet has: more bytes, with the stamp of its first flit. -/
def State.runWith (s : State) (h : ReduceHdr) (bs : List Byte) : Run :=
  { src := h.src, srcRank := h.srcRank, shadow := h.shadow, gid := h.gid, bucket := h.bucket, shard := h.shard, step := h.step,
    attempt := h.attempt, first := ((s.runOf h).map (·.first)).getD h.firstMt, bytes := ((s.runOf h).map (·.bytes)).getD [] ++ bs }

/-- R274: the first flit of the first contribution under the expected key stamps FIRST_MTIME of the shard it is for. -/
def State.stampFirst (s : State) (h : ReduceHdr) : State :=
  match s.group h.gid with
  | none => s
  | some g => match g.bucket h.bucket with
    | none => s
    | some b =>
      let adopted := decide (h.shard ≠ g.rank)
      let mine := h.shard = g.rank ∨ (g.deputy ∧ h.shard = (g.rank + g.n - 1) % g.n)
      let o : Own := if (b.table adopted).step = h.step then b.table adopted else { step := h.step }
      if b.crc ≠ h.defCrc ∨ !g.keyOk h.step h.attempt ∨ g.rank = 0xFFFF ∨ g.n ≤ h.srcRank ∨ !mine ∨ o.own ≠ 0 ∨ o.firstMt.isSome then s
      else s.putBucket g (b.setTable adopted { o with firstMt := some h.firstMt })

/-- REDUCE (R271, R274, R344): a packet of a contribution. One with LAST completes it; its last 8 payload bytes are the CRC-64. -/
def reduceIn (s : State) (h : ReduceHdr) (data : List Byte) : State :=
  let s := s.stampFirst h
  let t := s.dropRun h
  if h.last then
    let r := s.runWith h (data.take (data.length - 8))
    contributionIn t h r.first r.bytes (le (data.drop (data.length - 8)))
  else ({ t with fab := { t.fab with runs := t.fab.runs ++ [s.runWith h data] } } : State).at h.lastMt

def execReduce (h : ReduceHdr) (data : List Byte) (s : State) : Host.Outcome State Fault Refusal :=
  answer (.reduce h data) (s.received h.port h.via 1 (flitsOf data.length) (fun s => reduceIn s h data))

/-! ### Sending (R269 to R271) -/

/-- The packets of a contribution, with its CRC-64 at the end. -/
def State.sendShard (s : State) (g : Group) (b : Bucket) (dest : Nat) (bs : List Byte) : State :=
  let all := bs ++ toLe 8 (crc64 bs)
  let n := cdiv all.length 16352
  let me := if g.rank = 0xFFFF then g.shadowOf else g.rank
  match s.planeFor 0 dest 0 with
  | none => s
  | some p => (List.range n).foldl (fun t i =>
      t.transmit p { typ := 0x08, vc := 1, dest, part := g.part, data := (all.drop (i * 16352)).take 16352, last := i + 1 = n,
                     shadow := g.rank = 0xFFFF, hdr := [g.gid, b.id, g.key.1, g.key.2, me, i * 16352, b.crc] }) s

/-- The contribution for shard `k`, read from GRAD_OFFSET, goes to the module that stands as rank `k`, here or elsewhere. Where a home
holds it, it waits (R21); where it cannot be read, the step's abort is asked for (notes/assumptions/157). -/
def State.contribute (s : State) (gid bid k : Nat) : State :=
  match s.group gid with
  | none => s
  | some g => match g.bucket bid, g.home k with
    | some b, some dest =>
      let (lo, len) := b.shard g.n k
      let wait := s.putGroup { g with dueSends := g.dueSends.filter (· != (bid, k)) ++ [(bid, k)] }
      if len = 0 then s
      else if dest = s.fab.moduleId ∧ s.slotsHeld g b (k != g.rank) g.rank len then wait
      else match s.reading (s.groupAcc g) (load s (s.groupAcc g) (s.global (b.gradOff + lo)) len) with
        | (.error (.fail st _), t) => t.requestAbort gid st bid (if g.rank = 0xFFFF then g.shadowOf else g.rank)
        | (.error _, _) => wait
        | (.ok bs, t) =>
          if dest = t.fab.moduleId then t.takeIn g b (k != g.rank) g.rank g.rank bs true g.key t.mtime dest
          else t.sendShard g b dest bs
    | _, _ => s

/-- R269: a bucket that is SENDING is SENT once no contribution of it waits. -/
def State.sentNow (s : State) (gid bid : Nat) : State :=
  match s.group gid with
  | none => s
  | some g => match g.bucket bid with
    | some b => if b.send = 1 ∧ !g.dueSends.any (fun e => e.1 == bid) then s.putBucket g { b with send := 2 } else s
    | none => s

/-- R269, R21: the next contribution of a bucket goes out, behind those of it that wait, while the attempt with a key lasts. -/
def State.nextShard (s : State) (key : Nat × Nat) (gid bid k : Nat) : State :=
  match s.group gid with
  | none => s
  | some g =>
    if g.key ≠ key then s
    else if g.dueSends.any (fun e => e.1 == bid) then s.putGroup { g with dueSends := g.dueSends.filter (· != (bid, k)) ++ [(bid, k)] }
    else s.contribute gid bid k

/-- R269: the bucket is SENDING, its contributions go out in the order r, r + 1, …, and it is SENT. An abort on the way
leaves it where it is; one that a home holds keeps those after it waiting (R21). -/
def State.sendBucket (s : State) (gid bid : Nat) : State :=
  match s.group gid with
  | none => s
  | some g => match g.bucket bid with
    | none => s
    | some b =>
      let me := if g.rank = 0xFFFF then g.shadowOf else g.rank
      let t := s.putBucket g { b with send := 1 }
      let t := (List.range g.n).foldl (fun t j => t.nextShard g.key gid bid ((me + j) % g.n)) t
      match t.group gid with
      | some x => if x.key = g.key then t.sentNow gid bid else t
      | none => t

/-- R21, R269: a hold has ended: the contributions that waited for it go out, in their order. -/
def State.resumeSends (s : State) (gid : Nat) : State :=
  match s.group gid with
  | none => s
  | some g =>
    let t := g.dueSends.foldl (fun t e => t.nextShard g.key gid e.1 e.2) (s.putGroup { g with dueSends := [] })
    (g.dueSends.map Prod.fst).eraseDups.foldl (fun t b => t.sentNow gid b) t

/-- BUCKET_SEND (R269): a bucket that is full in DRAIN, or still EMPTY in EXCHANGE. -/
def bucketSend (s : State) (gid bid : Nat) : State :=
  match s.group gid with
  | none => s
  | some g => match g.bucket bid with
    | none => s
    | some b =>
      let st := (s.ctx g.ctx).stepState
      if b.send ≠ 0 ∨ !(st == .exchange || st == .drain) then s
      else if st = .exchange then s.sendBucket gid bid
      else match s.readNat (s.groupAcc g) (s.global (b.recOff + 8)) 8 with
        | (.ok fill, t) => if b.target ≤ fill then t.sendBucket gid bid else t
        | (.error (.fail st _), t) => t.requestAbort gid st bid (if g.rank = 0xFFFF then g.shadowOf else g.rank)
        | (.error _, _) => s

def execBucketSend (gid b : Nat) (s : State) : Host.Outcome State Fault Refusal :=
  answer (.bucketSend gid b) (bucketSend s gid b)

/-- R239: the step enters EXCHANGE: partly filled buckets are flushed; with no group the norm result is made at once (R250). -/
def State.enterExchange (s : State) (c : Nat) : State :=
  let t := s.setCtx c { s.ctx c with stepState := .exchange }
  match t.groupOf c with
  | none => t.normAlone c
  | some g => ((g.buckets.filter (fun b => b.send == 0)).foldl (fun t b => t.sendBucket g.gid b.id) t).normStep g.gid

/-! ### Receiving messages (R354) -/

/-- R354: a message is acknowledged, and acted on only the first time; then it finds its group. -/
def State.hear (s : State) (m : GroupMsg) (act : State → Group → State) : State :=
  let t := s.respond m.port m.src m.mseq 0 4 0 0
  if s.fab.seen.contains (m.src, m.mseq) then t
  else
    let t : State := { t with fab := { t.fab with seen := t.fab.seen ++ [(m.src, m.mseq)] } }
    match t.group m.gid with
    | none => t
    | some g => act t g

/-- A GROUP packet with `n` payload bytes comes in. -/
def State.heardOn (s : State) (m : GroupMsg) (n : Nat) (act : State → Group → State) : State :=
  s.received m.port m.via 0 (flitsOf n) (fun s => s.queued m.port (fun s => s.hear m act))

/-- RETRY (R271): the owner's slot set was busy; the contribution goes again after 10 µs. -/
def execRetry (m : GroupMsg) (s : State) : Host.Outcome State Fault Refusal :=
  answer (.retry m) (s.heardOn m 0 (fun t g =>
    if (m.step, m.attempt) ≠ g.key ∨ (g.bucket (m.arg % 2 ^ 16)).isNone ∨ g.home m.srcRank ≠ some m.src then t
    else t.putGroup { g with resendAt := g.resendAt ++ [(m.arg % 2 ^ 16, m.srcRank, t.mtime + 10000)] }))

/-- RETRY_RESEND (R271): 10 µs after the RETRY from module `dest`, the contribution for its shard is sent again. -/
def retryResend (s : State) (gid bid dest : Nat) : State :=
  match s.group gid with
  | none => s
  | some g => match g.resendAt.find? (fun e => e.1 == bid && g.home e.2.1 == some dest) with
    | none => s
    | some e => ((s.at e.2.2).putGroup { g with resendAt := g.resendAt.erase e }).contribute gid bid e.2.1

def execRetryResend (gid b dest : Nat) (s : State) : Host.Outcome State Fault Refusal :=
  answer (.retryResend gid b dest) (retryResend s gid b dest)

/-- RESEND (R271): a contribution failed its CRC-64; it is sent once more. -/
def execResend (m : GroupMsg) (s : State) : Host.Outcome State Fault Refusal :=
  answer (.resend m) (s.heardOn m 0 (fun t g =>
    let k := m.srcRank
    match g.bucket (m.arg % 2 ^ 16) with
    | none => t
    | some b =>
      if (m.step, m.attempt) ≠ g.key ∨ g.home k ≠ some m.src ∨ b.resent.contains k then t
      else (t.putBucket g { b with resent := b.resent ++ [k] }).contribute g.gid b.id k))

/-! ### Summing (R272, R273) -/

/-- R272: the sum in rank order; a single slot is the sum as it stands. -/
def sumSlots : List (List Byte) → List Byte
  | [] => []
  | [a] => a
  | a :: r => (List.range (a.length / 4)).flatMap (fun i =>
      toLe 4 (bits32 (r.foldl (fun v c => add32 v (f32 (field c (4 * i) 4))) (f32 (field a (4 * i) 4)))))

/-- R273: whether a shard of `len` bytes has a granule that the sample check takes in this step. -/
def sampled (step bid len : Nat) : Bool := decide (mix ((step * 2 ^ 16 ^^^ bid) % 2 ^ 64) % 64 < cdiv len 4096)

/-- R249, R272: the squares of a summed shard enter the norm: the block's ACC, or the adopted rank's image. -/
def State.addSquares (s : State) (g : Group) (adopted : Bool) (bs : List Byte) : Except (Err × State) (State × Group) :=
  let x := s.ctx g.ctx
  if adopted then .ok (s, { g with normAdopt := ((imageOf sumsq g.normAdopt).squares bs).image sumsq })
  else if x.normAddr = 0 then .ok (s, g)
  else match s.reading (s.groupAcc g) (load s (s.groupAcc g) (x.normAddr + 8) 96) with
    | (.error e, t) => .error (e, t)
    | (.ok b, t) => match t.store { s.groupAcc g with atHome := true } (x.normAddr + 8) (((imageOf sumsq b).squares bs).image sumsq) with
      | (t, none) => .ok (t, g)
      | (t, some e) => .error (e, t)

/-- R328: a slot that cannot be read: OWN becomes FAILED, and the owner requests an abort. -/
def State.slotFailed (s : State) (gid bid : Nat) (adopted : Bool) (st : Nat) : State :=
  match s.group gid with
  | none => s
  | some g => match g.bucket bid with
    | none => s
    | some b => (s.putBucket g (b.setTable adopted { b.table adopted with own := 3 })).requestAbort gid st bid
        (if adopted then g.adoptedRank else g.rank)

/-- R272: a bucket's own or adopted shard of an open step waits to be summed: its slots are filled. -/
def State.summable (s : State) (g : Group) (b : Bucket) (adopted : Bool) : Bool :=
  let me := if adopted then g.adoptedRank else g.rank
  let o := b.table adopted
  let full := (b.shard g.n me).2 = 0 ∨ (List.range g.n).all (fun r => (o.ranks g.n g.shadows).contains r)
  decide (me ≠ 0xFFFF ∧ g.keyState = 1 ∧ o.own = 0 ∧ full) && (s.ctx g.ctx).stepState.isOpen

/-- R219: the work of the memory-side sequencer: slot sequences, which are done as they begin. -/
def State.sumWork (s : State) : UnitWork :=
  { ready := ((s.groups.filter (fun g => (s.ctx g.ctx).state == .active && g.buckets.any (fun b => s.summable g b false || s.summable g b true))).map
      (·.ctx)).eraseDups,
    runs := [] }

/-- SLOT_TABLE_SUM (R272, R273): every slot is filled, and the group's context holds the slice of the memory-side sequencer (R219).
`good1` and `good2` tell whether the sample checks of the first and
of the second sum agree. -/
def slotTableSum (s : State) (gid bid : Nat) (adopted good1 good2 : Bool) : State :=
  match s.group gid with
  | none => s
  | some g => match g.bucket bid with
    | none => s
    | some b =>
      let me := if adopted then g.adoptedRank else g.rank
      let o := b.table adopted
      let len := (b.shard g.n me).2
      let (mine, _, u) := s.unitTakes memoryUnit s.sumWork g.ctx
      if !s.summable g b adopted then s
      else if (s.ctx g.ctx).state == .active && !mine then u
      else
        let s := u
        let slots := (List.range g.n).map (fun r => ((g.slotsOf r).find? (fun k => o.present.contains k)).getD r)
        let rd : Rd (List (List Byte)) :=
          if len = 0 then pure [] else slots.mapM (fun k => slotLoad s g (g.slotAddr b adopted k) len)
        match s.reading (s.groupAcc g) rd with
        | (.error (.fail st _), t) => t.slotFailed gid bid adopted st
        | (.error _, _) => s
        | (.ok parts, t) =>
          let sum := sumSlots parts
          let checked := sampled g.step bid len
          let bad1 := checked && !good1
          let g : Group := if bad1 then { g with mismatches := g.mismatches + 1 } else g
          let t := if bad1 then t.groupEvent g 0x7F bid me else t
          let g := (t.group gid).getD g
          if bad1 && !good2 then
            let junk := (List.range len).map (fun i => Config.freeByte (t.freeAt + i))
            let t := (t.drew.store { s.groupAcc g with atHome := true } (t.global b.sumOff) junk).1
            (t.putBucket g (b.setTable adopted { o with own := 3 })).requestAbort gid 0x7F bid me
          else
            match t.store { s.groupAcc g with atHome := true } (t.global b.sumOff) sum with
            | (t, some (.fail st _)) => t.requestAbort gid st bid me
            | (_, some _) => s
            | (t, none) => match if b.manual then .ok (t, g) else t.addSquares g adopted sum with
            | .error (.held, _) => s
            | .error (e, t) => t.normFailed g.ctx e
            | .ok (t, g) =>
              let t := t.putBucket g (b.setTable adopted { o with own := 1, step := g.step })
              (t.bump (s.groupAcc g) (t.global (b.recOff + 16))).normStep gid

def execSlotTableSum (gid b : Nat) (adopted good1 good2 : Bool) (s : State) : Host.Outcome State Fault Refusal :=
  answer (.slotTableSum gid b adopted good1 good2) (slotTableSum s gid b adopted good1 good2)

/-! ### Publication (R277, R278) -/

/-- A broadcast or mirror write of bytes at a partition-local offset, to one module. -/
def State.bcastTo (s : State) (g : Group) (b : Bucket) (owner : Nat) (mirror : Bool) (addr : Nat) (bs : List Byte) (d : Nat) : State :=
  (List.range (cdiv bs.length 16352)).foldl (fun t i =>
    let a := addr + i * 16352
    match t.planeFor g.part d a with
    | none => t
    | some p => t.transmit p { typ := 0x0D, vc := 3, dest := d, part := g.part, data := (bs.drop (i * 16352)).take 16352,
                               hdr := [g.gid, b.id, g.key.1, g.key.2, if mirror then 1 else 0, owner, a, b.crc] }) s

/-- SHARD_PUBLISH (R277): PUBLISH is non-zero and OWN is SUMMED. While a home holds one of the reads it waits (R21); where one
cannot be read, the step's abort is asked for (notes/assumptions/157). -/
def shardPublish (s : State) (gid bid : Nat) (adopted : Bool) : State :=
  match s.group gid with
  | none => s
  | some g => match g.bucket bid with
    | none => s
    | some b =>
      let me := if adopted then g.adoptedRank else g.rank
      let o := b.table adopted
      if me = 0xFFFF ∨ o.own ≠ 1 then s
      else match s.readNat (s.groupAcc g) (s.global (b.recOff + 24)) 8 with
      | (.error (.fail st _), t) => t.requestAbort gid st bid me
      | (.error _, _) => s
      | (.ok 0, t) => t
      | (.ok _, s) =>
        let h := 1 - g.cur % 2
        let self := s.fab.moduleId
        let all := (((List.range g.n).filter (fun k => k != me && g.live k)).map (fun k => g.members.getD k 0xFFFF)
          ++ g.shadows.map Prod.snd).eraseDups.filter (· != self)
        -- what is read of each region, where it lands, whether it is mirrored, and at whom
        let parts : List (Nat × Nat × Nat × Bool × List Nat) := b.regions.filterMap (fun r =>
          let (lo, len) := r.shard me
          let deputy := (me + 1) % g.n
          let (src, n, tgts) : Nat × Nat × List Nat :=
            if r.kind = 0 then ((if h = 0 then r.base0 else r.base1) + lo, len, all)
            else (r.base0 + h * r.psh, r.psh, if g.deputy && !adopted && g.live deputy && decide (deputy ≠ me)
              then [g.members.getD deputy 0xFFFF] else [])
          let dst := if r.kind = 0 then src else r.base1 + h * r.psh
          if n = 0 ∨ tgts = [] then none else some (src, n, dst, r.kind == 1, tgts))
        match s.reading (s.groupAcc g) (parts.mapM (fun c => load s (s.groupAcc g) (s.global c.1) c.2.1)) with
        | (.error (.fail st _), t) => t.requestAbort gid st bid me
        | (.error _, _) => s
        | (.ok l, t) =>
          let t := (parts.zip l).foldl (fun t e => e.1.2.2.2.2.foldl (fun t d => t.bcastTo g b me e.1.2.2.2.1 e.1.2.2.1 e.2 d) t) t
          (t.putBucket g (b.setTable adopted { o with own := 2 })).readyStep gid

def execShardPublish (gid b : Nat) (adopted : Bool) (s : State) : Host.Outcome State Fault Refusal :=
  answer (.shardPublish gid b adopted) (shardPublish s gid b adopted)

/-- R16: what a command does in this module's memory: the hub that it comes through, the partition, and the first and the last granule. -/
def heldRange (s : State) (i : Instr) : Option (Nat × Nat × Nat × Nat) :=
  let at_ (hub part addr n : Nat) : Option (Nat × Nat × Nat × Nat) := some (hub, part, addr / 256, (addr + n - 1) / 256)
  match i with
  | .read h len => at_ (h.port / 4) h.part h.addr len
  | .write h d => at_ (h.port / 4) h.part h.addr d.length
  | .atomic h _ _ _ => at_ (h.port / 4) h.part h.addr 8
  | .pull h _ len => at_ (h.port / 4) h.part h.addr len
  | .bulk h _ _ d => at_ (h.port / 4) h.part h.addr d.length
  | .bcast h d => (s.group h.gid).bind (fun g => at_ (h.port / 4) g.part h.addr d.length)
  | .bar4Read fn addr len => at_ (fn / 17) (if fn % 17 = 0 then 0 else (s.fn fn).part) addr len
  | .bar4Write fn addr d => at_ (fn / 17) (if fn % 17 = 0 then 0 else (s.fn fn).part) addr d.length
  | _ => none

/-- R16: an older access of the same hub to one of the granules is held: this one waits behind it. -/
def State.behind (s : State) (i : Instr) : Bool :=
  match heldRange s i with
  | none => false
  | some (hub, part, lo, hi) => (s.held.filterMap (heldRange s)).any (fun x => decide (x.1 = hub ∧ x.2.1 = part ∧ x.2.2.1 ≤ hi ∧ lo ≤ x.2.2.2))

/-- BCAST (R278): a broadcast or mirror write lands in the inactive half; for a module that rejoins, in the half the
members hold current. -/
def bcastIn (s : State) (h : BcastHdr) (data : List Byte) : State :=
  match s.group h.gid with
  | none => s
  | some g => match g.bucket h.bucket with
    | none => s.stale g
    | some b =>
      let fits := decide (h.addr + data.length ≤ s.memBytes g.part)
      if b.crc ≠ h.defCrc ∨ !fits then s.stale g
      else if s.landHeld g h.addr data.length || s.behind (.bcast h data) then s.hold (.bcast h data)
      else if g.rejoining && decide ((h.step + 1) % 2 ^ 32 = g.step) then
        let t := s.landAt g h.addr data
        let half := b.regions.findSome? (fun r => if r.kind ≠ 0 then none
          else if r.base1 ≤ h.addr ∧ h.addr < r.base1 + r.pbytes then some 1
          else if r.base0 ≤ h.addr ∧ h.addr < r.base0 + r.pbytes then some 0 else none)
        t.putGroup { g with cur := half.getD g.cur }
      else if !g.keyOk h.step h.attempt then s.stale g
      else
        let t := s.landAt g h.addr data
        let b : Bucket := if h.mirror then { b with mirrored := b.mirrored.filter (fun e => e.1 != h.addr) ++ [(h.addr, data.length)] }
          else { b with landed := b.landed.filter (fun e => !(e.1 == h.owner && e.2.1 == h.addr)) ++ [(h.owner, h.addr, data.length)] }
        (t.putBucket g b).readyStep h.gid

def execBcast (h : BcastHdr) (data : List Byte) (s : State) : Host.Outcome State Fault Refusal :=
  answer (.bcast h data) (s.received h.port h.via 3 (flitsOf data.length) (fun s => bcastIn s h data))

/-! ### The norm, commit and abort messages -/

/-- NORM_UP (R251): a child's image arrives. -/
def execNormUp (m : GroupMsg) (image : List Byte) (s : State) : Host.Outcome State Fault Refusal :=
  answer (.normUp m image) (s.heardOn m image.length (fun t g =>
    if !g.keyOk m.step m.attempt || g.normKids.any (fun e => e.1 == m.srcRank) then t
    else (t.putGroup { g with normKids := g.normKids ++ [(m.srcRank, image)] }).normStep g.gid))

/-- NORM_DOWN (R251): the result arrives and goes on down. -/
def execNormDown (m : GroupMsg) (norm2 factor flags : Nat) (s : State) : Host.Outcome State Fault Refusal :=
  answer (.normDown m norm2 factor flags) (s.heardOn m 12 (fun t g =>
    if g.keyState ≠ 1 || !g.keyOk m.step m.attempt || (t.ctx g.ctx).readyDone then t
    else
      let v := (norm2 % 2 ^ 32, factor, flags &&& 4)
      (t.normDown g v).normReady g.ctx v))

/-- READY (R280): a child's whole tree is ready. -/
def execReady (m : GroupMsg) (s : State) : Host.Outcome State Fault Refusal :=
  answer (.ready m) (s.heardOn m 0 (fun t g =>
    if !g.keyOk m.step m.attempt || g.readyKids.contains m.srcRank then t
    else (t.putGroup { g with readyKids := g.readyKids ++ [m.srcRank] }).readyStep g.gid))

/-- COMMIT (R280): it is applied and goes on down; a shadow holds it until all has landed, from before its own STEP_BEGIN on too
(R271). -/
def execCommit (m : GroupMsg) (s : State) : Host.Outcome State Fault Refusal :=
  answer (.commit m) (s.heardOn m 0 (fun t g =>
    if !g.keyOk m.step m.attempt then t
    else if g.rank = 0xFFFF then
      (t.putGroup { g with holdCommit := true, step := if g.keyState = 0 then m.step else g.step }).readyStep g.gid
    else if g.keyState ≠ 1 then t
    else t.commitHere g))

/-- ABORT_REQ (R281): at the root, a decision; a request under another key comes too late. -/
def execAbortReq (m : GroupMsg) (s : State) : Host.Outcome State Fault Refusal :=
  answer (.abortReq m) (s.heardOn m 0 (fun t g =>
    if g.rank ≠ g.root || !g.keyOk m.step m.attempt then t
    else t.rootAbort (if g.keyState = 0 then { g with step := m.step } else g) (m.arg % 2 ^ 36)))

/-- ABORT (R283): applied, and sent on down. -/
def execAbort (m : GroupMsg) (s : State) : Host.Outcome State Fault Refusal :=
  answer (.abort m) (s.heardOn m 0 (fun t g =>
    if !g.keyOk m.step m.attempt then t
    else
      let g : Group := if g.keyState = 0 then { g with step := m.step } else g
      ((g.nodes.flatMap g.kids).flatMap (g.heirs 12)).eraseDups.foldl (fun t d => t.tell g (some d) 0x08 g.rank (m.arg % 2 ^ 36)) t
        |>.applyAbort g (m.step, m.attempt) (m.arg % 2 ^ 36)))

/-! ### A root's departure (R281) -/

/-- The decision this member holds for a step and attempt: decided, and whether it is COMMIT. -/
def Group.held (g : Group) (step attempt : Nat) : Option Bool :=
  if g.lastCommit = some step then some true
  else if g.keyState = 1 ∧ g.step = step ∧ attempt < g.attempt then some false
  else if g.holdCommit ∧ g.step = step then some true
  else none

/-- DECISION_QUERY (R281): a new root asks for a decision. -/
def execDecisionQuery (m : GroupMsg) (s : State) : Host.Outcome State Fault Refusal :=
  answer (.decisionQuery m) (s.heardOn m 0 (fun t g =>
    let arg := match g.held m.step m.attempt with
      | some c => 2 + if c then 1 else 0
      | none => 0
    t.groupMsg m.src 0x0A g.gid m.step m.attempt g.rank arg))

/-- What a new root does once every asked child has answered or departed: an abort request it holds, or the commit. -/
def State.resumeRoot (s : State) (gid : Nat) : State :=
  match s.group gid with
  | none => s
  | some g =>
    if !g.asked.isEmpty then s
    else match g.heldAbort with
      | some arg => s.rootAbort { g with heldAbort := none } arg
      | none =>
        if g.keyState = 1 ∧ g.nodes.contains 0 ∧ g.readyKids.contains 0 then s.commitHere g else s.readyStep gid

/-- DECISION (R281): the new root adopts a decision a child holds. -/
def execDecision (m : GroupMsg) (s : State) : Host.Outcome State Fault Refusal :=
  answer (.decision m) (s.heardOn m 0 (fun t g =>
    if !g.asked.contains m.srcRank || !g.keyOk m.step m.attempt then t
    else
      let g : Group := { g with asked := g.asked.filter (· != m.srcRank) }
      if m.arg % 4 = 3 then t.commitHere g
      else if m.arg % 4 = 2 then t.rootAbort { g with asked := [] } 0
      else (t.putGroup g).resumeRoot g.gid))

/-- R287: once no member is awaited, a rejoining GROUP_JOIN ends: with OK, or, where one has refused, with STALE_STEP, and it is
withdrawn everywhere. -/
def State.rejoinStep (s : State) (gid : Nat) : State :=
  match s.group gid with
  | none => s
  | some g => match g.rejoinPkt with
    | none => s
    | some p =>
      if !g.rejoinAwait.isEmpty then s
      else if g.rejoinNo then
        let t := (g.members.filter (· != s.fab.moduleId)).foldl
          (fun t d => if t.present d then t.groupMsg d 0x0C g.gid g.step 0 g.rank 0 else t) s
        ({ t with groups := t.groups.filter (fun x => x.gid != g.gid) } : State).finish p stStaleStep none
      else (s.putGroup { g with rejoinPkt := none }).finish p stOk none

/-! ### Departures (R284, R285) -/

/-- R281, R285: this module takes over from rank `k`: the decision that it has applied last, and the norm result that it holds, go to
those whose parent or primary `k` was. -/
def State.passOn (s : State) (gid k : Nat) : State :=
  match s.group gid with
  | none => s
  | some g =>
    let tgts := ((g.kids k).flatMap (g.heirs 12) ++ (g.shadowFor k).toList).eraseDups
    let t := match g.decision with
      | some (commit, step, attempt, arg) => tgts.foldl (fun t m => t.tellAt g (step, attempt) (some m) (if commit then 0x06 else 0x08) g.rank arg) s
      | none => s
    match g.normRes with
    | some v => if g.keyState ≠ 1 then t else
        ((g.kids k).filterMap g.home).eraseDups.foldl (fun t m => t.tell g (some m) 0x04 g.rank 0 (toLe 4 v.1 ++ toLe 4 v.2.1 ++ toLe 4 v.2.2)) t
    | none => t

/-- R284: rank `k` is seen departed by one group. -/
def State.departRank (s : State) (gid k : Nat) : State :=
  match s.group gid with
  | none => s
  | some g =>
    let m := g.members.getD k 0xFFFF
    if !g.live k ∨ m = s.fab.moduleId then s
    else
      let wasRoot := decide (g.root = k)
      let d := (k + 1) % g.n
      let g : Group := { g with
        departed := g.departed ++ [m], asked := g.asked.filter (· != k),
        rejoinAwait := g.rejoinAwait.filter (· != m),
        adoptedRank := if g.deputy ∧ d = g.rank then k else g.adoptedRank,
        normAdopt := if g.deputy ∧ d = g.rank then [] else g.normAdopt }
      let adopts := g.deputy && g.live d
      -- the ranks whose image or readiness went to the departed module go up again
      let again := if adopts then g.nodes.filter (fun r => r ≠ 0 && decide ((r - 1) / 2 = k)) else []
      let g : Group := { g with normUp := g.normUp.filter (fun r => !again.contains r) }
      let ask := if wasRoot && decide (g.rank = g.root) then (g.kids k).filter (fun c => c != g.rank && g.live c) else []
      let g : Group := { g with asked := g.asked ++ ask }
      let t := s.groupEvent g 0x40 0 k
      let t := if (wasRoot && decide (g.rank = g.root)) || (g.deputy && decide (d = g.rank)) then t.passOn gid k else t
      let t := ask.foldl (fun t c => t.tell g (g.home c) 0x09 g.rank 0) t
      let t := (again.filter (fun r => g.readyKids.contains r)).foldl (fun t r => t.tell g (g.home k) 0x05 r 0) t
      let t := if !adopts then t.requestAbort gid 0x47 0 k
        else if (t.ctx g.ctx).stepState.isOpen then
          (g.buckets.filter (fun b => b.send != 0)).foldl (fun t b => t.nextShard g.key gid b.id k) t
        else t
      -- a departed rank whose deputy has now departed too
      let p := (k + g.n - 1) % g.n
      let t := if g.deputy && p != k && !g.live p then t.requestAbort gid 0x47 0 p else t
      (((t.normStep gid).readyStep gid).rejoinStep gid)

/-- R284: members that were present in `old` and are present no more depart; repeats to them end (R354). -/
def State.departures (s old : State) : State :=
  let gone := (s.groups.flatMap (fun g => g.members)).eraseDups.filter (fun m => old.present m && !s.present m)
  let t : State := { s with fab := { s.fab with unacked := s.fab.unacked.filter (fun u => s.present u.dest || !old.present u.dest) } }
  gone.foldl (fun t m => (t.groups.map (·.gid)).foldl (fun t gid => match t.group gid with
    | some g => match g.members.findIdx? (· == m) with
      | some k => (t.departRank gid k).resumeRoot gid
      | none => t
    | none => t) t) t

/-- R284, R353: a group's members that no plane reaches as its step begins are seen departed then, and a shadow that has its COMMIT may
commit (notes/assumptions/158). -/
def State.stepBegun (s : State) (c : Nat) : State :=
  match s.groupOf c with
  | none => s
  | some g =>
    let t := (List.range g.n).foldl (fun t k =>
      if g.members.getD k 0xFFFF = t.fab.moduleId ∨ t.present (g.members.getD k 0xFFFF) then t else (t.departRank g.gid k).resumeRoot g.gid) s
    t.readyStep g.gid

/-- STEP_BEGIN (R230, R231, R284). -/
def execStepBegin (p : Nat) (s : State) : Host.Outcome State Fault Refusal :=
  answer (.stepBegin p) (match s.started p 0x0202 with
    | some (q, k) => s.onSequencer k (fun s =>
        let t := stepBeginRun (s.turned q k) q k
        if (s.ctx k.ctx).stepState ≠ .fill ∧ (t.ctx k.ctx).stepState = .fill then t.stepBegun k.ctx else t)
    | none => s)

/-! ### Rejoining (R287) -/

/-- REJOIN (R287): a returning module asks to take part from step `m.step` on. -/
def execRejoin (m : GroupMsg) (s : State) : Host.Outcome State Fault Refusal :=
  answer (.rejoin m) (s.heardOn m 0 (fun t g =>
    (t.putGroup { g with rejoiners := g.rejoiners.filter (fun r => r.1 != m.src) ++ [(m.src, m.step, false)] }).serveRejoins g.gid))

/-- REJOIN_ANS (R287): an answer to this module's rejoin; one with bit 0 clear that no rejoin awaits withdraws the sender's. -/
def execRejoinAns (m : GroupMsg) (s : State) : Host.Outcome State Fault Refusal :=
  answer (.rejoinAns m) (s.heardOn m 0 (fun t g =>
    match g.rejoinPkt with
    | none =>
      if m.arg % 2 = 0 then t.putGroup { g with rejoiners := g.rejoiners.filter (fun r => r.1 != m.src) } else t
    | some _ =>
      (t.putGroup { g with rejoinAwait := g.rejoinAwait.filter (· != m.src), rejoinNo := g.rejoinNo || m.arg % 2 == 0 }).rejoinStep g.gid))

end Sys2Proof.Machine
end

