-- ==== Sys2Proof/Machine/Fabric.lean ====
section
/-! DEFINITION. Hedgerow: remote memory, replies, repeats and timeouts, ports, lanes, reachability and time (R338 to R360). -/

namespace Sys2Proof.Machine

/-! ### Requests that arrive from peers (R293, R352) -/

/-- R293: the whole range lies in regions of the partition that peers may access. -/
def State.remoteOk (s : State) (part off n : Nat) : Bool :=
  (s.part part).enabled && decide (off + n ≤ s.memBytes part) && (pieces off n).all (fun c =>
    (s.regionAt part c.1).any (·.remote) && (s.regionAt part (c.1 + c.2 - 1)).any (·.remote))

/-- The accesses of a peer's request. -/
def remoteAcc (h : MemHdr) : Acc := { part := h.part }

/-- READ (R352): a remote load of 1 to 256 bytes is checked and answered; one of another length is out of bounds (notes/assumptions/134). -/
def readIn (s : State) (h : MemHdr) (len : Nat) : State :=
  let g := s.global h.addr
  let reply (t : State) (st d : Nat) (bs : List Byte) : State := t.respond h.port h.src h.tag st 0 0 d bs h.part
  if len = 0 ∨ 256 < len ∨ !s.remoteOk h.part h.addr len then reply s stMemBounds g []
  else if s.behind (.read h len) then s.hold (.read h len)
  else match s.reading (remoteAcc h) (load s (remoteAcc h) g len) with
    | (.ok bs, t) => reply t stOk 0 bs
    | (.error (.fail st d), t) => reply t st d []
    | (.error _, _) => s.hold (.read h len)

def execRead (h : MemHdr) (len : Nat) (s : State) : Host.Outcome State Fault Refusal :=
  answer (.read h len) (s.received h.port h.via 2 1 (fun s => readIn s h len))

/-- WRITE (R352): a remote store of 1 to 256 bytes is checked, performed and acknowledged. -/
def writeIn (s : State) (h : MemHdr) (data : List Byte) : State :=
  let g := s.global h.addr
  let reply (t : State) (st d : Nat) : State := t.respond h.port h.src h.tag st 1 0 d [] h.part
  if data.isEmpty ∨ 256 < data.length ∨ !s.remoteOk h.part h.addr data.length then reply s stMemBounds g
  else if s.behind (.write h data) then s.hold (.write h data)
  else match s.store (remoteAcc h) g data with
    | (t, none) => reply (t.otherWrite g data.length) stOk 0
    | (t, some (.fail st d)) => reply t st d
    | (_, some _) => s.hold (.write h data)

def execWrite (h : MemHdr) (data : List Byte) (s : State) : Host.Outcome State Fault Refusal :=
  answer (.write h data) (s.received h.port h.via 2 (flitsOf data.length) (fun s => writeIn s h data))

/-- ATOMIC (R305, R306, R352): executed at its home, the old value in the reply. -/
def atomicIn (s : State) (h : MemHdr) (aop ty operand : Nat) : State :=
  let g := s.global h.addr
  let a := remoteAcc h
  let n := atypeBytes ty
  let reply (t : State) (st v d : Nat) : State := t.respond h.port h.src h.tag st 2 v d [] h.part
  if !(decide (aop ≤ 3) && atomicAllowed aop ty 0 && decide (h.addr % n = 0)) then reply s stBadParam 0 0
  else if !s.remoteOk h.part h.addr n then reply s stMemBounds 0 g
  else if s.behind (.atomic h aop ty operand) then s.hold (.atomic h aop ty operand)
  else match s.resolve a g with
    | .ok (.mem p _) =>
      if s.inSlotSpace h.part h.addr || (s.lockAt p).isSome then reply s stMemBounds 0 g
      else match s.homeRead a (loadNat s a g n) with
        | (.ok old, t) => reply (t.lineWrite h.part a.ctx p false (toLe n (atomicOp aop ty old operand).1)) stOk old 0
        | (.error (.fail st d), t) => reply t st 0 d
        | (.error _, _) => s.hold (.atomic h aop ty operand)
    | .error (.fail st d) => reply s st 0 d
    | _ => s.hold (.atomic h aop ty operand)

def execAtomic (h : MemHdr) (aop atype operand : Nat) (s : State) : Host.Outcome State Fault Refusal :=
  answer (.atomic h aop atype operand) (s.received h.port h.via 2 1 (fun s => atomicIn s h aop atype operand))

/-- PULL (R352): the range is pushed back as BULK; where it cannot be read, a BULK_DONE reports why. -/
def pullIn (s : State) (h : MemHdr) (raddr len : Nat) : State :=
  let g := s.global h.addr
  let fail (t : State) (st d : Nat) : State := t.respond h.port h.src h.tag st 3 0 d [] h.part
  if !s.remoteOk h.part h.addr len then fail s stMemBounds g
  else if s.behind (.pull h raddr len) then s.hold (.pull h raddr len)
  else match s.reading (remoteAcc h) (load s (remoteAcc h) g len) with
    | (.ok bs, t) => match t.sendBulk h.part h.tag (h.src * 2 ^ 48 + raddr) bs with
      | .ok (t, _) => t
      | .error _ => t
    | (.error (.fail st d), t) => fail t st d
    | (.error _, _) => s.hold (.pull h raddr len)

def execPull (h : MemHdr) (raddr len : Nat) (s : State) : Host.Outcome State Fault Refusal :=
  answer (.pull h raddr len) (s.received h.port h.via 2 1 (fun s => pullIn s h raddr len))

/-! ### Requests that fail (R49, R51, R134, R356) -/

/-- A packet's outstanding request fails. Of a packet that has finished, it is the SIGNAL add, which fails with it (R51). The read of a
WAIT semaphore ends its packet with WAIT_ADDR in DETAIL (R49), or, where no reply has come, with what R356 puts there. A task's request
fails that task (R134); the read of a descriptor fails the list at the item to be dispatched next. -/
def State.failPkt (s : State) (r : Req) (st d : Nat) : State :=
  match s.pkt r.pkt with
  | none => s
  | some (q, k) =>
    if k.phase = .finished then
      if r.kind = 2 ∧ r.addr = k.sigAddr ∧ k.signalled then s.modPkt k.id (fun k => { k with status := st, detail := some d }) else s
    else if k.phase = .fetched then
      if r.addr = k.waitAddr ∧ k.flags.testBit 0 then s.finishSilent k.id st (some (if st = stRemoteTimeout then d else k.waitAddr))
      else s.finish k.id st (some d)
    else if k.opcode = opTasklist ∧ k.run.begun then
      if r.task ≠ 0 then
        match s.item k.id (r.task - 1) with
        | some it =>
          let m := if r.kind = 1 then it.marks.without (fun e => decide (r.addr ≤ e / 512 ∧ e / 512 < r.addr + r.len)) else it.marks
          if it.done && it.status != 0 then s.modItem k.id (r.task - 1) (fun t => { t with marks := m })
          else s.workFailed k.id (r.task - 1) st d m it.wrote
        | none => s
      else
        let t := s.modRun k.id (fun u => u.fail u.next st d)
        (if st = stMemUncorrectable then t.faultData k.ctx d else t).settle
    else if isMover k.opcode then s.moverErr q { k with waiting := false } (.fail st d)
    else s.finish k.id st (some d)

/-- A request is outstanding no more. -/
def State.dropReq (s : State) (r : Req) : State := s.dropReqs (fun x => x.tag == r.tag && x.kind == r.kind && x.dest == r.dest)

/-- A request fails, and its landing reservation is released: what comes for it later is discarded (R356). An automatic fetch fails, as
FETCH_DONE will report; a feed's source read makes its sample a tombstone with reason READ_ERROR, or BOUNDS (R386). -/
def State.failReq (s : State) (r : Req) (st d : Nat) : State :=
  let t := s.dropReq r
  let t : State := if r.kind = 3 then { t with fab := { t.fab with
      released := t.fab.released ++ [(r.dest, r.tag, r.land % 2 ^ 48, r.total)], bulkIn := t.fab.bulkIn.filter (fun e => !(e.1 == r.dest && e.2.1 == r.tag)) } }
    else t
  if 2 ^ 62 ≤ r.pkt then
    let c := r.pkt - 2 ^ 62
    if (t.ctx c).xfer.isSome then t.setCtx c { t.ctx c with xferFail := some st } else t
  else if 2 ^ 60 ≤ r.pkt ∧ r.pkt < 2 ^ 61 then
    if st = stFabricUnreachable ∧ t.ctrl.resets.any (fun o => o.dom == 3) then t
    else (t.faultCtx (t.feed (r.pkt - 2 ^ 60)).ctx .faulted st d).settle
  else if 2 ^ 61 ≤ r.pkt then
    let f := (r.pkt - 2 ^ 61) / 2 ^ 32
    let v := t.feed f
    t.setFeed f { v with samples := v.samples.map (fun x =>
      if x.idx % 2 ^ 32 = r.pkt % 2 ^ 32 then { x with tomb := some (if st = stMemBounds then (6, 0xFF, 0) else (0x11, 0xFF, st)) }
      else x) }
  else t.failPkt r st d

/-! ### Bulk (R352) -/

/-- The accesses in which the data of a PULL lands. -/
def State.pullAcc (s : State) (r : Req) (h : MemHdr) : Acc :=
  match s.pkt r.pkt with
  | some (q, k) => s.moverAcc q k ((field k.params 24 1).testBit 1)
  | none => if 2 ^ 62 ≤ r.pkt then s.ctxAcc (r.pkt - 2 ^ 62) else remoteAcc h

/-- Data landed for a packet from an address on, in address order. -/
def State.collected (s : State) (r : Req) : List Byte :=
  (sortBy (fun a b => decide (a.2.2.1 ≤ b.2.2.1))
    (s.fab.landed.filter (fun e => e.1 == r.pkt && decide (r.land ≤ e.2.2.1 ∧ e.2.2.1 < r.land + r.total)))).flatMap (·.2.2.2)

/-- A PULL has all its bytes, and the BULK_DONE of every plane used has been made: its packet goes on. -/
def State.pullDone (s : State) (r : Req) (h : MemHdr) : State :=
  let t := s.dropReq r
  match t.pkt r.pkt with
  | none => t
  | some (q, k) =>
    if r.land >>> 48 = t.fab.moduleId then t.moverDone k
    else (t.dropLanded k.id).deliver q k (t.pullAcc r h) r.land (t.collected r) none

/-- BULK: a packet lands in memory, in a range peers may access or one that this module has pulled; BULK_DONE follows
once every packet of the plane up to LAST has landed. A pulled range is complete when all its bytes have landed and every plane used
has had its BULK_DONE. -/
def bulkIn (s : State) (h : MemHdr) (last : Bool) (planeCount : Nat) (data : List Byte) : State :=
  let pulled := s.fab.reqs.find? (fun r => r.kind == 3 && r.tag == h.tag && r.dest == h.src)
  let mine (e : Nat × Nat × Nat × Nat) : Bool := e.1 == h.src && e.2.1 == h.tag && e.2.2.1 == h.port
  let reply (t : State) (st d : Nat) : State := t.respond h.port h.src h.tag st 3 0 d [] h.part
  if s.fab.released.any (fun e => decide (e.1 = h.src ∧ e.2.1 = h.tag ∧ e.2.2.1 ≤ h.addr ∧ h.addr < e.2.2.1 + e.2.2.2)) then s
  else
    let inside := match pulled with
      | none => s.remoteOk h.part h.addr data.length
      | some r => decide (r.land % 2 ^ 48 ≤ h.addr ∧ h.addr + data.length ≤ r.land % 2 ^ 48 + r.total)
    let g : Nat := match pulled with
      | none => s.global h.addr
      | some r => r.land + (h.addr - r.land % 2 ^ 48)
    let (t, e) : State × Option Err := match pulled with
      | none => s.store (remoteAcc h) g data
      | some r => if r.land >>> 48 = s.fab.moduleId then s.store (s.pullAcc r h) g data
        else ({ s with fab := { s.fab with landed := s.fab.landed ++ [(r.pkt, r.task, g, data)] } }, none)
    if !inside then reply s stMemBounds (s.global h.addr)
    else if s.behind (.bulk h last planeCount data) then s.hold (.bulk h last planeCount data)
    else match e with
      | some (.fail st d) =>
        let t := reply t st d
        match pulled with
        | some r => t.failReq r st d
        | none => t
      | some _ => s.hold (.bulk h last planeCount data)
      | none =>
        let t := t.otherWrite g data.length
        let n := ((s.fab.bulkIn.find? mine).map (·.2.2.2)).getD 0 + 1
        let others := s.fab.bulkIn.filter (fun e => !mine e)
        let whole := last && decide (n = planeCount)
        let t : State := { t with fab := { t.fab with bulkIn := if whole then others else others ++ [(h.src, h.tag, h.port, n)] } }
        let t := if whole then reply t stOk 0 else t
        match pulled with
        | none => t
        | some r =>
          let r' : Req := { r with len := r.len - data.length }
          let t : State := { t with fab := { t.fab with reqs := t.fab.reqs.map (fun x => if x = r then r' else x) } }
          if r'.len = 0 ∧ !t.fab.bulkIn.any (fun e => e.1 == h.src && e.2.1 == h.tag) then t.pullDone r' h else t

def execBulk (h : MemHdr) (last : Bool) (planeCount : Nat) (data : List Byte) (s : State) :
    Host.Outcome State Fault Refusal :=
  answer (.bulk h last planeCount data)
    (s.received h.port h.via 3 (flitsOf data.length) (fun s => bulkIn s h last planeCount data))

/-! ### Replies (R352, R356) -/

/-- R122: the reply to an add to a header's DRIFT_ACC says whether the limit was crossed: DRIFT_STATE is then TRIPPED, the semaphore is
due, and the list ends so where DRIFT_HALT is set. -/
def State.driftReply (s : State) (r : Req) (old : Nat) : State :=
  match r.drift with
  | none => s
  | some (limit, amount, sem, halt) =>
    if old < limit ∧ limit ≤ old + amount then
      match s.pkt r.pkt with
      | none => s
      | some (q, _) =>
        let t := s.modItem r.pkt (r.task - 1) (fun i => { i with drift := i.drift || halt, drifts := if sem = 0 then i.drifts else i.drifts ++ [sem] })
        match t.request 2 r.pkt (t.partOf q) (r.addr + 24) 8 none [1, 258] [] r.task with
        | .ok t => t
        | .error _ => t
    else s

/-- RESP (R352): a reply lands in its reserved space, and what waits for it goes on. A reply to no outstanding request is discarded
(R356). -/
def respIn (s : State) (h : MemHdr) (status rkind value detail : Nat) (data : List Byte) : State :=
  match s.fab.reqs.find? (fun r => r.tag == h.tag && r.kind == rkind && r.queued.isNone && (r.dest == h.src || status == stFabricUnreachable)) with
  | none => s
  | some r =>
    if !succeeded status then s.failReq r status detail
    else
      let t := s.dropReq r
      if rkind = 0 then
        let t : State := { t with fab := { t.fab with landed := t.fab.landed ++ [(r.pkt, r.task, r.addr, data)] } }
        if r.task = 0 ∧ (t.pkt r.pkt).any (fun e => e.2.opcode == opTasklist && e.2.run.begun) then t.settle else t
      else if rkind = 1 then t
      else
        let t := t.driftReply r value
        match t.pkt r.pkt with
        | some (q, k) =>
          if k.opcode = 0x0301 ∧ k.phase = .started ∧ k.waiting then
            let b := k.params
            let c := (atomicOp (field b 24 1) (field b 25 1) value (field b 8 8)).2
            t.atomicEnd q k value (okStatus c) c
          else t
        | none => t

def execResp (h : MemHdr) (status rkind value detail : Nat) (data : List Byte) (s : State) :
    Host.Outcome State Fault Refusal :=
  answer (.resp h status rkind value detail data)
    (s.received h.port h.via 0 (flitsOf data.length) (fun s => respIn s h status rkind value detail data))

/-- The module that the BULK packets of a COPY or a FILL go to. -/
def Packet.bulkDest (k : Packet) : Nat := (if k.opcode = 0x0102 then field k.params 0 8 else field k.params 8 8) >>> 48

/-- BULK_DONE (R352): a plane reports; the operation completes once every used plane has. A failing report of a pull fails
the pull. -/
def bulkDoneIn (s : State) (h : MemHdr) (status detail : Nat) : State :=
  let waits (r : Nat × Packet) : Bool := r.2.phase == .started && r.2.waiting && !r.2.planes.isEmpty && r.2.tag == h.tag && r.2.bulkDest == h.src
  match s.allPkts.find? waits with
  | some (q, k) =>
    if !succeeded status then s.moverErr q { k with waiting := false } (.fail status detail)
    else
      let left := k.planes.erase (if k.planes.contains h.port then h.port else k.planes.headD 0)
      if left.isEmpty then (s.modPkt k.id (fun p => { p with planes := [] })).moverDone k
      else s.modPkt k.id (fun p => { p with planes := left })
  | none =>
    match s.ctxs.find? (fun c => !c.2.xferPlanes.isEmpty && c.2.xferTag == h.tag) with
    | some (c, x) =>
      if !succeeded status then s.setCtx c { x with xferFail := some status }
      else s.setCtx c { x with xferPlanes := x.xferPlanes.erase (if x.xferPlanes.contains h.port then h.port else x.xferPlanes.headD 0) }
    | none => match s.fab.reqs.find? (fun r => r.kind == 3 && r.tag == h.tag && (r.dest == h.src || status == stFabricUnreachable)) with
      | some r => if succeeded status then s else s.failReq r status detail
      | none => s

def execBulkDone (h : MemHdr) (status detail : Nat) (s : State) : Host.Outcome State Fault Refusal :=
  answer (.bulkDone h status detail) (s.received h.port h.via 0 1 (fun s => bulkDoneIn s h status detail))

/-- MSG_ACK (R354): repetition of the message ends; the TAG of the reply is the message's MSEQ. -/
def msgAckIn (s : State) (h : MemHdr) : State :=
  { s with fab := { s.fab with unacked := s.fab.unacked.filter (fun u => !(u.dest == h.src && u.mseq == h.tag)) } }

def execMsgAck (h : MemHdr) (s : State) : Host.Outcome State Fault Refusal :=
  answer (.msgAck h) (s.received h.port h.via 0 1 (fun s => msgAckIn s h))

/-- MESSAGE_REPEAT (R354): 20 µs after its last sending an unacknowledged message goes again, unless its destination has
departed. -/
def messageRepeat (s : State) (dest mseq : Nat) : State :=
  match s.fab.unacked.find? (fun u => u.dest == dest && u.mseq == mseq) with
  | none => s
  | some u =>
    if !s.present dest then { s with fab := { s.fab with unacked := s.fab.unacked.erase u } }
    else
      let t := s.at (u.sent + 20000)
      let t : State := { t with fab := { t.fab with
        unacked := t.fab.unacked.map (fun x => if x = u then { x with sent := t.mtime } else x) } }
      match t.planeFor 0 dest 0 with
      | some n => t.transmit n u.pkt
      | none => t

def execMessageRepeat (dest mseq : Nat) (s : State) : Host.Outcome State Fault Refusal :=
  answer (.messageRepeat dest mseq) (messageRepeat s dest mseq)

/-- REMOTE_TIMEOUT (R356): FAB_REQ_TIMEOUT after its issue a request fails; one that still waits for an entry has not been issued. -/
def remoteTimeout (s : State) (tag : Nat) : State :=
  match s.fab.reqs.find? (fun r => r.tag == tag && r.queued.isNone) with
  | none => s
  | some r => (s.at (r.sent + s.fab.reqTimeout * 1000)).failReq r stRemoteTimeout (r.dest + r.port * 2 ^ 16)

def execRemoteTimeout (tag : Nat) (s : State) : Host.Outcome State Fault Refusal :=
  answer (.remoteTimeout tag) (remoteTimeout s tag)

/-! ### Reachability (R284, R353, R358) -/

/-- Whether the time master is another module (R358). -/
def State.follows (s : State) : Bool := decide (s.fab.timeMaster < 0xFFF0 ∧ s.fab.timeMaster ≠ s.fab.moduleId)

/-- R358: since when the master is out of reach. -/
def State.noteMaster (s : State) : State :=
  { s with fab := { s.fab with masterGone :=
      if s.follows && !s.present s.fab.timeMaster then some (s.fab.masterGone.getD s.mtime) else none } }

/-- R358: the offset taken: MTIME steps forward, stands still, or is slewed. -/
def State.takeOffset (s : State) (o : Int) : State :=
  let f := { s.fab with offset := max (-32768) (min 32767 o), aligned := decide (-40 ≤ o ∧ o ≤ 40), lost := false }
  if 10000 < o then { s with mtime := s.mtime + o.toNat, fab := { f with slew := 0, hold := 0 } }
  else if o < -10000 then { s with fab := { f with slew := 0, hold := (-o).toNat } }
  else { s with fab := { f with slew := o, slewTicks := 0, hold := 0 } }

/-- R358: a port on which the master is reached no more takes no part in the round. -/
def State.dropSync (s : State) : State :=
  let out := s.fab.syncOut.filter (fun e => s.reaches s.fab.timeMaster e.1)
  if out.length = s.fab.syncOut.length then s
  else match out.isEmpty, s.fab.syncBest with
    | true, some b => ({ s with fab := { s.fab with syncOut := out, syncBest := none } } : State).takeOffset b.2
    | _, _ => { s with fab := { s.fab with syncOut := out } }

/-- Reachability has changed since `old`: departures follow (R284), and every group record counts the members unreachable now (R263). -/
def State.reachChanged (s old : State) : State :=
  let t := s.departures old
  (t.groups.foldl (fun t g => t.syncGroup ((t.group g.gid).getD g)) t).dropSync.noteMaster

/-- PORT_STATE (R353): the switch of the port's plane reports a module. One that has sent DEPARTING is back once a plane comes to reach it
again (notes/assumptions/153). -/
def portStateIn (s : State) (port mid : Nat) (up : Bool) : State :=
  let old := Tbl.get 0 s.fab.reach mid
  let new := if up then old ||| 2 ^ port else if old.testBit port then old - 2 ^ port else old
  let t : State := { s with fab := { s.fab with
    reach := Tbl.set 0 s.fab.reach mid new, gone := if up && !old.testBit port then s.fab.gone.filter (· != mid) else s.fab.gone } }
  t.reachChanged s

def execPortState (a : Arrival) (mid : Nat) (up : Bool) (s : State) : Host.Outcome State Fault Refusal :=
  answer (.portState a mid up) (s.received a.port a.via 0 1 (fun s => s.queued a.port (fun s => portStateIn s a.port mid up)))

/-- DEPARTING (R284, R354): acknowledged; the sender has departed. -/
def departingIn (s : State) (port src mseq : Nat) : State :=
  let t := s.respond port src mseq 0 4 0 0
  if s.fab.seen.contains (src, mseq) then t
  else
    let t : State := { t with fab := { t.fab with seen := t.fab.seen ++ [(src, mseq)], gone := t.fab.gone.filter (· != src) ++ [src] } }
    t.reachChanged s

def execDeparting (a : Arrival) (src mseq : Nat) (s : State) : Host.Outcome State Fault Refusal :=
  answer (.departing a src mseq) (s.received a.port a.via 0 1 (fun s => s.queued a.port (fun s => departingIn s a.port src mseq)))

/-! ### Ports (R340, R341, R345, R346, R357) -/

/-- R338: spare lanes of a port. -/
abbrev spareLanes : Nat := 4

/-- R345: a port begins to train. Its replay buffer survives, and the LSEQ it expects; counts of flits start again with what it holds. -/
def Port.train (p : Port) : Port :=
  let sent : Tbl Nat := (List.range 4).foldl (fun t v =>
    Tbl.set 0 t v ((p.replay.filter (fun k => k.2.vc == v)).map (fun k => k.2.flits)).sum) []
  { p.settleSwaps with st := .training, sent, limit := [], nakRow := 0, got := [], nakking := false, vc0 := [] }

/-- R339, R341: training maps the logical lanes onto the healthy physical lanes, in ascending order: `width` of them, or as often halved
as it takes; fewer than 24 leave the port FAILED. -/
def Port.mapLanes (p : Port) (order : Order) (width : Nat) : Port :=
  let healthy := (List.range (order.lanes + spareLanes)).filter (fun l => !p.outLanes.contains l)
  let w := if width ≤ healthy.length then width else if width / 2 ≤ healthy.length then width / 2 else width / 4
  if w < 24 ∨ healthy.length < w then { p with st := .failed, width := 0, lanes := [], spares := [] }
  else { p with width := w, lanes := healthy.take w, spares := if w = order.lanes then healthy.drop w else [] }

/-- The request that a waiting or unacknowledged packet of types READ to PULL carries. -/
def State.reqOf (s : State) (k : TxPkt) : Option Req :=
  s.fab.reqs.find? (fun r => r.tag == k.hdr.headD 0 && r.kind + 1 == k.typ && r.dest == k.dest)

/-- The bulk operation to module `dest` under a TAG that uses plane `n` fails: a COPY's or a FILL's, or an automatic spill's. -/
def State.failBulk (s : State) (dest tag n st d : Nat) : State :=
  let t : State := { s with ctxs := s.ctxs.map (fun c => (c.1,
    if c.2.xferPlanes.contains n && c.2.xferTag == tag then { c.2 with xferFail := some st } else c.2)) }
  match t.allPkts.find? (fun r =>
      r.2.phase == .started && r.2.waiting && r.2.planes.contains n && r.2.tag == tag && r.2.bulkDest == dest) with
  | some (q, k) => t.moverErr q { k with waiting := false } (.fail st d)
  | none => t

/-- R350: plane `n` of a bulk operation gives way to the planes `ms`. -/
def State.movePlane (s : State) (dest tag n : Nat) (ms : List Nat) : State :=
  let f (l : List Nat) : List Nat := if l.contains n then l.erase n ++ ms else l
  { s with
    ctxs := s.ctxs.map (fun c => (c.1, if c.2.xferTag == tag then { c.2 with xferPlanes := f c.2.xferPlanes } else c.2)),
    queues := s.queues.map (fun q => (q.1, { q.2 with pkts := q.2.pkts.map (fun k =>
      if k.phase == .started && k.waiting && k.tag == tag && k.bulkDest == dest then { k with planes := f k.planes } else k) })) }

/-- R350: a packet that had not left port `n` goes out on another plane; where none reaches its destination, its operation fails. -/
def State.reroute (s : State) (n : Nat) (k : TxPkt) : State :=
  let d := k.dest + planeHash k.dest k.offset * 2 ^ 16
  match s.planeFor k.part k.dest k.offset with
  | some m => ({ s with fab := { s.fab with reqs := s.fab.reqs.map (fun r => if s.reqOf k = some r then { r with port := m } else r) } } : State).transmit m k
  | none =>
    if 1 ≤ k.typ ∧ k.typ ≤ 4 then match s.reqOf k with
      | some r => s.failReq r stFabricUnreachable d
      | none => s
    else if k.typ = 0x0C then s.failBulk k.dest (k.hdr.headD 0) n stFabricUnreachable d
    else s

/-- R350, R352: packets that had not left port `n`: those of a bulk operation end on each plane they move to with LAST and their
number there. -/
def State.rerouteAll (s : State) (n : Nat) (l : List TxPkt) : State :=
  let plane (k : TxPkt) : Option Nat := s.planeFor k.part k.dest k.offset
  let mate (k x : TxPkt) : Bool := x.typ == 0x0C && x.dest == k.dest && x.hdr.headD 0 == k.hdr.headD 0
  let recut := l.zipIdx.map (fun e =>
    if e.1.typ ≠ 0x0C then e.1
    else
      let here (x : TxPkt) : Bool := mate e.1 x && plane x == plane e.1
      let last := !(l.drop (e.2 + 1)).any here
      { e.1 with last, hdr := e.1.hdr.take 2 ++ [if last then ((l.take (e.2 + 1)).filter here).length else 0] })
  let heads := l.zipIdx.filter (fun e => e.1.typ == 0x0C && !(l.take e.2).any (mate e.1))
  let t := heads.foldl (fun t e =>
    let ms := ((l.filter (mate e.1)).map plane).eraseDups
    if ms.contains none then t else t.movePlane e.1.dest (e.1.hdr.headD 0) n (ms.filterMap id)) s
  recut.foldl (fun t k => t.reroute n k) t

/-- R357: what a port loses with its replay buffer: its unacknowledged requests fail, bulk operations fail with PORT_LOST,
groups with contributions or broadcasts among them request an abort. What had not left takes another plane (R350), and so do the requests
that wait for an entry of the port. -/
def State.losePort (s : State) (n : Nat) (st : PortSt) : State :=
  let p := s.port n
  let lost := p.replay.map Prod.snd
  let t := s.setPort n { p.settleSwaps with st, replay := [], txq := [], width := 0, nakRow := 0 }
  let t := t.rerouteAll n p.txq
  let t := (t.fab.reqs.filter (fun r => r.port == n && r.queued.isSome)).foldl (fun t r => match r.queued with
    | none => t
    | some x => match t.planeFor x.part x.dest x.offset with
      | some m => ({ t with fab := { t.fab with reqs := t.fab.reqs.map (fun y => if y = r then { y with port := m } else y) } } : State).issueNext m
      | none => t.failReq r stFabricUnreachable (x.dest + planeHash x.dest x.offset * 2 ^ 16)) t
  let nonPosted := lost.filter (fun k => decide (1 ≤ k.typ ∧ k.typ ≤ 4))
  let t := nonPosted.foldl (fun t k => match t.reqOf k with
    | some r => t.failReq r stFabricUnreachable (r.dest + n * 2 ^ 16)
    | none => t) t
  let bulks := ((lost.filter (fun k => k.typ == 0x0C)).map (fun k => (k.dest, k.hdr.headD 0))).eraseDups
  let t := bulks.foldl (fun t b => t.failBulk b.1 b.2 n stPortLost 0) t
  let keys := ((lost.filter (fun k => k.typ == 0x08 || k.typ == 0x0D)).map (fun k =>
    (k.hdr.headD 0, k.hdr.getD 2 0, k.hdr.getD 3 0))).eraseDups
  let t := keys.foldl (fun t k => t.requestAbortAt k.1 k.2 stPortLost 0 (((t.group k.1).map (·.rank)).getD 0)) t
  t.reachChanged s

/-- R340: a port that is enabled, DOWN and has a valid module ID begins to train. -/
def State.tryTrain (s : State) (n : Nat) : State :=
  let p := s.port n
  if p.enable && decide (p.st = .down) && decide (s.fab.moduleId < 0xFFF0)
      && !s.ctrl.resets.any (fun r => decide ((r.dom = 1 ∧ r.idx = n) ∨ (r.dom = 3 ∧ r.idx = n / 4) ∨ r.dom = 4)) then
    s.setPort n (p.train.mapLanes s.order s.order.lanes)
  else s

/-- R340, R360: ENABLE written. A FAILED port stays so until its RESET_DOMAIN or a module reset. -/
def State.enablePort (s : State) (n : Nat) (on : Bool) : State :=
  let p := s.port n
  let s := s.setPort n { p with enable := on }
  if on then s.tryTrain n
  else if p.st = .down ∨ p.st = .failed then s else (s.losePort n .down)

/-- R360: RETRAIN: a port that has trained trains again at once. -/
def State.retrainPort (s : State) (n : Nat) : State :=
  let p := s.port n
  if p.live ∨ p.st = .miswired then (s.setPort n p.train).reachChanged s else s

/-- PORT_TRAINING_DONE (R340): UP, or DEGRADED at a reduced width, MISWIRED on the wrong plane; the third failure in a row
leaves the port FAILED. The replay buffer is sent again. -/
def trainingDone (s : State) (n : Nat) (ok : Bool) (plane : Nat) : State :=
  let p := s.port n
  if p.st ≠ .training then s
  else if ok then
    if plane ≠ n then s.setPort n { p with st := .miswired, plane, fails := 0, events := p.events + 1 }
    else
      let q : Port := { p with st := if p.width < s.order.lanes then .degraded else .up, plane, fails := 0,
                               wire := p.replay.reverse ++ p.wire, replays := satTo (2 ^ 32 - 1) (p.replays + p.replay.length) }
      ((s.setPort n q).report n true).reachChanged s
  else if p.fails + 1 < 3 then s.setPort n { p with fails := p.fails + 1 }
  else (s.setPort n { p with fails := 3 }).losePort n .failed

def execPortTrainingDone (port : Nat) (ok : Bool) (plane : Nat) (s : State) : Host.Outcome State Fault Refusal :=
  answer (.portTrainingDone port ok plane) (trainingDone s port ok plane)

/-- R341: the flits from a lane command to its swap (notes/assumptions/138). -/
abbrev swapFlits : Nat := 256

/-- LANE_SPARE (R341): a bad lane is replaced by the lowest-numbered spare, agreed with the partner by a LINK flit that says after how many
flits. With no spare left the port retrains at half its width, and below 24 lanes it is FAILED. -/
def laneSpare (s : State) (n lane : Nat) : State :=
  let p := s.port n
  if !p.live ∨ p.outLanes.contains lane ∨ p.swaps.any (fun w => w.2.1 == lane) ∨ !(p.lanes.contains lane || p.spares.contains lane) then s
  else if p.spares.contains lane then s.setPort n { p with spares := p.spares.filter (· != lane), outLanes := p.outLanes ++ [lane] }
  else match p.spares.foldl (fun (b : Option Nat) l => some (min (b.getD l) l)) none with
    | some spare =>
      let f : LinkFlit := { p.linkNow (s.rxHeld n) with laneCmd := true, swapOut := lane, swapIn := spare, swapAfter := swapFlits }
      s.setPort n { p.agree true lane spare swapFlits with links := f :: p.links }
    | none =>
      if 24 ≤ p.width / 2 then
        (s.setPort n ((({ p with outLanes := p.outLanes ++ [lane] } : Port).train).mapLanes s.order (p.width / 2))).reachChanged s
      else s.losePort n .failed

def execLaneSpare (port lane : Nat) (s : State) : Host.Outcome State Fault Refusal :=
  answer (.laneSpare port lane) (laneSpare s port lane)

/-- LANE_RETRAINED (R341): a lane that has recovered becomes a spare. -/
def laneRetrained (s : State) (n lane : Nat) (ok : Bool) : State :=
  let p := s.port n
  if !p.outLanes.contains lane then s
  else s.setPort n { p with outLanes := if ok then p.outLanes.filter (· != lane) else p.outLanes,
                            spares := if ok then p.spares ++ [lane] else p.spares }

def execLaneRetrained (port lane : Nat) (ok : Bool) (s : State) : Host.Outcome State Fault Refusal :=
  answer (.laneRetrained port lane ok) (laneRetrained s port lane ok)

/-- R345: the packets from LSEQ `ack` on, when `ack` lies among the unacknowledged ones or just past them. -/
def Port.acked (p : Port) (ack : Nat) : List (Nat × TxPkt) :=
  if ack = p.nextSeq then [] else match p.replay.findIdx? (fun k => k.1 == ack) with
    | some i => p.replay.drop i
    | none => p.replay

/-- LINK (R345 to R347): acknowledgements free the replay buffer, credits allow sending, a NAK sends again, eight NAKs of one
packet in a row retrain the port, and a lane command agrees on a swap. -/
def linkIn (s : State) (n : Nat) (f : LinkFlit) : State :=
  let p := s.port n
  if !p.live then s
  else
    let left := p.acked f.ackSeq
    let limit := (List.range 4).foldl (fun t v => Tbl.set 0 t v ([f.credit0, f.credit1, f.credit2, f.credit3].getD v 0)) p.limit
    let moved := decide (left.length < p.replay.length)
    let p : Port := { p with replay := left, limit, nakRow := if moved then 0 else p.nakRow }
    let p : Port := if f.laneCmd && p.lanes.contains f.swapOut && p.spares.contains f.swapIn then p.agree false f.swapOut f.swapIn f.swapAfter else p
    if f.nak && !left.isEmpty then
      let p : Port := { p with wire := left.reverse ++ p.wire, replays := satTo (2 ^ 32 - 1) (p.replays + left.length),
                               nakRow := p.nakRow + 1 }
      if 8 ≤ p.nakRow then (s.setPort n p.train).reachChanged s else (s.setPort n p).pumpPort n
    else (s.setPort n p).pumpPort n

def execLink (port : Nat) (f : LinkFlit) (s : State) : Host.Outcome State Fault Refusal :=
  answer (.link port f) (linkIn s port f)

/-- R343: the VC of each type; none for a reserved type. -/
def typeVc (typ : Nat) : Option Nat :=
  match typ with
  | 1 | 2 | 3 | 4 => some 2
  | 8 => some 1
  | 0x0C | 0x0D => some 3
  | 0x10 | 0x11 | 0x12 | 0x13 | 0x14 => some 0
  | _ => none

/-- DISCARDED_PACKET (R343): a reserved TYPE, or a VC other than the type's. -/
def discardedPacket (s : State) (typ vc : Nat) : State :=
  if typ = 0 ∨ typeVc typ = some vc then s
  else { s with fab := { s.fab with discards := satTo (2 ^ 32 - 1) (s.fab.discards + 1) } }

def execDiscardedPacket (a : Arrival) (typ : Nat) (k : Stray) (s : State) : Host.Outcome State Fault Refusal :=
  answer (.discardedPacket a typ k) (s.received a.port a.via k.vc (flitsOf k.len) (fun s => discardedPacket s typ k.vc))

/-! ### Time (R358) -/

/-- A TIME_SYNC packet: it takes a new MSEQ and is not acknowledged. -/
def State.sendTime (s : State) (port dest sub arg0 arg1 : Nat) : State :=
  let m := s.fab.mseq
  ({ s with fab := { s.fab with mseq := (m + 1) % 2 ^ 32 } } : State).transmit port
    { typ := 0x12, vc := 0, dest, hdr := [sub, m, arg0, arg1] }

/-- TIME_SYNC (R358), arriving at MTIME `mt`: subtype 0 asks with t1 in ARG, and is answered with t2 and t3, the stamps of its arrival
and its answer; subtype 1 answers with them, and t4 is its arrival (notes/assumptions/139). The exchange of a round with the smallest
round trip counts, once every port has its answer. A copy of a message is acted on once (R354). -/
def timeSyncIn (s : State) (port src sub mseq arg0 arg1 mt : Nat) : State :=
  let s := s.at mt
  if s.fab.seen.contains (src, mseq) then s
  else
    let s : State := { s with fab := { s.fab with seen := s.fab.seen ++ [(src, mseq)] } }
    if sub = 0 then s.sendTime port src 1 s.mtime s.mtime
    else match s.fab.syncOut.find? (fun e => e.1 == port) with
      | none => s
      | some (_, t1) =>
        if sub ≠ 1 ∨ !s.follows ∨ src ≠ s.fab.timeMaster then s
        else
          let t4 := s.mtime
          let trip : Int := ((t4 : Int) - t1) - ((arg1 : Int) - arg0)
          let off : Int := (((arg0 : Int) - t1) + ((arg1 : Int) - t4)) / 2
          let best := match s.fab.syncBest with
            | some (r, o) => if r ≤ trip then (r, o) else (trip, off)
            | none => (trip, off)
          let out := s.fab.syncOut.filter (fun e => e.1 != port)
          let t : State := { s with fab := { s.fab with syncOut := out, syncBest := if out.isEmpty then none else some best } }
          if out.isEmpty then t.takeOffset best.2 else t

def execTimeSync (a : Arrival) (src sub mseq arg0 arg1 mt : Nat) (s : State) : Host.Outcome State Fault Refusal :=
  answer (.timeSync a src sub mseq arg0 arg1 mt)
    (s.received a.port a.via 0 1 (fun s => s.queued a.port (fun s => timeSyncIn s a.port src sub mseq arg0 arg1 mt)))

/-- R358: the period of the exchanges on each port, in ns. -/
abbrev syncNs : Nat := 1000000

/-- TIME_SYNC_EXCHANGE (R358): an exchange with the master starts on a port that is UP, 1 ms after the last one there. -/
def timeSyncExchange (s : State) (port : Nat) : State :=
  if !s.follows ∨ !s.reaches s.fab.timeMaster port then s
  else
    let last := Tbl.get 0 s.fab.syncAt port
    let s := if last = 0 then s else s.at (last - 1 + syncNs)
    let t : State := { s with fab := { s.fab with syncOut := s.fab.syncOut.filter (fun e => e.1 != port) ++ [(port, s.mtime)],
                                                  syncAt := Tbl.set 0 s.fab.syncAt port (s.mtime + 1) } }
    t.sendTime port s.fab.timeMaster 0 s.mtime 0

def execTimeSyncExchange (port : Nat) (s : State) : Host.Outcome State Fault Refusal :=
  answer (.timeSyncExchange port) (timeSyncExchange s port)

/-- TIME_MASTER_LOST (R358): the master has been out of reach for more than 10 ms: MTIME runs free. -/
def timeMasterLost (s : State) : State :=
  match s.fab.masterGone with
  | none => s
  | some since =>
    let t := s.at (since + 10000001)
    { t with fab := { t.fab with lost := true, aligned := false, slew := 0, hold := 0, syncOut := [], syncBest := none } }

def execTimeMasterLost (s : State) : Host.Outcome State Fault Refusal :=
  answer .timeMasterLost (timeMasterLost s)

/-- One nanosecond: MTIME moves on, unless it is held; it is slewed by at most 0.1% (R358). -/
def State.tick (s : State) : State :=
  let f := s.fab
  if 0 < f.hold then { s with fab := { f with hold := f.hold - 1 } }
  else if f.slew = 0 then s.pass 1
  else if f.slewTicks < 999 then { s with fab := { f with slewTicks := f.slewTicks + 1 } }.pass 1
  else if 0 < f.slew then { s with fab := { f with slew := f.slew - 1, slewTicks := 0 } }.pass 2
  else { s with fab := { f with slew := f.slew + 1, slewTicks := 0 } }

end Sys2Proof.Machine
end

