-- ==== Sys2Proof/Machine/Media.lean ====
section
/-! DEFINITION. Image and audio fields: the decoders' subsets, transforms and the audio front end (R375 to R379), and what video pictures
share with them (R406, R412, R414). The bits that a decoder makes are those of outside standards: opaque (notes/assumptions/6). -/

namespace Sys2Proof.Machine

/-- A rational that Config gives. -/
def ratio (v : Config.Ratio) : Rat := mkRat v.num v.den

/-- A big-endian number in bytes. -/
def beField (bs : List Byte) (off n : Nat) : Nat := le ((bs.drop off).take n).reverse

/-- The ASCII codes of a name at an offset. -/
def named (bs : List Byte) (off : Nat) (name : List Nat) : Bool := ((bs.drop off).take name.length).map BitVec.toNat == name

/-- R386: the reason for a payload that is no stream of its type: outside the subset or an error inside it, which R376 does not say
(notes/assumptions/159). -/
def strangeReason (rtype : Nat) (pay : List Byte) : Nat := if Config.alien rtype pay then 4 else 3

/-! ### Images (R376, R377) -/

/-- What the headers of an image tell: its size, and the largest sample value. -/
structure ImageHead where
  w   : Nat
  h   : Nat
  top : Nat
  deriving DecidableEq, Repr

/-- The frame header of a JPEG stream: its marker and what follows the length (notes/assumptions/159). -/
def jpegFrame : Nat → List Byte → Option (Nat × List Byte)
  | 0, _ => none
  | f + 1, bs =>
    let m := beField bs 1 1
    if bs.length < 2 ∨ beField bs 0 1 ≠ 0xFF ∨ m = 0xD9 then none
    else if m = 0xFF then jpegFrame f (bs.drop 1)
    else if m = 1 ∨ (0xD0 ≤ m ∧ m ≤ 0xD8) then jpegFrame f (bs.drop 2)
    else
      let n := beField bs 2 2
      if bs.length < n + 2 ∨ n < 2 then none
      else if m = 0xDE ∨ (0xC0 ≤ m ∧ m ≤ 0xCF ∧ m ≠ 0xC4 ∧ m ≠ 0xC8 ∧ m ≠ 0xCC) then some (m, (bs.drop 4).take (n - 2))
      else jpegFrame f (bs.drop (n + 2))

/-- R376: the components of a JPEG frame: one, or three in 4:4:4, 4:2:2 or 4:2:0. -/
def jpegSampling (b : List Byte) : Bool :=
  let hv (i : Nat) : Nat × Nat := (beField b (7 + 3 * i) 1 / 16, beField b (7 + 3 * i) 1 % 16)
  let n := beField b 5 1
  n == 1 || (n == 3 && hv 1 == hv 2
    && [(1, 1), (2, 1), (2, 2)].any (fun r => decide (hv 0 = (r.1 * (hv 1).1, r.2 * (hv 1).2))))

/-- R376: a JPEG stream's head, or the reason for its tombstone. -/
def jpegHead (rtype : Nat) (pay : List Byte) : Except Nat ImageHead :=
  if !named pay 0 [0xFF, 0xD8] then .error (strangeReason rtype pay)
  else match jpegFrame pay.length (pay.drop 2) with
    | none => .error (strangeReason rtype pay)
    | some (m, b) =>
      let h := beField b 1 2
      let w := beField b 3 2
      if !(decide (m ≤ 0xC2) && beField b 0 1 == 8 && jpegSampling b && decide (w ≤ 16384 ∧ h ≤ 16384)) then .error 4
      else if w = 0 ∨ h = 0 then .error (strangeReason rtype pay)
      else .ok { w, h, top := 255 }

/-- The chunks of a PNG stream, type and data, each with whether its CRC holds; and whether they end with IEND. -/
def pngChunks : Nat → List Byte → List (List Byte × List Byte × Bool) × Bool
  | 0, _ => ([], false)
  | f + 1, bs =>
    let n := beField bs 0 4
    if bs.length < 12 + n then ([], false)
    else
      let body := (bs.drop 4).take (4 + n)
      let c := (body.take 4, body.drop 4, decide (crc32 body = beField bs (8 + n) 4))
      if named body 0 [0x49, 0x45, 0x4E, 0x44] then ([c], true)
      else
        let (r, ok) := pngChunks f (bs.drop (12 + n))
        (c :: r, ok)

/-- R376: a PNG stream's head, or the reason for its tombstone. -/
def pngHead (rtype : Nat) (pay : List Byte) : Except Nat ImageHead :=
  let (chunks, whole) := pngChunks pay.length (pay.drop 8)
  let first := (chunks.head?.map (·.2.1)).getD []
  let isHead := (chunks.head?.any (fun c => named c.1 0 [0x49, 0x48, 0x44, 0x52])) && first.length == 13
  let w := beField first 0 4
  let h := beField first 4 4
  let depth := beField first 8 1
  let badCrc := chunks.any (fun c => !c.2.2)
  let outside := isHead && ([1, 2, 4].contains depth || decide (16384 < w ∨ 16384 < h))
  let forms : List (Nat × Nat) := [(0, 8), (0, 16), (2, 8), (2, 16), (3, 8), (4, 8), (4, 16), (6, 8), (6, 16)]
  if !named pay 0 [0x89, 0x50, 0x4E, 0x47, 0x0D, 0x0A, 0x1A, 0x0A] then .error (strangeReason rtype pay)
  else if badCrc then .error (if outside && !Config.crcFirst pay then 4 else 1)
  else if outside then .error 4
  else if !(isHead && whole && forms.contains (beField first 9 1, depth) && decide (1 ≤ w ∧ 1 ≤ h)) then .error (strangeReason rtype pay)
  else .ok { w, h, top := if depth = 16 then 65535 else 255 }

/-- R373: the image type of a record; a ustar member's is told by its first bytes. -/
def imageType (rtype : Nat) (pay : List Byte) : Nat :=
  if rtype < 0x80 then rtype else if named pay 0 [0x89, 0x50, 0x4E, 0x47] then 0x02 else 0x01

/-- R376: an image's head, or the reason for its tombstone. -/
def imageHead (rtype : Nat) (pay : List Byte) : Except Nat ImageHead :=
  match if imageType rtype pay = 0x02 then pngHead rtype pay else jpegHead rtype pay with
  | .error r => .error r
  | .ok v => if Config.decodeError rtype pay then .error 3 else .ok v

/-- R377: the crop of an image: left, top, width, height; nothing where it runs past the edge, or where without a resize it is not the
output (notes/assumptions/159). -/
def cropOf (v : ImageHead) (x : List Byte) : Option (Nat × Nat × Nat × Nat) :=
  let (cx, cy, cw, ch) := if field x 8 2 = 0 then (0, 0, v.w, v.h) else (field x 4 2, field x 6 2, field x 8 2, field x 10 2)
  if v.w < cx + cw ∨ v.h < cy + ch then none
  else if field x 1 1 = 0 ∧ ¬ (field x 12 2 = cw ∧ field x 14 2 = ch) then none
  else some (cx, cy, cw, ch)

/-- R377: (x − MEAN) × INVSTD of channel `c`, the three values of each lying at `mean` in a transform block. The value is exact, and is
rounded once, into the output format (notes/assumptions/160). -/
def normalised (x : List Byte) (mean c : Nat) (v : Rat) : FVal :=
  ((FVal.ofRat v).add (f32 (field x (mean + 4 * c) 4)).neg).mul (f32 (field x (mean + 12 + 4 * c) 4))

/-- R377: patch `p` of a picture OUT_W wide: its elements by channel, row and column. -/
def patchElems (outW side chans p : Nat) (elem : Nat → Nat → Nat → FVal) : List FVal :=
  let across := outW / side
  (List.range chans).flatMap (fun c => (List.range side).flatMap (fun y => (List.range side).map (fun x =>
    elem c (p / across * side + y) (p % across * side + x))))

/-- R86, R379: values converted to a direct output format. -/
def outConvs (fmt : Nat) (l : List FVal) : List Conv := l.map (convertFmt fmt .rne)

/-- Their bytes, and what is counted. -/
def convBytes (fmt : Nat) (l : List Conv) : List Byte := l.flatMap (fun c => toLe (fmtBits fmt / 8) c.bits)
def convCounts (l : List Conv) : Counts :=
  let n (f : Conv → Bool) : Nat := (l.filter f).length
  { sat := n (·.sat), flush := n (·.flush), nans := n (·.nan) }

/-- R377: the elements of an image field, or the reason for its tombstone. -/
def imageElems (rtype : Nat) (pay x : List Byte) : Except Nat (List FVal) :=
  match imageHead rtype pay with
  | .error r => .error r
  | .ok v => match cropOf v x with
    | none => .error 4
    | some (cx, cy, cw, ch) =>
      let chans := field x 2 1
      let outW := field x 12 2
      let outH := field x 14 2
      let raw (c y i : Nat) : Rat := ((Config.pixel rtype pay chans c y i % (v.top + 1) : Nat) : Rat) / ((v.top : Nat) : Rat)
      let plane (c : Nat) : List (List Rat) := (List.range ch).map (fun y => (List.range cw).map (fun i => raw c (cy + y) (cx + i)))
      let elem (c y i : Nat) : FVal := normalised x 16 c
        (if field x 1 1 = 0 then raw c (cy + y) (cx + i) else ratio (Config.resized (field x 1 1) (plane c) outW outH y i))
      let side := max 1 (field x 3 1)
      .ok ((List.range ((outW / side) * (outH / side))).flatMap (fun p => patchElems outW side chans p elem))

/-! ### Audio (R376, R378) -/

/-- A decoded audio stream: its rate, and its channels. -/
structure Sound where
  rate  : Nat
  chans : List (List Rat)

/-- R376: FLAC. -/
def flacSound (rtype : Nat) (pay : List Byte) : Except Nat Sound :=
  let v := beField pay 18 8
  let rate := v / 2 ^ 44
  let chans := v / 2 ^ 41 % 8 + 1
  let bits := v / 2 ^ 36 % 32 + 1
  if !named pay 0 [0x66, 0x4C, 0x61, 0x43] || decide (pay.length < 42 ∨ beField pay 4 1 % 128 ≠ 0) then .error (strangeReason rtype pay)
  else if !((bits == 16 || bits == 24) && decide (chans ≤ 2 ∧ 8000 ≤ rate ∧ rate ≤ 192000)) then .error 4
  else if Config.decodeError rtype pay then .error 3
  else .ok { rate, chans := (List.range chans).map (fun c => (Config.audio rtype pay c).map ratio) }

/-- Where an Opus stream's OpusHead lies: in Ogg in its first page, else first, with or without a length before it. -/
def opusHead (pay : List Byte) : Nat :=
  if named pay 0 [0x4F, 0x67, 0x67, 0x53] then 27 + beField pay 26 1
  else if named pay 0 [0x4F, 0x70, 0x75, 0x73] then 0 else 2

/-- R375, R376: Opus, decoded at 48 kHz; in Ogg with channel mapping family 0 only. -/
def opusSound (rtype : Nat) (pay : List Byte) : Except Nat Sound :=
  let o := opusHead pay
  let chans := beField pay (o + 9) 1
  if !named pay o [0x4F, 0x70, 0x75, 0x73, 0x48, 0x65, 0x61, 0x64] || decide (pay.length < o + 19) then .error (strangeReason rtype pay)
  else if !(decide (1 ≤ chans ∧ chans ≤ 2) && (decide (rtype < 0x80) || beField pay (o + 18) 1 == 0)) then .error 4
  else if Config.decodeError rtype pay then .error 3
  else .ok { rate := 48000, chans := (List.range chans).map (fun c => (Config.audio rtype pay c).map ratio) }

/-- The chunks of a RIFF file: name and data. -/
def riffChunks : Nat → List Byte → List (List Byte × List Byte)
  | 0, _ => []
  | f + 1, bs =>
    let n := field bs 4 4
    if bs.length < 8 + n then [] else (bs.take 4, (bs.drop 8).take n) :: riffChunks f (bs.drop (8 + upTo n 2))

/-- R376: whether a WAVE format chunk names PCM: format tag 1, or EXTENSIBLE with the PCM subformat. -/
def wavePcm (b : List Byte) : Bool :=
  field b 0 2 == 1 || (field b 0 2 == 0xFFFE
    && named b 24 [1, 0, 0, 0, 0, 0, 0x10, 0, 0x80, 0, 0, 0xAA, 0, 0x38, 0x9B, 0x71])

/-- R376: RIFF WAVE. -/
def waveSound (rtype : Nat) (pay : List Byte) : Except Nat Sound :=
  let l := riffChunks pay.length (pay.drop 12)
  let chunk (name : List Nat) : Option (List Byte) := (l.find? (fun c => named c.1 0 name)).map Prod.snd
  match named pay 0 [0x52, 0x49, 0x46, 0x46] && named pay 8 [0x57, 0x41, 0x56, 0x45], chunk [0x66, 0x6D, 0x74, 0x20],
      chunk [0x64, 0x61, 0x74, 0x61] with
  | true, some b, some d =>
    let chans := field b 2 2
    let bits := field b 14 2
    if !(wavePcm b && (bits == 16 || bits == 24) && decide (1 ≤ chans ∧ chans ≤ 2)) then .error 4
    else if Config.decodeError rtype pay then .error 3
    else
      let w := bits / 8
      .ok { rate := field b 4 4, chans := (List.range chans).map (fun c => (List.range (d.length / (w * chans))).map (fun i =>
              (((intW bits (field d ((i * chans + c) * w) w)) : Int) : Rat) / ((2 ^ (bits - 1) : Nat) : Rat))) }
  | _, _, _ => .error (strangeReason rtype pay)

/-- R373, R376: an audio stream decoded; a ustar member's type is told by its first bytes. -/
def soundOf (rtype : Nat) (pay : List Byte) : Except Nat Sound :=
  let ty := if rtype < 0x80 then rtype else if named pay 0 [0x66, 0x4C, 0x61, 0x43] then 0x20
    else if named pay 0 [0x52, 0x49, 0x46, 0x46] then 0x22 else 0x21
  match ty with
  | 0x20 => flacSound rtype pay
  | 0x21 => opusSound rtype pay
  | _ => waveSound rtype pay

/-- R376: stereo mixed to mono. -/
def Sound.mono (v : Sound) : List Rat :=
  match v.chans with
  | [l, r] => List.zipWith (fun a b => (a + b) / 2) l r
  | [l] => l
  | _ => []

/-- R378: the elements of an audio field, planar: MAX_FRAMES for each of the mel bins. -/
def audioElems (rtype : Nat) (pay x : List Byte) : Except Nat (List FVal) :=
  match soundOf rtype pay with
  | .error r => .error r
  | .ok v =>
    let m := v.mono
    let n := Config.frames v.rate m.length x
    .ok ((List.range (if field x 2 1 = 0 then 80 else 128)).flatMap (fun b => (List.range (field x 10 2)).map (fun f =>
      FVal.ofRat (if f < n then max (-33) (ratio (Config.logMel v.rate m x f b)) else -33))))

/-! ### Blocks of pictures (R412, R415) -/

/-- A plane of a picture by row and column, on the 8-bit scale. -/
abbrev Luma := Nat → Nat → Nat

/-- The 256 samples of 16 × 16 block (bx, by). -/
def blockOf (p : Luma) (bx by_ : Nat) : List Nat :=
  (List.range 16).flatMap (fun y => (List.range 16).map (fun x => p (16 * by_ + y) (16 * bx + x)))

/-- Σ|a − b|. -/
def sumDiff (a b : List Nat) : Nat := (List.zipWith (fun x y => (x - y) + (y - x)) a b).sum

/-- R412: INTRA: Σ|p − mean|, the mean truncated, saturating. -/
def blockIntra (p : Luma) (bx by_ : Nat) : Nat :=
  let l := blockOf p bx by_
  satTo 0xFFFF (sumDiff l (List.replicate 256 (l.sum / 256)))

/-- R412: INTER: Σ|p − q| against the previous picture; zero for the first. -/
def blockInter (p : Luma) (q : Option Luma) (bx by_ : Nat) : Nat :=
  match q with
  | none => 0
  | some q => sumDiff (blockOf p bx by_) (blockOf q bx by_)

/-- R412: a record of a block. -/
def blockRec (v : Config.Block) (concealed : Bool) (intra inter : Nat) : List Byte :=
  let f (b : Bool) (n : Nat) : Nat := if b then n else 0
  (if v.intra then toLe 4 0 else toLe 2 v.mvx ++ toLe 2 v.mvy) ++ toLe 2 (satTo 0xFFFF v.sad) ++ toLe 2 intra ++ toLe 2 inter
    ++ toLe 1 (if v.intra then 0xFF else v.ref) ++ toLe 1 (f v.intra 1 + f v.skip 2 + f (v.hidden && concealed) 4) ++ toLe 4 0

end Sys2Proof.Machine
end

