-- ==== Sys2Proof/Machine/Feeds.lean ====
section
/-! DEFINITION. The input pipeline: feeds, containers, Nougat, lateness, the reorder stage and micro-batches (R361 to R395). -/

namespace Sys2Proof.Machine

/-! ### Recipes (R364 to R366, R377, R378, R414) -/

/-- R365. -/
def fieldOf (b : List Byte) : Field :=
  { kind := field b 0 1, flags := field b 1 1, ext := field b 2 8, area := field b 10 4, slot := field b 14 4, xform := field b 18 1 }

/-- The field entry at index `k` of the parameter block. -/
def entryOf (b : List Byte) (k : Nat) : List Byte := (b.drop (96 + 20 * k)).take 20

/-- Kinds that yield tokens, and kinds that a media unit decodes. -/
def Field.tokens (f : Field) : Bool := f.kind == 3 || f.kind == 4
def Field.media (f : Field) : Bool := f.kind == 1 || f.kind == 2 || f.kind == 6

/-- R364: the recipe. -/
def feedOf (ctx part : Nat) (b : List Byte) : Feed :=
  let or (v d : Nat) : Nat := if v = 0 then d else v
  { st := .opened, ctx, part, skip := (field b 2 1).testBit 0, strict := (field b 2 1).testBit 1, ustar := field b 4 1 == 1,
    tokSlot := field b 5 1, mbSamples := field b 8 2, mbSlots := field b 10 2, seqLen := field b 12 4, rows := field b 16 2,
    softX := or (field b 18 1) 16, hardX := or (field b 20 2) 100, hardMin := or (field b 24 4) 50000,
    padToken := field b 28 4, out := field b 32 8, mbBytes := field b 40 4, sem := field b 48 8, tlog := field b 56 8,
    tlogLog2 := field b 64 1, replay := field b 72 8, replayN := field b 80 4, xforms := field b 88 8,
    fields := (List.range (field b 3 1)).map (fun k => fieldOf (entryOf b k)) }

/-- R392: where the token area starts, and where it ends. -/
def Feed.tokOff (f : Feed) : Nat := upTo (64 + 16 * f.mbSamples) 256
def Feed.capacity (f : Feed) : Nat := f.rows * f.seqLen
def Feed.tokEnd (f : Feed) : Nat := f.tokOff + 8 * f.capacity

/-- Bytes of an element in a direct output format. -/
def outBytes (fmt : Nat) : Nat := fmtBits fmt / 8

/-- R377, R378, R414: a transform block is allowed, for its field kind. The bounds of MAX_W, MAX_H, STRUDEL_BYTES and the addresses of a
video field are those of R402 (notes/assumptions/161). -/
def xformOk (kind : Nat) (b : List Byte) : Bool :=
  decide (field b 0 1 ≤ 4) && (match kind with
    | 1 =>
      let p := field b 3 1
      decide (field b 1 1 ≤ 2 ∧ (field b 2 1 = 1 ∨ field b 2 1 = 3) ∧ 1 ≤ p ∧ p ≤ 32)
        && decide (1 ≤ field b 12 2 ∧ field b 12 2 ≤ 4096 ∧ field b 12 2 % p = 0)
        && decide (1 ≤ field b 14 2 ∧ field b 14 2 ≤ 4096 ∧ field b 14 2 % p = 0) && zeroAt b 40 24
        && decide (field b 1 1 ≠ 0 ∨ field b 8 2 = 0 ∨ (field b 12 2 = field b 8 2 ∧ field b 14 2 = field b 10 2))
    | 2 =>
      decide (field b 1 1 ≤ 1 ∧ field b 2 1 ≤ 1 ∧ 8000 ≤ field b 4 4 ∧ field b 4 4 ≤ 48000)
        && decide (1 ≤ field b 8 2 ∧ field b 8 2 ≤ 512) && zeroAt b 3 1 && zeroAt b 12 52
    | _ =>
      let p := field b 2 1
      decide ((field b 1 1 = 1 ∨ field b 1 1 = 2) ∧ 1 ≤ p ∧ p ≤ 32 ∧ 1 ≤ field b 3 1)
        && decide (1 ≤ field b 4 2 ∧ field b 4 2 ≤ 4096 ∧ field b 4 2 % p = 0)
        && decide (1 ≤ field b 6 2 ∧ field b 6 2 ≤ 4096 ∧ field b 6 2 % p = 0)
        && decide (1 ≤ field b 8 2 ∧ field b 8 2 ≤ 4096 ∧ 1 ≤ field b 14 1 ∧ field b 14 1 ≤ 64)
        && decide (2 ≤ field b 15 1 ∧ field b 15 1 ≤ 64)
        && decide (16 ≤ field b 16 2 ∧ field b 16 2 ≤ 8192 ∧ 16 ≤ field b 18 2 ∧ field b 18 2 ≤ 8192)
        && decide (field b 20 4 % 4096 = 0 ∧ field b 24 8 % 4096 = 0 ∧ field b 32 8 % 4096 = 0))

/-- R377, R378, R416: bytes that a transform can write into a slot. -/
def xformBytes (kind : Nat) (b : List Byte) : Nat :=
  let w := outBytes (field b 0 1)
  match kind with
  | 1 => field b 12 2 * field b 14 2 * field b 2 1 * w
  | 2 => (if field b 2 1 = 0 then 80 else 128) * field b 10 2 * w
  | _ =>
    let p := max 1 (field b 2 1)
    let np := (field b 4 2 / p) * (field b 6 2 / p)
    let n := field b 8 2
    upTo (8 * n) 256 + upTo (2 * n * np) 256 + n * np * 3 * p * p * w

/-- Check 7 for FEED_OPEN: what the block alone tells. -/
def feedOpenCheck (s : State) (q : Nat) (b : List Byte) : Option (Nat × Nat) :=
  let part := s.part (s.partOf q)
  let n := field b 3 1
  let f := feedOf 0 0 b
  let toks := f.fields.any Field.tokens
  let area (k : Nat) : Nat × Nat :=
    let e := f.fields.getD k {}
    (e.area, e.area + e.slot * f.mbSamples)
  let areas := (List.range n).filter (fun k => !(f.fields.getD k {}).tokens)
  let bad (k o : Nat) : Option (Nat × Nat) := badParam (96 + 20 * k + o)
  firstBad ([(decide (part.feedFirst ≤ field b 0 2 ∧ field b 0 2 ≤ part.feedLast), badParam 0), (decide (field b 2 1 < 4), badParam 2),
    (decide (1 ≤ n ∧ n ≤ 8), badParam 3), (decide (field b 4 1 ≤ 1), badParam 4),
    (decide (f.tokSlot ≤ 15 ∨ f.tokSlot = 0xFF), badParam 5), (zeroAt b 6 2, badParam 6),
    (decide (1 ≤ f.mbSamples ∧ f.mbSamples ≤ 4096), badParam 8), (decide (2 ≤ f.mbSlots ∧ f.mbSlots ≤ 256), badParam 10),
    (if toks then decide (16 ≤ f.seqLen ∧ f.seqLen ≤ 262144) else f.seqLen == 0, badParam 12),
    (if toks then decide (1 ≤ f.rows ∧ f.rows ≤ 4096) else f.rows == 0, badParam 16),
    (decide (field b 18 1 ≠ 1), badParam 18), (zeroAt b 19 1, badParam 19), (decide (field b 20 2 ≠ 1), badParam 20),
    (zeroAt b 22 2, badParam 22), (decide (f.out % 4096 = 0 ∧ f.out >>> 48 = s.fab.moduleId), badParam 32),
    (decide (f.mbBytes % 4096 = 0 ∧ f.tokEnd ≤ f.mbBytes), badParam 40), (zeroAt b 44 4, badParam 44),
    (decide (f.sem % 32 = 0), badParam 48), (decide (f.tlog % 4096 = 0), badParam 56),
    (decide (6 ≤ f.tlogLog2 ∧ f.tlogLog2 ≤ 20), badParam 64), (zeroAt b 65 7, badParam 65),
    (decide (f.replay ≠ 0 ∨ f.replayN = 0), badParam 80), (zeroAt b 84 4, badParam 84), (decide (f.xforms % 64 = 0), badParam 88)]
    ++ (List.range n).flatMap (fun k =>
      let e := f.fields.getD k {}
      [(decide (1 ≤ e.kind ∧ e.kind ≤ 6), bad k 0), (if e.kind = 3 then decide (e.flags < 4) else e.flags == 0, bad k 1),
       (f.ustar || e.ext == 0, bad k 2),
       (if e.tokens then e.area == 0 else decide (e.area % 256 = 0 ∧ f.tokEnd ≤ e.area)
          && areas.all (fun j => j == k || decide ((area j).2 ≤ e.area ∨ (area k).2 ≤ (area j).1)), bad k 10),
       (if e.tokens then e.slot == 0 else decide (e.slot ≠ 0 ∧ e.slot % 256 = 0 ∧ (area k).2 ≤ f.mbBytes), bad k 14),
       (zeroAt (entryOf b k) 19 1, bad k 19)])
    ++ [(zeroAt b (96 + 20 * n) (160 - 20 * n), badParam (96 + 20 * n)),
        (!f.fields.any (fun e => e.kind == 3)
          || ((s.tok f.tokSlot).loaded && decide ((s.tok f.tokSlot).part = s.partOf q ∧ f.tokSlot ≤ 15)), badParam 5)])

/-- R404: frame buffers reserved by sessions and feeds. -/
def State.poolUsed (s : State) : Nat :=
  ((s.feeds.map (fun f => f.2.pool)).sum) + ((s.sessions.filter (fun x => x.2.opened)).map (fun x => x.2.nfb)).sum

/-- The transform blocks of a recipe's media fields, in field order (R364). -/
def readXforms (s : State) (a : Acc) (f : Feed) : Rd (List (List Byte)) :=
  f.fields.mapM (fun e => if e.media then load s a (f.xforms + 64 * e.xform) 64 else pure [])

/-- R362, R367: a feed is STALLED while its home hub is in reset, from CLOSED too. -/
def State.feedStalled (s : State) (n : Nat) : Bool :=
  (s.feed n).st == .stalled || s.ctrl.resets.any (fun r => decide ((r.dom = 3 ∧ r.idx = n % 2) ∨ r.dom = 4))

/-- R387, R388: the entries of the replay log: INDEX, REASON, DETAIL. It is read once, as the feed is opened (notes/assumptions/155). -/
def readReplay (s : State) (a : Acc) (f : Feed) : Rd (List (Nat × Nat × Nat)) := do
  let b ← if f.replayN = 0 then pure [] else load s a f.replay (16 * f.replayN)
  pure ((List.range f.replayN).map (fun i => (field b (16 * i) 8, field b (16 * i + 8) 1, field b (16 * i + 12) 4)))

/-- FEED_OPEN (R363 to R366, R404); it waits while the feed is STALLED (R367). -/
def feedOpenRun (s : State) (q : Nat) (k : Packet) : State :=
  let b := k.params
  let n := field b 0 2
  let f := feedOf k.ctx (s.partOf q) b
  if s.feedStalled n then s
  else if (s.ctx k.ctx).kind ≠ 1 then s.finish k.id stBadParam (some 4)
  else if (s.feed n).st ≠ .closed ∨ s.feeds.any (fun x => x.2.st != .closed && x.2.ctx == k.ctx) then s.finish k.id 0x53 none
  else
    let all : Rd (List (List Byte) × List (Nat × Nat × Nat)) := do
      let xs ← readXforms s (s.accOf q k) f
      let log ← readReplay s (s.accOf q k) f
      pure (xs, log)
    match s.reading (s.accOf q k) all with
    | (.error e, t) => t.onErr q k e
    | (.ok (xs, log), t) =>
      let idx := List.range f.fields.length
      let kind (i : Nat) : Nat := (f.fields.getD i {}).kind
      let med (i : Nat) : Bool := (f.fields.getD i {}).media
      match idx.find? (fun i => med i && !xformOk (kind i) (xs.getD i [])) with
      | some i => t.finish k.id stBadParam (some (2 ^ 16 + 96 + 20 * i + 18))
      | none => match idx.find? (fun i => med i && decide ((f.fields.getD i {}).slot < xformBytes (kind i) (xs.getD i []))) with
        | some i => t.finish k.id stBadParam (some (2 ^ 16 + 96 + 20 * i + 14))
        | none =>
          let vids := idx.filter (fun i => kind i == 6)
          let pool := (vids.map (fun i => field (xs.getD i []) 14 1 * field (xs.getD i []) 15 1)).sum
          let sess := (vids.map (fun i => field (xs.getD i []) 14 1)).foldl (fun m v => if m = 0 then v else min m v) 0
          if 4096 < t.poolUsed + pool then t.finish k.id 0x5A none
          else (t.setFeed n { f with pool, vsess := sess, log }).finish k.id stOk none

def execFeedOpen (p : Nat) (s : State) : Host.Outcome State Fault Refusal :=
  answer (.feedOpen p) (match s.started p 0x0501 with
    | some (q, k) => feedOpenRun (s.turned q k) q k
    | none => s)

/-! ### Submitting and closing (R368 to R370) -/

/-- Check 7 for FEED_SUBMIT. -/
def feedSubmitCheck (s : State) (q : Nat) (b : List Byte) : Option (Nat × Nat) :=
  let part := s.part (s.partOf q)
  let n := field b 2 2
  firstBad ([(decide (part.feedFirst ≤ field b 0 2 ∧ field b 0 2 ≤ part.feedLast), badParam 0),
    (decide (1 ≤ n ∧ n ≤ 4093 ∧ b.length = 32 + 16 * n), badParam 2), (zeroAt b 4 4, badParam 4), (zeroAt b 16 16, badParam 16)]
    ++ (List.range n).flatMap (fun i =>
      [(decide (1 ≤ field b (40 + 16 * i) 5), badParam (40 + 16 * i)), (decide (field b (45 + 16 * i) 1 < 2), badParam (45 + 16 * i)),
       (zeroAt b (46 + 16 * i) 2, badParam (46 + 16 * i))]))

/-- FEED_SUBMIT (R369, R370): it waits while the feed is STALLED or full. -/
def feedSubmitRun (s : State) (_q : Nat) (k : Packet) : State :=
  let b := k.params
  let n := field b 0 2
  let f := s.feed n
  let count := field b 2 2
  if s.feedStalled n then s
  else if f.st ≠ .opened then s.finish k.id 0x53 none
  else if field b 8 8 ≠ f.next then s.finish k.id 0x54 none
  else if 65536 < f.samples.length + count then s
  else
    let new := (List.range count).map (fun i =>
      ({ idx := f.next + i, src := field b (32 + 16 * i) 8, len := field b (40 + 16 * i) 5, port := field b (45 + 16 * i) 1 } : Sample))
    (s.setFeed n { f with next := f.next + count, samples := f.samples ++ new }).finish k.id stOk none

def execFeedSubmit (p : Nat) (s : State) : Host.Outcome State Fault Refusal :=
  answer (.feedSubmit p) (match s.started p 0x0502 with
    | some (q, k) => feedSubmitRun (s.turned q k) q k
    | none => s)

/-- Check 7 for FEED_CLOSE. -/
def feedCloseCheck (s : State) (q : Nat) (b : List Byte) : Option (Nat × Nat) :=
  let part := s.part (s.partOf q)
  firstBad [(decide (part.feedFirst ≤ field b 0 2 ∧ field b 0 2 ≤ part.feedLast), badParam 0), (decide (field b 2 1 < 2), badParam 2),
    (zeroAt b 3 13, badParam 3)]

/-! ### Micro-batches (R389 to R392) -/

/-- What the units write for a feed: in its context's range or in host memory (R205). What a home holds is owed (R21); a write that
fails faults the feed's context with its status (notes/assumptions/156). -/
def State.feedStore (s : State) (f : Feed) (g : Nat) (bs : List Byte) : State :=
  let a := s.ctxAcc f.ctx
  (pieces g bs.length).foldl (fun t c =>
    let b := (bs.drop (c.1 - g)).take c.2
    match t.storePiece a c.1 b with
    | .ok t => t
    | .error (.fail st d) => t.faultCtx f.ctx .faulted st d
    | .error _ => t.owe { acc := a, addr := c.1, due := .bytes b }) s

/-- The feed changed, unless its context's fault has closed it. -/
def State.modFeed (s : State) (n : Nat) (g : Feed → Feed) : State :=
  if (s.feed n).st = .closed then s else s.setFeed n (g (s.feed n))

/-- R51, R389: 1 added to a value of the feed's semaphore block. -/
def State.feedSem (s : State) (f : Feed) (o : Nat) : State := s.signalQuiet (s.ctxAcc f.ctx) (f.sem + o)

/-- The buffer of micro-batch `m`. -/
def Feed.buffer (f : Feed) (m : Nat) : Nat := f.out + m % f.mbSlots * f.mbBytes

/-- R390, R392: micro-batch `m` is complete: unused token positions, header, READY. -/
def State.closeBatch (s : State) (n m : Nat) (partly : Bool) : State :=
  let f := s.feed n
  if f.st = .closed then s
  else
    let buf := f.buffer m
    let unused := f.capacity - f.mbTokens
    let t := s.feedStore f (buf + f.tokOff + 4 * f.mbTokens) (List.replicate unused (toLe 4 f.padToken)).flatten
    let t := t.feedStore f (buf + f.tokOff + 4 * (f.capacity + f.mbTokens)) (List.replicate (4 * unused) 0#8)
    let head := toLe 8 m ++ toLe 8 (m * f.mbSamples) ++ toLe 2 f.mbCount ++ toLe 2 f.mbTombs ++ toLe 4 (if partly then 1 else 0)
      ++ toLe 4 f.mbTokens ++ toLe 4 f.mbDropped ++ toLe 4 f.mbSoft ++ toLe 4 0 ++ toLe 8 t.mtime ++ toLe 16 0
    let t := t.feedStore f buf head
    let t := t.modFeed n (fun f => { f with mbCount := 0, mbTombs := 0, mbTokens := 0, mbDropped := 0, mbSoft := 0 })
    t.feedSem f 0

/-- R368: a draining feed with no sample left delivers its partial micro-batch and is CLOSED. -/
def State.drained (s : State) (n : Nat) : State :=
  let f := s.feed n
  if f.st ≠ .draining ∨ !f.samples.isEmpty then s
  else
    let t := if f.mbCount = 0 then s else s.closeBatch n ((f.oldest - 1) / f.mbSamples) true
    let t := t.setFeed n {}
    match f.closePkt with
    | some p => t.finish p stOk none
    | none => t

/-- FEED_CLOSE (R368). -/
def feedCloseRun (s : State) (_q : Nat) (k : Packet) : State :=
  let b := k.params
  let n := field b 0 2
  let f := s.feed n
  if s.feedStalled n then s
  else if f.st ≠ .opened then s.finish k.id 0x53 none
  else if (field b 2 1).testBit 0 then (s.setFeed n {}).finish k.id stOk none
  else ((s.wait k.id).setFeed n { f with st := .draining, closePkt := some k.id }).drained n

def execFeedClose (p : Nat) (s : State) : Host.Outcome State Fault Refusal :=
  answer (.feedClose p) (match s.started p 0x0503 with
    | some (q, k) => feedCloseRun (s.turned q k) q k
    | none => s)

/-- R387: the tombstone log entry, and TOMB. -/
def State.logTomb (s : State) (n : Nat) (idx reason fld detail : Nat) : State :=
  let f := s.feed n
  let e := toLe 8 idx ++ toLe 1 reason ++ toLe 1 fld ++ toLe 2 0 ++ toLe 4 detail
  if f.st = .closed then s
  else
    let t := s.feedStore f (f.tlog + 16 * (f.tombs % 2 ^ f.tlogLog2)) e
    (t.modFeed n (fun f => { f with tombs := f.tombs + 1 })).feedSem f 16

/-- R391, R392: a sample enters its micro-batch buffer. -/
def State.deliverSample (s : State) (n : Nat) (x : Sample) : State :=
  let f := s.feed n
  let m := x.idx / f.mbSamples
  let pos := x.idx % f.mbSamples
  let buf := f.buffer m
  let start := f.mbTokens
  let toks := if x.tomb.isSome then [] else (f.fields.zipIdx.filter (fun e => e.1.tokens)).flatMap (fun e =>
    ((x.data.find? (fun d => d.field == e.2)).map (·.tokens)).getD [])
  let kept := toks.take (f.capacity - start)
  let dropped := toks.length - kept.length
  let t := s.feedStore f (buf + f.tokOff + 4 * start) (kept.flatMap (toLe 4))
  let t := t.feedStore f (buf + f.tokOff + 4 * (f.capacity + start)) (kept.flatMap (fun _ => toLe 4 (pos + 1)))
  let t := (f.fields.zipIdx.filter (fun e => !e.1.tokens)).foldl (fun t e =>
    let bs := if x.tomb.isSome then [] else ((x.data.find? (fun d => d.field == e.2)).map (·.bytes)).getD []
    t.feedStore f (buf + e.1.area + pos * e.1.slot) ((bs ++ List.replicate e.1.slot 0#8).take e.1.slot)) t
  let (status, reason, weight) : Nat × Nat × Nat := match x.tomb with
    | some (r, _, _) => (0x50, r, 0)
    | none => (if x.concealed then 0x51 else 0, 0, 0x3F800000)
  let flags := (if dropped = 0 then 0 else 1) + (if x.fixed && x.tomb.isNone then 2 else 0)
  let t := t.feedStore f (buf + 64 + 16 * pos)
    (toLe 1 status ++ toLe 1 reason ++ toLe 1 flags ++ toLe 1 0 ++ toLe 4 weight ++ toLe 4 start ++ toLe 4 kept.length)
  let t := match x.tomb with
    | some (r, fl, d) => t.logTomb n x.idx r fl d
    | none => t
  t.modFeed n (fun f => { f with
    oldest := x.idx + 1, samples := f.samples.filter (fun y => y.idx != x.idx), mbCount := f.mbCount + 1,
    mbTombs := f.mbTombs + if x.tomb.isSome then 1 else 0, mbTokens := start + kept.length,
    mbDropped := f.mbDropped + dropped, mbSoft := f.mbSoft + if x.soft then 1 else 0 })

/-- Whether a feed's units run: it is open or draining, its home hub serves, its context is ACTIVE (R362, R363). -/
def State.feedRuns (s : State) (n : Nat) : Bool :=
  let f := s.feed n
  (f.st == .opened || f.st == .draining) && (s.ctx f.ctx).state == .active
    && !s.ctrl.resets.any (fun r => decide ((r.dom = 3 ∧ r.idx = n % 2) ∨ r.dom = 4))
    && (s.power.st == .active || s.power.st == .idle)

/-- In whose name the FREE count of feed `n` is read at a peer. -/
def freeRead (n : Nat) : Nat := 2 ^ 60 + n

/-- REORDER_RELEASE (R383, R389): the lowest undelivered sample, when it is ready and its micro-batch has a free buffer, as FREE says to
its first sample. -/
def reorderRelease (s : State) (n : Nat) : State :=
  let f := s.feed n
  match f.samples.find? (fun x => x.idx == f.oldest) with
  | none => s
  | some x =>
    let m := x.idx / f.mbSamples
    let go (s : State) : State :=
      let t := s.deliverSample n x
      let t := if (t.feed n).mbCount = f.mbSamples ∨ (x.idx + 1) % f.mbSamples = 0 then t.closeBatch n m false else t
      (t.drained n).settle
    if !s.feedRuns n ∨ x.phase ≠ .ready then s
    else if x.idx % f.mbSamples ≠ 0 then go s
    else
      let a : Acc := { s.ctxAcc f.ctx with pkt := freeRead n }
      match s.reading a (loadNat s a (f.sem + 8) 8) with
      | (.ok free, t) =>
        let t := t.dropLanded a.pkt
        if free + f.mbSlots ≤ m then t else go t
      | (.error (.remote g c), _) => match s.askRead f.part a.pkt g c with
        | .ok t => t
        | .error (.fail st d) => (s.faultCtx f.ctx .faulted st d).settle
        | .error _ => s
      | (.error (.fail st d), t) => (t.faultCtx f.ctx .faulted st d).settle
      | (.error _, _) => s

def execReorderRelease (f : Nat) (s : State) : Host.Outcome State Fault Refusal :=
  answer (.reorderRelease f) (reorderRelease s f)

/-! ### Containers (R372 to R375) -/

/-- A sample's payloads, or the tombstone: reason and failing field. -/
abbrev Parsed := Except (Nat × Nat) (List (Nat × Nat × List Byte))

/-- R373: the field kind of a record type. -/
def kindOfType (rtype : Nat) : Option Nat :=
  match rtype with
  | 0x01 | 0x02 => some 1
  | 0x10 | 0x11 | 0x12 => some 6
  | 0x20 | 0x21 | 0x22 => some 2
  | 0x30 => some 3
  | 0x31 => some 4
  | 0x40 => some 5
  | _ => none

/-- What R374 asks of a field's payload. -/
def payloadOk (f : Field) (bs : List Byte) : Bool :=
  (f.kind != 4 || bs.length % 4 == 0) && (f.kind != 5 || decide (bs.length ≤ f.slot))

/-- Every field in use has a payload. -/
def complete (fields : List Field) (l : List (Nat × Nat × List Byte)) : Parsed :=
  match (List.range fields.length).find? (fun k => !l.any (fun e => e.1 == k)) with
  | some k => .error (2, k)
  | none => .ok l

/-- R372 to R374: the records of a Brioche sample. -/
def brioche (fields : List Field) : Nat → List Byte → List (Nat × Nat × List Byte) → Parsed
  | 0, _, _ => .error (2, 0xFF)
  | f + 1, bs, got =>
    let len := field bs 0 5
    let rtype := field bs 5 1
    let fl := field bs 6 1
    let k := field bs 7 1
    if bs.length < 16 ∨ 2 ≤ fl ∨ 8 ≤ k ∨ !zeroAt bs 12 4 ∨ bs.length < 16 + upTo len 8 then .error (2, 0xFF)
    else
      let pay := (bs.drop 16).take len
      let rest := bs.drop (16 + upTo len 8)
      if crc32c pay ≠ field bs 8 4 then .error (1, k)
      else
        let step : Parsed := match fields[k]? with
          | none => .ok got
          | some e =>
            if kindOfType rtype ≠ some e.kind ∨ got.any (fun x => x.1 == k) ∨ !payloadOk e pay then .error (2, k)
            else .ok (got ++ [(k, rtype, pay)])
        match step with
        | .error e => .error e
        | .ok got =>
          if fl = 1 then (if rest.isEmpty then complete fields got else .error (2, 0xFF))
          else if rest.isEmpty then .error (2, 0xFF)
          else brioche fields f rest got

/-- R375: an octal number in ASCII, ended by NUL or space. -/
def octal : List Byte → Option Nat
  | l =>
    let ds := (l.dropWhile (· == 0x20#8)).takeWhile (fun b => decide (0x30 ≤ b.toNat ∧ b.toNat ≤ 0x37))
    if ds.isEmpty then none else some (ds.foldl (fun a b => a * 8 + (b.toNat - 0x30)) 0)

/-- Bytes up to the first NUL. -/
def cstr (l : List Byte) : List Byte := l.takeWhile (· != 0#8)

/-- R375: the records of a pax header: `path` and `size`. -/
def paxRecords : Nat → List Byte → Option (List Byte) × Option Nat → Option (List Byte) × Option Nat
  | 0, _, r => r
  | f + 1, bs, r =>
    let digits := bs.takeWhile (fun b => decide (0x30 ≤ b.toNat ∧ b.toNat ≤ 0x39))
    let n := digits.foldl (fun a b => a * 10 + (b.toNat - 0x30)) 0
    if digits.isEmpty ∨ n ≤ digits.length + 1 ∨ bs.length < n then r
    else
      let body := ((bs.take n).drop (digits.length + 1)).take (n - digits.length - 2)
      let key := body.takeWhile (· != 0x3D#8)
      let val := body.drop (key.length + 1)
      let r' := if key = [0x70#8, 0x61#8, 0x74#8, 0x68#8] then (some val, r.2)
        else if key = [0x73#8, 0x69#8, 0x7A#8, 0x65#8] then (r.1, some (val.foldl (fun a b => a * 10 + (b.toNat - 0x30)) 0))
        else r
      paxRecords f (bs.drop n) r'

/-- R375: base name and extension of a path: the last component is cut at its first '.'. -/
def splitName (path : List Byte) : List Byte × List Byte :=
  let last := (path.reverse.takeWhile (· != 0x2F#8)).reverse
  let dir := path.take (path.length - last.length)
  let stem := last.takeWhile (· != 0x2E#8)
  (dir ++ stem, last.drop (stem.length + 1))

/-- R375: a header's checksum, its own field read as spaces. -/
def tarSum (h : List Byte) : Nat :=
  ((h.take 148 ++ List.replicate 8 0x20#8 ++ h.drop 156).map BitVec.toNat).sum

/-- R375: the members of a ustar sample. A media payload's type is its field's kind beside 0x80. -/
def ustar (fields : List Field) : Nat → List Byte → Option (List Byte) × Option Nat → Option (List Byte) →
    List (Nat × Nat × List Byte) → Parsed
  | 0, _, _, _, _ => .error (2, 0xFF)
  | f + 1, bs, pax, base, got =>
    if bs.isEmpty then complete fields got
    else
      let h := bs.take 512
      let magic := (h.drop 257).take 8 = [0x75#8, 0x73#8, 0x74#8, 0x61#8, 0x72#8, 0#8, 0x30#8, 0x30#8]
      let flag := field h 156 1
      let wide := (h.drop 124).headD 0#8 |>.msb
      let size := match pax.2 with
        | some n => some n
        | none => if wide then none else octal ((h.drop 124).take 12)
      if h.length < 512 ∨ !magic then .error (2, 0xFF)
      else if octal ((h.drop 148).take 8) ≠ some (tarSum h) then .error (1, 0xFF)
      else match size with
        | none => .error (2, 0xFF)
        | some n =>
          if bs.length < 512 + upTo n 512 then .error (2, 0xFF)
          else
            let body := (bs.drop 512).take n
            let rest := bs.drop (512 + upTo n 512)
            if flag = 0x78 then ustar fields f rest (paxRecords n body (none, none)) base got
            else if flag ≠ 0 ∧ flag ≠ 0x30 then ustar fields f rest (none, none) base got
            else
              let name := cstr (h.take 100)
              let pre := cstr ((h.drop 345).take 155)
              let path := match pax.1 with
                | some p => p
                | none => if pre.isEmpty then name else pre ++ [0x2F#8] ++ name
              let (stem, ext) := splitName path
              if base.any (· != stem) then .error (2, 0xFF)
              else match fields.findIdx? (fun e => ext.length ≤ 8 && toLe 8 e.ext == ext ++ List.replicate (8 - ext.length) 0#8) with
                | none => ustar fields f rest (none, none) (some stem) got
                | some k =>
                  let e := fields.getD k {}
                  if got.any (fun x => x.1 == k) ∨ !payloadOk e body then .error (2, k)
                  else ustar fields f rest (none, none) (some stem) (got ++ [(k, 0x80 + e.kind, body)])

/-! ### Nougat (R380 to R382) -/

/-- Tables of a loaded slot as TOKENIZER_LOAD names them. -/
def tokOf (part : Nat) (b : List Byte) : Tok :=
  { loaded := true, part, vocab := field b 4 4, merges := field b 8 4, maxPre := field b 12 2, norm := field b 16 8,
    cls := field b 24 8, byteTok := field b 32 8, merge := field b 40 8, join := field b 48 8, bos := field b 56 4, eos := field b 60 4 }

/-- Check 7 for TOKENIZER_LOAD: what the block alone tells. -/
def tokenizerCheck (s : State) (b : List Byte) : Option (Nat × Nat) :=
  let here (o : Nat) : Bool × Option (Nat × Nat) := (decide (field b o 8 >>> 48 = s.fab.moduleId), badParam o)
  firstBad [(decide (field b 0 1 ≤ 15), badParam 0), (zeroAt b 1 3, badParam 1),
    (decide (256 ≤ field b 4 4 ∧ field b 4 4 ≤ 262144), badParam 4), (decide (field b 8 4 ≤ 1048576), badParam 8),
    (decide (4 ≤ field b 12 2 ∧ field b 12 2 ≤ 1024), badParam 12), (zeroAt b 14 2, badParam 14), here 16, here 24, here 32,
    here 40, here 48, (decide (field b 56 4 < field b 4 4), badParam 56), (decide (field b 60 4 < field b 4 4), badParam 60)]

/-- R381: one merge entry: LEFT, RIGHT, RESULT, RANK. -/
abbrev Merge := Nat × Nat × Nat × Nat

def mergesOf (b : List Byte) (n : Nat) : List Merge :=
  (List.range n).map (fun i => (field b (16 * i) 4, field b (16 * i + 4) 4, field b (16 * i + 8) 4, field b (16 * i + 12) 4))

/-- Entries rise by (LEFT, RIGHT). -/
def risingMerges : List Merge → Bool
  | a :: b :: r => decide (a.1 < b.1 ∨ (a.1 = b.1 ∧ a.2.1 < b.2.1)) && risingMerges (b :: r)
  | _ => true

/-- TOKENIZER_LOAD (R380, R381): every table is read once. -/
def tokenizerRun (s : State) (q : Nat) (k : Packet) : State :=
  let b := k.params
  let n := field b 0 1
  let t0 := tokOf (s.partOf q) b
  let a := s.accOf q k
  let all : Rd (List Byte × List Byte) := do
    let _ ← load s a t0.norm (4 * 1114112)
    let _ ← load s a t0.cls 1114112
    let bytes ← load s a t0.byteTok 1024
    let m ← load s a t0.merge (16 * t0.merges)
    let _ ← load s a t0.join 32
    pure (bytes, m)
  if s.feeds.any (fun f => f.2.st != .closed && f.2.tokSlot == n && f.2.fields.any (fun e => e.kind == 3)) then
    s.finish k.id 0x55 none
  else match s.reading a all with
    | (.error e, t) => t.onErr q k e
    | (.ok (bytes, mb), t) =>
      let ms := mergesOf mb t0.merges
      let ranks := ms.map (fun m => m.2.2.2)
      let low (v : Nat) : Bool := decide (v < t0.vocab)
      if !(List.range 256).all (fun i => low (field bytes (4 * i) 4)) then t.finish k.id stBadParam (some (2 ^ 16 + 32))
      else if !ms.all (fun m => low m.1 && low m.2.1 && low m.2.2.1) || !risingMerges ms
          || !(decide (sortBy (fun x y => decide (x ≤ y)) ranks = List.range t0.merges)) then
        t.finish k.id stBadParam (some (2 ^ 16 + 40))
      else (t.setTok n t0).finish k.id stOk none

def execTokenizerLoad (p : Nat) (s : State) : Host.Outcome State Fault Refusal :=
  answer (.tokenizerLoad p) (match s.started p 0x0504 with
    | some (q, k) => tokenizerRun (s.turned q k) q k
    | none => s)

/-- One code point off the front of UTF-8 bytes: its value, whether it was well formed, and how many bytes it took. A maximal
ill-formed subpart becomes U+FFFD. -/
def utf8One (bs : List Byte) : Nat × Bool × Nat :=
  let at_ (i : Nat) : Nat := (bs.getD i 0#8).toNat
  let b0 := at_ 0
  -- how many bytes the lead asks for, and the range of the second byte
  let (n, lo, hi) : Nat × Nat × Nat :=
    if b0 < 0x80 then (1, 0, 0)
    else if 0xC2 ≤ b0 ∧ b0 ≤ 0xDF then (2, 0x80, 0xBF)
    else if b0 = 0xE0 then (3, 0xA0, 0xBF)
    else if b0 = 0xED then (3, 0x80, 0x9F)
    else if 0xE1 ≤ b0 ∧ b0 ≤ 0xEF then (3, 0x80, 0xBF)
    else if b0 = 0xF0 then (4, 0x90, 0xBF)
    else if 0xF1 ≤ b0 ∧ b0 ≤ 0xF3 then (4, 0x80, 0xBF)
    else if b0 = 0xF4 then (4, 0x80, 0x8F)
    else (0, 0, 0)
  let okAt (i : Nat) : Bool := decide (i < bs.length) && (if i = 1 then decide (lo ≤ at_ 1 ∧ at_ 1 ≤ hi)
    else decide (0x80 ≤ at_ i ∧ at_ i ≤ 0xBF))
  let good := ((List.range n).drop 1).takeWhile okAt
  if n = 0 then (0xFFFD, false, 1)
  else if good.length + 1 < n then (0xFFFD, false, good.length + 1)
  else
    let tail := (good.map (fun i => at_ i % 64)).foldl (fun a v => a * 64 + v) 0
    ((match n with
      | 1 => b0
      | 2 => b0 % 32
      | 3 => b0 % 16
      | _ => b0 % 8) * 64 ^ (n - 1) + tail, true, n)

/-- R382: the code points of a text, and whether any byte was replaced. -/
def utf8 : Nat → List Byte → List Nat × Bool
  | 0, _ => ([], false)
  | f + 1, bs =>
    if bs.isEmpty then ([], false)
    else
      let (c, ok, n) := utf8One bs
      let (r, fixed) := utf8 f (bs.drop n)
      (c :: r, fixed || !ok)

/-- The UTF-8 bytes of a code point. -/
def utf8Bytes (c : Nat) : List Byte :=
  let b (n : Nat) : Byte := BitVec.ofNat 8 n
  if c < 0x80 then [b c]
  else if c < 0x800 then [b (0xC0 + c / 64), b (0x80 + c % 64)]
  else if c < 0x10000 then [b (0xE0 + c / 4096), b (0x80 + c / 64 % 64), b (0x80 + c % 64)]
  else [b (0xF0 + c / 262144), b (0x80 + c / 4096 % 64), b (0x80 + c / 64 % 64), b (0x80 + c % 64)]

/-- R382: code points with their class byte cut into pre-tokens at boundaries. -/
def preTokens (join : List Byte) : List (Nat × Nat) → List (List Nat)
  | [] => []
  | [(c, _)] => [[c]]
  | (c, a) :: (d, b) :: r =>
    let bit := ((join.getD ((16 * (a % 16) + b % 16) / 8) 0#8).toNat).testBit ((16 * (a % 16) + b % 16) % 8)
    let cut := a.testBit 4 || b.testBit 4 || !bit
    match preTokens join ((d, b) :: r) with
    | [] => [[c]]
    | g :: gs => if cut then [c] :: g :: gs else (c :: g) :: gs

/-- R382: a pre-token longer than `top` bytes is cut at the last code point boundary that fits. -/
def cutLong (top : Nat) : Nat → List Nat → List (List Nat)
  | 0, _ => []
  | f + 1, cs =>
    if cs.isEmpty then []
    else
      let n := ((List.range (cs.length + 1)).filter (fun k => decide (((cs.take k).flatMap utf8Bytes).length ≤ top))).foldl max 1
      cs.take n :: cutLong top f (cs.drop n)

/-- R382: the leftmost occurrence of a pair replaced. -/
def mergeFirst (m : Merge) : List Nat → List Nat
  | a :: b :: r => if a = m.1 ∧ b = m.2.1 then m.2.2.1 :: r else a :: mergeFirst m (b :: r)
  | l => l

/-- R382: merges by lowest rank until no pair is in the table. -/
def mergeAll (ms : List Merge) : Nat → List Nat → List Nat
  | 0, t => t
  | f + 1, t =>
    let pairs := t.zip t.tail
    let best := (ms.filter (fun m => pairs.any (fun p => p.1 == m.1 && p.2 == m.2.1))).foldl
      (fun (b : Option Merge) m => match b with
        | some x => if m.2.2.2 < x.2.2.2 then some m else b
        | none => some m) none
    match best with
    | none => t
    | some m => mergeAll ms f (mergeFirst m t)

/-- R382: a text field's tokens, and whether bytes were replaced. -/
def nougat (s : State) (a : Acc) (k : Tok) (flags : Nat) (text : List Byte) : Rd (List Nat × Bool) := do
  let (cps, fixed) := utf8 text.length text
  let normed ← cps.mapM (fun c => do
    let e ← loadNat s a (k.norm + 4 * c) 4
    if !e.testBit 31 then pure [c]
    else do
      let n := fld e 24 7
      let bs ← load s a (k.norm + 4 * 1114112 + e % 2 ^ 24) n
      pure (utf8 n bs).1)
  let cps := normed.flatten
  let classed ← cps.mapM (fun c => do
    let v ← loadNat s a (k.cls + c) 1
    pure (c, v))
  let join ← load s a k.join 32
  let bytes ← load s a k.byteTok 1024
  let mb ← load s a k.merge (16 * k.merges)
  let ms := mergesOf mb k.merges
  let pres := (preTokens join classed).flatMap (fun g => cutLong k.maxPre g.length g)
  let toks := pres.flatMap (fun g =>
    let t := (g.flatMap utf8Bytes).map (fun b => field bytes (4 * b.toNat) 4)
    mergeAll ms t.length t)
  pure ((if flags.testBit 0 then [k.bos] else []) ++ toks ++ (if flags.testBit 1 then [k.eos] else []), fixed)

/-! ### Decoding (R376 to R388) -/

/-- R388: up to the largest INDEX of the replay log, the log rules. -/
def Feed.replayed (f : Feed) (idx : Nat) : Bool := f.log.any (fun e => decide (idx ≤ e.1))

/-- R388, R387: the reason with which a sample is tombstoned as the log has it, and the log entry's DETAIL. -/
def Feed.imposed (f : Feed) (idx : Nat) : Option (Nat × Nat) :=
  (f.log.find? (fun e => e.1 == idx && (e.2.1 == 0x10 || e.2.1 == 0x11))).map (·.2)

/-- One sample of a feed changed. -/
def State.modSample (s : State) (n idx : Nat) (g : Sample → Sample) : State :=
  s.modFeed n (fun f => { f with samples := f.samples.map (fun x => if x.idx = idx then g x else x) })

/-- R383, R414: the sample of feed `n` that its units can start now. -/
def State.startable (s : State) (n : Nat) : Option Sample :=
  let f := s.feed n
  let holds := (f.samples.filter (fun y => y.phase != .waiting)).length
  (f.samples.find? (fun x => x.phase == .waiting)).filter (fun x =>
    s.feedRuns n && decide (x.idx < f.oldest + 8192) && !(f.fields.any (fun e => e.kind == 6) && decide (f.vsess ≤ holds)))

/-- R219, R363: the work of hub `h`'s feed units. -/
def State.feedWork (s : State) (h : Nat) : UnitWork :=
  let mine := s.feeds.filter (fun f => f.1 % 2 == h)
  { ready := ((mine.filter (fun f => (s.startable f.1).isSome)).map (·.2.ctx)).eraseDups,
    runs := mine.flatMap (fun f => (f.2.samples.filter (fun x => x.phase == .decoding)).map (fun x => (f.2.ctx, x.slice))) }

/-- R414: the lowest of the feed's internal sessions that no sample holds. -/
def Feed.freeSess (f : Feed) : Nat :=
  let held := (f.samples.filter (fun y => y.phase != .waiting)).map (·.sess)
  ((List.range f.vsess).find? (fun v => !held.contains v)).getD 0

/-- SAMPLE_DECODE_START (R383, R388, R414): where the feed's context holds the slice of its hub's units (R219), the lowest waiting sample
inside the window; a video sample takes one of the feed's sessions. -/
def sampleDecodeStart (s : State) (n : Nat) : State :=
  let f := s.feed n
  match s.startable n, s.unitTakes (feedUnit (n % 2)) (s.feedWork (n % 2)) f.ctx with
  | none, _ => s
  | some x, (mine, slice, s) =>
    if !mine then s
    else match f.imposed x.idx with
      | some (r, d) => s.modSample n x.idx (fun y =>
          { y with phase := .ready, startMt := s.mtime, tomb := some (r, 0xFF, d), sess := f.freeSess })
      | none => s.modSample n x.idx (fun y => { y with phase := .decoding, startMt := s.mtime, slice, sess := f.freeSess })

def execSampleDecodeStart (f : Nat) (s : State) : Host.Outcome State Fault Refusal :=
  answer (.sampleDecodeStart f) (sampleDecodeStart s f)

/-- What decoding makes of a sample; `scratch` is what its internal sessions leave in memory (R399, R414). -/
structure Decoded where
  data      : List FieldData := []
  counts    : Counts := {}
  fixed     : Bool := false
  concealed : Nat := 0
  overflow  : Nat := 0
  tomb      : Option (Nat × Nat) := none
  scratch   : List (Nat × List Byte) := []

/-- A decoded field, or its tombstone's reason. -/
def Decoded.elems (d : Decoded) (k fmt : Nat) (r : Except Nat (List FVal)) : Decoded :=
  match r with
  | .error reason => { d with tomb := some (reason, k) }
  | .ok l =>
    let cs := outConvs fmt l
    { d with data := d.data ++ [⟨k, convBytes fmt cs, []⟩], counts := d.counts.add (convCounts cs) }

/-! ### Video fields (R413 to R416) -/

/-- R415: the patch of the OUT_W × OUT_H output in which block (x, y) of a W × H picture lies. -/
def patchOf (p outW outH w h x y : Nat) : Nat := 16 * y * outH / h / p * (outW / p) + 16 * x * outW / w / p

/-- R415: the summed INTER of each of `np` patches of a W × H picture, blocks row by row. -/
def patchInter (p outW outH np w h : Nat) (inter : List Nat) : List Nat :=
  let wb := cdiv w 16
  let owners := inter.zipIdx.map (fun e => (patchOf p outW outH w h (e.2 % wb) (e.2 / wb), e.1))
  (List.range np).map (fun k => ((owners.filter (fun o => o.1 == k)).map Prod.snd).sum)

/-- R415: how many patches a later frame keeps. -/
def keepCount (np thresh minKeep blocks inter : Nat) : Nat :=
  if thresh = 0 ∨ thresh * blocks ≤ inter then np else min np (max minKeep (cdiv (np * inter) (thresh * blocks)))

/-- R415: the patches of frame `i` that are kept, ascending, by the INTER of its blocks. -/
def keptPatches (x : List Byte) (i w h : Nat) (inter : List Nat) : List Nat :=
  let p := max 1 (field x 2 1)
  let outW := field x 4 2
  let outH := field x 6 2
  let np := (outW / p) * (outH / p)
  if i = 0 then List.range np
  else
    let n := keepCount np (field x 12 2) (field x 10 2) inter.length inter.sum
    let ranked := sortBy (fun a b => decide (b.1 < a.1 ∨ (a.1 = b.1 ∧ a.2 ≤ b.2))) (patchInter p outW outH np w h inter).zipIdx
    sortBy (fun a b => decide (a ≤ b)) ((ranked.take n).map Prod.snd)

/-- R412, R415: INTER of the blocks of output picture `n` of a video field. -/
def fieldInter (rtype : Nat) (pay : List Byte) (f : Config.VideoFrame) (n : Nat) : List Nat :=
  let q : Option Luma := if n = 0 then none else some (Config.videoLuma rtype pay (n - 1))
  (List.range (cdiv f.h 16)).flatMap (fun y => (List.range (cdiv f.w 16)).map (fun x =>
    blockInter (Config.videoLuma rtype pay n) q x y))

/-- R377, R414: patch `p` of output picture `n` of a video field, in the output format. -/
def videoPatch (rtype : Nat) (pay x : List Byte) (n p : Nat) : List Conv :=
  let outW := field x 4 2
  let elem (c y i : Nat) : FVal := normalised x 40 c (ratio (Config.videoPixel rtype pay n (field x 1 1) (outW, field x 6 2) c (y, i)))
  outConvs (field x 0 1) (patchElems outW (max 1 (field x 2 1)) 3 p elem)

/-- R416: a video slot: frame table, index area, kept patches. A frame is whether it is concealed, which patches it keeps, and their
bytes. -/
def videoSlot (x : List Byte) (l : List (Bool × List Nat × List Byte)) : List Byte :=
  let p := max 1 (field x 2 1)
  let np := (field x 4 2 / p) * (field x 6 2 / p)
  let n := field x 8 2
  let fill (k : Nat) (bs : List Byte) : List Byte := bs ++ List.replicate (k - bs.length) 0#8
  let table := l.flatMap (fun e => toLe 2 e.2.1.length ++ toLe 1 (1 + (if e.1 then 2 else 0)) ++ toLe 5 0)
  let index := l.flatMap (fun e => fill (2 * np) (e.2.1.flatMap (toLe 2)))
  fill (upTo (8 * n) 256) table ++ fill (upTo (2 * n * np) 256) index ++ l.flatMap (fun e => e.2.2)

/-- R414: the numbers of the output pictures taken: every FRAME_STEP-th from the first on (notes/assumptions/143), up to MAX_FRAMES. -/
def takenFrames (x : List Byte) (count : Nat) : List Nat :=
  ((List.range count).filter (fun n => n % max 1 (field x 3 1) == 0)).take (field x 8 2)

/-- R397, R414: a picture that no decoder takes, or that does not fit the field's buffers. -/
def oversize (x : List Byte) (f : Config.VideoFrame) : Bool :=
  decide (8192 < f.fullW ∨ 8192 < f.fullH ∨ 35651584 < f.fullW * f.fullH ∨ field x 16 2 < f.w ∨ field x 18 2 < f.h)

/-- R399: the bytes that a picture's syntax elements need in a slot. -/
def slotNeed (fullW fullH coded parsedLen : Nat) : Nat := min parsedLen (64 * (cdiv fullW 16 * cdiv fullH 16) + 2 * coded)

/-- R406, R414: bytes of a frame buffer of a field's internal session. -/
def fieldBuf (x : List Byte) : Nat := upTo (field x 16 2 * 2) 512 * upTo (field x 18 2) 64 * 3 / 2

/-- R414: what a field's internal session `v` leaves in its frame buffers and its two Strudel slots. -/
def fieldScratch (x : List Byte) (v : Nat) (l : List (Nat × List Byte)) : List (Nat × List Byte) :=
  let bufs := field x 15 1 * fieldBuf x
  let slots := 2 * field x 20 4
  l.filterMap (fun e =>
    if e.1 + e.2.length ≤ bufs then some (field x 24 8 + v * bufs + e.1, e.2)
    else if bufs ≤ e.1 ∧ e.1 + e.2.length ≤ bufs + slots then some (field x 32 8 + v * slots + (e.1 - bufs), e.2)
    else none)

/-- R413 to R416: a decoded video field. Decoding stops once MAX_FRAMES frames are taken; a stream that leaves the subset, fails or
overflows its slot before that is a tombstone. -/
def Decoded.video (d : Decoded) (f : Feed) (sess k rtype : Nat) (pay x : List Byte) : Decoded :=
  let v := Config.videoField rtype pay
  let overfull (p : Config.VideoFrame) : Bool := decide (field x 20 4 < slotNeed p.fullW p.fullH p.coded p.parsedLen)
  let pics := v.pics.takeWhile (fun p => !oversize x p && !overfull p)
  let next := v.pics[pics.length]?
  let taken := takenFrames x pics.length
  let full := decide (field x 8 2 ≤ taken.length)
  let d := { d with scratch := d.scratch ++ fieldScratch x sess (Config.videoBuffers rtype pay) }
  let frames := taken.zipIdx.filterMap (fun e => (pics[e.1]?).map (fun p =>
    let kept := keptPatches x e.2 p.w p.h (fieldInter rtype pay p e.1)
    (p.concealed, kept, kept.map (videoPatch rtype pay x e.1))))
  let done : Decoded :=
    let seen := if full then pics.take ((field x 8 2 - 1) * max 1 (field x 3 1) + 1) else pics
    let hid := (seen.filter (·.concealed)).length
    { d with data := d.data ++ [⟨k, videoSlot x (frames.map (fun e => (e.1, e.2.1, e.2.2.flatMap (convBytes (field x 0 1))))), []⟩],
             concealed := d.concealed + hid, counts := (frames.flatMap (·.2.2)).foldl (fun c l => c.add (convCounts l)) d.counts,
             tomb := if 0 < hid ∧ f.strict then some (5, k) else none }
  if full then done
  else match next with
    | some p => if oversize x p then { d with tomb := some (4, k) } else { d with tomb := some (4, k), overflow := 1 }
    | none => match v.stop with
      | .none => done
      | .limit => { d with tomb := some (4, k) }
      | .error => { d with tomb := some (3, k) }

/-- One field decoded (R376 to R382); after a tombstone nothing more is. -/
def decodeField (s : State) (f : Feed) (sess : Nat) (xs : List (List Byte)) (d : Decoded) (e : Nat × Nat × List Byte) : Rd Decoded :=
  let (k, rtype, pay) := e
  let v := f.fields.getD k {}
  let x := xs.getD k []
  if d.tomb.isSome then pure d
  else match v.kind with
    | 1 => pure (d.elems k (field x 0 1) (imageElems rtype pay x))
    | 2 => pure (d.elems k (field x 0 1) (audioElems rtype pay x))
    | 3 => do
      let (toks, fixed) ← nougat s (s.ctxAcc f.ctx) (s.tok f.tokSlot) v.flags pay
      pure { d with data := d.data ++ [⟨k, [], toks⟩], fixed := d.fixed || fixed }
    | 4 => pure { d with data := d.data ++ [⟨k, [], (List.range (pay.length / 4)).map (fun i => field pay (4 * i) 4)⟩] }
    | 5 => pure { d with data := d.data ++ [⟨k, pay, []⟩] }
    | _ => pure (d.video f sess k rtype pay x)

/-- R374 to R382: a sample read, parsed and decoded. -/
def decodeSample (s : State) (f : Feed) (a : Acc) (x : Sample) : Rd Decoded := do
  let bs ← load s a x.src x.len
  match if f.ustar then ustar f.fields (x.len / 512 + 2) bs (none, none) none [] else brioche f.fields (x.len / 16 + 2) bs [] with
  | .error (r, k) => pure { tomb := some (r, k) }
  | .ok l => do
    let xs ← readXforms s (s.ctxAcc f.ctx) f
    l.foldlM (decodeField s f x.sess xs) {}

/-- R384: the rolling mean. -/
def newMean (mean t : Nat) : Nat :=
  if mean = 0 then t else if mean ≤ t then mean + (t - mean) / 64 else mean - (mean - t) / 64

/-- A decoding sample becomes a tombstone. -/
def State.tombstone (s : State) (n idx reason fld detail : Nat) : State :=
  s.modSample n idx (fun y => { y with phase := .ready, tomb := some (reason, fld, detail) })

/-- A source read has failed: a tombstone, or under a replay log a fault of the context (R386, R388). -/
def State.sourceFailed (s : State) (n : Nat) (x : Sample) (st d : Nat) : State :=
  let f := s.feed n
  if st = stMemBounds then s.tombstone n x.idx 6 0xFF 0
  else if f.replayed x.idx then (s.faultCtx f.ctx .faulted st d).settle
  else s.tombstone n x.idx 0x11 0xFF st

/-- R384: the decode time at which a sample is hard-late, in ns. -/
def Feed.hardNs (f : Feed) : Nat := max (f.hardX * f.mean) (f.hardMin * 1000)

/-- SOFT_LATE (R384): the decode time reaches SOFT_X × mean; counted once. -/
def softLate (s : State) (n idx : Nat) : State :=
  let f := s.feed n
  match f.samples.find? (fun x => x.idx == idx) with
  | none => s
  | some x =>
    if x.phase ≠ .decoding ∨ x.soft ∨ f.mean = 0 then s
    else ((s.at (x.startMt + f.softX * f.mean)).modSample n idx (fun y => { y with soft := true })).feedSem f 24

/-- R384: a sample whose decoding ends at MTIME `mt` has become soft-late on the way. -/
def State.softBy (s : State) (n : Nat) (x : Sample) (mt : Nat) : State :=
  let f := s.feed n
  if x.startMt + f.softX * f.mean ≤ max s.mtime mt then softLate s n x.idx else s

/-- What decoding sample `idx` comes to at MTIME `mt`; one that is hard-late by then under SKIP has been aborted (R384, R385). -/
def State.sampleEnds (s : State) (n idx mt : Nat) : State :=
  let f := s.feed n
  match f.samples.find? (fun x => x.idx == idx) with
  | none => s
  | some x =>
    if !s.feedRuns n ∨ x.phase ≠ .decoding then s
    else if f.skip && !f.replayed idx && decide (x.startMt + f.hardNs ≤ max s.mtime mt) then
      ((s.softBy n x (x.startMt + f.hardNs)).at (x.startMt + f.hardNs)).tombstone n idx 0x10 0xFF 0
    else if isHost x.src ∧ !s.hostUp x.port then s
    else match x.tomb with
      | some (r, _, st) =>
        let s := (s.softBy n x mt).at mt
        if r = 6 then s.tombstone n idx 6 0xFF 0 else s.sourceFailed n x st x.src
      | none =>
        let a : Acc := { s.ctxAcc f.ctx with pkt := 2 ^ 61 + n * 2 ^ 32 + idx % 2 ^ 32 }
        match s.reading a (decodeSample s f a x) with
        | (.error .held, _) => s
        | (.error (.remote g m), _) => match s.askRead f.part a.pkt g m with
          | .ok t => t
          | .error (.fail st d) =>
            if st = stFabricUnreachable ∧ s.ctrl.resets.any (fun o => o.dom == 3) then s
            else ((s.softBy n x mt).at mt).sourceFailed n x st d
          | .error _ => s
        | (.error (.fail st d), t) => ((t.softBy n x mt).at mt).sourceFailed n x st d
        | (.ok r, t) =>
          let t := ((t.softBy n x mt).at mt).dropLanded a.pkt
          let t := if x.counted then t else
            let t : State := { t with media := { t.media with
              concealed := satTo (2 ^ 32 - 1) (t.media.concealed + r.concealed),
              strudelOvf := satTo (2 ^ 32 - 1) (t.media.strudelOvf + r.overflow) } }
            let c := t.ctx f.ctx
            (t.setCtx f.ctx { c with totals := c.totals.total r.counts }).modSample n idx (fun y => { y with counted := true })
          let t := r.scratch.foldl (fun t e => t.feedStore f e.1 e.2) t
          match r.tomb with
          | some (reason, k) => t.tombstone n idx reason k 0
          | none =>
            let t := t.modFeed n (fun f => { f with mean := newMean f.mean (t.mtime - x.startMt) })
            t.modSample n idx (fun y => { y with phase := .ready, data := r.data, fixed := r.fixed, concealed := 0 < r.concealed })

/-- SAMPLE_READY (R384, R386): at MTIME `mt` a sample has been decoded, or is a tombstone; it charges its overrun (R215, R219). -/
def sampleReady (s : State) (n idx mt : Nat) : State :=
  let t := s.sampleEnds n idx mt
  let decodes (s : State) : Option Sample := (s.feed n).samples.find? (fun x => x.idx == idx && x.phase == .decoding)
  match decodes s, decodes t with
  | some x, none => t.unitCharge (feedUnit (n % 2)) (s.feed n).ctx x.slice (t.feedWork (n % 2))
  | _, _ => t

def execSampleReady (f idx mt : Nat) (s : State) : Host.Outcome State Fault Refusal :=
  answer (.sampleReady f idx mt) (sampleReady s f idx mt)

def execSoftLate (f idx : Nat) (s : State) : Host.Outcome State Fault Refusal :=
  answer (.softLate f idx) (softLate s f idx)

/-- HARD_LATE (R384, R385, R388): under SKIP, and past the replay log, the sample becomes a tombstone. -/
def hardLate (s : State) (n idx : Nat) : State :=
  let f := s.feed n
  match f.samples.find? (fun x => x.idx == idx) with
  | none => s
  | some x =>
    if x.phase ≠ .decoding then s
    else
      let t := s.at (x.startMt + f.hardNs)
      if f.skip && !f.replayed idx then t.tombstone n idx 0x10 0xFF 0 else t

def execHardLate (f idx : Nat) (s : State) : Host.Outcome State Fault Refusal :=
  answer (.hardLate f idx) (hardLate s f idx)

end Sys2Proof.Machine
end

