-- ==== Sys2Proof/Machine/Video.lean ====
section
/-! DEFINITION. The video codec: explicit sessions, frame buffers, decoding, output rings, encoding and rate control
(R396 to R422). -/

namespace Sys2Proof.Machine

/-! ### Sessions and their frame buffers (R401 to R406) -/

/-- The open session of context `c`. -/
def State.sessionOf (s : State) (c : Nat) : Option (Nat × Session) :=
  s.sessions.find? (fun x => x.2.opened && x.2.ctx == c)

/-- Whether session `n`'s units run: its home hub serves and its context is ACTIVE (R401, R421). -/
def State.sessRuns (s : State) (n : Nat) : Bool :=
  (s.session n).opened && (s.ctx (s.session n).ctx).state == .active
    && !s.ctrl.resets.any (fun r => decide ((r.dom = 3 ∧ r.idx = n % 2) ∨ r.dom = 4))
    && (s.power.st == .active || s.power.st == .idle)

/-- Bytes per sample at a depth. -/
def depthBytes (depth : Nat) : Nat := if depth = 10 then 2 else 1

/-- R406. -/
def Session.pitch (x : Session) : Nat := upTo (x.maxW * depthBytes x.depth) 512
def Session.hc (x : Session) : Nat := upTo x.maxH 64
/-- R412: blocks of 16 × 16 across and down, and bytes from one statistics buffer to the next. -/
def Session.wb (x : Session) : Nat := cdiv x.maxW 16
def Session.hb (x : Session) : Nat := cdiv x.maxH 16
def Session.statBytes (x : Session) : Nat := upTo (32 + 16 * x.wb * x.hb) 4096

def Session.buf (x : Session) (i : Nat) : FrameBuf := Tbl.get {} x.bufs i
def Session.setBuf (x : Session) (i : Nat) (v : FrameBuf) : Session := { x with bufs := Tbl.set {} x.bufs i v }

/-- R405: a buffer is free when every mark is clear. -/
def FrameBuf.isFree (f : FrameBuf) : Bool := !f.short && !f.long && !f.out && !f.exp && !f.missing

/-- The free buffers of a session, lowest first. -/
def Session.freeBufs (x : Session) : List Nat := (List.range x.nfb).filter (fun i => (x.buf i).isFree)

/-- Every mark but EXP cleared (R407 RESET, R421). -/
def Session.clearMarks (x : Session) : Session :=
  { x with bufs := (x.bufs.map (fun e => (e.1, ({ exp := e.2.exp } : FrameBuf)))).filter (fun e => decide (e.2 ≠ {})) }

/-- The accesses of a session's command. -/
def State.sessAcc (s : State) (x : Session) (pkt : Nat) (host : Bool := false) : Acc :=
  let c := s.ctx x.ctx
  { part := c.part, lo := c.memBase, hi := c.memLimit, ctx := x.ctx, pkt, host }

/-! ### MEDIA_SESSION_OPEN (R401, R402, R404) -/

/-- Check 7 for MEDIA_SESSION_OPEN. -/
def sessionOpenCheck (s : State) (q : Nat) (b : List Byte) : Option (Nat × Nat) :=
  let part := s.part (s.partOf q)
  let enc := field b 2 1 == 1
  let depth := field b 4 1
  let pitch := upTo (field b 8 2 * depthBytes depth) 512
  let hc := upTo (field b 10 2) 64
  let page (o : Nat) : Bool × Option (Nat × Nat) := (decide (field b o 8 % 4096 = 0), badParam o)
  firstBad [(decide (part.sessFirst ≤ field b 0 2 ∧ field b 0 2 ≤ part.sessLast), badParam 0), (decide (field b 2 1 ≤ 1), badParam 2),
    (if enc then field b 3 1 == 0 else decide (field b 3 1 ≤ 2), badParam 3), (decide (depth = 8 ∨ depth = 10), badParam 4),
    (decide (1 ≤ field b 5 1 ∧ field b 5 1 ≤ 4), badParam 5), (decide (2 ≤ field b 6 2 ∧ field b 6 2 ≤ 64), badParam 6),
    (decide (16 ≤ field b 8 2 ∧ field b 8 2 ≤ 8192), badParam 8), (decide (16 ≤ field b 10 2 ∧ field b 10 2 ≤ 8192), badParam 10),
    (decide (field b 12 4 % 4096 = 0 ∧ pitch * hc * 3 / 2 ≤ field b 12 4), badParam 12), page 16, page 24,
    (decide (field b 32 4 % 4096 = 0), badParam 32), (decide (field b 36 2 ≤ 256), badParam 36), (zeroAt b 38 2, badParam 38), page 40,
    (if enc then field b 48 8 == 0 else decide (field b 48 8 % 4096 = 0), badParam 48),
    (decide (6 ≤ field b 56 1 ∧ field b 56 1 ≤ 12), badParam 56), (zeroAt b 57 7, badParam 57), page 64,
    (!enc || decide (1 ≤ field b 72 2 ∧ field b 72 2 ≤ 1024), badParam 72), (!enc || decide (field b 74 1 ≤ 51), badParam 74),
    (!enc || decide (field b 74 1 ≤ field b 75 1 ∧ field b 75 1 ≤ 51), badParam 75),
    (!enc || decide (field b 74 1 ≤ field b 76 1 ∧ field b 76 1 ≤ field b 75 1), badParam 76), (zeroAt b 77 3, badParam 77),
    (if enc then field b 88 8 == 0 else decide (field b 88 8 ≠ 0 ∧ field b 88 8 % 8 = 0), badParam 88), (zeroAt b 96 32, badParam 96)]

/-- The session that a parameter block opens; an encoder's history starts with the block. -/
def sessionOf (ctx : Nat) (b : List Byte) : Session :=
  let enc := field b 2 1 == 1
  { opened := true, ctx, encode := enc, codec := field b 3 1, depth := field b 4 1, strudel := field b 5 1, nfb := field b 6 2,
    maxW := field b 8 2, maxH := field b 10 2, fbBytes := field b 12 4, fbAddr := field b 16 8, strAddr := field b 24 8,
    strBytes := field b 32 4, statN := field b 36 2, statAddr := field b 40 8, outAddr := field b 48 8, outLog2 := field b 56 1,
    sem := field b 64 8, gop := field b 72 2, qpMin := field b 74 1, qpMax := field b 75 1, qpInit := field b 76 1,
    target := field b 80 4, cap := field b 84 4, consAddr := field b 88 8, hist := if enc then b.take 128 else [] }

/-- MEDIA_SESSION_OPEN: the buffers are reserved, and the count at OUT_CONS_ADDR is zeroed. -/
def sessionOpenRun (s : State) (q : Nat) (k : Packet) : State :=
  let b := k.params
  let n := field b 0 2
  let x := sessionOf k.ctx b
  if (s.ctx k.ctx).kind ≠ 2 ∨ (s.sessionOf k.ctx).isSome ∨ (s.session n).opened then s.finish k.id 0x5B none
  else if 4096 < s.poolUsed + x.nfb then s.finish k.id 0x5A none
  else if x.encode then (s.setSession n x).finish k.id stOk none
  else match s.store { s.accOf q k with host := true } x.consAddr (toLe 8 0) with
    | (_, some e) => s.onErr q k e
    | (t, none) => (t.setSession n x).finish k.id stOk none

def execMediaSessionOpen (p : Nat) (s : State) : Host.Outcome State Fault Refusal :=
  answer (.mediaSessionOpen p) (match s.started p 0x0601 with
    | some (q, k) => sessionOpenRun (s.turned q k) q k
    | none => s)

/-! ### Commands of a session, in order -/

/-- The started packet `p` of a media command and its session, waiting or not. -/
def State.mediaPkt (s : State) (p op : Nat) : Option (Nat × Packet) :=
  match s.pkt p with
  | some (q, k) => if k.phase = .started ∧ k.opcode = op then some (q, k) else none
  | none => none

/-- R216: another media command of the context that goes first, of higher PRIO or started earlier, is not yet in its session's order. -/
def State.mediaEarlier (s : State) (k : Packet) (x : Session) : Bool :=
  s.allPkts.any (fun r => (r.2.opcode == 0x0602 || r.2.opcode == 0x0603) && r.2.phase == .started && r.2.ctx == k.ctx
    && decide (k.prio < r.2.prio ∨ (r.2.prio = k.prio ∧ r.2.startSeq < k.startSeq)) && !x.queue.contains r.2.id)

/-- A media command ends and leaves its session's order. -/
def State.mediaEnd (s : State) (n p st : Nat) (d : Option Nat) : State :=
  let x := s.session n
  (s.setSession n { x with queue := x.queue.filter (· != p), running := if x.running = some p then none else x.running,
                           todo := if x.running = some p then [] else x.todo, failed := none, conceal := 0 }).finish p st d

/-- R209: the status with which a command of a context that is no longer ACTIVE ends. -/
def State.goneStatus (s : State) (c : Nat) : Option Nat :=
  match (s.ctx c).state with
  | .faulted => some stContextFaulted
  | .quarantined => some stQuarantined
  | _ => none

/-! ### Decoding (R407 to R411) -/

/-- R406: the rows of a picture of w × h luma samples in buffer `i`; a sample is 1 byte, or a 2-byte word whose upper bits are zero. -/
def Session.picture (x : Session) (i w h : Nat) (sample : Nat → Nat → Nat → Nat) : List (Nat × List Byte) :=
  let a := x.fbAddr + i * x.fbBytes
  let plane (n base pitch rows cols : Nat) : List (Nat × List Byte) := (List.range rows).map (fun r =>
    (base + r * pitch, (List.range cols).flatMap (fun c => toLe (depthBytes x.depth) (sample n r c))))
  plane 0 a x.pitch h w
    ++ plane 1 (a + x.pitch * x.hc) (x.pitch / 2) (cdiv h 2) (cdiv w 2)
    ++ plane 2 (a + x.pitch * x.hc * 5 / 4) (x.pitch / 2) (cdiv h 2) (cdiv w 2)

/-- The buffer that holds the m-th picture since RESET. -/
def Session.holding (x : Session) (m : Nat) : Option Nat :=
  (List.range x.nfb).find? (fun i => !(x.buf i).isFree && (x.buf i).pic == some m)

/-- R405, R411: a picture and the substitutes it needs take buffers, each substitute with the mark of the reference that it stands for;
nothing, where too few are free. -/
def Session.takeBufs (x : Session) (f : FrameBuf) (miss : List Bool) : Option (Session × List Nat) :=
  let n := miss.length
  let ids := x.freeBufs.take (n + 1)
  if ids.length < n + 1 then none
  else
    let y := (ids.zip miss).zipIdx.foldl (fun (y : Session) e =>
      y.setBuf e.1.1 { short := !e.1.2, long := e.1.2, missing := true, pic := some (x.pics + e.2), w := f.w, h := f.h, depth := f.depth }) x
    let y := (ids.drop n).foldl (fun (y : Session) i => y.setBuf i { f with pic := some (x.pics + n) }) y
    some ({ y with pics := x.pics + n + 1 }, ids)

/-- R411: a picture is concealed that predicts from one that is missing or concealed. -/
def Session.conceals (x : Session) (parents : List Nat) : Bool :=
  parents.any (fun m => match x.holding m with
    | some i => (x.buf i).missing || (x.buf i).conceal
    | none => false)

/-- R412: the luma of a picture over the session's blocks, on the 8-bit scale. -/
def Session.lumaOf (x : Session) (depth : Nat) (sample : Nat → Nat → Nat) : List (List Nat) :=
  (List.range (16 * x.hb)).map (fun r => (List.range (16 * x.wb)).map (fun c => sample r c / 2 ^ (depth - 8)))

/-- A stored luma plane. -/
def lumaAt (l : List (List Nat)) : Luma := fun y x => (l.getD y []).getD x 0

/-- The module's counter of concealed pictures, and of Strudel overflows (R422). -/
def State.countConcealed (s : State) : State :=
  { s with media := { s.media with concealed := satTo (2 ^ 32 - 1) (s.media.concealed + 1) } }
def State.countOverflow (s : State) : State :=
  { s with media := { s.media with strudelOvf := satTo (2 ^ 32 - 1) (s.media.strudelOvf + 1) } }

/-- The running command stops decoding with a status; what waits for output is still output. -/
def Session.stop (x : Session) (st : Nat) (d : Option Nat) : Session := { x with todo := [], failed := some (st, d) }

/-- R397, R402: a picture of this size is outside the subset, or too large or too deep for the session. -/
def Session.refuses (x : Session) (fullW fullH : Nat) (f : FrameBuf) : Bool :=
  decide (8192 < fullW ∨ 8192 < fullH ∨ 35651584 < fullW * fullH ∨ x.maxW < f.w + f.cx ∨ x.maxH < f.h + f.cy ∨ x.depth < f.depth)

/-- R399: the slot that a picture's syntax elements go to, the session's slots being used in turn. -/
def Session.slotWrite (x : Session) (m need : Nat) : List (Nat × List Byte) :=
  let bs := Config.parsedBytes x.codec x.hist m
  [(x.strAddr + x.slot % max 1 x.strudel * x.strBytes, (bs ++ List.replicate need 0#8).take need)]

/-- A reconstructed sample of picture `m`: of a monochrome one, both chroma planes are at the mid value (R397). -/
def Session.sample (x : Session) (m depth : Nat) (mono : Bool) (plane row col : Nat) : Nat :=
  if mono ∧ plane ≠ 0 then 2 ^ (depth - 1) else Config.sample x.codec x.hist m plane row col % 2 ^ depth

/-- One picture of coded size fullW × fullH decoded, if it fits the session and buffers are free: `need` bytes go through a Strudel slot,
then its samples and those of its substitutes, every one at 2^(depth − 1) (R411), into their buffers. -/
def State.pictureIn (s : State) (n p fullW fullH : Nat) (mono : Bool) (parents : List Nat) (f : FrameBuf) (miss : List Bool) (need : Nat) :
    Option State :=
  let x := s.session n
  if x.refuses fullW fullH f then some (s.setSession n (x.stop 0x58 none))
  else if x.strBytes < need then some (s.countOverflow.setSession n (x.stop 0x5C none))
  else match x.takeBufs { f with inter := !parents.isEmpty } miss with
    | none => none
    | some (y, ids) =>
      let a := s.sessAcc x p
      let m := x.pics + miss.length
      let conceal := y.conceals parents
      let lastId := ids.getLastD 0
      let stats : FrameBuf → FrameBuf := fun b => if x.statN = 0 then b else
        { b with luma := x.lumaOf f.depth (x.sample m f.depth mono 0),
                 blocks := (List.range (x.wb * x.hb)).map (Config.block x.codec x.hist m) }
      let y := y.setBuf lastId (stats { y.buf lastId with conceal })
      let subs := (ids.take miss.length).flatMap (fun i => x.picture i fullW fullH (fun _ _ _ => 2 ^ (f.depth - 1)))
      let pic := x.picture lastId fullW fullH (x.sample m f.depth mono)
      let t := if conceal then s.countConcealed else s
      match t.storeAll a (x.slotWrite m need ++ subs ++ pic) with
      | (t, none) => some (t.setSession n { y with slot := x.slot + 1 })
      | (t, some (.fail st d)) => some (t.setSession n (x.stop st (some d)))
      | (_, some _) => none

/-- R407, R408: with END, every picture that still waits for output comes out, in the codec's order. -/
def Session.outputRest (x : Session) : Session :=
  let rest := (List.range x.nfb).filter (fun i => (x.buf i).out && !x.outQ.contains i)
  let key (i : Nat) : Nat := Config.outputKey x.codec x.hist ((x.buf i).pic.getD 0)
  { x with outQ := x.outQ ++ sortBy (fun i j => decide (key i ≤ key j)) rest }

/-- R396 to R411: the events of the running command in order, until one must wait for a free buffer. -/
def State.play (s : State) (n p : Nat) : List Config.PicEvent → State
  | [] =>
    let x := s.session n
    s.setSession n { (if x.ends then x.outputRest else x) with todo := [] }
  | e :: r =>
    let x := s.session n
    match e with
    | .decoded fullW fullH w h cx cy depth mono parents ref miss shown coded parsedLen =>
      let f : FrameBuf := { short := ref == 1, long := decide (2 ≤ ref), out := shown, w, h, cx, cy, depth }
      match s.pictureIn n p fullW fullH mono parents f miss (slotNeed fullW fullH coded parsedLen) with
      | none => s.setSession n { x with todo := e :: r }
      | some t => if (t.session n).failed.isSome && x.failed.isNone then t else State.play t n p r
    | .unref m => match x.holding m with
      | some i => State.play (s.setSession n (x.setBuf i { x.buf i with short := false, long := false, missing := false })) n p r
      | none => State.play s n p r
    | .output m => match x.holding m with
      | some i =>
        if (x.buf i).missing then State.play s n p r
        else State.play (s.setSession n { x.setBuf i { x.buf i with out := true } with outQ := x.outQ ++ [i] }) n p r
      | none => State.play s n p r
    | .unsupported => s.setSession n (x.stop 0x58 none)
    | .error => State.play (s.setSession n { x with failed := some (x.failed.getD (0x59, none)) }) n p r

/-- R411: the running command ends once everything is decoded and output. -/
def State.decodeDone (s : State) (n : Nat) : State :=
  let x := s.session n
  match x.running with
  | none => s
  | some p =>
    if x.encode || !x.todo.isEmpty || !x.outQ.isEmpty then s
    else match x.failed with
      | some (st, d) => s.mediaEnd n p st d
      | none => if x.conceal = 0 then s.mediaEnd n p stOk none else s.mediaEnd n p 0x51 (some x.conceal)

/-- The running command goes on as far as it can. -/
def State.decodeOn (s : State) (n : Nat) : State :=
  match (s.session n).running with
  | some p => if s.sessRuns n then (s.play n p (s.session n).todo).decodeDone n else s
  | none => s

/-- R219, R401: the codec engine of session `n` has a row to run for a started command, which waits for neither a buffer nor ring
space. -/
def State.sessReady (s : State) (n : Nat) (x : Session) : Bool :=
  s.sessRuns n && s.allPkts.any (fun r => (r.2.opcode == 0x0602 || r.2.opcode == 0x0603) && r.2.phase == .started && r.2.ctx == x.ctx
    && (x.encode || !x.queue.contains r.2.id || (x.running.isNone && x.queue.head? == some r.2.id)
      || (x.running == some r.2.id && decide ((s.decodeOn n).session n ≠ x))))

/-- The work of a codec engine: its rows are done as they begin. -/
def State.codecWork (s : State) (u : Nat) : UnitWork :=
  { ready := ((s.sessions.filter (fun x => codecUnit x.1 == u && s.sessReady x.1 x.2)).map (·.2.ctx)).eraseDups, runs := [], classes := true }

/-- R212, R219: whether session `n` holds the slice of its codec engine. -/
def State.codecTurn (s : State) (n : Nat) : Bool × State :=
  let r := s.unitTakes (codecUnit n) (s.codecWork (codecUnit n)) (s.session n).ctx
  (r.1, r.2.2)

/-- The running command goes on, if it is its session's turn. -/
def State.decodeTurn (s : State) (n : Nat) : State :=
  match s.codecTurn n with
  | (true, t) => t.decodeOn n
  | (false, t) => t.decodeDone n

/-- R408: the release entries in use. -/
def releases (b : List Byte) : List Nat := (List.range (field b 14 1)).map (fun i => field b (16 + 2 * i) 2)

/-- R408: the first release entry that names no buffer carrying EXP. -/
def badRelease (x : Session) (b : List Byte) : Option (Nat × Nat) :=
  match (releases b).findIdx? (fun i => decide (x.nfb ≤ i) || !(x.buf i).exp) with
  | some j => badParam (16 + 2 * j)
  | none => none

/-- Check 7 for MEDIA_DECODE. -/
def mediaDecodeCheck (s : State) (c : Nat) (b : List Byte) : Option (Nat × Nat) :=
  firstBad [(decide (field b 13 1 < 8), badParam 13), (decide (field b 14 1 ≤ 8), badParam 14), (zeroAt b 15 1, badParam 15),
    (match s.sessionOf c with
      | some (_, x) => x.encode || (badRelease x b).isNone
      | none => true, match s.sessionOf c with
      | some (_, x) => badRelease x b
      | none => none),
    (zeroAt b 32 32, badParam 32)]

/-- The command's releases are applied, and it joins its session's order: after the one under way and those of its PRIO or a higher one
(R216). -/
def State.acceptDecode (s : State) (n : Nat) (k : Packet) : State :=
  let x := s.session n
  let y := (releases k.params).foldl (fun (y : Session) i => y.setBuf i { y.buf i with exp := false }) x
  let first (p : Nat) : Bool := y.running == some p || (s.pkt p).any (fun r => decide (k.prio ≤ r.2.prio))
  (s.setSession n { y with queue := y.queue.takeWhile first ++ [k.id] ++ y.queue.dropWhile first }).decodeTurn n

/-- The stream of the first command in order is taken, and decoding begins (R407, R408). -/
def State.beginDecode (s : State) (q n : Nat) (k : Packet) : State :=
  let b := k.params
  let x := s.session n
  let src := field b 0 8
  let len := field b 8 5
  let fl := field b 13 1
  if isHost src ∧ len ≠ 0 ∧ !s.hostUp (fld fl 2 1) then s
  else
    let x := if fl.testBit 1 then { x.clearMarks with hist := [], pics := 0, outQ := [] } else x
    let a := s.sessAcc x k.id true
    match s.reading a (load s a src len) with
    | (.error (.fail st d), t) => t.mediaEnd n k.id st (some d)
    | (.error e, t) => t.onErr q k e
    | (.ok bs, t) =>
      let todo := if len = 0 then [] else Config.decodeStream x.codec x.depth x.hist bs (fl.testBit 0)
      ((t.setSession n { x with running := some k.id, hist := x.hist ++ bs, todo, ends := fl.testBit 0, failed := none, conceal := 0 }).dropLanded
        k.id).decodeOn n

/-- Commands that have ended in another way leave their session's order. -/
def State.mediaTidy (s : State) (ctx : Nat) : State :=
  match s.sessionOf ctx with
  | none => s
  | some (n, x) =>
    let live (p : Nat) : Bool := (s.pkt p).any (fun r => r.2.phase == .started)
    let y : Session := { x with queue := x.queue.filter live, running := x.running.filter live }
    s.setSession n (if y.running = x.running then y else { y with todo := [], failed := none })

/-- A started MEDIA_DECODE goes on. -/
def mediaDecodeStep (s : State) (q : Nat) (k : Packet) : State :=
  match s.sessionOf k.ctx with
  | none => s.finish k.id (if (s.goneStatus k.ctx).isSome then (s.goneStatus k.ctx).getD 0 else 0x5B) none
  | some (n, x) =>
    match s.goneStatus k.ctx with
    | some st => s.mediaEnd n k.id st none
    | none =>
      if x.encode then s.finish k.id 0x5B none
      else if !s.sessRuns n then s
      else if x.queue.contains k.id then
        match s.codecTurn n with
        | (false, t) => t.decodeDone n
        | (true, s) =>
          if x.running = some k.id then s.decodeOn n
          else if x.running.isNone ∧ x.queue.head? = some k.id then s.beginDecode q n k else s
      else if s.mediaEarlier k x then s
      else match badRelease x k.params with
        | some (st, d) => s.finish k.id st (some d)
        | none =>
          let t := s.acceptDecode n k
          let y := t.session n
          if y.running.isNone ∧ y.queue.head? = some k.id then
            match t.codecTurn n with
            | (true, t) => t.beginDecode q n k
            | (false, t) => t
          else t

/-- MEDIA_DECODE. -/
def mediaDecodeRun (s : State) (q : Nat) (k : Packet) : State := mediaDecodeStep (s.mediaTidy k.ctx) q k

def execMediaDecode (p : Nat) (s : State) : Host.Outcome State Fault Refusal :=
  answer (.mediaDecode p) (match s.mediaPkt p 0x0602 with
    | some (q, k) => mediaDecodeRun s q k
    | none => s)

/-! ### Output (R409, R410, R412) -/

/-- R412: a statistics buffer: header and records, from a picture's luma, that of the picture before it, and its blocks. -/
def Session.statBlock (x : Session) (order : Nat) (inter conceal : Bool) (luma : List (List Nat)) (blocks : List Config.Block) : List Byte :=
  let at_ (i : Nat) : Nat × Nat := (i % x.wb, i / x.wb)
  let recs := (List.range (x.wb * x.hb)).map (fun i =>
    let (bx, by_) := at_ i
    (blockIntra (lumaAt luma) bx by_, blockInter (lumaAt luma) (x.lastLuma.map lumaAt) bx by_, blocks.getD i default))
  toLe 8 order ++ toLe 2 x.wb ++ toLe 2 x.hb ++ toLe 1 (if inter then 1 else 0) ++ toLe 3 0
    ++ toLe 8 ((recs.map (·.1)).sum) ++ toLe 8 ((recs.map (·.2.1)).sum)
    ++ recs.flatMap (fun e => blockRec e.2.2 conceal e.1 e.2.1)

/-- R409: the record of an output picture. -/
def Session.outRec (x : Session) (i : Nat) : List Byte :=
  let f := x.buf i
  let ph := if x.records / 2 ^ x.outLog2 % 2 = 0 then 0x80 else 0
  toLe 2 i ++ toLe 1 (if f.conceal then 1 else 0) ++ toLe 1 ph ++ toLe 2 f.w ++ toLe 2 f.h ++ toLe 2 f.cx ++ toLe 2 f.cy
    ++ toLe 4 x.pitch ++ toLe 8 x.records ++ toLe 2 (if x.statN = 0 then 0xFFFF else x.records % x.statN) ++ toLe 1 f.depth ++ toLe 5 0

/-- The record of the first picture in output order is written, its statistics before it. -/
def State.writeOutput (s : State) (n i : Nat) : State :=
  let x := s.session n
  let f := x.buf i
  let p := x.running.getD 0
  let stats := if x.statN = 0 then []
    else [(x.statAddr + x.records % x.statN * x.statBytes,
           x.statBlock x.records f.inter f.conceal f.luma f.blocks)]
  match s.storeAll (s.sessAcc x p) stats with
  | (t, some (.fail st d)) => (t.setSession n { x.stop st (some d) with outQ := [] }).decodeDone n
  | (_, some _) => s
  | (t, none) =>
    let a := s.sessAcc x p true
    match t.storeAll a [(x.outAddr + 32 * (x.records % 2 ^ x.outLog2), x.outRec i)] with
    | (t, some (.fail st d)) => (t.setSession n { x.stop st (some d) with outQ := [] }).decodeDone n
    | (_, some _) => s
    | (t, none) =>
      let y := x.setBuf i { f with out := false, exp := true, shown := true }
      let y : Session := { y with outQ := x.outQ.drop 1, records := x.records + 1,
                                  lastLuma := if x.statN = 0 then none else some f.luma, conceal := x.conceal + (if f.conceal && !f.shown then 1 else 0) }
      ((t.signalQuiet a x.sem).setSession n y).decodeTurn n

/-- OUTPUT_RECORD: the ring has room, or the count at OUT_CONS_ADDR has been spoilt and the record is written or waits
(R410). -/
def outputRecord (s : State) (n : Nat) : State :=
  let x := s.session n
  match x.outQ.head? with
  | none => s
  | some i =>
    if !s.sessRuns n then s
    else if x.consBad then (if s.choice 2 = 0 then s.drew.writeOutput n i else s.drew)
    else if x.records < x.cons + 2 ^ x.outLog2 then s.writeOutput n i else s

def execOutputRecord (sess : Nat) (s : State) : Host.Outcome State Fault Refusal :=
  answer (.outputRecord sess) (outputRecord s sess)

/-- OUT_CONS_REREAD (R410). -/
def outConsReread (s : State) (n : Nat) : State :=
  let x := s.session n
  if x.encode || !s.sessRuns n then s
  else
    let a := s.sessAcc x (x.running.getD 0) true
    match s.reading a (loadNat s a x.consAddr 8) with
    | (.ok v, t) =>
      let bad := x.consBad || decide (v < x.cons ∨ x.records < v)
      (t.dropLanded a.pkt).setSession n { x with cons := v, consBad := bad }
    | (.error (.remote g m), t) => match t.askRead a.part a.pkt g m with
      | .ok t => t
      | .error (.fail st d) => (t.setSession n { x.stop st (some d) with outQ := [] }).decodeDone n
      | .error _ => t
    | (.error (.fail st d), t) => (t.setSession n { x.stop st (some d) with outQ := [] }).decodeDone n
    | (.error .held, _) => s

def execOutConsReread (sess : Nat) (s : State) : Host.Outcome State Fault Refusal :=
  answer (.outConsReread sess) (outConsReread s sess)

/-! ### Encoding (R417 to R420) -/

/-- R419: the bound on `r` skipped rows of `n` CTUs, with flush and alignment. -/
def rsv (n r : Nat) : Nat := 24 * n * r + 32

/-- R420: the change of QP after a row of `c` bits with budget `b`. -/
def qpDelta (c b : Nat) : Int :=
  if 5 * b < 4 * c then 2
  else if b < c then 1
  else if 2 * c < b then -2
  else if 5 * c < 4 * b then -1
  else 0

/-- R420: a later row's QP. -/
def nextQp (qmin qmax q c b : Nat) : Nat := (max (qmin : Int) (min (qmax : Int) ((q : Int) + qpDelta c b))).toNat

/-- What a source of row sizes tells: bits of the next row at a QP after the accepted rows, and the weight of row `j`. -/
structure RowCost where
  bits   : List Nat → Nat → Nat
  weight : Nat → Nat

/-- R419: the rows from `rows − left` on: accepted QPs and bits, oldest first, until a row is skipped. -/
def codeRows (cost : RowCost) (n rows qmin qmax : Nat) : Nat → Int → Int → Nat → List (Nat × Nat) → List (Nat × Nat)
  | 0, _, _, _, acc => acc
  | r + 1, left, tl, q, acc =>
    if left < rsv n (r + 1) then acc
    else
      let j := rows - (r + 1)
      let allow := left - rsv n r
      let total := ((List.range (r + 1)).map (fun i => cost.weight (j + i))).sum
      let b := (max 0 tl).toNat * cost.weight j / total
      let qps := acc.map Prod.fst
      let c0 := cost.bits qps q
      let q1 := if allow < c0 then min (q + 6) 51 else q
      let c := if allow < c0 then cost.bits qps q1 else c0
      if allow < c then acc
      else codeRows cost n rows qmin qmax r (left - c) (tl - c) (nextQp qmin qmax q1 c b) (acc ++ [(q1, c)])

/-- Check 7 for MEDIA_ENCODE: what the block alone tells. -/
def mediaEncodeCheck (s : State) (c : Nat) (b : List Byte) : Option (Nat × Nat) :=
  let cap := if field b 24 4 = 0 then ((s.sessionOf c).map (fun x => x.2.cap)).getD 0 else field b 24 4
  firstBad [(decide (field b 8 4 % 512 = 0), badParam 8), (decide (field b 18 1 = 8 ∨ field b 18 1 = 10), badParam 18),
    (decide (field b 19 1 < 8), badParam 19), (decide (cdiv cap 8 + 1024 ≤ field b 28 4), badParam 28),
    (decide (field b 40 8 % 8 = 0), badParam 40), (zeroAt b 48 80, badParam 48)]

/-- The source picture's samples, plane by plane (R406, R418). -/
def loadSource (s : State) (a : Acc) (b : List Byte) : Rd (List Byte) := do
  let g := field b 0 8
  let pitch := field b 8 4
  let w := field b 12 2
  let h := field b 14 2
  let hc := field b 16 2
  let px := depthBytes (field b 18 1)
  let plane (base step rows bytes : Nat) : Rd (List Byte) := do
    let l ← (List.range rows).mapM (fun r => load s a (base + r * step) bytes)
    pure l.flatten
  let y ← plane g pitch h (w * px)
  let u ← plane (g + pitch * hc) (pitch / 2) (cdiv h 2) (cdiv w 2 * px)
  let v ← plane (g + pitch * hc * 5 / 4) (pitch / 2) (cdiv h 2) (cdiv w 2 * px)
  pure (y ++ u ++ v)

/-- R412, R418: the luma of a source picture `src`, planes one after another, on the 8-bit scale, over the session's blocks: resized where
its size is not the session's; beyond its edge it is not specified. -/
def Session.sourceLuma (x : Session) (hist b src : List Byte) : List (List Nat) :=
  let w := field b 12 2
  let h := field b 14 2
  let px := depthBytes (field b 18 1)
  let raw (r c : Nat) : Nat := field src ((r * w + c) * px) px / 2 ^ (field b 18 1 - 8) % 256
  let rows := (List.range h).map (fun r => (List.range w).map (fun c => ((raw r c : Nat) : Rat)))
  let mode := if (field b 19 1).testBit 2 then 2 else 1
  let at_ (r c : Nat) : Nat :=
    if x.maxH ≤ r ∨ x.maxW ≤ c then Config.edgeLuma hist r c % 256
    else if w = x.maxW ∧ h = x.maxH then raw r c
    else min 255 (natFloor (ratio (Config.resized mode rows x.maxW x.maxH r c)))
  x.lumaOf 8 at_

/-- R419: w[j], for CTU row `j`: the sum over its blocks of INTRA + 1, or in a P picture of min(INTRA, SAD) + 1. -/
def Session.rowWeight (x : Session) (idr : Bool) (luma : List (List Nat)) (blocks : List Config.Block) (j : Nat) : Nat :=
  (((List.range (x.wb * x.hb)).filter (fun i => i / x.wb / 4 == j)).map (fun i =>
    let v := blockIntra (lumaAt luma) (i % x.wb) (i / x.wb)
    (if idr then v else min v (satTo 0xFFFF (blocks.getD i default).sad)) + 1)).sum

/-- R417, R412: a block as the encoder codes it: intra in an IDR; else from the previous picture, within ±128 luma samples. -/
def codedBlock (hist : List Byte) (idr : Bool) (i : Nat) : Config.Block :=
  let v := Config.codedBlock hist i
  let mv (n : Nat) : Nat := wrap 16 (((n % 1025 : Nat) : Int) - 512)
  { v with mvx := mv v.mvx, mvy := mv v.mvy, ref := 0, intra := idr || v.intra, hidden := false }

/-- One picture coded: what is written, the session afterwards, and the status. -/
def Session.encode1 (x : Session) (b src : List Byte) : List (Nat × List Byte) × Session × Nat :=
  let fl := field b 19 1
  let idr := x.needIdr || fl.testBit 0 || decide (x.gop ≤ x.sinceIdr)
  let target := if field b 20 4 = 0 then x.target else field b 20 4
  let cap := if field b 24 4 = 0 then x.cap else field b 24 4
  let hist := x.hist ++ toLe 1 (if idr then 1 else 0) ++ (b.drop 12).take 8 ++ src
  let n := cdiv x.maxW 64
  let rows := cdiv x.maxH 64
  let header := Config.headerBits hist
  let q0 := ((if idr then x.lastIdr else x.lastP).getD x.qpInit)
  let luma := x.sourceLuma hist b src
  let blocks := (List.range (x.wb * x.hb)).map (codedBlock hist idr)
  let cost : RowCost := { bits := Config.rowBits hist, weight := x.rowWeight idr luma blocks }
  let done := codeRows cost n rows x.qpMin x.qpMax rows ((cap : Int) - header) ((target : Int) - header) q0 []
  let qps := done.map Prod.fst
  let skipped := rows - done.length
  let bits := header + (done.map Prod.snd).sum + min (rsv n skipped) (Config.skipBits hist skipped)
  let avg := if qps.isEmpty then Config.emptyQp hist % 256 else qps.sum / qps.length
  let size := cdiv bits 8
  let slice := (Config.sliceBytes hist qps ++ List.replicate size 0#8).take size
  let out := ((if idr then Config.paramSets hist else []) ++ slice ++ (if fl.testBit 1 then Config.endOfSeq else [])).take (field b 28 4)
  let result := toLe 4 out.length ++ toLe 4 bits ++ toLe 1 avg ++ toLe 1 ((if idr then 1 else 0) + (if skipped = 0 then 0 else 2))
    ++ toLe 2 skipped ++ toLe 4 x.coded ++ toLe 16 0
  let stats := if x.statN = 0 then []
    else [(x.statAddr + x.coded % x.statN * x.statBytes, x.statBlock x.coded (!idr) false luma blocks)]
  let y : Session := { x with
    hist := hist ++ qps.map (BitVec.ofNat 8), coded := x.coded + 1, needIdr := false,
    sinceIdr := if idr then 1 else x.sinceIdr + 1, lastLuma := if x.statN = 0 then none else some luma,
    lastIdr := if idr then qps.getLast?.or x.lastIdr else x.lastIdr, lastP := if idr then x.lastP else qps.getLast?.or x.lastP }
  ([(field b 32 8, out)] ++ stats ++ [(field b 40 8, result)], y, if skipped = 0 then stOk else 0x52)

/-- MEDIA_ENCODE of the first command in order (R418). -/
def State.encodeNow (s : State) (q n : Nat) (k : Packet) : State :=
  let x := s.session n
  let a := s.sessAcc x k.id
  match s.reading a (loadSource s a k.params) with
  | (.error (.fail st d), t) => t.mediaEnd n k.id st (some d)
  | (.error e, t) => t.onErr q k e
  | (.ok src, t) =>
    let (l, y, st) := x.encode1 k.params src
    match t.storeAll a l with
    | (t, some (.fail st d)) => t.mediaEnd n k.id st (some d)
    | (_, some _) => s
    | (t, none) =>
      let t := if st = 0x52 then { t with media := { t.media with exhausted := satTo (2 ^ 32 - 1) (t.media.exhausted + 1) } } else t
      ((t.setSession n y).signalQuiet { a with host := true } x.sem).mediaEnd n k.id st none

/-- MEDIA_ENCODE. -/
def mediaEncodeRun (s : State) (q : Nat) (k : Packet) : State :=
  match s.sessionOf k.ctx with
  | none => s.finish k.id (if (s.goneStatus k.ctx).isSome then (s.goneStatus k.ctx).getD 0 else 0x5B) none
  | some (n, x) =>
    match s.goneStatus k.ctx with
    | some st => s.mediaEnd n k.id st none
    | none =>
      if !x.encode then s.finish k.id 0x5B none
      else if !s.sessRuns n || s.mediaEarlier k x then s
      else match s.codecTurn n with
        | (true, s) => s.encodeNow q n k
        | (false, s) => s

def execMediaEncode (p : Nat) (s : State) : Host.Outcome State Fault Refusal :=
  answer (.mediaEncode p) (match s.mediaPkt p 0x0603 with
    | some (q, k) => mediaEncodeRun s q k
    | none => s)

/-! ### Hub resets (R421) -/

/-- The command that a session is executing: the one whose stream has been taken, else the first in order, else, of an
encoder, the one that started first. -/
def State.mediaRunning (s : State) (n : Nat) : Option Nat :=
  let x := s.session n
  let first := (s.allPkts.filter (fun r => r.2.opcode == 0x0603 && r.2.phase == .started && r.2.ctx == x.ctx)).foldl
    (fun (b : Option Packet) r => match b with
      | some k => if k.prio < r.2.prio ∨ (r.2.prio = k.prio ∧ r.2.startSeq < k.startSeq) then some r.2 else b
      | none => some r.2) none
  (x.running.or x.queue.head?).or (if x.encode then first.map (·.id) else none)

/-- R421: a session whose home hub is reset: its running command ends with ENGINE_RESET. -/
def State.sessionReset (s : State) (n : Nat) : State :=
  let x := s.session n
  let y : Session := { x.clearMarks with outQ := [], todo := [], hist := if x.encode then x.hist else [], pics := 0, needIdr := true }
  let t := s.setSession n y
  match s.mediaRunning n with
  | some p => t.mediaEnd n p stEngineReset none
  | none => t

end Sys2Proof.Machine
end

