-- ==== Sys2Proof/Machine/Completion.lean ====
section
/-! DEFINITION. How a packet ends: the SIGNAL add, the completion record, and what follows the record (R50 to R55, R60). -/

namespace Sys2Proof.Machine

/-- Whether the ring can take a record now (R41, R54): a ring of n records is full when it holds n − 1, as an event ring is under R491
(notes/assumptions/129). -/
def CplRing.room (r : CplRing) : Bool := r.enable && decide ((r.tail + 1) % 2 ^ r.log2 ≠ r.head % 2 ^ r.log2)

/-- R56: a packet that fails a check has no effect but its record. -/
def isCheck (status : Nat) : Bool :=
  decide (status = stBadOpcode ∨ status = stBadParam ∨ status = stUnitAbsent ∨ status = stContextExists)

/-- R55: OK of a packet that has counted elements is OK_COUNTED. -/
def Packet.endStatus (k : Packet) : Nat := if k.status = stOk then okStatus k.counts else k.status

/-- R52: the 32 bytes of the completion record. -/
def completionRecord (q : Nat) (k : Packet) (phase : Bool) (mtime : Nat) : List Byte :=
  let sat (v : Nat) : Nat := satTo 0xFFFF v
  let flags := (if phase then 1 else 0) + (if k.detail.isSome then 2 else 0) + (if k.flags.testBit 2 then 4 else 0)
  toLe 4 k.tag ++ toLe 1 k.endStatus ++ toLe 1 flags ++ toLe 2 q ++ toLe 2 (sat k.counts.sat) ++ toLe 2 (sat k.counts.flush)
    ++ toLe 2 (sat k.counts.promote) ++ toLe 2 (sat k.counts.nans) ++ toLe 8 mtime ++ toLe 8 (k.detail.getD 0)

/-- A record put into completion ring `c` (R53), and its interrupt (R474). The ring belongs to the partition of queue `c`. -/
def State.putRecord (s : State) (c : Nat) (irq : Bool) (rec : List Byte) : State :=
  let r := s.ring c
  let n := 2 ^ r.log2
  let t := s.poke (s.partOf c) (r.base + 32 * r.tail) rec
  let t := t.setRing c { r with tail := (r.tail + 1) % n, phase := if r.tail + 1 = n then !r.phase else r.phase }
  if irq then t.irq r.owner r.msix else t

/-- R239, R246: a backward list of the open step has completed. One that never started has no time to take into the average. -/
def State.backwardDone (s : State) (k : Packet) : State :=
  let c := k.ctx
  let x := s.ctx c
  if x.stepState ≠ .drain ∨ k.run.role ≠ .backward ∨ k.run.step ≠ x.step ∨ k.run.aborted then s
  else
    let us := (s.mtime - k.startMt) / 1000 * x.lpmb
    let t := match s.act c with
      | some a => if k.startSeq = 0 then s else s.setAct c { a with tbwd := average a.tbwd us } 28 4 (average a.tbwd us)
      | none => s
    let t := t.setCtx c { t.ctx c with bwdDone := x.bwdDone + 1 }
    if x.bwdDone + 1 = x.nmb * x.lpmb then t.enterExchange c else t

/-- R60: a queue halts; packets fetched and not started are pending still. -/
def State.haltQueue (s : State) (q : Nat) : State := s.setQueue q { s.queue q with halted := true }

/-- R61: HALTED clears when the ring has been gone through and every CANCELLED record has been written. -/
def State.endFlush (s : State) (q : Nat) : State :=
  let u := s.queue q
  if u.flushed && !u.pkts.any (fun k => k.phase == .finished && k.status == stCancelled) then
    s.setQueue q { u with halted := false, flushing := false, flushed := false }
  else s

/-- The record of a finished packet is written: its counts join its context's totals (R92), CREATED_MTIME is kept (R207), a numerics
policy takes effect (R95), its client's COMPLETED grows (R227), and its queue halts where R60 says so. -/
def State.record (s : State) (q : Nat) (k : Packet) : State :=
  let c := (s.queue q).ring
  let x := s.ctx k.ctx
  let t := if x.state = .free ∨ k.counts.none then s else s.setCtx k.ctx { x with totals := x.totals.total k.counts }
  let t := if k.opcode = 0x0701 ∧ k.status = stOk then t.setCtx k.ctx { t.ctx k.ctx with created := t.mtime } else t
  let t := if k.opcode = 0x0802 ∧ k.status = stOk then t.setCtx k.ctx { t.ctx k.ctx with policy := field k.params 0 1 } else t
  let t := t.putRecord c (k.flags.testBit 2) (completionRecord q k (t.ring c).phase (k.visible.getD t.mtime))
  let t := match k.client with
    | some v => t.setClient v ((t.client v).1, ((t.client v).2 + 1) % 2 ^ 64)
    | none => t
  let t := t.setRing c { t.ring c with waiting := (t.ring c).waiting.filter (· != k.id) }
  let t := (t.setQueue q { t.queue q with pkts := (t.queue q).pkts.filter (fun p => p.id != k.id) }).endFlush q
  let t := if k.flags.testBit 4 && !harmless k.endStatus && k.status != stCancelled then t.haltQueue q else t
  let t := if k.run.wrote.isEmpty then t else { t with queues := t.queues.map (fun e => (e.1, { e.2 with pkts := e.2.pkts.map (fun p =>
    if p.phase = .started then { p with run := { p.run with foes := p.run.foes ++ k.run.wrote.flatMap (·.2.2) } } else p) })) }
  let t := (t.dropLanded k.id).backwardDone k
  if isMover k.opcode then t.startAllXfers else t

/-- R51: in whose name the SIGNAL add is made. The context that a CONTEXT_DESTROY has ended bounds it no more, whichever has its number
by now (notes/assumptions/126). -/
def State.signalAcc (s : State) (q : Nat) (k : Packet) : Acc :=
  if k.opcode = 0x0702 ∧ k.status = stOk then { part := s.partOf q, hi := s.memBytes (s.partOf q), ctx := k.ctx, pkt := k.id } else s.accOf q k

/-- R51: the SIGNAL add, unless it has been made or is not to be made. Answers whether the record may follow now. -/
def State.signalStep (s : State) (q : Nat) (k : Packet) : State × Bool :=
  if !k.flags.testBit 1 || k.signalled || isCheck k.status then (s, true)
  else
    let mark (t : State) : State := t.modPkt k.id (fun p => { p with signalled := true })
    match s.signal (s.signalAcc q k) k.sigAddr with
    | .ok t => (mark t, !t.fab.reqs.any (fun r => r.pkt == k.id))
    | .error (.fail st d) =>
      ((mark (s.addTrace { s.signalAcc q k with host := true } k.sigAddr 8)).modPkt k.id (fun p => { p with status := st, detail := some (if st = stFabricUnreachable then d else k.sigAddr) }), true)
    | .error _ => (s, false)

/-- R95: a NUMERICS_POLICY that comes to complete while a step of its context is open has no effect. -/
def State.policyLate (s : State) (k : Packet) : State :=
  if k.opcode = 0x0802 ∧ k.status = stOk ∧ (s.ctx k.ctx).stepState.isOpen then s.modPkt k.id (fun p => { p with status := 0x60 }) else s

/-- R36, R21: the memory of the ring takes a record of queue `q` now: a host port serves it, or no home holds it. -/
def State.ringReaches (s : State) (q : Nat) : Bool :=
  let c := (s.queue q).ring
  let r := s.ring c
  if isHost r.base then s.hostPath q else !s.ringHeld (s.partOf c) (r.base + 32 * r.tail)

/-- R41, R54: the record of packet `p` of queue `q` must wait: its ring is full, or not reached, or an earlier finished packet's record
waits for room, or for what would serve it. -/
def State.recordWaits (s : State) (q p : Nat) : Bool :=
  let r := s.ring (s.queue q).ring
  !r.room || !s.ringReaches q || (r.waiting.takeWhile (· != p)).any (fun w => (s.pkt w).any (fun e => s.ringReaches e.1))

/-- A finished packet ends now, or its record waits (R54). Its MTIME is that at which its effects are visible: no request that it has
sent to a peer is outstanding, and no write of it is held (R52). A record of a packet that FLUSH has cancelled halts no queue: FLUSH clears HALTED after it
(R60, R61). -/
def State.complete (s : State) (p : Nat) : State :=
  match s.pkt p with
  | none => s
  | some (q, k) =>
    if k.phase ≠ .finished ∨ s.fab.reqs.any (fun r => r.pkt == p) ∨ s.owed.any (fun o => o.pkt == some p) then s
    else
      let s := if k.visible.isNone then s.modPkt p (fun k => { k with visible := some s.mtime }) else s
      let c := (s.queue q).ring
      let r := s.ring c
      if s.recordWaits q p then
        (if r.waiting.contains p then s else s.setRing c { r with waiting := r.waiting ++ [p] }).modPkt p
          (fun k => { k with stalled := k.stalled || !r.room })
      else if k.flags.testBit 1 && isHost k.sigAddr && !s.hostPath q then s
      else
        let s := s.policyLate k
        match s.pkt p with
        | none => s
        | some (_, k) => match s.signalStep q k with
          | (t, false) => t
          | (t, true) => match t.pkt p with
            | some (_, k) => t.record q k
            | none => t

/-- R41, R54: waiting records of ring `c` are written as room allows, oldest first. -/
def State.drainRing (s : State) (c : Nat) : State := (s.ring c).waiting.foldl State.complete s

end Sys2Proof.Machine
end

