-- ==== Sys2Proof/Machine/Conv.lean ====
section
/-! DEFINITION. Convolution and pooling tasks: CONV, CONV_BWD, POOL_BWD (06_convolution). -/

namespace Sys2Proof.Machine

/-! ### Descriptor and layers (R163 to R165) -/

/-- R165. -/
structure Layer where
  kind   : Nat
  relu   : Bool
  cpad   : Bool
  fw     : Fmt
  fmid   : Nat
  cin    : Nat
  cout   : Nat
  groups : Nat
  kh     : Nat
  kw     : Nat
  sh     : Nat
  sw     : Nat
  pt     : Nat
  pl     : Nat
  pb     : Nat
  pr     : Nat
  wA     : Nat
  bias   : Nat
  ldw    : Nat
  deriving DecidableEq, Repr

/-- The fields of a layer entry. -/
def layerOf (b : List Byte) : Layer :=
  { kind := field b 0 1, relu := (field b 1 1).testBit 0, cpad := (field b 1 1).testBit 1, fw := fmtByte (field b 2 1),
    fmid := field b 3 1, cin := field b 4 2, cout := field b 6 2, groups := field b 8 2, kh := field b 10 1,
    kw := field b 11 1, sh := field b 12 1, sw := field b 13 1, pt := field b 14 1, pl := field b 15 1,
    pb := field b 16 1, pr := field b 17 1, wA := field b 24 8, bias := field b 32 8, ldw := field b 40 4 }

/-- One layer entry; `last` marks the last of the chain. -/
def readLayer (s : State) (a : Acc) (addr : Nat) (last : Bool) : Rd Layer := do
  let b ← load s a addr 64
  let fl := field b 1 1
  let l := layerOf b
  let top := if l.kind = 0 then 31 else 8
  need (decide (l.kind ≤ 2) && decide (fl < 4) && (l.kind == 2 || !l.cpad)
    && (if l.kind = 0 then l.fw.ok false else field b 2 1 == 0) && (last || planarOk l.fmid)
    && decide (1 ≤ l.cin) && decide (1 ≤ l.cout) && decide (1 ≤ l.groups ∧ l.cin % l.groups = 0 ∧ l.cout % l.groups = 0)
    && (l.kind == 0 || (l.cin == l.cout && l.groups == 1))
    && decide (1 ≤ l.kh ∧ l.kh ≤ top) && decide (1 ≤ l.kw ∧ l.kw ≤ top) && decide (1 ≤ l.sh ∧ l.sh ≤ 8)
    && decide (1 ≤ l.sw ∧ l.sw ≤ 8) && decide (l.pt < l.kh ∧ l.pb < l.kh) && decide (l.pl < l.kw ∧ l.pr < l.kw)
    && zeroAt b 18 6 && zeroAt b 44 20)
  pure l

/-- R166: output rows or columns; 0 where less than one. -/
def outDim (n lo hi k st : Nat) : Nat := if n + lo + hi < k then 0 else (n + lo + hi - k) / st + 1

def Layer.oh (l : Layer) (h : Nat) : Nat := outDim h l.pt l.pb l.kh l.sh
def Layer.ow (l : Layer) (w : Nat) : Nat := outDim w l.pl l.pr l.kw l.sw
def Layer.cing (l : Layer) : Nat := l.cin / l.groups
def Layer.coutg (l : Layer) : Nat := l.cout / l.groups

/-- R167: taps of a filter with `cn` channels in contraction order: channel, row, column. -/
def taps (cn kh kw : Nat) : List (Nat × Nat × Nat) :=
  (List.range (cdiv kh 7)).flatMap (fun a => (List.range (cdiv kw 7)).flatMap (fun b =>
    (List.range cn).flatMap (fun c => (List.range (min 7 (kh - 7 * a))).flatMap (fun u =>
      (List.range (min 7 (kw - 7 * b))).map (fun v => (c, 7 * a + u, 7 * b + v))))))

/-! ### Tiles -/

/-- Values of a region of an image, by channel, row and column. -/
structure Tile where
  y0 : Nat
  x0 : Nat
  h  : Nat
  w  : Nat
  v  : List (List (List FVal))
  deriving DecidableEq, Repr

/-- The value at a position; outside the region it is padding (R166). -/
def Tile.at (t : Tile) (c : Nat) (y x : Int) : FVal :=
  if (t.y0 : Int) ≤ y ∧ y < t.y0 + t.h ∧ (t.x0 : Int) ≤ x ∧ x < t.x0 + t.w then
    ((t.v.getD c []).getD (y - t.y0).toNat []).getD (x - t.x0).toNat (.zero false)
  else .zero false

/-- The operand element at a position: a padded one outside the region (R167). -/
def Tile.el (t : Tile) (c : Nat) (y x : Int) : El :=
  { v := t.at c y x, pad := !decide ((t.y0 : Int) ≤ y ∧ y < t.y0 + t.h ∧ (t.x0 : Int) ≤ x ∧ x < t.x0 + t.w) }

/-- R171: the part of a run of `n` from `lo` that lies in [0, top): its start and length. -/
def clip (lo : Int) (n top : Nat) : Nat × Nat :=
  let st := (max 0 lo).toNat
  let en := min (lo + n).toNat top
  (st, en - st)

/-- R162: a region of a planar image read. -/
def readTile (s : State) (a : Acc) (fmt base plane row chans y0 h x0 w : Nat) : Rd Tile := do
  let v ← (List.range chans).mapM (fun c => (List.range h).mapM (fun y => do
    let r ← readRow s a fmt (base + c * plane + (y0 + y) * row + x0 * elemBytes fmt) w
    pure (r.map (·.v))))
  pure { y0, x0, h, w, v }

/-- R169: RELU on delivered bits. -/
def reluBits (fmt bits : Nat) : Nat :=
  match decodeFmt fmt bits with
  | .nan => bits
  | v => if v.isNeg then 0 else bits

/-- A value rounded into a direct format, RELU applied. -/
def toFmt (fmt : Nat) (r : Rnd) (relu : Bool) (v : FVal) : Conv :=
  let c := convertFmt fmt r v
  if relu then { c with bits := reluBits fmt c.bits } else c

/-- A row of planar results written; `index` is that of its first element. -/
def planarRow (fmt addr tid index : Nat) (key : Option Key) (relu : Bool) (vs : List FVal) : Out :=
  { units := vs.zipIdx.map (fun e =>
      elemUnit fmt (addr + elemBytes fmt * e.2) (toFmt fmt (rndOf key tid (index + e.2)) relu e.1)) }

/-! ### Layers computed -/

/-- R168: the weights of every output channel, as elements in contraction order; the blocks of a headered W count from 0
(notes/assumptions/168). -/
def readWeights (s : State) (a : Acc) (l : Layer) : Rd (List (List El)) := do
  let k := l.cing * l.kh * l.kw
  let o ← openOpnd s a l.fw l.wA
  match o with
  | .direct fmt => (List.range l.cout).mapM (fun o => do
      let r ← readRow s a fmt (l.wA + o * l.ldw) k
      pure ((taps l.cing l.kh l.kw).map (fun t => r.getD ((t.1 * l.kh + t.2.1) * l.kw + t.2.2) default)))
  | h => (List.range l.cout).mapM (fun o => readVec s a h (o * l.ldw) k)

/-- The biases of a layer, +0 where it has none. -/
def readBias (s : State) (a : Acc) (l : Layer) : Rd (List (Option FVal)) :=
  if l.bias = 0 then pure (List.replicate l.cout none)
  else do
    let r ← readRow s a 0 l.bias l.cout
    pure (r.map (fun e => some e.v))

/-- R166, R169, R174: the exact or EA48 value of output element (o, y, x) of a layer. -/
def layerValue (l : Layer) (chunk fin : Nat) (ws : List (List El)) (bias : List (Option FVal)) (t : Tile) (inH inW o y x : Nat) :
    FVal :=
  let py (u : Nat) : Int := (y * l.sh + u : Nat) - (l.pt : Int)
  let px (v : Nat) : Int := (x * l.sw + v : Nat) - (l.pl : Int)
  if l.kind = 0 then
    let g := o / l.coutg
    let xs := (taps l.cing l.kh l.kw).map (fun e => t.el (g * l.cing + e.1) (py e.2.1) (px e.2.2))
    let r := dot chunk [({ fa := fin, fb := l.fw.fmt, xs, ys := ws.getD o [] } : Seg)]
    match bias.getD o none with
    | some b => ea48 (r.add b)
    | none => r
  else
    let inside : List (Int × Int) := ((List.range l.kh).flatMap (fun u => (List.range l.kw).map (fun v => (py u, px v)))).filter
      (fun p => decide (0 ≤ p.1 ∧ p.1 < (inH : Int) ∧ 0 ≤ p.2 ∧ p.2 < (inW : Int)))
    let vals := inside.map (fun p => t.at o p.1 p.2)
    match vals with
    | [] => .zero false
    | v :: r =>
      if l.kind = 1 then r.foldl fmax v
      else (r.foldl FVal.add v).div (((if l.cpad then l.kh * l.kw else vals.length : Nat) : Rat))

/-- R171: the regions that each layer of a chain produces, given the last one's: start row and column, height, width. -/
def regionsBack : List Layer → (Int × Int × Nat × Nat) → List (Int × Int × Nat × Nat)
  | [], r => [r]
  | l :: ls, r =>
    match regionsBack ls r with
    | [] => []
    | (y, x, h, w) :: rest =>
      (y * l.sh - l.pt, x * l.sw - l.pl, (h - 1) * l.sh + l.kh, (w - 1) * l.sw + l.kw) :: (y, x, h, w) :: rest

/-- Input sizes of the layers of a chain, and the output size of the last. -/
def sizesOf : List Layer → Nat × Nat → List (Nat × Nat)
  | [], d => [d]
  | l :: ls, d => d :: sizesOf ls (l.oh d.1, l.ow d.2)

/-- R178: blocks of `p` pixels over `total` output channels in groups of `per`. -/
def convBlocks (p groups per total : Nat) : Nat := if 16 ≤ per then b16 p * groups * b16 per else b16 p * b16 total

/-- R178: steps of one layer with `p` computed pixels. -/
def layerSteps (l : Layer) (fin p : Nat) : Nat :=
  if l.kind = 0 then
    let k := l.cing * l.kh * l.kw
    let blocks := convBlocks p l.groups l.coutg l.cout
    if fin = 0 ∨ l.fw.fmt = 0 then blocks * (6 * k) else cdiv blocks 2 * pairSteps fin l.fw.fmt k
  else cdiv (p * l.cin) 512 * (l.kh * l.kw)

/-! ### CONV (R166 to R174) -/

/-- The layers of a chain from the current tile on; the last one's rows are written. -/
def runChain (s : State) (a : Acc) (key : Option Key) (v : CDesc) :
    List (Layer × (Nat × Nat) × (Int × Int × Nat × Nat)) → Nat → Nat × Nat → Tile → Rd Out
  | [], _, _, _ => pure {}
  | (l, (oh, ow), (y, x, h, w)) :: rest, fin, (inH, inW), t => do
    let ws ← if l.kind = 0 then readWeights s a l else pure []
    let bias ← if l.kind = 0 then readBias s a l else pure []
    let (ya, hn) := clip y h oh
    let (xa, wn) := clip x w ow
    let value (o i j : Nat) : FVal := layerValue l v.chunk fin ws bias t inH inW o (ya + i) (xa + j)
    match rest with
    | [] =>
      pure (Out.join ((List.range l.cout).flatMap (fun o => (List.range hn).map (fun i =>
        planarRow v.fout (v.outA + o * v.outPl + (ya + i) * v.outRow + xa * elemBytes v.fout) v.tid
          ((o * oh + (ya + i)) * ow + xa) key l.relu ((List.range wn).map (value o i))))))
    | _ =>
      let vals := (List.range l.cout).map (fun o => (List.range hn).map (fun i => (List.range wn).map (fun j =>
          decodeFmt l.fmid (toFmt l.fmid .rne l.relu (value o i j)).bits)))
      let tile : Tile := { y0 := ya, x0 := xa, h := hn, w := wn, v := vals }
      runChain s a key v rest l.fmid (oh, ow) tile

/-- The input channels of each layer are the output channels of the one before. -/
def chained : List Layer → Bool
  | a :: b :: r => b.cin == a.cout && chained (b :: r)
  | _ => true

/-- What CONV writes. -/
def convOut (s : State) (a : Acc) (key : Key) (d : List Byte) (v : CDesc) : Rd Out := do
  need (convOk d v false && field d 7 1 == 0 && decide (1 ≤ v.layers ∧ v.layers ≤ 4))
  let ls ← (List.range v.layers).mapM (fun i => readLayer s a (v.layA + 64 * i) (i + 1 == v.layers))
  let dims := sizesOf ls (v.inH, v.inW)
  let regs := regionsBack ls ((v.y0 : Int), (v.x0 : Int), v.th, v.tw)
  let outs := ls.zip ((dims.drop 1).zip (regs.drop 1))
  let fins := v.fin :: ls.map (·.fmid)
  let pixels := outs.map (fun e => (clip e.2.2.1 e.2.2.2.2.1 e.2.1.1).2 * (clip e.2.2.2.1 e.2.2.2.2.2 e.2.1.2).2)
  let steps := (((ls.zip fins).zip pixels).map (fun e => layerSteps e.1.1 e.1.2 e.2)).sum
  let kept := ((outs.dropLast).map (fun e => e.2.2.2.2.1 * e.2.2.2.2.2 * e.1.cout * elemBytes e.1.fmid)).sum
  need (chained ls && dims.all (fun e => decide (1 ≤ e.1 ∧ 1 ≤ e.2)) && decide (kept ≤ 98304) && decide (steps ≤ stepLimit))
  let (y, x, h, w) := regs.headD (0, 0, 0, 0)
  let (ya, hn) := clip y h v.inH
  let (xa, wn) := clip x w v.inW
  let t ← readTile s a v.fin v.inA v.inPl v.inRow ((ls.head?.map (·.cin)).getD 0) ya hn xa wn
  runChain s a (if v.sr then some key else none) v outs v.fin (v.inH, v.inW) t

/-- CONV. -/
def execConv (p i : Nat) (s : State) : Host.Outcome State Fault Refusal :=
  answer (.conv p i) (match s.task p i 0x10 with
    | some (q, k, _, d) =>
      let a := s.taskAcc q k i
      s.runTask q k a p i (fun s => convOut s a k.run.key d (cdesc d))
    | none => s)

/-! ### CONV_BWD (R175, R176) -/

/-- R175: the rows (or columns) of dX that belong to a tile of dY. -/
def ownedDX (n pad st od t0 tn : Nat) : List Nat :=
  (List.range n).filter (fun y => let r := min ((y + pad) / st) (od - 1); decide (t0 ≤ r ∧ r < t0 + tn))

/-- The output position that input position `y` meets through tap `u`, where there is one. -/
def outPos (y pad u st od : Nat) : Option Nat :=
  if y + pad < u then none
  else if (y + pad - u) % st = 0 ∧ (y + pad - u) / st < od then some ((y + pad - u) / st) else none

/-- Output positions whose windows take in one of a run of input positions: the first and how many. -/
def windowsOf (ys : List Nat) (pad k st od : Nat) : Nat × Nat :=
  let hit := (List.range od).filter (fun o => ys.any (fun y => decide (o * st ≤ y + pad ∧ y + pad < o * st + k)))
  match hit with
  | [] => (0, 0)
  | o :: _ => (o, hit.getLastD o + 1 - o)

/-- A region of an image: its rows and its columns, each a run (start and length). -/
abbrev Area := (Nat × Nat) × (Nat × Nat)

/-- Nothing where a region has no row or no column. -/
def Area.tidy (x : Area) : Area := if x.1.2 = 0 ∨ x.2.2 = 0 then ((0, 0), (0, 0)) else x

/-- Whether a region takes in another. -/
def Area.covers (x y : Area) : Bool :=
  let within (p q : Nat × Nat) : Bool := decide (p.1 ≤ q.1 ∧ q.1 + q.2 ≤ p.1 + p.2)
  decide (y.1.2 = 0) || (within x.1 y.1 && within x.2 y.2)

/-- R175: what is read of an image for two regions of it: where neither takes in the other, each. -/
def bothAreas (x y : Area) : List Area := if x.covers y then [x] else if y.covers x then [y] else [x, y]

/-- The value at a position of the first of some regions that has it. -/
def tilesAt (ts : List Tile) (c : Nat) (y x : Int) : FVal :=
  match ts.find? (fun t => !(t.el c y x).pad) with
  | some t => t.at c y x
  | none => .zero false

/-- Rows of results of dX written; an element's stochastic INDEX is its place in the dense plane (notes/assumptions/166). -/
def writeDX (key : Option Key) (v : CDesc) (chans : Nat) (ys xs : List Nat) (value : Nat → Nat → Nat → FVal) : Out :=
  Out.join ((List.range chans).flatMap (fun c => ys.map (fun y =>
    planarRow v.fout (v.outA + c * v.outPl + y * v.outRow + xs.headD 0 * elemBytes v.fout) v.tid
      ((c * v.inH + y) * v.inW + xs.headD 0) key false (xs.map (value c y)))))

/-- What CONV_BWD writes. dW's origin is 0 (notes/assumptions/167), and array A's blocks are counted over dX's channels
(notes/assumptions/169). -/
def convBwdOut (s : State) (a : Acc) (key : Key) (d : List Byte) (v : CDesc) : Rd Out := do
  need (convOk d v true && decide (v.layers = 1))
  let l ← readLayer s a v.layA true
  let oh := l.oh v.inH
  let ow := l.ow v.inW
  let kA := l.coutg * l.kh * l.kw
  let kB := l.cing * l.kh * l.kw
  let ys := ownedDX v.inH l.pt l.sh oh v.y0 v.th
  let xs := ownedDX v.inW l.pl l.sw ow v.x0 v.tw
  let perG := b16 kB * b16 l.coutg
  need (l.kind == 0 && decide (1 ≤ oh) && decide (1 ≤ ow) && destOk v.part v.fdw v.fin v.fg
    && (decide (v.pt ≠ 2) || v.part || !v.fdw.hdr))
  let mask ← if v.pt = 2 then readMask s a v.aux (l.groups * perG) else pure (2 ^ (l.groups * perG) - 1)
  let marked := if v.pt = 2 then (bitsOf (l.groups * perG) mask).length else l.groups * perG
  need (decide (max (convBlocks (ys.length * xs.length) l.groups l.cing l.cin * pairSteps v.fg l.fw.fmt kA)
    (marked * pairSteps v.fin v.fg (v.th * v.tw)) ≤ stepLimit))
  let (ya, hn) := clip v.y0 v.th oh
  let (xa, wn) := clip v.x0 v.tw ow
  let tile : Area := Area.tidy ((ya, hn), (xa, wn))
  let owned : Area := Area.tidy ((0, ys.length), (0, xs.length))
  -- dY with its halo
  let halo : Area := if owned.1.2 = 0 then owned else Area.tidy (windowsOf ys l.pt l.kh l.sh oh, windowsOf xs l.pl l.kw l.sw ow)
  let gs ← (bothAreas halo tile).mapM (fun r => readTile s a v.fg v.gA v.gPl v.gRow l.cout r.1.1 r.1.2 r.2.1 r.2.2)
  -- X as array B needs it
  let ((iy, ih), (ix, iw)) : Area := if tile.1.2 = 0 then tile else
    (clip ((ya * l.sh : Nat) - (l.pt : Int)) ((hn - 1) * l.sh + l.kh) v.inH,
     clip ((xa * l.sw : Nat) - (l.pl : Int)) ((wn - 1) * l.sw + l.kw) v.inW)
  let xt ← readTile s a v.fin v.inA v.inPl v.inRow l.cin iy ih ix iw
  -- W by input channel, in array A's contraction order
  let op ← openOpnd s a l.fw l.wA
  let order := taps l.coutg l.kh l.kw
  let wBy ← match op with
    | .direct fmt => do
      let rows ← (List.range l.cout).mapM (fun o => readRow s a fmt (l.wA + o * l.ldw) kB)
      pure ((List.range l.cin).map (fun c => order.map (fun e =>
        (rows.getD (c / l.cing * l.coutg + e.1) []).getD ((c % l.cing * l.kh + e.2.1) * l.kw + e.2.2) default)))
    | h => (List.range l.cin).mapM (fun c => readVec s a h (c * l.ldw) kA)
  let dx (c y x : Nat) : FVal :=
    let gr := c / l.cing
    let pairs := (order.zip (wBy.getD c [])).filterMap (fun e =>
      match outPos y l.pt e.1.2.1 l.sh oh, outPos x l.pl e.1.2.2 l.sw ow with
      | some py, some px => some (({ v := tilesAt gs (gr * l.coutg + e.1.1) py px } : El), e.2)
      | _, _ => none)
    dot v.chunk [({ fa := v.fg, fb := l.fw.fmt, xs := pairs.map Prod.fst, ys := pairs.map Prod.snd } : Seg)]
  let posOf := (taps l.cing l.kh l.kw).zipIdx
  let dw (o c u w : Nat) : Option FVal :=
    let gr := o / l.coutg
    let row := ((posOf.find? (fun e => e.1 == (c, u, w))).map Prod.snd).getD 0
    if mask.testBit (gr * perG + row / 16 * b16 l.coutg + o % l.coutg / 16) then
      let pix := (List.range hn).flatMap (fun i => (List.range wn).map (fun j => (ya + i, xa + j)))
      let ex (p : Nat × Nat) : El :=
        xt.el (gr * l.cing + c) ((p.1 * l.sh + u : Nat) - (l.pt : Int)) ((p.2 * l.sw + w : Nat) - (l.pl : Int))
      let eg (p : Nat × Nat) : El := { v := tilesAt gs o p.1 p.2 }
      some (dot v.chunk [({ fa := v.fin, fb := v.fg, xs := pix.map ex, ys := pix.map eg } : Seg)])
    else none
  let dwRows := (List.range l.cout).map (fun o => (List.range l.cing).flatMap (fun c =>
    (List.range l.kh).flatMap (fun u => (List.range l.kw).map (fun w => dw o c u w))))
  let o2 ← writeDest s a ⟨v.fdw, v.part, v.dwA, v.lddw, 0, (v.tid + 1) % 2 ^ 32, v.sr⟩ key dwRows
  pure ((writeDX (if v.sr then some key else none) v l.cin ys xs dx).append o2)

/-- CONV_BWD. -/
def execConvBwd (p i : Nat) (s : State) : Host.Outcome State Fault Refusal :=
  answer (.convBwd p i) (match s.task p i 0x11 with
    | some (q, k, _, d) =>
      let a := s.taskAcc q k i
      s.runTask q k a p i (fun s => convBwdOut s a k.run.key d (cdesc d))
    | none => s)

/-! ### POOL_BWD (R177) -/

/-- The first position, in raster order, that holds the window's maximum, or its first NaN. -/
def firstMax (l : List ((Nat × Nat) × FVal)) : Option (Nat × Nat) :=
  match l with
  | [] => none
  | e :: r =>
    let m := r.foldl (fun m x => fmax m x.2) e.2
    ((e :: r).find? (fun x => x.2 == m)).map Prod.fst

/-- What POOL_BWD writes. Its steps count the pixels of dX that it owns (notes/assumptions/170). -/
def poolBwdOut (s : State) (a : Acc) (key : Key) (d : List Byte) (v : CDesc) : Rd Out := do
  need (convOk d v false && decide (v.layers = 1))
  let l ← readLayer s a v.layA true
  let oh := l.oh v.inH
  let ow := l.ow v.inW
  let ys := ownedDX v.inH l.pt l.sh oh v.y0 v.th
  let xs := ownedDX v.inW l.pl l.sw ow v.x0 v.tw
  need (l.kind != 0 && decide (1 ≤ oh) && decide (1 ≤ ow)
    && decide (cdiv (ys.length * xs.length * l.cin) 512 * (l.kh * l.kw) ≤ stepLimit))
  let (gy, gh) := windowsOf ys l.pt l.kh l.sh oh
  let (gx, gw) := windowsOf xs l.pl l.kw l.sw ow
  let g ← readTile s a v.fg v.gA v.gPl v.gRow l.cout gy gh gx gw
  let (iy, ih) := if gh = 0 then (0, 0) else clip ((gy * l.sh : Nat) - (l.pt : Int)) ((gh - 1) * l.sh + l.kh) v.inH
  let (ix, iw) := if gw = 0 then (0, 0) else clip ((gx * l.sw : Nat) - (l.pl : Int)) ((gw - 1) * l.sw + l.kw) v.inW
  let xt ← readTile s a v.fin v.inA v.inPl v.inRow l.cin iy ih ix iw
  let window (oy ox : Nat) : List (Nat × Nat) :=
    (List.range l.kh).flatMap (fun u => (List.range l.kw).filterMap (fun w =>
      if l.pt ≤ oy * l.sh + u ∧ oy * l.sh + u - l.pt < v.inH ∧ l.pl ≤ ox * l.sw + w ∧ ox * l.sw + w - l.pl < v.inW then
        some (oy * l.sh + u - l.pt, ox * l.sw + w - l.pl) else none))
  let dx (c y x : Nat) : FVal :=
    tree ((List.range gh).flatMap (fun i => (List.range gw).filterMap (fun j =>
      let win := window (gy + i) (gx + j)
      let gv := g.at c (gy + i) (gx + j)
      if !win.contains (y, x) then none
      else if l.kind = 1 then
        (if firstMax (win.map (fun p => (p, xt.at c p.1 p.2))) = some (y, x) then some gv else none)
      else some (ea48 (gv.div (((if l.cpad then l.kh * l.kw else win.length : Nat) : Rat)))))))
  pure (writeDX (if v.sr then some key else none) v l.cin ys xs dx)

/-- POOL_BWD. -/
def execPoolBwd (p i : Nat) (s : State) : Host.Outcome State Fault Refusal :=
  answer (.poolBwd p i) (match s.task p i 0x12 with
    | some (q, k, _, d) =>
      let a := s.taskAcc q k i
      s.runTask q k a p i (fun s => poolBwdOut s a k.run.key d (cdesc d))
    | none => s)

end Sys2Proof.Machine
end

