-- ==== Sys2Proof/Machine/Optim.lean ====
section
/-! DEFINITION. The built-in optimizers ADAMW and SGDM (R252 to R259). -/

namespace Sys2Proof.Machine

/-- A stream of `n` numbers of `w` bytes. -/
def readNums (s : State) (a : Acc) (n base w : Nat) : Rd (List Nat) := do
  let b ← load s a base (n * w)
  pure ((List.range n).map (fun i => field b (i * w) w))

/-- R255: a layer's rates. -/
structure Rates where
  lr   : FVal
  wd   : FVal
  b1   : FVal
  b2   : FVal
  bc1  : FVal
  bc2  : FVal
  eps2 : FVal
  uexp : Nat
  deriving DecidableEq, Repr

def readRates (s : State) (a : Acc) (v : ODesc) : Rd Rates := do
  let b ← load s a (v.a 10 + 32 * v.layer) 32
  let f (k : Nat) : FVal := f32 (field b (4 * k) 4)
  pure { lr := f 0, wd := f 1, b1 := f 2, b2 := f 3, bc1 := f 4, bc2 := f 5, eps2 := f 6, uexp := field b 28 4 }

/-- R254: the factor of a clipped instruction, the global norm being ready and finite. -/
def readFactor (s : State) (a : Acc) (v : ODesc) (step : Nat) : Rd FVal := do
  let b ← load s a (v.a 11) 128
  let fl := field b 112 4
  if !fl.testBit 1 || field b 4 4 != step then Rd.fail (.fail 0x4E 0)
  else if fl.testBit 2 then Rd.fail (.fail 0x4F 0)
  else pure (f32 (field b 108 4))

/-- R256: the new moments m and v. -/
def moments (r : Rates) (adam : Bool) (g m v : FVal) : FVal × FVal :=
  let sub1 (x : FVal) : FVal := add32 (.num 1) x.neg
  if adam then
    (fma32 r.b1 m (mul32 (sub1 r.b1) g), fma32 r.b2 v (mul32 (sub1 r.b2) (mul32 g g)))
  else (fma32 r.b1 m g, .zero false)

/-- R256: the update direction d. -/
def direction (r : Rates) (adam : Bool) (m v w : FVal) : FVal :=
  if adam then fma32 r.wd w (mul32 (mul32 m r.bc1) (rsqrt (add32 (mul32 v r.bc2) r.eps2)))
  else fma32 r.wd w m

/-- R257: the exponent that an element contributes to UEXP. -/
def updateExp (lr d : FVal) : Option Int :=
  match lr.mul d with
  | .num q => some (ilog2 (roundMag 24 (-100000) .rne (ratAbs q)))
  | _ => none

/-- R257: E of phase 2. -/
def phaseExp (uexp : Nat) : Int := if uexp = 0x80000000 then 0 else max (-300) (min 300 (14 - int32 uexp))

/-- R257: the new master weight. -/
def newWeight (lr d w : FVal) (e : Int) : FVal :=
  let us := rnd32 ((lr.mul d).mul (.num (pow2 e)))
  w.add (us.mul (.num (pow2 (-e)))).neg

/-- R257: the compute copy written, by linear element from ORG_C on. -/
def writeCopy (s : State) (a : Acc) (v : ODesc) (key : Key) (vs : List FVal) : Rd Out := do
  let ek := if v.sr then some key else none
  let o ← openOpnd s a v.fmt (v.a 9)
  let lin := vs.zipIdx.map (fun e => (v.org + e.2, e.1))
  match o with
  | .direct fmt => pure (writeRow fmt (v.a 9) v.tid v.org ek vs)
  | .blocked h => match wholeBlocks 32 (lin.length + 1) lin with
    | none => Rd.fail badDesc
    | some bs => pure (Out.join (bs.map (fun b => writeBlock h ek b.1 b.2)))
  | .narrow h => match wholeBlocks 64 (lin.length + 1) lin with
    | none => Rd.fail badDesc
    | some bs => do
      need (bs.all (fun b => decide (b.1 < h.nblocks)) && wholeUnits h (bs.map Prod.fst))
      pure (writeNarrow h key bs)

/-- A list of FP32 values written, counted. -/
def fp32Row (addr : Nat) (vs : List FVal) : Out := writeRow 0 addr 0 0 none vs

/-- The streams that a phase reads, each with its place and width: G or nothing, m, v, HI and TAIL. -/
def ODesc.streams (v : ODesc) : List (Nat × Nat) :=
  if v.phase = 1 then [(v.a 0, 4), (v.a 1, 4)] ++ (if v.adam then [(v.a 2, 4)] else []) ++ [(v.a 5, 2), (v.a 6, 2)]
  else [(v.a 3, 4)] ++ (if v.adam then [(v.a 4, 4)] else []) ++ [(v.a 5, 2), (v.a 6, 2)]

/-- The streams of one width that a phase writes element by element. -/
def ODesc.outs (v : ODesc) : List (Nat × Nat) :=
  if v.phase = 1 then [(v.a 3, 4)] ++ (if v.adam then [(v.a 4, 4)] else [])
  else [(v.a 7, 2), (v.a 8, 2)] ++ (if v.hasC && !v.fmt.hdr then [(v.a 9, elemBytes v.fmt.fmt)] else [])

/-- The master weight of an element's numbers. -/
def masterOf (xs : List Nat) : FVal :=
  match xs.reverse with
  | lo :: hi :: _ => f32 (hi * 65536 + lo)
  | _ => .nan

/-- R256, R257: what phase 1 makes of an element: m, v, and its exponent. -/
def phaseOne (r : Rates) (v : ODesc) (factor : FVal) (xs : List Nat) : (FVal × FVal) × Option Int :=
  let x (k : Nat) : FVal := f32 (xs.getD k 0)
  let mv := moments r v.adam (if v.clip then mul32 (x 0) factor else x 0) (x 1) (if v.adam then x 2 else f32 0)
  (mv, updateExp r.lr (direction r v.adam mv.1 mv.2 (masterOf xs)))

/-- R257: what phase 2 makes of an element. -/
def phaseTwo (r : Rates) (v : ODesc) (xs : List Nat) : Conv :=
  let x (k : Nat) : FVal := f32 (xs.getD k 0)
  let w := masterOf xs
  Flt.fp32.convert .rne (newWeight r.lr (direction r v.adam (x 0) (if v.adam then x 1 else f32 0) w) w (phaseExp r.uexp))

/-- What a phase writes for the elements so far. With `part`, blocks of the compute copy that are not complete are left out. -/
def optimWrites (s : State) (a : Acc) (key : Key) (v : ODesc) (r : Rates) (factor : FVal) (part : Bool) (rows : List (List Nat)) :
    Rd Out :=
  if v.phase = 1 then
    let l := rows.map (phaseOne r v factor)
    let ex := l.filterMap Prod.snd
    let u : Out := if ex.isEmpty then {} else { maxes := [(v.a 10 + 32 * v.layer + 28, wrap 32 (ex.foldl max (ex.headD 0)))] }
    pure (Out.join ([fp32Row (v.a 3) (l.map (·.1.1))] ++ (if v.adam then [fp32Row (v.a 4) (l.map (·.1.2))] else []) ++ [u]))
  else
    let cs := rows.map (phaseTwo r v)
    let o : Out := { units := cs.zipIdx.map (fun c =>
      { writes := [(v.a 7 + 2 * c.2, toLe 2 (c.1.bits / 65536)), (v.a 8 + 2 * c.2, toLe 2 (c.1.bits % 65536))],
        marks := c.1.marks (elemKey (v.a 7 + 2 * c.2) 0) }) }
    let vs := (if part && v.fmt.hdr then cs.take (cs.length / 128 * 128) else cs).map (fun c => f32 c.bits)
    if !v.hasC then pure o
    else if part then fun l => match (writeCopy s a v key vs []).1 with
      | .ok c => (.ok (o.append c), l)
      | .error _ => (.ok o, l)
    else do
      let c ← writeCopy s a v key vs
      pure (o.append c)

/-- R253, R198: element `i` of a stream lies in what is written, other than as the same element of an output. -/
def ODesc.stray (v : ODesc) (w : List (Nat × Nat)) (x : Nat × Nat) (i : Nat) : Bool :=
  !v.outs.contains x && w.any (rangesMeet (x.1 + i * x.2, x.2))

/-- R198: an element's numbers where what is written, as far as it stands in `s'`, overlaps them: each old or new, a free choice. -/
def optimElem (s s' : State) (a : Acc) (v : ODesc) (w : List (Nat × Nat)) (i : Nat) (old : List Nat) : Rd (List Nat) :=
  (v.streams.zip old).zipIdx.mapM (fun e =>
    if v.stray w e.1.1 i && Config.freeChoice (s.freeAt + 2 ^ 61 + (i * 8 + e.2)) % 2 == 1
    then loadNat s' a (e.1.1.1 + i * e.1.1.2) e.1.1.2
    else pure e.1.2)

/-- What an optimizer instruction writes, `st` and `step` being the context's step state and step. -/
def optimOut (s : State) (a : Acc) (key : Key) (d : List Byte) (v : ODesc) (st : StepState) (step : Nat) : Rd Out := do
  need (optimOk d v)
  if st ≠ .exchange ∧ st ≠ .none then Rd.fail (.fail 0x4E 0)
  let factor ← if v.clip then readFactor s a v step else pure (.num 1)
  let r ← readRates s a v
  let cols ← v.streams.mapM (fun x => readNums s a v.count x.1 x.2)
  let rows := (List.range v.count).map (fun i => cols.map (·.getD i 0))
  let o ← optimWrites s a key v r factor false rows
  let w := mergeRanges (o.writes.map (fun e => (e.1, e.2.length)))
  if !v.streams.any (fun x => (List.range v.count).any (v.stray w x)) then pure o
  else do
    Rd.note 0 0 false
    let rows ← rows.zipIdx.foldlM (fun (done : List (List Nat)) e => do
      let o ← optimWrites s a key v r factor true done
      let x ← optimElem s (s.storeAll a o.writes).1 a v w e.2 e.1
      pure (done ++ [x])) []
    optimWrites s a key v r factor false rows

/-- ADAMW. -/
def execAdamw (p i : Nat) (s : State) : Host.Outcome State Fault Refusal :=
  answer (.adamw p i) (match s.task p i 0x28 with
    | some (q, k, _, d) =>
      let a := s.taskAcc q k i
      let c := s.ctx k.ctx
      s.runTask q k a p i (fun s => optimOut s a k.run.key d (odesc d) c.stepState c.step)
    | none => s)

/-- SGDM. -/
def execSgdm (p i : Nat) (s : State) : Host.Outcome State Fault Refusal :=
  answer (.sgdm p i) (match s.task p i 0x29 with
    | some (q, k, _, d) =>
      let a := s.taskAcc q k i
      let c := s.ctx k.ctx
      s.runTask q k a p i (fun s => optimOut s a k.run.key d (odesc d) c.stepState c.step)
    | none => s)

end Sys2Proof.Machine
end

