-- ==== Sys2Proof/Machine/Resets.lean ====
section
/-! DEFINITION. Heartbeats, controller takeover, the watchdogs, the reset domains and replay (R19 to R27, R423 to R440). -/

namespace Sys2Proof.Machine

/-! ### Domains (R427) -/

abbrev domEngine : Nat := 0
abbrev domPort : Nat := 1
abbrev domDie : Nat := 2
abbrev domHub : Nat := 3
abbrev domModule : Nat := 4

/-- R440 CAUSE. -/
abbrev byCommand : Nat := 0
abbrev byWatchdog : Nat := 1
abbrev byEscalation : Nat := 2
abbrev byHeartbeat : Nat := 3
abbrev byLink : Nat := 4
abbrev byUnitHang : Nat := 5
/-- The module reset that ends a power-up (R481), which no record names. -/
abbrev byPowerUp : Nat := 6

/-- R427: the timer of a domain, in ns. -/
def resetTimer (dom : Nat) : Nat :=
  match dom with
  | 0 => 50 * 10 ^ 6
  | 1 => 2 * 10 ^ 9
  | 2 => 5 * 10 ^ 9
  | 3 => 6 * 10 ^ 9
  | _ => 10 * 10 ^ 9

/-- Whether domain (`dom`, `idx`) is (`d`, `i`) or encloses it. -/
def encloses (dom idx d i : Nat) : Bool :=
  decide (dom = d ∧ idx = i) || dom == 4 || (dom == 2 && d == 0 && i / 10 == idx) || (dom == 3 && d == 1 && i / 4 == idx)

/-- The reset that a request for a domain falls into (R429). -/
def State.covering (s : State) (dom idx : Nat) : Option ResetOp := s.ctrl.resets.find? (fun r => encloses r.dom r.idx dom idx)

/-- The widest reset under way, lowest index first (R423, R439). -/
def State.curReset (s : State) : Option ResetOp :=
  s.ctrl.resets.foldl (fun (b : Option ResetOp) r => match b with
    | some x => if x.dom < r.dom ∨ (x.dom = r.dom ∧ r.idx < x.idx) then some r else b
    | none => some r) none

/-- R429: a request that is not carried out: its packets end with the reset that covers it. -/
def State.superseded (s : State) (r : ResetOp) (pkts : List (Nat × Nat)) : State :=
  { s with ctrl := { s.ctrl with resets := s.ctrl.resets.map (fun x =>
      if x.dom = r.dom ∧ x.idx = r.idx then { x with pkts := x.pkts ++ pkts.map (fun p => (p.1, 0x39)) } else x) } }

/-- R429: a reset begins; narrower ones inside it are abandoned, and their packets end with it. -/
def State.pushReset (s : State) (dom idx cause : Nat) (noReplay : Bool) (pkts : List (Nat × Nat)) : State :=
  let inner := s.ctrl.resets.filter (fun r => encloses dom idx r.dom r.idx)
  let old := (inner.flatMap (·.pkts)).map (fun p => (p.1, 0x39))
  let op : ResetOp := { dom, idx, cause, start := s.mtime, noReplay, pkts := pkts ++ old }
  ({ s with ctrl := { s.ctrl with
      resets := s.ctrl.resets.filter (fun r => !encloses dom idx r.dom r.idx) ++ [op] } } : State).rstEvent
    2 dom cause idx 0xFFFFFFFF 0 0

/-! ### What an engine reset does (R433, R436) -/

/-- What task `i` of a packet would write under numerics policy `pol`, by the operation of its descriptor. -/
def taskOut (s : State) (q : Nat) (k : Packet) (i pol : Nat) (d : List Byte) : Option (Rd Out) :=
  let a := s.taskAcc q k i
  let c := s.ctx k.ctx
  match field d 0 1 with
  | 0x01 => some (matmulOut s a k.run.key d (mdesc pol d))
  | 0x02 => some (backwardOut s a k.run.key d (mdesc pol d))
  | 0x03 => some (combineOut s a k.run.key d (mdesc pol d))
  | 0x10 => some (convOut s a k.run.key d (cdesc d))
  | 0x11 => some (convBwdOut s a k.run.key d (cdesc d))
  | 0x12 => some (poolBwdOut s a k.run.key d (cdesc d))
  | 0x20 => some (vchainOut s a k.run.key d (vdesc pol d))
  | 0x21 => some (vfinishOut s a d (vdesc pol d))
  | 0x28 => some (optimOut s a k.run.key d (odesc d) c.stepState c.step)
  | 0x29 => some (optimOut s a k.run.key d (odesc d) c.stepState c.step)
  | _ => none

/-- R433, R125, R160: each element that an interrupted item was writing is old or new, and each block old, new or poisoned: a free
choice. So is whether each of its maxima and header adds was made (R100, R257). What it wrote anew counts (R91). -/
def State.cutItem (s : State) (it : Item) : State :=
  match s.pkt it.pkt with
  | none => s
  | some (q, k) => match taskOut s q k it.idx it.policy it.desc with
      | none => s
      | some r => match (r.run.run []).1 with
        | .error _ => s
        | .ok o =>
          let a := s.taskAcc q k it.idx
          let pick (n m : Nat) : Nat := Config.freeChoice (s.freeAt + n) % m
          let kept := o.units.zipIdx.flatMap (fun u => match pick u.2 (if u.1.poison.isEmpty then 2 else 3) with
            | 0 => []
            | 1 => u.1.writes
            | _ => u.1.poison)
          let some_ {α : Type} (l : List α) (at_ : Nat) : List α := (l.zipIdx.filter (fun e => pick (at_ + e.2) 2 == 1)).map Prod.fst
          let t := (s.drew.storeAll a kept).1
          let t := (t.maxAll a (some_ o.maxes (2 ^ 60))).1
          let (t, drifts, drift, _) := t.headerAdds a (some_ o.adds (2 ^ 61))
          let new := o.units.zipIdx.filter (fun u => pick u.2 (if u.1.poison.isEmpty then 2 else 3) == 1)
          t.modRun it.pkt (·.joins { it with drifts, drift, marks := new.foldl (fun m u => m.add u.1.marks) {},
                                             wrote := mergeRanges (kept.map (fun w => (w.1, w.2.length))) })

/-- A list that dispatches no more for an engine reset. -/
def State.cutList (s : State) (p : Nat) : State :=
  s.modRun p (fun u => { u with stop := some (u.stop.getD (stEngineReset, 0)) })

/-- Ascending numbers without repeats. -/
def ascending (l : List Nat) : List Nat := sortBy (fun a b => decide (a ≤ b)) l.eraseDups

/-- R433: packets that wait for the sequencer of engine `e`: STEP_BEGIN, STEP_COMMIT and COUNTERS_READ that have taken no effect. -/
def State.endSequencer (s : State) (e : Nat) : State :=
  (s.allPkts.filter (fun r => (r.2.opcode == 0x0202 || r.2.opcode == 0x0203 || r.2.opcode == 0x0801) && r.2.phase == .started
    && !r.2.waiting && s.stepEngine r.2.ctx == some e)).foldl (fun t r => t.finish r.2.id stEngineReset none) s

/-- R427, R433, R436: engine `e` goes into reset: its items are interrupted, its mover's packets, those that only movers in reset could
take and the lists that wait for its scratchpad end, its locks are revoked, its slots and scratchpad are emptied. -/
def State.engineDown (s : State) (e : Nat) (watchdog noReplay : Bool) : State :=
  let g := s.engine e
  let its := s.items.filter (fun i => i.eng == e)
  let lists := (its.map (·.pkt)).eraseDups
  let movers := s.allPkts.filter (fun r => r.2.phase == .started && r.2.mover == some e)
  let held := s.allPkts.filter (fun r => s.waitsMover e r.2
    && (bitsOf s.order.engines (s.ctx r.2.ctx).engines).all (fun n => s.ctrl.resets.any (fun x => encloses x.dom x.idx 0 n)))
  let waiting := s.allPkts.filter (fun r => r.2.openList && (match s.descriptor r.1 r.2 r.2.run.next with
    | .ok d => kindOf d == .vector (some e)
    | .error _ => false))
  let t := (its.filter (·.done)).foldl (fun t i => t.modRun i.pkt (·.joins i)) s
  let t := (its.filter (fun i => !i.done)).foldl State.cutItem t
  let t : State := { t with items := t.items.filter (fun i => i.eng != e) }
  let t := (lists ++ waiting.map (·.2.id)).foldl State.cutList t
  let t := ((movers ++ held).foldl (fun t r => t.finish r.2.id stEngineReset none) t).endSequencer e
  let idle (p : Nat) : Bool := movers.any (fun r => r.2.id == p) || (lists.contains p && (t.itemsOf p).isEmpty)
  let t := t.dropReqs (fun r => idle r.pkt)
  let t := t.revoke (fun h => h.1 == e)
  let clear (c : Nat) : Bool := c / 2 ^ 20 == e
  let t : State := { t with
    sp := { cells := t.sp.cells.filter (fun c => !clear (c.1 / 16)), ck := t.sp.ck.filter (fun c => !clear c.1),
            touched := t.sp.touched.filter (fun c => !clear c.1) },
    spLost := Tbl.set 0 t.spLost e 0 }
  let cores := its.filterMap (fun i => match i.site with
    | .core c => some (128 * e + c)
    | _ => none)
  t.setEngine e { progress := g.progress, mode := .resetting, noReplay, watchdog := watchdog || g.watchdog,
                  suspects := ascending (g.suspects ++ its.map (·.ctx) ++ movers.map (·.2.ctx)), cut := g.cut ++ lists,
                  stuck := if g.mode = .service then cores else g.stuck, allPassed := if g.mode = .service then true else g.allPassed }

/-! ### Controllers (R24 to R27) -/

/-- R26: a POWER_STATE and a CONTEXT_DESTROY that the failed controller had accepted are executed again from their start; one that is
finished, and waits only for its record, goes on. -/
def State.recaught (s : State) : State :=
  let t := match s.power.target with
    | some (_, some p) =>
      if (s.pkt p).any (fun (r : Nat × Packet) => r.2.phase == Phase.finished) then s
      else ({ s with power := { s.power with target := none } } : State).modPkt p (fun k => { k with waiting := false })
    | _ => s
  { t with ctxs := (t.ctxs.map (fun c => (c.1, { c.2 with destroying := none }))).filter (fun c => decide (c.2 ≠ {})) }

/-- R25, R26: the standby copies take over; the reset of a RESET_DOMAIN caught begins again with a fresh timer. -/
def State.takeOver (s : State) (cause : Nat) : State :=
  let c := s.ctrl
  ({ s with ctrl := { c with
      activeHub := 1 - c.activeHub, standby := false, takeovers := satTo 255 (c.takeovers + 1), hbAt := s.mtime,
      resets := c.resets.map (fun r => if r.pkts.any (fun p => p.2 == stOk) then { r with start := s.mtime } else r) } } : State).recaught.rstEvent
    0x0A 0xFF cause (1 - c.activeHub) 0xFFFFFFFF 0 0

/-! ### Module reset (R220, R427, R432) -/

/-- R431 ORDERLY: DEPARTING on every UP port, to every module that its plane reaches. -/
def State.sendDeparting (s : State) : State :=
  let pairs := (List.range 8).flatMap (fun n => if (s.port n).live then
    ((s.fab.reach.filter (fun e => e.2.testBit n && e.1 != s.fab.moduleId)).map (fun e => (n, e.1))) else [])
  pairs.foldl (fun t e =>
    let m := t.fab.mseq
    let k : TxPkt := { typ := 0x14, vc := 0, dest := e.2, hdr := [0, m], src := t.fab.moduleId }
    ({ t with fab := { t.fab with mseq := (m + 1) % 2 ^ 32, unacked := t.fab.unacked ++ [(⟨e.2, m, k, t.mtime⟩ : Unacked)] } } : State).transmit
      e.1 k) s

/-- R21, R23: the die's dirty lines are written back, all as its reset begins (notes/assumptions/146), and its cache is empty. -/
def State.flushDie (s : State) (d : Nat) : State :=
  let mine := s.caches.filter (fun c => c.1 / 32768 == d)
  let t := (mine.flatMap (fun c => (c.2.filter (·.dirty)).map (·.line))).foldl State.writeBack s
  let gone := mine.flatMap (fun c => c.2.map (·.line))
  { t with caches := t.caches.filter (fun c => c.1 / 32768 != d), copies := t.copies.filter (fun c => !gone.contains (c.1 / 8)),
           stackCk := t.stackCk.filter (fun c => !gone.contains (c.1 / 8)) }

/-- Every cache is written back and empty; so are the records of what that finds. -/
def State.flushAll (s : State) : State :=
  let pass (s : State) : State := (List.range s.order.dies).foldl State.flushDie s
  pass (pass s)

/-- Channels that partition 0 does not own. -/
def State.foreignChans (s : State) : Nat :=
  (List.range 7).foldl (fun m p => m ||| (s.part (p + 1)).chans) 0

/-- Every lock-table entry is gone, and its word reads as zero (R310). -/
def State.clearLocks (s : State) : State :=
  s.locks.foldl (fun t l => (t.touchUnit l.addr).putWord l.addr (toLe 8 0)) s

/-- R427: what a module reset leaves: memory of partition 0's channels, the physical facts of cores, channels and stacks, the
heartbeat and reset registers, MTIME. Message and tag numbers go on, so that none is used twice (R354, R356), and so do ACTIVE_HUB and
TAKEOVERS (notes/assumptions/145). -/
def State.moduleCleared (s : State) (op : ResetOp) : State :=
  let t := s.flushAll.clearLocks.forgetChans s.foreignChans
  { t with
    queues := [], rings := [], fns := [], parts := [(0, Partition.whole s.order)], regions := [],
    ctxs := [(0, Ctx.management s.order)], clients := [], engines := [], units := [], items := [], held := [], owed := [], sp := {}, spLost := [],
    locks := [], caches := [], copies := [], stackCk := [],
    ecc := {}, memRing := {}, lcShare := 64, stackTbl := (s.stackTbl.map (fun k => (k.1, ({ retired := k.2.retired } : Stack)))).filter
      (fun k => k.2.retired), groups := [],
    fab := { ports := ((s.fab.ports.map (fun p => (p.1, p.2.unpowered))).filter (fun p => decide (p.2 ≠ {}))),
             mseq := s.fab.mseq, tag := s.fab.tag },
    feeds := [], toks := [], sessions := [], media := {}, power := { cap := s.order.maxWatts },
    ctrl := { s.ctrl with standby := false, resets := [op], recent := [], link0 := false, link1 := false, heldWrites := [],
                          nModule := satTo 0xFFFF (s.ctrl.nModule + 1) } }

/-- A module reset begins. The records of its packets, and of those whose reset it takes in, are written first (R432). -/
def State.startModule (s : State) (cause : Nat) (orderly : Bool) (pkts : List (Nat × Nat)) : State :=
  if s.ctrl.resets.any (fun r => r.dom == 4) then s
  else
    let t := s.pushReset 4 0 cause true pkts
    let all := (t.ctrl.resets.flatMap (·.pkts))
    let t := all.foldl (fun t p => (t.finish p.1 p.2 none).complete p.1) t
    let t := if orderly then t.sendDeparting else t
    t.moduleCleared { dom := 4, idx := 0, cause, start := s.mtime }

/-! ### Hub, die, port and engine resets begin -/

/-- R427, R36, R362, R421, R438: what a hub reset takes down. -/
def State.hubDown (s : State) (h : Nat) : State :=
  -- no sample is tombstoned for it: its reads go out again (R362)
  let s := s.dropReqs (fun r => decide (2 ^ 60 ≤ r.pkt ∧ r.pkt < 2 ^ 62 ∧ r.port / 4 = h))
  let t := ((List.range 4).map (fun i => 4 * h + i)).foldl (fun t n =>
    let t := t.losePort n .down
    t.setPort n (t.port n).unpowered) s
  let t : State := { t with
    units := t.units.filter (fun u => u.1 == memoryUnit || u.1 == feedUnit (1 - h) || (2 ≤ u.1 && (u.1 - 2) / 8 != h)),
    feeds := t.feeds.map (fun f => (f.1, if f.1 % 2 = h ∧ f.2.st ≠ .closed ∧ f.2.st ≠ .stalled then
      { f.2 with st := .stalled, before := f.2.st,
                 samples := f.2.samples.map (fun x => { x with phase := .waiting, tomb := none, data := [], fixed := false, concealed := false }) }
      else f.2)),
    fns := t.fns.map (fun f => (f.1, if f.1 / 17 = h then { bound := f.2.bound, part := f.2.part } else f.2)),
    ctrl := { t.ctrl with link0 := t.ctrl.link0 && h != 0, link1 := t.ctrl.link1 && h != 1,
                          nHub := satTo 0xFFFF (t.ctrl.nHub + 1) } }
  let t : State := { t with fns := t.fns.filter (fun f => decide (f.2 ≠ {})) }
  ((t.sessions.filter (fun x => x.2.opened && x.1 % 2 == h)).map Prod.fst).foldl State.sessionReset t

def State.startHub (s : State) (h cause : Nat) (pkts : List (Nat × Nat)) : State :=
  match s.covering 3 h with
  | some r => s.superseded r pkts
  | none =>
    let t := (s.pushReset 3 h cause true pkts).hubDown h
    if t.ctrl.activeHub ≠ h then { t with ctrl := { t.ctrl with standby := false } }
    else if t.ctrl.standby then t.takeOver cause
    else t.startModule byHeartbeat false []

def State.startDie (s : State) (d cause : Nat) (noReplay : Bool) (pkts : List (Nat × Nat)) : State :=
  match s.covering 2 d with
  | some r => s.superseded r pkts
  | none =>
    let t := (s.flushDie d).pushReset 2 d cause noReplay pkts
    let t : State := { t with ctrl := { t.ctrl with nDie := satTo 0xFFFF (t.ctrl.nDie + 1) } }
    (((List.range 10).map (fun i => 10 * d + i)).foldl (fun t e => t.engineDown e false noReplay) t).settle

/-- R427, R429, R430: an engine reset, or a die reset where the die's engines have needed four within the last second. -/
def State.startEngine (s : State) (e cause : Nat) (noReplay : Bool) (pkts : List (Nat × Nat)) : State :=
  match s.covering 0 e with
  | some r => s.superseded r pkts
  | none =>
    let recent := s.ctrl.recent.filter (fun r => decide (s.mtime < r.2 + 10 ^ 9))
    if 4 ≤ (recent.filter (fun r => r.1 == e / 10)).length then
      s.startDie (e / 10) byEscalation noReplay (pkts.map (fun p => (p.1, 0x38)))
    else
      let t := s.pushReset 0 e cause noReplay pkts
      let t : State := { t with ctrl := { t.ctrl with nEngine := satTo 0xFFFF (t.ctrl.nEngine + 1), recent := recent ++ [(e / 10, s.mtime)] } }
      (t.engineDown e (cause == byWatchdog) noReplay).settle

/-- R427: a port's lanes and link state; its replay buffer survives. -/
def State.startPort (s : State) (n cause : Nat) (pkts : List (Nat × Nat)) : State :=
  match s.covering 1 n with
  | some r => s.superseded r pkts
  | none =>
    let t := s.pushReset 1 n cause true pkts
    let t : State := { t with ctrl := { t.ctrl with nPort := satTo 0xFFFF (t.ctrl.nPort + 1) } }
    (t.setPort n { (t.port n).train with st := .down, width := 0, fails := 0 }).reachChanged s

/-! ### RESET_DOMAIN (R431, R432) -/

/-- Check 7 for RESET_DOMAIN. -/
def resetCheck (b : List Byte) : Option (Nat × Nat) :=
  let dom := field b 0 1
  let idx := field b 2 2
  firstBad [(decide (dom ≤ 4), badParam 0), (decide (field b 1 1 < 4), badParam 1),
    (match dom with
      | 0 => decide (idx < 80)
      | 1 => decide (idx < 8)
      | 2 => decide (idx < 8)
      | 3 => decide (idx < 2)
      | _ => idx == 0, badParam 2), (zeroAt b 4 12, badParam 4)]

/-- RESET_DOMAIN: the reset begins, and the packet waits for its end; a module reset ends it at once. -/
def resetDomainRun (s : State) (q : Nat) (k : Packet) : State :=
  let b := k.params
  let dom := field b 0 1
  let idx := field b 2 2
  let fl := field b 1 1
  let part := s.partOf q
  if k.waiting then s
  else if part ≠ 0 ∧ !(dom == 0 && (s.part part).engines.testBit idx) then s.finish k.id stPartitionDenied none
  else
    let t := s.wait k.id
    match dom with
    | 0 => t.startEngine idx byCommand (fl.testBit 1) [(k.id, stOk)]
    | 1 => t.startPort idx byCommand [(k.id, stOk)]
    | 2 => t.startDie idx byCommand true [(k.id, stOk)]
    | 3 => t.startHub idx byCommand [(k.id, stOk)]
    | _ => t.startModule byCommand (fl.testBit 0) [(k.id, stOk)]

def execResetDomain (p : Nat) (s : State) : Host.Outcome State Fault Refusal :=
  answer (.resetDomain p) (match s.managed p 0x0703 with
    | some (q, k) => resetDomainRun s q k
    | none => s)

/-! ### The heartbeat and takeover (R423, R25) -/

/-- R481: the module is coming up. -/
def State.comingUp (s : State) : Bool := s.ctrl.resets.any (fun r => r.cause == byPowerUp)

/-- Whether MTIME, HB_COUNT and the sensors run (R450, R481). -/
def State.awake (s : State) : Bool := s.power.st != .sleep && s.power.st != .off && !s.comingUp

/-- HB_COUNT (R423, R450): every 1 ms. -/
def hbCount (s : State) : State :=
  if !s.awake then s
  else
    let due := s.ctrl.hbAt + 1000000
    let t := s.at due
    { t with ctrl := { t.ctrl with hbCount := (t.ctrl.hbCount + 1) % 2 ^ 32, hbAt := due } }

def execHbCount (s : State) : Host.Outcome State Fault Refusal := answer .hbCount (hbCount s)

/-- R423: engines in reset or in replay. -/
def State.engineDownMask (s : State) : Nat :=
  ((List.range s.order.engines).filter (fun e => (s.engine e).mode != .service
    || s.ctrl.resets.any (fun r => encloses r.dom r.idx 0 e))).foldl (fun m e => m + 2 ^ e) 0

/-- Spare cores of engine `e`, and of the module (R437, R439). -/
def State.spareCores (s : State) (e : Nat) : Nat := ((List.range 128).filter (fun c => decide ((s.core (128 * e + c)).kind = .spare))).length
def State.spareCount (s : State) : Nat := ((List.range s.order.engines).map s.spareCores).sum

/-- R423 DEGRADED: an engine without a spare core, a live port without a spare lane, a channel without a spare row. -/
def State.degraded (s : State) : Bool :=
  (List.range s.order.engines).any (fun e => s.spareCores e == 0) || s.fab.ports.any (fun p => p.2.live && p.2.spares.isEmpty)
    || s.chans.any (fun c => decide (28672 ≤ c.2.sparesUsed))

/-- R423: the record from byte 8 on. -/
def State.heartbeatBody (s : State) : List Byte :=
  let c := s.ctrl
  let dom := (s.curReset.map (·.dom)).getD 7
  let status := c.activeHub + (if c.standby then 2 else 0) + dom * 4 + (if s.degraded then 32 else 0)
  toLe 8 s.mtime ++ toLe 4 c.hbCount ++ toLe 4 status ++ toLe 4 s.coreCount ++ toLe 4 c.quarantines ++ toLe 16 s.engineDownMask
    ++ toLe 2 c.nEngine ++ toLe 2 c.nPort ++ toLe 2 c.nDie ++ toLe 2 c.nHub ++ toLe 2 c.nModule ++ toLe 6 0

/-- HEARTBEAT_RECORD (R423, R428, R438): every 10 ms, through the host port of the active hub or else the other. -/
def heartbeatRecord (s : State) : State :=
  let c := s.ctrl
  let addr := c.hbLo + c.hbHi * 2 ^ 32
  if !c.hbEnable || c.alert || !s.awake || s.ctrl.resets.any (fun r => r.dom == 4) then s
  else
    let due := c.recAt + 10000000
    let t := s.at due
    if isHost addr && !(t.hostUp 0 || t.hostUp 1) then { t with ctrl := { t.ctrl with recAt := due } }
    else
      let t := t.poke 0 (addr + 8) t.heartbeatBody
      let t := t.poke 0 addr (toLe 8 (c.hbSeq + 1))
      { t with ctrl := { t.ctrl with hbSeq := (c.hbSeq + 1) % 2 ^ 64, recAt := due } }

def execHeartbeatRecord (s : State) : Host.Outcome State Fault Refusal := answer .heartbeatRecord (heartbeatRecord s)

/-- TAKEOVER (R25, R27): HB_COUNT has stalled for 3 ms. With no standby ready the module is reset. -/
def takeover (s : State) : State :=
  if !s.awake || s.ctrl.alert || s.ctrl.resets.any (fun r => r.dom == 4) then s
  else
    let t := s.at (s.ctrl.hbAt + 3000000)
    if t.ctrl.standby then t.takeOver byHeartbeat else t.startModule byHeartbeat false []

def execTakeover (s : State) : Host.Outcome State Fault Refusal := answer .takeover (takeover s)

/-- STANDBY_READY (R24): the standby copies hold a complete mirror; their hub is not in reset. -/
def standbyReady (s : State) : State :=
  if !s.awake || s.ctrl.resets.any (fun r => r.dom == 4 || (r.dom == 3 && r.idx != s.ctrl.activeHub)) then s
  else { s with ctrl := { s.ctrl with standby := true } }

def execStandbyReady (s : State) : Host.Outcome State Fault Refusal := answer .standbyReady (standbyReady s)

/-! ### Replay (R434, R435, R437) -/

/-- What re-executing tasks finds: nothing, a failed read, or a read whose answer is not here. -/
inductive Replay where
  | clean
  | fault (status detail : Nat)
  | unknown
  deriving DecidableEq, Repr

/-- R435: the failures of a read. -/
def readFailure (st : Nat) : Bool :=
  decide (st = stMemUncorrectable ∨ st = stMemBounds ∨ st = stFabricUnreachable ∨ st = stRemoteTimeout)

/-- A list's tasks from index `i` on re-executed; a failure other than a read's ends the list. -/
def State.replayTasks (s : State) (q : Nat) (k : Packet) : Nat → Nat → Replay
  | 0, _ => .clean
  | f + 1, i =>
    let bad (e : Err) : Replay := match e with
      | .fail st d => if readFailure st then .fault st d else .clean
      | _ => .unknown
    match s.descriptor q k i with
    | .error e => bad e
    | .ok d =>
      if kindOf d == .bad then .clean
      else match taskOut s q k i (s.ctx k.ctx).policy d with
        | none => State.replayTasks s q k f (i + 1)
        | some r => match (r.run.run []).1 with
          | .error e => bad e
          | .ok _ => State.replayTasks s q k f (i + 1)

/-- R434: the interrupted lists of a suspect, in the order their packets started, from descriptor 0. -/
def State.replayOf (s : State) (e c : Nat) : Replay :=
  let lists := sortBy (fun a b => decide (a.2.startSeq ≤ b.2.startSeq))
    (s.allPkts.filter (fun r => (s.engine e).cut.contains r.2.id && r.2.ctx == c))
  lists.foldl (fun v r => match v with
    | .clean => s.replayTasks r.1 r.2 r.2.run.count 0
    | v => v) .clean

/-- The engine's packets of a suspect are interrupted no more: they end with their status (R435). -/
def State.release (s : State) (e c : Nat) : State :=
  let g := s.engine e
  s.setEngine e { g with suspects := g.suspects.filter (· != c),
                         cut := g.cut.filter (fun p => !(s.pkt p).any (fun r => r.2.ctx == c)) }

/-- R435, R437: after the last suspect the engine returns to service; a core that held a stuck item takes a strike when every
suspect of a watchdog reset has passed, and the second within 24 hours retires it. -/
def State.serveAgain (s : State) (e : Nat) : State :=
  let g := s.engine e
  let hit := if g.watchdog && g.allPassed then g.stuck.eraseDups else []
  let t := hit.foldl (fun t n =>
    let c := t.core n
    let strikes := c.strikes.filter (fun m => decide (t.mtime < m + 86400 * 10 ^ 9)) ++ [t.mtime]
    let t := t.setCore n { c with strikes }
    if 2 ≤ strikes.length then t.retireCore n else t) s
  ((t.setEngine e { progress := g.progress }).settle).startXfers e

/-- The next suspect's test begins, or the engine returns to service. -/
def State.nextTest (s : State) (e : Nat) : State :=
  let g := s.engine e
  if g.suspects.isEmpty then s.serveAgain e
  else if g.noReplay then (s.setEngine e { g with suspects := [], cut := [] }).serveAgain e
  else (s.setEngine e { g with mode := .replay, replayAt := s.mtime, heldSince := s.mtime }).settle

/-- The suspect under test passes (R435). -/
def State.passSuspect (s : State) (e c : Nat) : State :=
  let g := s.engine e
  let t := s.rstEvent 5 0 (if g.watchdog then byWatchdog else byCommand) e c ((s.mtime - g.replayAt) / 1000) 0
  (t.release e c).nextTest e

/-- REPLAY_PASS (R435): every replayed list has finished. -/
def replayPass (s : State) (e mt : Nat) : State :=
  let g := s.engine e
  match g.mode, g.suspects with
  | .replay, c :: _ => match s.replayOf e c with
    | .fault _ _ => s
    | _ => (s.at mt).passSuspect e c
  | _, _ => s

def execReplayPass (e mt : Nat) (s : State) : Host.Outcome State Fault Refusal := answer (.replayPass e mt) (replayPass s e mt)

/-- RST_REPLAY_MS (R435): the limit has elapsed with progress. -/
def rstReplayMs (s : State) (e : Nat) : State :=
  let g := s.engine e
  match g.mode, g.suspects with
  | .replay, c :: _ => (s.at (g.replayAt + s.ctrl.replayMs * 1000000)).passSuspect e c
  | _, _ => s

def execRstReplayMs (e : Nat) (s : State) : Host.Outcome State Fault Refusal := answer (.rstReplayMs e) (rstReplayMs s e)

/-- The interrupted lists of a suspect are to end with a status. -/
def State.cutStatus (s : State) (e c st : Nat) (d : Option Nat) : State :=
  ((s.engine e).cut.filter (fun p => (s.pkt p).any (fun r => r.2.ctx == c))).foldl (fun t p => t.modRun p (fun u =>
    match d with
    | some d => u.fail 0 st d
    | none => { u with stop := some (st, 0) })) s

/-- REPLAY_FAULT (R435): a replayed read fails; what the lists read here decides the status, unless a peer's answer does. -/
def replayFault (s : State) (e st d : Nat) : State :=
  let g := s.engine e
  match g.mode, g.suspects with
  | .replay, c :: _ =>
    let ok := match s.replayOf e c with
      | .clean => false
      | .fault st' d' => decide (st = st' ∧ d = d')
      | .unknown => readFailure st
    if !ok then s
    else
      let t := s.rstEvent 7 0 (if g.watchdog then byWatchdog else byCommand) e c ((s.mtime - g.replayAt) / 1000) st
      let t := t.setEngine e { t.engine e with allPassed := false }
      (((t.cutStatus e c st (some d)).faultCtx c .faulted st d).release e c).nextTest e
  | _, _ => s

def execReplayFault (e status detail : Nat) (s : State) : Host.Outcome State Fault Refusal :=
  answer (.replayFault e status detail) (replayFault s e status detail)

/-! ### Watchdogs (R424 to R426) -/

/-- ENGINE_WATCHDOG (R424, R425, R435): the engine has held work for the watchdog time without progress; in replay its suspect is
quarantined and the engine is reset again. -/
def engineWatchdog (s : State) (e : Nat) : State :=
  let g := s.engine e
  let due := g.heldSince + s.ctrl.wdogMs * 1000000
  match g.mode with
  | .resetting => s
  | .service =>
    if !(s.items.any (fun i => i.eng == e) || s.moverHeld e) || s.paused e then s
    else ((s.at due).rstEvent 1 0 byWatchdog e 0xFFFFFFFF 0 0).startEngine e byWatchdog false []
  | .replay => match g.suspects with
    | [] => s
    | c :: _ =>
      if s.dieStopped (e / 10) ∨ s.replayOf e c = .unknown then s
      else
      let t := s.at due
      let t := t.rstEvent 6 0 byWatchdog e c ((t.mtime - g.replayAt) / 1000) 0
      let t : State := { t with ctrl := { t.ctrl with quarantines := t.ctrl.quarantines + 1 } }
      let t := t.setEngine e { t.engine e with allPassed := false }
      let t := ((t.cutStatus e c stQuarantined none).faultCtx c .quarantined stQuarantined 0).release e c
      t.startEngine e byWatchdog g.noReplay []

def execEngineWatchdog (e : Nat) (s : State) : Host.Outcome State Fault Refusal :=
  answer (.engineWatchdog e) (engineWatchdog s e)

/-- When the items that hub `h`'s media and input units work on began: decoding samples, and media commands that wait for
neither a buffer nor ring space (R405, R426). -/
def State.unitItems (s : State) (h : Nat) : List Nat :=
  let feeds := (s.feeds.filter (fun f => f.1 % 2 == h && s.feedRuns f.1)).flatMap (fun f =>
    (f.2.samples.filter (fun x => x.phase == .decoding)).map (·.startMt))
  let sess := s.allPkts.filter (fun r => (r.2.opcode == 0x0602 || r.2.opcode == 0x0603) && r.2.phase == .started
    && (match s.sessionOf r.2.ctx with
      | some (n, x) => n % 2 == h && s.sessRuns n && x.todo.isEmpty && x.outQ.isEmpty
      | none => false))
  feeds ++ sess.map (·.2.startMt)

/-- UNIT_HANG (R426): the hub of a hung media or input unit is reset. -/
def unitHang (s : State) (h : Nat) : State :=
  match s.unitItems h with
  | [] => s
  | m :: r => (s.at (r.foldl min m + s.ctrl.wdogMs * 1000000)).startHub h byUnitHang []

def execUnitHang (hub : Nat) (s : State) : Host.Outcome State Fault Refusal := answer (.unitHang hub) (unitHang s hub)

/-! ### How a reset ends (R427 to R432) -/

/-- RESET_TIMER_EXPIRY (R427, R428): the reset is abandoned and the wider domain is reset; a module reset asserts ALERT_N. -/
def resetTimerExpiry (s : State) (dom idx : Nat) : State :=
  match s.ctrl.resets.find? (fun r => decide (r.dom = dom ∧ r.idx = idx)) with
  | none => s
  | some r =>
    let t := s.at (r.start + resetTimer dom)
    if dom = 4 then { t with ctrl := { t.ctrl with alert := true } }
    else
      let t : State := { t with ctrl := { t.ctrl with resets := t.ctrl.resets.filter (fun x => !decide (x.dom = dom ∧ x.idx = idx)) } }
      let t := t.rstEvent 4 dom r.cause idx 0xFFFFFFFF 0 0
      let pkts := r.pkts.map (fun p => (p.1, if p.2 = stOk then 0x38 else p.2))
      match dom with
      | 0 => t.startDie (idx / 10) byEscalation r.noReplay pkts
      | 1 => t.startHub (idx / 4) byEscalation pkts
      | _ => t.startModule byEscalation false pkts

def execResetTimerExpiry (dom idx : Nat) (s : State) : Host.Outcome State Fault Refusal :=
  answer (.resetTimerExpiry dom idx) (resetTimerExpiry s dom idx)

/-- R468: writes of FAB_PORT_CTL held during a hub reset are applied in order. -/
def State.applyHeld (s : State) (h : Nat) : State :=
  let mine := s.ctrl.heldWrites.filter (fun w => w.1 / 4 == h)
  let t : State := { s with ctrl := { s.ctrl with heldWrites := s.ctrl.heldWrites.filter (fun w => w.1 / 4 != h) } }
  mine.foldl (fun t w =>
    let t := t.enablePort w.1 (w.2.testBit 0)
    if w.2.testBit 1 then t.retrainPort w.1 else t) t

/-- What the end of a reset brings back. -/
def State.unitBack (s : State) (dom idx : Nat) : State :=
  match dom with
  | 0 => (s.endSequencer idx).nextTest idx
  | 1 => s.tryTrain idx
  | 2 => (((List.range 10).map (fun i => 10 * idx + i)).filter (fun e => decide ((s.engine e).mode = .resetting))).foldl
    (fun t e => (t.endSequencer e).nextTest e) s
  | 3 =>
    let t : State := { s with feeds := (s.feeds.map (fun f => (f.1, if f.1 % 2 = idx ∧ f.2.st = .stalled then
      { f.2 with st := f.2.before, before := .closed } else f.2))).filter (fun f => decide (f.2 ≠ {})) }
    t.applyHeld idx
  | _ => s

/-- RESET_DONE (R427, R432). A channel of a reset die or module whose retraining reports it degraded is retired (R315). -/
def resetDone (s : State) (dom idx mt : Nat) (degraded : List Nat) : State :=
  match s.ctrl.resets.find? (fun r => decide (r.dom = dom ∧ r.idx = idx)) with
  | none => s
  | some r =>
    if s.ctrl.alert ∨ r.start + resetTimer dom < max s.mtime mt then s
    else
    let worn := degraded.filter (fun ch => decide ((dom = 2 ∧ ch / 64 = idx) ∨ (dom = 4 ∧ ch < s.order.chans)))
    if r.cause = byPowerUp then
      worn.foldl State.startRetire { s with mtime := 0, ctrl := { s.ctrl with resets := [], hbAt := 0, recAt := 0 } }
    else
      let t := s.at mt
      let t : State := { t with ctrl := { t.ctrl with resets := t.ctrl.resets.filter (fun x => !decide (x.dom = dom ∧ x.idx = idx)) } }
      let t := t.rstEvent 3 dom r.cause idx 0xFFFFFFFF ((t.mtime - r.start) / 1000) 0
      let t := t.unitBack dom idx
      let t := worn.foldl State.startRetire t
      (r.pkts.foldl (fun t p => t.finish p.1 p.2 none) t).settle

end Sys2Proof.Machine
end

