-- ==== Sys2Proof/Machine/Power.lean ====
section
/-! DEFINITION. Power states, the power cap, die temperature, the input, the wake and the identity (R441 to R458, R476 to
R488), and what the host links do (R449, R474, R482). -/

namespace Sys2Proof.Machine

/-! ### Core voltage (R443, R457) -/

/-- R311, R457: the thermal steps of quadrant `n` (4 · die + q). -/
def State.quadSteps (s : State) (n : Nat) : Nat :=
  min 8 ((s.stack (2 * (n / 4) + n % 4 / 2)).steps + (Tbl.get ({} : Quad) s.power.quads n).steps)

/-- R443: V_q in 5 mV units. -/
def State.vq (s : State) (n : Nat) : Nat := max 110 (min s.power.vset s.power.vcap - 5 * s.quadSteps n)

/-- QUADRANT_THERMAL_SAMPLE (R457): a step more above 100 °C every 1 ms, a step less at 95 °C or below every 10 ms; the die stops
above 110 °C at 0.55 V, until this quadrant has fallen to 100 °C. -/
def quadSample (s : State) (n temp : Nat) : State :=
  if 4 * s.order.dies ≤ n ∨ !s.awake then s
  else
    let set (t : State) (v : Quad) : State := { t with power := { t.power with quads := Tbl.set {} t.power.quads n v } }
    let k := { Tbl.get ({} : Quad) s.power.quads n with temp }
    let k :=
      if 100 < temp ∧ k.steps < 8 ∧ (k.stepAt = 0 ∨ k.stepAt - 1 + 1000000 ≤ s.mtime) then
        { k with steps := k.steps + 1, stepAt := s.mtime + 1 }
      else if temp ≤ 95 ∧ 0 < k.steps ∧ k.stepAt - 1 + 10000000 ≤ s.mtime then
        { k with steps := k.steps - 1, stepAt := if k.steps = 1 then 0 else s.mtime + 1 }
      else k
    let t := set s k
    let k := if 110 < temp ∧ t.vq n = 110 then { k with stop := true } else if temp ≤ 100 then { k with stop := false } else k
    let t := set t k
    let dies := (List.range 8).filter (fun d => (List.range 4).any (fun q => (Tbl.get ({} : Quad) t.power.quads (4 * d + q)).stop))
    if dies = t.power.stopped then t
    else ({ t with power := { t.power with stopped := dies } } : State).settle

def execQuadrantThermalSample (quad temp : Nat) (s : State) : Host.Outcome State Fault Refusal :=
  answer (.quadrantThermalSample quad temp) (quadSample s quad temp)

/-- POWER_CAP_SAMPLE (R456): the input power joins the mean of the last 1 ms; V_cap falls by 25 mV while the mean exceeds the cap,
and rises by 25 mV every 1 ms while it stays below 98 %. -/
def capSample (s : State) (watts centiV : Nat) : State :=
  if !s.awake then s
  else
    let p := s.power
    let window := (watts :: p.window).take 10
    let sum := window.sum
    let n := window.length
    let p := { p with window, watts := sum / n, centiV }
    let p :=
      if p.cap * n < sum then { p with vcap := max 110 (p.vcap - 5), vcapAt := s.mtime }
      else if 100 * sum < 98 * p.cap * n ∧ p.vcapAt + 1000000 ≤ s.mtime then
        { p with vcap := min 170 (p.vcap + 5), vcapAt := s.mtime }
      else p
    { s with power := p }

def execPowerCapSample (watts centiV : Nat) (s : State) : Host.Outcome State Fault Refusal :=
  answer (.powerCapSample watts centiV) (capSample s watts centiV)

/-! ### Power states (R450 to R455) -/

/-- R453, R64, R92: whether a packet with this opcode and this engine mask needs a power state above `st`. -/
def powerCovers (st : PState) (op mask : Nat) : Bool :=
  match st with
  | .active => false
  | .idle => isMover op || decide (0x0201 ≤ op ∧ op ≤ 0x0203) || (op == 0x0801 && mask != 0)
  | .doze => !(op == 0 || op == 0x0301 || op / 256 == 7)
  | _ => true

/-- R452: what keeps the module from DOZE and SLEEP: another started packet, an open feed, session or step. -/
def State.powerBusy (s : State) (p : Nat) : Bool :=
  s.allPkts.any (fun r => r.2.id != p && r.2.phase != .fetched && r.2.startSeq != 0)
    || s.feeds.any (fun f => f.2.st != .closed) || s.sessions.any (fun x => x.2.opened)
    || s.ctxs.any (fun c => c.2.stepState.isOpen)

/-- Check 7 for POWER_STATE. -/
def powerCheck (b : List Byte) : Option (Nat × Nat) := firstBad
  [(decide (field b 0 1 ≤ 3), badParam 0), (decide (field b 1 1 < 4), badParam 1), (zeroAt b 2 14, badParam 2)]

/-- R451: TARGET. -/
def pstateOf (n : Nat) : PState :=
  match n with
  | 0 => .active
  | 1 => .idle
  | 2 => .doze
  | _ => .sleep

/-- POWER_STATE (R451, R452): the transition begins, and the packet waits for its end. -/
def powerRun (s : State) (q : Nat) (k : Packet) : State :=
  let tgt := pstateOf (field k.params 0 1)
  let fl := field k.params 1 1
  if k.waiting then s
  else if s.partOf q ≠ 0 then s.finish k.id stPartitionDenied none
  else if !s.ctrl.resets.isEmpty || s.power.target.isSome then s
  else if tgt = s.power.st then s.finish k.id stOk none
  else if (tgt = .doze ∨ tgt = .sleep) ∧ s.powerBusy k.id then s.finish k.id 0x70 none
  else
    let t := s.wait k.id
    ({ t with power := { t.power with target := some (tgt, some k.id), autoWake := fl.testBit 0, orderly := fl.testBit 1,
                                      wakeHeld := false } } : State).refresh

def execPowerState (p : Nat) (s : State) : Host.Outcome State Fault Refusal :=
  answer (.powerState p) (match s.managed p 0x0704 with
    | some (q, k) => powerRun (s.turned q k) q k
    | none => s)

/-- What a module without power keeps: what is fused, retired or spared (R314 to R316, R437). Host memory, the commands that
wait and the model's own numbers are outside the module; `msix` and the ports' `wire` say what was sent. -/
def State.powerLost (s : State) (st : PState) : State :=
  { order := s.order, pending := s.pending, free := s.free, nextPkt := s.nextPkt, nextSeq := s.nextSeq, host := s.host,
    reply := s.reply, msix := s.msix, mtime := s.mtime,
    cores := (s.cores.map (fun c => (c.1, ({ kind := c.2.kind } : Core)))).filter (fun c => decide (c.2 ≠ Core.fused c.1)),
    chans := (s.chans.map (fun c => (c.1, { c.2 with ceRows := [] }))).filter (fun c => decide (c.2 ≠ {})),
    stackTbl := (s.stackTbl.map (fun k => (k.1, ({ retired := k.2.retired } : Stack)))).filter (fun k => k.2.retired),
    fab := { ports := (s.fab.ports.map (fun p => (p.1, p.2.unpowered))).filter (fun p => decide (p.2 ≠ {})),
             mseq := s.fab.mseq, tag := s.fab.tag },
    parts := [(0, Partition.whole s.order)], ctxs := [(0, Ctx.management s.order)],
    power := { st, cap := s.order.maxWatts }, ctrl := { link0 := false, link1 := false } }

/-- R455, R481: the module comes up, as after power-up; RST_STATUS.DOMAIN reads 4 until it is in ACTIVE. -/
def State.comeUp (s : State) : State :=
  let t := s.powerLost .active
  { t with mtime := 0, ctrl := { t.ctrl with resets := [{ dom := 4, idx := 0, cause := byPowerUp, start := 0 }] } }

/-- R452, R217: every resident context is unloaded. -/
def State.unloadAll (s : State) : State :=
  { s with engines := (s.engines.map (fun e =>
      (e.1, { (e.2.used.foldl Engine.release e.2) with holder := none, waiters := [] }))).filter (fun e => decide (e.2 ≠ {})) }

/-- R450, R452: DOZE is reached: the caches are written back and off, residency and scratchpads are lost, the stacks are in
self-refresh. -/
def State.enterDoze (s : State) : State :=
  let t := s.flushAll.unloadAll
  let t : State := { t with
    sp := {}, spLost := (List.range t.order.engines).map (fun e => (e, t.freeAt + 1)),
    power := { t.power with st := .doze, target := none } }
  (List.range t.order.stackCount).foldl (fun t k => t.setStack k { t.stack k with refresh := true, accessAt := 0 }) t.drew

/-- POWER_TRANSITION_DONE (R452, R453, R455, R480): IDLE is reached once nothing runs, SLEEP once the completion record is written. -/
def transitionDone (s : State) : State :=
  match s.power.target with
  | none => s
  | some (tgt, p) =>
    let ended (t : State) : State := match p with
      | some p => t.finish p stOk none
      | none => t
    match tgt with
    | .idle =>
      if !s.items.isEmpty || s.allPkts.any (fun r => isMover r.2.opcode && r.2.phase == .started) then s
      else ended { s with power := { s.power with st := .idle, target := none } }
    | .doze => ended s.enterDoze
    | .active =>
      let t : State := { s with power := { s.power with st := .active, target := none },
                                stackTbl := (s.stackTbl.map (fun k => (k.1, { k.2 with refresh := false, accessAt := 0 }))).filter
                                  (fun k => decide (k.2 ≠ {})) }
      (ended t).settle
    | _ =>
      let t := match p with
        | some p => (ended s).complete p
        | none => s
      if p.any (fun p => (t.pkt p).isSome) then t
      else
        let t := (if s.power.orderly then t.sendDeparting else t).powerLost .sleep
        if s.power.wakeHeld then t.comeUp else t

def execPowerTransitionDone (s : State) : Host.Outcome State Fault Refusal := answer .powerTransitionDone (transitionDone s)

/-- STACK_SELF_REFRESH (R454): in DOZE, 1 ms after the last access. -/
def selfRefresh (s : State) (stack : Nat) : State :=
  let k := s.stack stack
  if s.power.st ≠ .doze ∨ k.refresh ∨ s.order.stackCount ≤ stack then s
  else
    let t := s.at (k.accessAt + 1000000)
    t.setStack stack { k with refresh := true }

def execStackSelfRefresh (stack : Nat) (s : State) : Host.Outcome State Fault Refusal :=
  answer (.stackSelfRefresh stack) (selfRefresh s stack)

/-! ### Input and wake (R477 to R481) -/

/-- POWER_UP (R477, R481): the input returns. After a short interruption that left ALERT_N asserted, the module stays down
(R478). -/
def powerUp (s : State) : State := if s.power.st ≠ .off ∨ s.ctrl.alert then s else s.comeUp

def execPowerUp (s : State) : Host.Outcome State Fault Refusal := answer .powerUp (powerUp s)

/-- INPUT_OFF (R477, R478): everything is lost. A removal clears ALERT_N; with ALERT_N asserted, a shorter interruption leaves it
clear or asserted, which is not specified. -/
def inputOff (s : State) (full : Bool) : State :=
  let t := s.powerLost .off
  if full || !s.ctrl.alert then t
  else
    let again := s.choice 2 == 1
    { t.drew with ctrl := { t.ctrl with alert := again } }

def execInputOff (full : Bool) (s : State) : Host.Outcome State Fault Refusal := answer (.inputOff full) (inputOff s full)

/-- R480: whether a low pulse of `us` µs on WAKE_N counts; between 0.5 and 1 ms that is not specified. -/
def State.wakes (s : State) (us : Nat) : Bool := decide (1000 ≤ us) || (decide (500 ≤ us) && s.choice 2 == 1)

/-- WAKE_N (R480): it wakes the module from SLEEP, at once or once SLEEP is reached; elsewhere it is ignored. -/
def wakeN (s : State) (us : Nat) : State :=
  let entering := s.power.target.any (fun t => t.1 == .sleep)
  if s.ctrl.alert || !(s.power.st == .sleep || entering) then s
  else
    let t := if 500 ≤ us ∧ us < 1000 then s.drew else s
    if !s.wakes us then t
    else if entering then { t with power := { t.power with wakeHeld := true } }
    else t.comeUp

def execWakeN (us : Nat) (s : State) : Host.Outcome State Fault Refusal := answer (.wakeN us) (wakeN s us)

/-- One nanosecond with no command: MTIME runs in every state but SLEEP (R450, R358). -/
def State.idle (s : State) : State := if s.power.st = .sleep ∨ s.power.st = .off then s else s.tick.releaseAll

/-! ### Host links (R449, R474, R482) -/

/-- The host link of a port. -/
def State.setLink (s : State) (port : Nat) (up : Bool) : State :=
  { s with ctrl := if port = 0 then { s.ctrl with link0 := up } else { s.ctrl with link1 := up } }

/-- PERSTN_N (R482): the port's controller and functions, and no domain. The bindings of its virtual functions stay (R471). -/
def perstnN (s : State) (port : Nat) : State :=
  let t : State := { s with fns := (s.fns.map (fun f =>
    (f.1, if f.1 / 17 = port then { bound := f.2.bound, part := f.2.part } else f.2))).filter (fun f => decide (f.2 ≠ {})) }
  t.setLink port false

def execPerstnN (port : Nat) (s : State) : Host.Outcome State Fault Refusal := answer (.perstnN port) (perstnN s port)

/-- PCIE_LINK_DOWN (R449). -/
def execPcieLinkDown (port : Nat) (s : State) : Host.Outcome State Fault Refusal :=
  answer (.pcieLinkDown port) (s.setLink port false)

/-- PCIE_LINK_UP (R474): the messages held for the port's functions are sent, in order of function and of holding. -/
def linkUp (s : State) (port : Nat) : State :=
  if s.power.st = .sleep ∨ s.power.st = .off ∨ s.ctrl.resets.any (fun r => r.dom == 3 && r.idx == port) then s
  else
    let t := s.setLink port true
    (t.fns.filter (fun f => f.1 / 17 == port)).foldl (fun t f =>
      (f.2.pendingVec.foldl (fun t v => t.irq f.1 v) t).setFn f.1 { f.2 with pendingVec := [] }) t

/-! ### Identity (R3, R4, R469, R486, R487) -/

/-- R469: CAP_ID. -/
def State.capId (s : State) : Nat := 0xA1 + s.order.code * 256
/-- R3: CAP_UNITS. -/
def State.capUnits (s : State) : Nat := if s.order.media then 0xFF else 0xE0
/-- R4: CAP_COUNTS. -/
def State.capCounts (s : State) : Nat :=
  s.order.dies + s.order.engines * 2 ^ 4 + s.coreCount * 2 ^ 11 + s.order.stackCount * 2 ^ 25 + (if s.order.lanes = 48 then 2 ^ 30 else 0)

/-- Exactly `n` bytes, NUL-padded. -/
def padded (n : Nat) (bs : List Byte) : List Byte := (bs ++ List.replicate n 0#8).take n

/-- R487: bytes 0 to 63 of the result. -/
def State.identHead (s : State) : List Byte :=
  padded 16 Config.serial ++ toLe 4 s.capId ++ toLe 4 s.capUnits ++ toLe 4 s.capCounts ++ toLe 4 0 ++ padded 32 Config.pubKey

/-- R487: the 128 bytes, signed over "AZID", the nonce and bytes 0 to 63. -/
def State.identResult (s : State) (nonce : List Byte) : List Byte :=
  s.identHead ++ padded 64 (Config.sign ([0x41#8, 0x5A#8, 0x49#8, 0x44#8] ++ nonce ++ s.identHead))

/-- Check 7 for IDENT_CHALLENGE. -/
def identCheck (b : List Byte) : Option (Nat × Nat) := firstBad
  [(decide (field b 32 8 % 8 = 0), badParam 32), (zeroAt b 40 24, badParam 40)]

/-- IDENT_CHALLENGE (R486, R487). -/
def identRun (s : State) (q : Nat) (k : Packet) : State :=
  if isHost (field k.params 32 8) && !s.hostPath q then s
  else match s.store { s.accOf q k with host := true } (field k.params 32 8) (s.identResult (k.params.take 32)) with
  | (t, some e) => t.onErr q k e
  | (t, none) => t.finish k.id stOk none

def execIdentChallenge (p : Nat) (s : State) : Host.Outcome State Fault Refusal :=
  answer (.identChallenge p) (match s.managed p 0x0705 with
    | some (q, k) => identRun (s.turned q k) q k
    | none => s)

end Sys2Proof.Machine
end

