-- ==== Sys2Proof/Machine/Commands.lean ====
section
/-! DEFINITION. The Ryrus command protocol: doorbells, fetching, the checks, the start conditions, completion, halt and flush
(R34 to R64). -/

namespace Sys2Proof.Machine

/-! ### The functions of the host ports (R459, R464, R471, R472) -/

/-- A physical function. -/
def isPf (fn : Nat) : Bool := fn % 17 == 0
/-- Accesses of the function arrive: its port's link is up, its hub not in reset (R468). -/
def State.fnUp (s : State) (fn : Nat) : Bool := s.hostUp (fn / 17)
/-- The function is the physical one, or bound (R471). -/
def State.fnBound (s : State) (fn : Nat) : Bool := isPf fn || (s.fn fn).bound
/-- The partition that the function acts for. -/
def State.fnPart (s : State) (fn : Nat) : Nat := if isPf fn then 0 else (s.fn fn).part
/-- R464, R472: the function sees what belongs to partition `p`. -/
def State.fnSees (s : State) (fn p : Nat) : Bool := isPf fn || ((s.fn fn).bound && (s.fn fn).part == p)

/-! ### Queues (R34, R38, R44) -/

def Queue.slots (u : Queue) : Nat := 2 ^ u.log2
/-- Slots from the head to the tail. -/
def Queue.filled (u : Queue) : Nat := if u.overrun = 0 then (u.tail + u.slots - u.head) % u.slots else u.overrun
/-- R38: how many pending slots, from the head on, later slots have overwritten. -/
def Queue.spoiled (u : Queue) : Nat := u.overrun - u.slots
/-- The head moves on by `n` slots. -/
def Queue.advance (u : Queue) (n : Nat) : Queue :=
  { u with head := (u.head + n) % u.slots, overrun := if u.overrun - n < u.slots then 0 else u.overrun - n, kept := u.kept.drop n }
/-- R44, R61: the head moves to the tail. -/
def Queue.emptied (u : Queue) : Queue := { u with head := u.tail, overrun := 0, kept := [] }

/-- What slot `i` of queue `q`'s ring holds, as software has made it visible (R38). -/
def State.slotBytes (s : State) (q i : Nat) : List Byte :=
  let u := s.queue q
  match ((load s { part := u.part, host := true } (u.base + 64 * (i % u.slots)) 64).run.run []).1 with
  | .ok b => b
  | .error _ => List.replicate 64 0#8

/-- CMD_TAIL (R38). What the covered slots hold is kept as the old form of what a later tail may overwrite. Past a tail that passes the
head, every slot that a doorbell has covered stays pending (notes/assumptions/162). -/
def cmdTail (s : State) (fn q v : Nat) : State :=
  let u := s.queue q
  if !s.fnUp fn || !s.fnSees fn u.part then s
  else if u.slots ≤ v then s.setQueue q { u with badBell := true }
  else
    let d := (v + u.slots - u.tail) % u.slots
    let n := u.filled + d
    s.setQueue q { u with tail := v, overrun := if n < u.slots then 0 else n,
                          kept := u.kept ++ (List.range d).map (fun i => s.slotBytes q (u.tail + i)) }

def execCmdTail (fn q v : Nat) (s : State) : Host.Outcome State Fault Refusal := answer (.cmdTail fn q v) (cmdTail s fn q v)

/-- CPL_HEAD (R37, R54): waiting records follow. A value that no record of the ring has is taken modulo the ring's size or
ignored, which is not specified. -/
def cplHead (s : State) (fn c v : Nat) : State :=
  if !s.fnUp fn || !s.fnSees fn (s.partOf c) then s
  else
    let r := s.ring c
    let h := v % 2 ^ 16
    if h < 2 ^ r.log2 then (s.setRing c { r with head := h }).drainRing c
    else if s.choice 2 = 0 then s.drew
    else (s.drew.setRing c { r with head := h % 2 ^ r.log2 }).drainRing c

def execCplHead (fn c v : Nat) (s : State) : Host.Outcome State Fault Refusal := answer (.cplHead fn c v) (cplHead s fn c v)

/-! ### Headers (R42, R43, R64) -/

/-- R64: the PARAM_LEN range of an opcode of the master table. -/
def paramRange (op : Nat) : Option (Nat × Nat) :=
  match op with
  | 0x0101 | 0x0102 | 0x0103 | 0x0104 | 0x0201 | 0x0202 | 0x0301 | 0x0303 => some (32, 32)
  | 0x0203 | 0x0302 | 0x0403 | 0x0503 | 0x0703 | 0x0704 | 0x0801 | 0x0802 => some (16, 16)
  | 0x0304 | 0x0601 | 0x0603 => some (128, 128)
  | 0x0401 => some (72, 8256)
  | 0x0402 | 0x0504 | 0x0602 | 0x0705 => some (64, 64)
  | 0x0404 => some (16, 32784)
  | 0x0501 | 0x0701 => some (256, 256)
  | 0x0502 => some (48, 65520)
  | 0x0702 => some (0, 0)
  | _ => none

/-- R42. -/
def headerPacket (id : Nat) (h : List Byte) : Packet :=
  let w := field h 4 4
  { id, opcode := field h 0 2, flags := field h 2 1, fence := field h 3 1, ctx := fld w 0 20, prio := fld w 20 2,
    cls := fld w 24 3, tag := field h 8 4, plen := field h 12 2, notBefore := field h 16 8, waitAddr := field h 24 8,
    waitVal := field h 32 8, sigAddr := field h 40 8 }

/-- R35, R43: the slots that a packet occupies. -/
def headerSlots (h : List Byte) : Nat := if (field h 2 1).testBit 3 then 2 else cdiv (64 + field h 12 2) 64

/-- Check 2 (R56): the first bad field of the packet whose first slots are `h`. The address of an indirect block and the zeros behind it
(R43) are judged with the header, at packet offsets 64 and 72 (notes/assumptions/130). -/
def headerCheck (h : List Byte) : Option (Nat × Nat) :=
  let fl := field h 2 1
  let w := field h 4 4
  let n := field h 12 2
  let ind := fl.testBit 3
  let bad (off : Nat) : Option (Nat × Nat) := some (stBadParam, off)
  firstBad
    [(decide (fl < 32), bad 2), (decide (fld w 22 2 = 0 ∧ fld w 27 5 = 0), bad 4),
     (n % 8 == 0 && (ind || decide (n ≤ 4032)) && (match paramRange (field h 0 2) with
        | some (lo, hi) => decide (lo ≤ n ∧ n ≤ hi)
        | none => false) && (field h 0 2 != 0x0502 || n % 16 == 0), bad 12),
     (field h 14 1 == 1, bad 14), (zeroAt h 15 1, bad 15), (!fl.testBit 0 || field h 24 8 % 8 == 0, bad 24),
     (!fl.testBit 1 || field h 40 8 % 8 == 0, bad 40), (zeroAt h 48 16, bad 48), (!ind || field h 64 8 % 8 == 0, bad 64),
     (!ind || zeroAt h 72 56, bad 72)]

/-- Check 3 (R5, R207, R336): the packet names a media unit, engine, die or stack that is not fitted. MEM_ATOMIC's ENGINE is judged in
the lock operations that use it alone, and of PARTITION_SET's mask only the 80 bits that name engines (notes/assumptions/39). -/
def State.unitAbsent (s : State) (op : Nat) (b : List Byte) : Bool :=
  match op with
  | 0x0601 | 0x0602 | 0x0603 => !s.order.media
  | 0x0501 => !s.order.media && (List.range (min 8 (field b 3 1))).any (fun k => (fieldOf (entryOf b k)).media)
  | 0x0701 => decide (2 ^ s.order.engines ≤ field b 8 16)
  | 0x0304 => decide (2 ^ s.order.engines ≤ field b 8 16 % 2 ^ 80)
  | 0x0301 => decide (4 ≤ field b 24 1 ∧ s.order.engines ≤ field b 26 1 ∧ field b 26 1 ≠ 0xFF)
  | 0x0303 => decide (field b 18 1 < 6 ∧ eccUnits s.order (field b 18 1) ≤ field b 20 2)
  | 0x0703 => decide (field b 0 1 = 0 ∧ s.order.engines ≤ field b 2 2) || decide (field b 0 1 = 2 ∧ s.order.dies ≤ field b 2 2)
  | _ => false

/-- Packets that an engine sequencer or a stream mover executes (R64), COUNTERS_READ apart. -/
def needsEngine (op : Nat) : Bool := isMover op || decide (0x0201 ≤ op ∧ op ≤ 0x0203)

/-- Check 4 (R56, R58, R208). For CONTEXT_CREATE it is made later. -/
def State.ctxCheck (s : State) (q : Nat) (k : Packet) : Option (Nat × Nat) :=
  let c := s.ctx k.ctx
  let dying := s.allPkts.any (fun r => r.2.opcode == 0x0702 && r.2.phase == .started && r.2.ctx == k.ctx)
  if k.opcode = 0x0701 then none
  else if c.state = .free ∨ c.part ≠ s.partOf q ∨ dying ∨ (k.opcode = 0x0702 ∧ k.ctx = 0) ∨ (needsEngine k.opcode ∧ c.engines = 0) then
    some (stBadParam, 4)
  else none

/-- Check 7 (R56): the parameter block. -/
def State.paramCheck (s : State) (q : Nat) (k : Packet) : Option (Nat × Nat) :=
  let b := k.params
  match k.opcode with
  | 0x0101 => copyCheck b
  | 0x0102 => fillCheck b
  | 0x0103 => hostCheck s true b
  | 0x0104 => hostCheck s false b
  | 0x0201 => tasklistCheck b
  | 0x0202 => stepCheck s b
  | 0x0203 => commitCheck b
  | 0x0301 => atomicCheck s k
  | 0x0302 => scrubCheck b
  | 0x0303 => flipCheck b
  | 0x0304 => partitionCheck s b
  | 0x0401 => joinCheck s b
  | 0x0402 => bucketCheck b
  | 0x0403 => commitCheck b
  | 0x0404 => shadowCheck s k.ctx b
  | 0x0501 => feedOpenCheck s q b
  | 0x0502 => feedSubmitCheck s q b
  | 0x0503 => feedCloseCheck s q b
  | 0x0504 => tokenizerCheck s b
  | 0x0601 => sessionOpenCheck s q b
  | 0x0602 => mediaDecodeCheck s k.ctx b
  | 0x0603 => mediaEncodeCheck s k.ctx b
  | 0x0701 => createCheck s q b
  | 0x0703 => resetCheck b
  | 0x0704 => powerCheck b
  | 0x0705 => identCheck b
  | 0x0801 => countersCheck b
  | 0x0802 => policyCheck b
  | _ => none

/-! ### Fetching (R35, R36, R38, R44, R56, R227, R328) -/

/-- A packet joins its queue. -/
def State.addPkt (s : State) (q : Nat) (k : Packet) : State :=
  ({ s with nextPkt := s.nextPkt + 1 } : State).setQueue q { s.queue q with pkts := (s.queue q).pkts ++ [k] }

/-- R227: a job of client `v` is submitted. -/
def State.submit (s : State) (v : Nat) : State := s.setClient v (((s.client v).1 + 1) % 2 ^ 64, (s.client v).2)

/-- The first failure of checks 1 to 4, made at fetch; check 3 of an indirect block waits for the block. -/
def State.fetchCheck (s : State) (q : Nat) (k : Packet) (h : List Byte) : Option (Nat × Option Nat) :=
  if (paramRange k.opcode).isNone then some (stBadOpcode, none)
  else match headerCheck h with
    | some (st, d) => some (st, some d)
    | none =>
      if (k.indirect.isNone || k.opcode / 256 == 6) && s.unitAbsent k.opcode k.params then some (stUnitAbsent, none)
      else (s.ctxCheck q k).map (fun r => (r.1, some r.2))

/-- `n` slots of the ring from the head on, as the fetcher reads them, or, of slots that have been overwritten, in the old form (R38). -/
def State.ringBytes (s : State) (q n : Nat) (old : Bool) : Except Err (List Byte) :=
  let u := s.queue q
  if old then .ok ((u.kept.take n).flatten)
  else ((load s { part := u.part, host := true } (u.base + 64 * u.head) (64 * n)).run.run []).1

/-- What the reading of `n` slots leaves (R329, R333). -/
def State.ringRead (s : State) (q n : Nat) (old : Bool) : State :=
  let u := s.queue q
  if old then s else (s.reading { part := u.part, host := true } (load s { part := u.part, host := true } (u.base + 64 * u.head) (64 * n))).2

/-- What fetching a slot finds at the head of a queue. -/
inductive Fetched where
  /-- nothing to read yet -/
  | wait
  /-- R328: the ring cannot be read -/
  | broken (status detail : Nat)
  /-- R44: more slots claimed than the ring can hold -/
  | tooLong (h : List Byte)
  /-- the packet's slots -/
  | slots (h : List Byte)
  deriving DecidableEq, Repr

/-- What stands at the head, in its old form or as the ring has it. -/
def State.look (s : State) (q : Nat) (old : Bool) : Fetched :=
  let u := s.queue q
  let fail (e : Err) : Fetched := match e with
    | .fail st d => .broken st d
    | .remote g _ => .broken stMemBounds g
    | .held => .wait
  if u.filled = 0 ∨ (isHost u.base ∧ !s.hostPath q) then .wait
  else match s.ringBytes q 1 old with
    | .error e => fail e
    | .ok h =>
      let n := headerSlots h
      if u.slots - 1 < n ∨ u.slots < u.head + n then .tooLong h
      else if u.filled < n then .wait
      else match s.ringBytes q n old with
        | .error e => fail e
        | .ok b => .slots b

/-- The packet of some slots: its header with its inline parameters, or with where they stand (R43). -/
def packetOf (id : Nat) (b : List Byte) : Packet :=
  let k := headerPacket id b
  if k.flags.testBit 3 then { k with indirect := some (field b 64 8) } else { k with params := (b.drop 64).take k.plen }

/-! ### The layout as software writes it (R35, R42, R43) -/

/-- R42: the 64 bytes of a packet's header. -/
def encodeHeader (k : Packet) : List Byte :=
  toLe 2 k.opcode ++ toLe 1 k.flags ++ toLe 1 k.fence ++ toLe 4 (k.ctx + k.prio * 2 ^ 20 + k.cls * 2 ^ 24) ++ toLe 4 k.tag
    ++ toLe 2 k.plen ++ [1#8, 0#8] ++ toLe 8 k.notBefore ++ toLe 8 k.waitAddr ++ toLe 8 k.waitVal ++ toLe 8 k.sigAddr
    ++ List.replicate 16 0#8

/-- R35, R43: the slots of a packet: its header, and its parameters up to a whole slot or the address of its block. -/
def encodePacket (k : Packet) : List Byte :=
  encodeHeader k ++ (match k.indirect with
    | some g => toLe 8 g ++ List.replicate 56 0#8
    | none => k.params ++ List.replicate (64 * cdiv (64 + k.params.length) 64 - (64 + k.params.length)) 0#8)

/-- R42, R43: every field of a packet as it is written fits its place, and its parameters are where its flags say. -/
def Packet.spells (k : Packet) : Bool :=
  decide (k.opcode < 2 ^ 16 ∧ k.flags < 2 ^ 8 ∧ k.fence < 2 ^ 8 ∧ k.ctx < 2 ^ 20 ∧ k.prio < 2 ^ 2 ∧ k.cls < 2 ^ 3 ∧ k.tag < 2 ^ 32)
    && decide (k.plen < 2 ^ 16 ∧ k.notBefore < 2 ^ 64 ∧ k.waitAddr < 2 ^ 64 ∧ k.waitVal < 2 ^ 64 ∧ k.sigAddr < 2 ^ 64)
    && (match k.indirect with
      | some g => k.flags.testBit 3 && decide (g < 2 ^ 64) && k.params.isEmpty
      | none => !k.flags.testBit 3 && decide (k.params.length = k.plen))

/-- What a packet is when it has just been fetched: what its slots say. -/
def Packet.written (k : Packet) : Packet :=
  { id := k.id, opcode := k.opcode, flags := k.flags, fence := k.fence, ctx := k.ctx, prio := k.prio, cls := k.cls, tag := k.tag,
    plen := k.plen, notBefore := k.notBefore, waitAddr := k.waitAddr, waitVal := k.waitVal, sigAddr := k.sigAddr,
    indirect := k.indirect, params := k.params }

/-- The packet at the head is fetched. -/
def State.fetchSlots (s : State) (q : Nat) (b : List Byte) : State :=
  let k := packetOf s.nextPkt b
  let t := s.setQueue q ((s.queue q).advance (headerSlots b))
  if k.opcode = 0 then t
  else match s.fetchCheck q k b with
    | some (st, d) => (t.addPkt q k).finishSilent k.id st d
    | none =>
      if k.opcode = 0x0701 then t.addPkt q k
      else
        let v := (s.ctx k.ctx).client
        (t.submit v).addPkt q { k with client := some v }

/-- R44: a packet that claims too much completes with BAD_PARAM, and its queue halts with HEAD at the tail. A NOP writes no
record. -/
def State.fetchTooLong (s : State) (q : Nat) (h : List Byte) : State :=
  let k := headerPacket s.nextPkt h
  let t := s.setQueue q { (s.queue q).emptied with halted := true }
  if k.opcode = 0 then t else (t.addPkt q k).finishSilent k.id stBadParam (some 12)

/-- R328, R60: the ring cannot be read: one record with TAG 0, and the queue halts. -/
def State.fetchBroken (s : State) (q st d : Nat) : State :=
  ((s.haltQueue q).addPkt q { id := s.nextPkt }).finishSilent s.nextPkt st (some d)

/-- Fetching goes on: the module is up, the queue enabled and not halted (R40, R60, R481). -/
def State.fetches (s : State) (q : Nat) : Bool :=
  s.awake && !s.ctrl.alert && !s.ctrl.resets.any (fun r => r.dom == 4) && (s.queue q).enable && !(s.queue q).halted

/-- A packet that FLUSH finds in the ring: fetched, and cancelled. -/
def State.cancelSlots (s : State) (q : Nat) (b : List Byte) : State :=
  let k := packetOf s.nextPkt b
  let t := s.setQueue q ((s.queue q).advance (headerSlots b))
  if k.opcode = 0 then t
  else if (s.fetchCheck q k b).isSome ∨ k.opcode = 0x0701 then ((t.addPkt q k).finishSilent k.id stCancelled none).complete k.id
  else
    let v := (s.ctx k.ctx).client
    (((t.submit v).addPkt q { k with client := some v }).finishSilent k.id stCancelled none).complete k.id

/-- The packets from the head to the tail are cancelled in ring order. Answers whether the ring has been gone through; it has not where
it cannot be read yet. What stands behind a header that claims more than the ring, or behind a slot that cannot be read, is no
packet any more (R44, R328). -/
def State.cancelRing : Nat → State → Nat → State × Bool
  | 0, s, _ => (s, true)
  | f + 1, s, q => match s.look q false with
    | .slots b => State.cancelRing f ((s.ringRead q (headerSlots b) false).cancelSlots q b) q
    | .tooLong h =>
      let k := headerPacket s.nextPkt h
      let s := s.ringRead q 1 false
      (if k.opcode = 0 then s else ((s.addPkt q k).finishSilent k.id stCancelled none).complete k.id, true)
    | .broken st d => ((((s.ringRead q 1 false).addPkt q { id := s.nextPkt }).finishSilent s.nextPkt st (some d)).complete s.nextPkt, true)
    | .wait => (s, (s.queue q).filled = 0 ∨ ((s.ringBytes q 1 false).toOption.isSome ∧ ¬ (isHost (s.queue q).base ∧ !s.hostPath q)))

/-- R61: the ring of a queue that is being flushed is gone through; then HEAD is at the tail, and HALTED is clear once every record
has been written. -/
def State.flushRing (s : State) (q : Nat) : State :=
  match State.cancelRing (s.queue q).filled s q with
  | (t, true) => (t.setQueue q { (t.queue q).emptied with flushing := true, flushed := true }).endFlush q
  | (t, false) => t.setQueue q { t.queue q with flushing := true }

/-- PACKET_FETCH. An overwritten packet runs in its new form, in its old one, or completes with BAD_PARAM (R38). The fetcher of a queue
that is being flushed goes on with that (R61). -/
def packetFetch (s : State) (q : Nat) : State :=
  if (s.queue q).flushing && !(s.queue q).flushed then s.flushRing q
  else if !s.fetches q then s
  else if (s.queue q).spoiled = 0 then
    match s.look q false with
    | .wait => s
    | .broken st d => (s.ringRead q 1 false).fetchBroken q st d
    | .tooLong h => (s.ringRead q 1 false).fetchTooLong q h
    | .slots b => (s.ringRead q (headerSlots b) false).fetchSlots q b
  else
    let c := s.choice 3
    match s.look q (c != 0) with
    | .wait => s.drew
    | .broken st d => (s.drew.ringRead q 1 (c != 0)).fetchBroken q st d
    | .tooLong h => (s.drew.ringRead q 1 (c != 0)).fetchTooLong q h
    | .slots b =>
      let s := s.ringRead q (headerSlots b) (c != 0)
      if c = 2 then
        let t := s.drew.setQueue q ((s.queue q).advance (headerSlots b))
        if field b 0 2 = 0 then t else (t.addPkt q (headerPacket s.nextPkt b)).finishSilent s.nextPkt stBadParam none
      else s.drew.fetchSlots q b

def execPacketFetch (q : Nat) (s : State) : Host.Outcome State Fault Refusal := answer (.packetFetch q) (packetFetch s q)

/-- NOP (R35): it occupies its slots; it has no effect and no record. -/
def nopRun (s : State) (q : Nat) : State :=
  if !s.fetches q || (s.queue q).spoiled != 0 then s
  else match s.look q false with
    | .slots b => if field b 0 2 = 0 then (s.ringRead q (headerSlots b) false).setQueue q ((s.queue q).advance (headerSlots b)) else s
    | _ => s

def execNop (q : Nat) (s : State) : Host.Outcome State Fault Refusal := answer (.nop q) (nopRun s q)

/-! ### Start conditions (R47 to R49) -/

/-- The first packet of the queue that has not started, and the uncompleted ones before it. -/
def frontOf : List Packet → List Packet → Option (List Packet × Packet)
  | _, [] => none
  | before, k :: r => if k.phase = .fetched then some (before, k) else frontOf (before ++ [k]) r

def State.front (s : State) (q : Nat) : Option (List Packet × Packet) := frontOf [] (s.queue q).pkts

/-- R47: no uncompleted packet before it has a CLASS that its FENCE names. -/
def fenceMet (before : List Packet) (k : Packet) : Bool := !before.any (fun e => k.fence.testBit e.cls)

/-- R49: the WAIT semaphore read: what was read decides; an error ends the packet with WAIT_ADDR in DETAIL. A peer's word is
asked for, and the data that landed for an earlier read is used once. -/
def State.readSem (s : State) (q : Nat) (k : Packet) : State :=
  let a : Acc := { s.accOf q k with host := true }
  match s.reading a (loadNat s a k.waitAddr 8) with
  | (.ok v, t) => (if s.isPeer k.waitAddr then t.dropLanded k.id else t).modPkt k.id (fun p => { p with semOk := decide (k.waitVal ≤ v) })
  | (.error (.remote g n), t) => match t.askRead (t.partOf q) k.id g n (sem := true) with
    | .ok t => t
    | .error (.fail st _) => t.finishSilent k.id st (some k.waitAddr)
    | .error _ => t
  | (.error (.fail st _), t) => t.finishSilent k.id st (some k.waitAddr)
  | (.error .held, t) => t

/-- WAIT_SEMAPHORE_REREAD (R49): of the packet that waits at the front of the queue. A peer's word is asked for once nothing else holds
the packet back, so that its answer and the other conditions hold at the same time (R47). -/
def semReread (s : State) (q : Nat) : State :=
  match s.front q with
  | some (before, k) => if s.isPeer k.waitAddr && !(fenceMet before k && decide (k.notBefore ≤ s.mtime)) then s else if k.flags.testBit 0 && (!isHost k.waitAddr || s.hostPath q) then s.readSem q k else s
  | none => s

def execWaitSemaphoreReread (q : Nat) (s : State) : Host.Outcome State Fault Refusal :=
  answer (.waitSemaphoreReread q) (semReread s q)

/-- MTIME_NOT_BEFORE (R48): MTIME reaches the value for which the packet at the front of the queue waits. -/
def notBefore (s : State) (q : Nat) : State :=
  match s.front q with
  | some (_, k) => s.at k.notBefore
  | none => s

def execMtimeNotBefore (q : Nat) (s : State) : Host.Outcome State Fault Refusal := answer (.mtimeNotBefore q) (notBefore s q)

/-! ### Starting (R43, R56, R59, R233, R234, R453) -/

/-- R43: the indirect block read in the packet's name. -/
def State.readBlock (s : State) (q : Nat) (k : Packet) (g : Nat) : Except State State :=
  let a : Acc := { s.accOf q k with host := true }
  match s.reading a (load s a g k.plen) with
  | (.ok b, t) => .ok ((t.dropLanded k.id).modPkt k.id (fun p => { p with indirect := none, params := b }))
  | (.error e, t) => .error (t.onErr q k e)

/-- Checks 5 and 6, and check 4 of CONTEXT_CREATE: what the state of the context decides. An indirect block is not read for a packet
that they end. -/
def State.stateCheck (s : State) (k : Packet) : Option (Nat × Option Nat) :=
  let c := s.ctx k.ctx
  if k.opcode = 0x0701 then
    if k.ctx = 0 then some (stBadParam, some 4)
    else if c.state ≠ .free then some (stContextExists, none)
    else none
  else if k.opcode ≠ 0x0702 ∧ c.state = .faulted then some (stContextFaulted, none)
  else if k.opcode ≠ 0x0702 ∧ c.state = .quarantined then some (stQuarantined, none)
  else none

/-- Checks 3 to 7 as they are made once the start conditions hold. -/
def State.startCheck (s : State) (q : Nat) (k : Packet) : Option (Nat × Option Nat) :=
  if s.unitAbsent k.opcode k.params then some (stUnitAbsent, none)
  else match s.stateCheck k with
    | some r => some r
    | none => (s.paramCheck q k).map (fun r => (r.1, some r.2))

/-- The stack controller, plus 1, of the home of a global address in a partition's memory here; 0 where it is elsewhere. -/
def State.homeUnit (s : State) (part g : Nat) : Nat :=
  if g >>> 48 = s.fab.moduleId ∧ g % 2 ^ 48 < s.memBytes part then 1 + chanOf (s.place part (g % 2 ^ 48)) / 32 else 0

/-- R64: the unit that serves a packet among others, plus 1: the stack controller of a local atomic's home or of a channel's mask, the
stack controllers together, the module controller, the record parser of a hub, Nougat, the codec of a hub, an engine sequencer, or the
SRAM class of a mask. Stream movers (R302), lists (R216) and the commands of a media session (R219, R401) have orders of their own. -/
def State.unitOf (s : State) (q : Nat) (k : Packet) : Nat :=
  match k.opcode with
  | 0x0301 => s.homeUnit (s.partOf q) (field k.params 0 8)
  | 0x0302 | 0x0402 => allStacks
  | 0x0303 => if field k.params 18 1 = 0 then 1 + field k.params 20 2 / 32 else 104 + field k.params 18 1
  | 0x0304 | 0x0401 | 0x0403 | 0x0404 | 0x0802 | 0x0701 | 0x0702 | 0x0704 | 0x0705 => 18
  | 0x0501 | 0x0502 | 0x0503 => 19 + field k.params 0 2 % 2
  | 0x0504 => 21
  | 0x0601 => 22 + field k.params 0 2 % 2
  | 0x0202 | 0x0203 | 0x0801 => ((s.stepEngine k.ctx).map (24 + ·)).getD 18
  | _ => 0

/-- The packet starts: it takes its place in the order of starting (R63, R216), and with it the seed and the
step of its context (R118, R236): no step is open in COMMITTED or ABORTED, and SEED and STEP are then 0. A CONTEXT_DESTROY takes effect on waiting packets at once (R59). -/
def State.startPkt (s : State) (q : Nat) (k : Packet) (role : Role) : State :=
  let c := s.ctx k.ctx
  let inStep := c.stepState.isOpen || role != .ordinary
  let step := if role = .lookahead then (c.step + 1) % 2 ^ 32 else if inStep then c.step else 0
  let t : State := { s with nextSeq := s.nextSeq + 1 }
  let t := t.modPkt k.id (fun p => { p with
    phase := .started, startSeq := t.nextSeq, startMt := t.mtime, unit := s.unitOf q k,
    run := { p.run with role, seed := if inStep then c.seed else 0, step } })
  if k.opcode = 0x0702 then t.beginDestroy k.ctx k.id else t

/-- R227: a CONTEXT_CREATE that passes check 4 is a job of the CLIENT of its block. -/
def State.countCreate (s : State) (k : Packet) : State :=
  (s.submit (field k.params 4 2)).modPkt k.id (fun p => { p with client := some (field k.params 4 2) })

/-- R453: AUTO_WAKE starts a transition to ACTIVE. -/
def State.autoWake (s : State) : State :=
  if s.power.target.isSome then s else { s with power := { s.power with target := some (.active, none) } }

/-- The conditions of R47 hold for the packet `k` at the front, whose block is read: the checks, the judging of a list, the start. -/
def State.judgeStart (s : State) (q : Nat) (k : Packet) : State :=
  let s := if k.opcode = 0x0701 ∧ !s.unitAbsent k.opcode k.params ∧ (s.stateCheck k).isNone then s.countCreate k else s
  match s.startCheck q k with
  | some (st, d) => s.finishSilent k.id st d
  | none =>
    if k.opcode = opTasklist then
      match s.judge k (field k.params 12 1) with
      | (t, .start role) => t.startPkt q k role
      | (t, .hold) => t
      | (t, .closed) => t.finishSilent k.id 0x4E none
    else
      let t := s.startPkt q k .ordinary
      match (if isMover k.opcode then s.freeMover k else none) with
      | some e => t.giveMover q k e
      | none => t

/-- PACKET_START (R47): for the packet at the front of the queue. What it waits for in host memory waits for the host port too, and
a read on its way for its answer. Packets that the power state reached by a transition under way
would cover wait for its end. -/
def packetStart (s : State) (q : Nat) : State :=
  if s.ctrl.alert || (s.queue q).halted then s
  else match s.front q with
    | none => s
    | some (before, k) =>
      let mask := (s.ctx k.ctx).engines
      let hosts := (k.flags.testBit 0 && isHost k.waitAddr) || k.indirect.any isHost
      if !fenceMet before k ∨ s.mtime < k.notBefore ∨ (hosts ∧ !s.hostPath q) ∨ s.fab.reqs.any (fun r => r.pkt == k.id) then s
      else
        let t := if k.flags.testBit 0 && !(k.semOk && s.isPeer k.waitAddr) then s.readSem q k else s
        if (t.pkt k.id).all (fun r => r.2.phase = .finished ∨ (k.flags.testBit 0 ∧ !r.2.semOk)) then t
        else if t.power.target.any (fun x => x.1 != .active && powerCovers x.1 k.opcode mask) then t
        else if powerCovers t.power.st k.opcode mask then
          if t.power.autoWake then t.autoWake else t.finishSilent k.id 0x71 none
        else match k.indirect with
          | none => t.judgeStart q k
          | some g =>
            match t.stateCheck k with
            | some (st, d) => t.finishSilent k.id st d
            | none => match t.readBlock q k g with
            | .error t => t
            | .ok t => match t.pkt k.id with
              | some (_, k) => t.judgeStart q k
              | none => t

def execPacketStart (q : Nat) (s : State) : Host.Outcome State Fault Refusal := answer (.packetStart q) (packetStart s q)

/-! ### Completion, RESUME and FLUSH (R50 to R54, R60, R61) -/

/-- PACKET_COMPLETION. -/
def execPacketCompletion (p mt : Nat) (s : State) : Host.Outcome State Fault Refusal :=
  answer (.packetCompletion p mt) (match s.pkt p with
    | some (_, k) => if k.phase = .finished then (s.at mt).complete p else s
    | none => s)

/-- R61: FLUSH of a halted queue: the fetched packets that have not started, whose requests to peers are given up, and those from HEAD
to the tail. A FLUSH that goes on is not begun again. -/
def State.flushQueue (s : State) (q : Nat) : State :=
  let u := s.queue q
  if !u.halted || u.flushing then s
  else
    let wait := (u.pkts.filter (fun k => k.phase == .fetched)).map (·.id)
    (wait.foldl (fun t p => (t.finishSilent p stCancelled none).complete p) (s.dropReqs (fun r => wait.contains r.pkt))).flushRing q

/-- R60: RESUME. A queue whose FLUSH goes on is halted until that ends. -/
def State.resumeQueue (s : State) (q : Nat) : State :=
  s.setQueue q { s.queue q with halted := (s.queue q).halted && (s.queue q).flushing }

end Sys2Proof.Machine
end

