-- ==== Sys2Proof/Machine/Registers.lean ====
section
/-! DEFINITION. The register map: BAR0 reads and writes with their views, BAR4, AtomicOps, and the background work that a register
write starts (R39 to R41, R296, R297, R318, R334, R335, R360, R395, R422, R439, R456, R458 to R474, R491, R492). -/

namespace Sys2Proof.Machine

/-! ### Views (R463, R464, R471) -/

/-- R464: how a virtual function sees a register; `gone` is a reserved offset (R460). -/
inductive View where
  | a | r | o | n | gone
  deriving DecidableEq, Repr

/-- R463: the VF column. -/
def viewOf (off : Nat) : View :=
  let within (lo n : Nat) : Bool := decide (lo ≤ off ∧ off < lo + 4 * n)
  if off % 4 ≠ 0 then .gone
  else if within 0x000000 3 || within 0x001000 1 || within 0x002000 1 || within 0x003000 2 || within 0x010048 1 || within 0x02002C 1
    || within 0x030000 1 || within 0x030008 1 || within 0x030020 1 || within 0x050000 1 || within 0x060000 1 || within 0x06000C 3
    || within 0x06001C 1 || within 0x070000 1 || within 0x07000C 1 then .r
  else if within 0x001004 3 || within 0x001040 1 || within 0x001080 1 || within 0x010000 1 || within 0x010044 1 || within 0x030004 1
    || within 0x040000 1 || within 0x060018 1 || within 0x800000 8192 || within 0x808000 64 then .a
  else if within 0x001044 6 || within 0x001084 4 || within 0x010004 3 || within 0x040004 6 then .o
  else if within 0x001010 2 || within 0x002004 3 || within 0x010040 1 || within 0x01004C 1 || within 0x010080 5 || within 0x020000 11
    || within 0x020080 5 || within 0x03000C 5 || within 0x030024 2 || within 0x050004 3 || within 0x060004 2 || within 0x070004 2
    || within 0x070080 5 then .n
  else .gone

/-- The partition of the entry that an O register shows: queue, completion ring or region; a feed belongs to the partition whose
range holds it (R221, R395). -/
def State.shown (s : State) (fn off : Nat) : Bool :=
  let f := s.fn fn
  if 0x001044 ≤ off ∧ off < 0x00105C then s.fnSees fn (s.partOf f.qsel)
  else if 0x001084 ≤ off ∧ off < 0x001094 then s.fnSees fn (s.partOf f.csel)
  else if 0x010004 ≤ off ∧ off < 0x010010 then s.fnSees fn (s.region f.rsel).part
  else
    let p := s.part (s.fnPart fn)
    isPf fn || (f.bound && decide (p.feedFirst ≤ f.fsel ∧ f.fsel ≤ p.feedLast))

/-- R464, R471: whether the function reads the register's value, rather than zero. -/
def State.canRead (s : State) (fn off : Nat) : Bool :=
  if !s.fnBound fn then decide (off = 0 ∨ off = 4 ∨ off = 8 ∨ off = 0x1004)
  else match viewOf off with
    | .a => true
    | .r => true
    | .o => s.shown fn off
    | .n => isPf fn
    | .gone => false

/-- R464, R471: whether the function's writes to the register count. -/
def State.canWrite (s : State) (fn off : Nat) : Bool :=
  s.fnBound fn && (match viewOf off with
    | .a => true
    | .r => isPf fn
    | .o => s.shown fn off
    | .n => isPf fn
    | .gone => false)

/-! ### Values (R39, R296, R318, R334, R360, R395, R422, R439, R458, R470 to R474) -/

def bit (b : Bool) (n : Nat) : Nat := if b then 2 ^ n else 0
def lo32 (v : Nat) : Nat := v % 2 ^ 32
def hi32 (v : Nat) : Nat := v / 2 ^ 32 % 2 ^ 32

/-- R40: QUIESCENT. -/
def Queue.quiescent (u : Queue) : Bool := !u.enable && u.pkts.isEmpty

/-- Registers of an event ring, 0 BASE_LO to 4 HEAD (R318, R491). -/
def EvRing.value (r : EvRing) (reg : Nat) : Nat :=
  match reg with
  | 0 => lo32 r.base
  | 1 => hi32 r.base
  | 2 => r.log2 + bit r.enable 5 + r.msix * 2 ^ 6
  | 3 => r.tail
  | _ => r.head

/-- R471: the virtual function that MGT_VFSEL selects. -/
def vfTarget (sel : Nat) : Option Nat :=
  let vf := fld sel 0 5
  if 1 ≤ vf ∧ vf ≤ 16 then some (fld sel 5 1 * 17 + vf) else none

/-- R360: STATE of a port. -/
def PortSt.code : PortSt → Nat
  | .down => 0
  | .training => 1
  | .up => 2
  | .degraded => 3
  | .miswired => 4
  | .failed => 5

/-- R458: the least power cap. -/
def Order.minWatts : Order → Nat
  | .azg7208 => 3600
  | .azg7208M => 3500
  | .azg7204 => 2000

/-- Command queues and completion rings as they read (R39). -/
def State.mgtValue (s : State) (fn off : Nat) : Nat :=
  let f := s.fn fn
  let u := s.queue f.qsel
  let r := s.ring f.csel
  match off with
  | 0x001000 => s.ctrl.activeHub + bit s.ctrl.standby 1 + s.ctrl.takeovers * 2 ^ 2
  | 0x001004 => s.fnPart fn + bit (!isPf fn) 3 + fn % 17 * 2 ^ 4 + fn / 17 * 2 ^ 9 + bit (s.fnBound fn) 10
  | 0x001008 => lo32 s.mtime
  | 0x00100C => hi32 s.mtime
  | 0x001010 => f.vfsel
  | 0x001014 => match vfTarget f.vfsel with
    | some g => (s.fn g).part + bit (s.fn g).bound 3
    | none => 0
  | 0x001040 => f.qsel
  | 0x001044 => lo32 u.base
  | 0x001048 => hi32 u.base
  | 0x00104C => u.log2 + bit u.enable 5 + u.part * 2 ^ 6 + u.ring * 2 ^ 9
  | 0x001050 => u.head
  | 0x001054 => bit u.halted 0 + bit u.badBell 1 + bit (u.pkts.any (·.stalled)) 2 + bit u.quiescent 3
  | 0x001080 => f.csel
  | 0x001084 => lo32 r.base
  | 0x001088 => hi32 r.base
  | 0x00108C => r.log2 + bit r.enable 5 + r.msix * 2 ^ 6
  | 0x001090 => r.tail
  | _ => 0

/-- Memory and error registers as they read (R296, R318, R334). -/
def State.memValue (s : State) (fn off : Nat) : Nat :=
  let f := s.fn fn
  let g := s.region f.rsel
  let k := s.stack f.tsel
  match off with
  | 0x010000 => f.rsel
  | 0x010004 => lo32 g.newBase
  | 0x010008 => hi32 g.newBase
  | 0x01000C => bit g.valid 0 + bit g.dieLocal 1 + bit g.lc 2 + bit g.nocache 3 + bit g.remote 4 + bit g.pin 5 + g.plane * 2 ^ 6
      + g.part * 2 ^ 9 + g.size * 2 ^ 12 + bit g.err 18 + bit g.busy 19
  | 0x010040 => s.lcShare
  | 0x010044 => f.tsel
  | 0x010048 => if s.order.stackCount ≤ f.tsel then 0
      else k.temp + k.steps * 2 ^ 8 + bit k.protect 12 + bit k.retired 13
  | 0x020000 => fld s.ecc.dataMask 0 32
  | 0x020004 => fld s.ecc.dataMask 32 32
  | 0x020008 => fld s.ecc.dataMask 64 32
  | 0x02000C => fld s.ecc.dataMask 96 32
  | 0x020010 => s.ecc.checkMask
  | 0x020014 => bit s.ecc.armed 0 + s.ecc.cls * 2 + s.ecc.index * 2 ^ 4 + bit s.ecc.fired 18
  | 0x020018 => lo32 s.ecc.injAddr
  | 0x02001C => hi32 s.ecc.injAddr
  | 0x020020 => s.ecc.ceCount
  | 0x020024 => s.ecc.ueCount
  | 0x020028 => s.ecc.period + bit s.ecc.pause 10
  | 0x02002C => lo32 s.ecc.passes
  | _ => if 0x010080 ≤ off ∧ off < 0x010094 then s.memRing.value ((off - 0x010080) / 4)
    else if 0x020080 ≤ off ∧ off < 0x020094 then s.ecc.ring.value ((off - 0x020080) / 4) else 0

/-- A signed 16-bit field that saturates (R360 OFFSET). -/
def sat16 (v : Int) : Nat := wrap 16 (max (-32768) (min 32767 v))

/-- Fabric, feed and media registers as they read (R360, R395, R422). -/
def State.fabValue (s : State) (fn off : Nat) : Nat :=
  let f := s.fn fn
  let p := s.port f.psel
  let d := s.feed f.fsel
  let media (v : Nat) : Nat := if s.order.media then v else 0
  match off with
  | 0x030000 => s.fab.moduleId + bit (s.fab.ports.any (fun p => p.2.st != .down)) 16
  | 0x030004 => f.psel
  | 0x030008 => p.st.code + p.width * 2 ^ 3 + p.spares.length * 2 ^ 10 + p.plane * 2 ^ 13
  | 0x03000C => bit p.enable 0
  | 0x030010 => p.replays
  | 0x030014 => s.fab.w1 + s.fab.w2 * 2 ^ 4 + s.fab.w3 * 2 ^ 8
  | 0x030018 => s.fab.reqTimeout
  | 0x03001C => s.fab.timeMaster
  | 0x030020 => sat16 s.fab.offset + bit s.fab.aligned 16 + bit s.fab.lost 17
  | 0x030024 => s.fab.discards
  | 0x030028 => s.fab.drops
  | 0x040000 => f.fsel
  | 0x040004 => (match d.st with
      | .closed => 0
      | .opened => 1
      | .draining => 2
      | .stalled => 3) + f.fsel % 2 * 2 ^ 2
  | 0x040008 => lo32 d.next
  | 0x04000C => hi32 d.next
  | 0x040010 => lo32 d.oldest
  | 0x040014 => hi32 d.oldest
  | 0x040018 => satTo (2 ^ 32 - 1) d.mean
  | 0x050000 => media (4096 - s.poolUsed)
  | 0x050004 => media (satTo (2 ^ 32 - 1) s.media.concealed)
  | 0x050008 => media (satTo (2 ^ 32 - 1) s.media.exhausted)
  | 0x05000C => media (satTo (2 ^ 32 - 1) s.media.strudelOvf)
  | _ => 0

/-- Power, heartbeat and reset registers as they read (R439, R458). -/
def State.pwrValue (s : State) (fn off : Nat) : Nat :=
  let f := s.fn fn
  let p := s.power
  let c := s.ctrl
  let k := Tbl.get ({} : Quad) p.quads f.pwrq
  match off with
  | 0x002000 => c.hbCount
  | 0x002004 => c.hbLo
  | 0x002008 => c.hbHi
  | 0x00200C => bit c.hbEnable 0 + c.wdogMs * 2
  | 0x060000 => (match p.st with
      | .idle => 1
      | .doze => 2
      | _ => 0) + bit p.autoWake 2
  | 0x060004 => p.vset
  | 0x060008 => p.cap
  | 0x06000C => s.order.minWatts
  | 0x060010 => p.vcap + bit (decide (p.vcap < 170)) 8 + bit p.capErr 9
  | 0x060014 => p.watts + p.centiV * 2 ^ 13
  | 0x060018 => f.pwrq
  | 0x06001C =>
    if 4 * s.order.dies ≤ f.pwrq then 0
    else (match p.st with
      | .active => s.vq f.pwrq
      | .idle => 90
      | _ => 0) + k.temp * 2 ^ 8 + s.quadSteps f.pwrq * 2 ^ 16 + bit (p.stopped.contains (f.pwrq / 4)) 20
  | 0x070000 => (match s.curReset with
      | some r => r.dom + r.idx * 2 ^ 3
      | none => 7) + bit c.alert 10
  | 0x070004 => c.replayMs
  | 0x07000C => s.spareCount
  | _ => if 0x070080 ≤ off ∧ off < 0x070094 then c.ring.value ((off - 0x070080) / 4) else 0

/-- The live value of a register, as its reader's selectors show it. -/
def State.regValue (s : State) (fn off : Nat) : Nat :=
  if off < 0x1000 then (match off with
    | 0 => s.capUnits
    | 4 => s.capCounts
    | 8 => s.capId
    | _ => 0)
  else if off < 0x2000 then s.mgtValue fn off
  else if off < 0x3000 then s.pwrValue fn off
  else if off < 0x10000 then (if off = 0x3000 then 1 else 0)
  else if off < 0x30000 then s.memValue fn off
  else if off < 0x60000 then s.fabValue fn off
  else if off < 0x800000 then s.pwrValue fn off
  else if off < 0x808000 then Tbl.get 0 (s.fn fn).msixTable ((off - 0x800000) / 4)
  else if off < 0x808100 then
    ((s.fn fn).pendingVec.filter (fun v => v / 32 == (off - 0x808000) / 4)).foldl (fun m v => m ||| 2 ^ (v % 32)) 0
  else 0

/-! ### Reads (R460, R466) -/

/-- R466: the latched _HI value of a function, by the offset of its _HI register. -/
def Fn.latch (f : Fn) (off : Nat) : Option Nat :=
  match off with
  | 0x00100C => f.latchMt
  | 0x02001C => f.latchInj
  | 0x04000C => f.latchNext
  | 0x040014 => f.latchOld
  | _ => none

/-- The latch of the _HI register at an offset set or released. -/
def Fn.setLatch (f : Fn) (off : Nat) (v : Option Nat) : Fn :=
  match off with
  | 0x00100C => { f with latchMt := v }
  | 0x02001C => { f with latchInj := v }
  | 0x04000C => { f with latchNext := v }
  | 0x040014 => { f with latchOld := v }
  | _ => f

/-- R466: the _LO registers whose read latches the next offset. -/
def latches (off : Nat) : Bool := decide (off = 0x001008 ∨ off = 0x020018 ∨ off = 0x040008 ∨ off = 0x040010)

/-- R460: what the read of an RC register leaves. -/
def State.clearRc (s : State) (fn off : Nat) : State :=
  let n := (s.fn fn).psel
  match off with
  | 0x020020 => { s with ecc := { s.ecc with ceCount := 0 } }
  | 0x020024 => { s with ecc := { s.ecc with ueCount := 0 } }
  | 0x030010 => s.setPort n { s.port n with replays := 0 }
  | 0x030024 => { s with fab := { s.fab with discards := 0 } }
  | 0x030028 => { s with fab := { s.fab with drops := 0 } }
  | 0x050004 => { s with media := { s.media with concealed := 0 } }
  | 0x050008 => { s with media := { s.media with exhausted := 0 } }
  | 0x05000C => { s with media := { s.media with strudelOvf := 0 } }
  | _ => s

/-- A 32-bit read of BAR0: the value, the latch of its _HI, the clearing of an RC count. -/
def State.regRead (s : State) (fn off : Nat) : State :=
  if !s.fnUp fn then s
  else if off % 4 ≠ 0 then { s with reply := .unsupported }
  else if !s.canRead fn off then { s with reply := .word 0 }
  else
    let f := s.fn fn
    let t : State := { s with reply := .word ((f.latch off).getD (s.regValue fn off)) }
    let t := if (f.latch off).isSome then t.setFn fn (f.setLatch off none)
      else if latches off then t.setFn fn (f.setLatch (off + 4) (some (s.regValue fn (off + 4)))) else t
    t.clearRc fn off

/-- READ_CLEARS (R460). -/
def execReadClears (fn off : Nat) (s : State) : Host.Outcome State Fault Refusal :=
  answer (.readClears fn off) (s.regRead fn off)

/-- LO_READ_LATCH (R466). -/
def execLoReadLatch (fn off : Nat) (s : State) : Host.Outcome State Fault Refusal :=
  answer (.loReadLatch fn off) (s.regRead fn off)

/-! ### Writes: queues and rings (R39 to R41, R60, R61, R472) -/

/-- A base register written: half of it replaced; the low 12 bits must be zero. -/
def newBase (old : Nat) (hi : Bool) (v : Nat) : Nat :=
  if hi then old % 2 ^ 32 + v % 2 ^ 32 * 2 ^ 32 else old / 2 ^ 32 * 2 ^ 32 + v % 2 ^ 32 / 4096 * 4096

/-- R52, R54: the records of queue `q` that wait at ring `old` wait at ring `new` from now on; at `old` those behind them may follow. -/
def State.moveWaiting (s : State) (q old new : Nat) : State :=
  let mine (p : Nat) : Bool := (s.queue q).pkts.any (fun k => k.id == p)
  let moved := (s.ring old).waiting.filter mine
  let t := s.setRing old { s.ring old with waiting := (s.ring old).waiting.filter (fun p => !mine p) }
  ((t.setRing new { t.ring new with waiting := (t.ring new).waiting ++ moved }).drainRing new).drainRing old

/-- MGT_QCFG (R39, R40, R472): a new size empties a quiescent queue and is ignored elsewhere; while ENABLE is 1 only ENABLE is
written. -/
def State.writeQcfg (s : State) (fn v : Nat) : State :=
  let q := (s.fn fn).qsel
  let u := s.queue q
  let log2 := fld v 0 5
  let enable := v.testBit 5
  let part := if isPf fn then fld v 6 3 else u.part
  let ring := fld v 9 12
  if !isPf fn && enable && !s.fnSees fn (s.partOf ring) then s
  else if log2 < 6 ∨ 16 < log2 ∨ (log2 ≠ u.log2 ∧ !u.quiescent) then s
  else if u.enable then s.setQueue q { u with enable }
  else if log2 ≠ u.log2 then s.setQueue q { u with log2, enable, part, ring, head := 0, tail := 0, overrun := 0, kept := [] }
  else if ring = u.ring then s.setQueue q { u with enable, part, ring }
  else (s.setQueue q { u with enable, part, ring }).moveWaiting q u.ring ring

/-- MGT_QBASE_LO and _HI (R40). -/
def State.writeQbase (s : State) (fn : Nat) (hi : Bool) (v : Nat) : State :=
  let q := (s.fn fn).qsel
  let u := s.queue q
  if !u.quiescent then s else s.setQueue q { u with base := newBase u.base hi v, head := 0, tail := 0, overrun := 0, kept := [] }

/-- MGT_QCTL (R60, R61). With both bits set the queue is flushed, and RESUME then finds HALTED clear (notes/assumptions/131). -/
def State.writeQctl (s : State) (fn v : Nat) : State :=
  let q := (s.fn fn).qsel
  let s := if v.testBit 1 then s.flushQueue q else s
  if v.testBit 0 then s.resumeQueue q else s

/-- MGT_CBASE_LO, MGT_CBASE_HI and MGT_CCFG (R41, R474), by `reg`: a base or a size starts a disabled ring afresh; while ENABLE is 1
ENABLE and MSIX_VEC are written (R39). Records that wait follow. -/
def State.writeRing (s : State) (fn reg v : Nat) : State :=
  let c := (s.fn fn).csel
  let r := s.ring c
  let fresh (r : CplRing) : CplRing := { r with head := 0, tail := 0, phase := true }
  match reg with
  | 0 => if r.enable then s else s.setRing c (fresh { r with base := newBase r.base false v })
  | 1 => if r.enable then s else s.setRing c (fresh { r with base := newBase r.base true v })
  | _ =>
    let log2 := fld v 0 5
    let enable := v.testBit 5
    if log2 < 6 ∨ 16 < log2 then s
    else if r.enable then (s.setRing c { r with enable, msix := fld v 6 11, owner := fn }).drainRing c
    else
      let r := if log2 = r.log2 then r else fresh { r with log2 }
      (s.setRing c { r with enable, msix := fld v 6 11, owner := fn }).drainRing c

/-! ### Writes: regions (R296, R297) -/

/-- R295, R297: the channels of a mask lie in equal powers of two on a power of two of dies. -/
def splitOk (mask : Nat) : Bool :=
  let pow2 (n : Nat) : Bool := decide (n ≠ 0 ∧ 2 ^ Nat.log2 n = n)
  let counts := ((List.range 8).map (fun d => popCount 64 (fld mask (64 * d) 64))).filter (· != 0)
  pow2 counts.length && pow2 (counts.headD 0) && counts.all (· == counts.headD 0)

/-- The die-local window that an entry holds in force. -/
def Region.window (r : Region) : Option (Nat × Nat × Nat) :=
  if r.valid && r.dieLocal then some (r.part, r.base, r.size) else none

/-- R297: two ranges of one partition meet. -/
def Region.meets (r q : Region) : Bool :=
  r.valid && decide (r.part = q.part ∧ r.base < q.base + 2 ^ q.size ∧ q.base < r.base + 2 ^ r.size)

/-- R297: every granule of a window returns to the first-touch state. -/
def State.forgetWindow (s : State) (w : Nat × Nat × Nat) : State :=
  let mask := (s.part w.1).chans
  let n := max 1 (popCount 512 mask)
  let lo := w.2.1 / 256 / n
  let hi := (w.2.1 + 2 ^ w.2.2) / 256 / n
  let hit (p : Nat) : Bool := mask.testBit (chanOf p) && decide (lo ≤ p % 2 ^ 31 / 256 ∧ p % 2 ^ 31 / 256 < hi)
  { s with
    chans := (s.chans.map (fun c => (c.1, if mask.testBit c.1 then { c.2 with empty := c.2.empty.flatMap (fun e =>
      cutOut e.1 e.2 (if lo < e.2 ∧ e.1 < hi then [(lo, hi)] else [])) } else c.2))).filter (fun c => decide (c.2 ≠ {})),
    mem := { cells := s.mem.cells.filter (fun c => !hit c.1), ck := s.mem.ck.filter (fun c => !hit (16 * c.1)),
             touched := s.mem.touched.filter (fun c => !(hit (4096 * c.1) && hit (4096 * c.1 + 4095))) },
    caches := (s.caches.map (fun c => (c.1, c.2.filter (fun l => !hit (128 * l.line))))).filter (fun c => !c.2.isEmpty),
    copies := s.copies.filter (fun c => !hit (16 * c.1)), stackCk := s.stackCk.filter (fun c => !hit (16 * c.1)) }

/-- MEM_RATTR (R296, R297): refused with ERR, or applied. -/
def State.writeRattr (s : State) (fn v : Nat) : State :=
  let e := (s.fn fn).rsel
  let r := s.region e
  let part := if isPf fn then fld v 9 3 else s.fnPart fn
  let size := fld v 12 6
  let new : Region := { r with
    valid := v.testBit 0, dieLocal := v.testBit 1, lc := v.testBit 2, nocache := v.testBit 3, remote := v.testBit 4,
    pin := v.testBit 5, plane := fld v 6 3, part, size, err := false, base := r.newBase }
  let others := (s.regions.filter (fun x => x.1 != e)).map Prod.snd
  if size < 20 ∨ 40 < size ∨ new.base % 2 ^ size ≠ 0 ∨ s.memBytes part < new.base + 2 ^ size ∨ others.any (fun x => x.meets new)
      ∨ (new.dieLocal ∧ !splitOk (s.part part).chans) then
    s.setRegion e { r with err := true, newBase := r.base }
  else if r.window = new.window then s.setRegion e new
  else
    let ws := r.window.toList ++ new.window.toList
    (ws.foldl State.forgetWindow s).setRegion e { new with busy := true, windows := r.windows ++ ws }

/-- DIE_LOCAL_CHANGE_DONE (R297): BUSY clears, and held accesses go on. -/
def dieLocalChangeDone (s : State) (e : Nat) : State :=
  let r := s.region e
  if !r.busy then s else (s.setRegion e { r with busy := false, windows := [] }).settle

/-! ### Writes: memory, masks, fabric, cores, power, functions -/

/-- MEM_RETIRE (R315, R318). -/
def State.writeRetire (s : State) (v : Nat) : State :=
  if v.testBit 9 ∧ fld v 0 9 < s.order.chans then s.startRetire (fld v 0 9) else s

/-- ECC_FLIPMASK_ARM (R334, R335): a class or index that no unit has is ignored as a whole. -/
def State.writeArm (s : State) (v : Nat) : State :=
  let cls := fld v 1 3
  let index := fld v 4 14
  if eccUnits s.order cls ≤ index then s
  else { s with ecc := { s.ecc with armed := v.testBit 0, cls, index, fired := w1c s.ecc.fired v 18 } }

/-- FAB_PORT_CTL (R340, R360, R468): held while the port's hub is in reset. -/
def State.writePortCtl (s : State) (n v : Nat) : State :=
  if s.ctrl.resets.any (fun r => r.dom == 3 && r.idx == n / 4) then
    { s with ctrl := { s.ctrl with heldWrites := s.ctrl.heldWrites ++ [(n, v % 4)] } }
  else
    let t := if v.testBit 0 = (s.port n).enable then s else s.enablePort n (v.testBit 0)
    if v.testBit 1 then t.retrainPort n else t

/-- FAB_MODULE_ID (R360): unless some port is not DOWN. -/
def State.writeModuleId (s : State) (v : Nat) : State :=
  if s.fab.ports.any (fun p => p.2.st != .down) then s
  else
    let t : State := { s with fab := { s.fab with moduleId := v % 2 ^ 16 } }
    ((List.range 8).foldl State.tryTrain t).noteMaster

/-- RST_CORE_RETIRE (R437): at once where the core is idle, else when it becomes idle. -/
def State.writeCoreRetire (s : State) (v : Nat) : State :=
  let n := fld v 0 14
  if !v.testBit 14 ∨ 128 * s.order.engines ≤ n ∨ (s.core n).kind ≠ .enabled then s
  else if s.items.any (fun i => i.eng == n / 128 && i.site == .core (n % 128)) then s.setCore n { s.core n with wanted := true }
  else (s.retireCore n).settle

/-- PWR_CAP_W (R456). -/
def State.writeCap (s : State) (v : Nat) : State :=
  let w := fld v 0 13
  if s.order.minWatts ≤ w ∧ w ≤ s.order.maxWatts then { s with power := { s.power with cap := w } }
  else { s with power := { s.power with capErr := true } }

/-- MGT_VFMAP (R471): only while Bus Master Enable is clear; not to partition 0, nor to a disabled one. -/
def State.writeVfmap (s : State) (fn v : Nat) : State :=
  match vfTarget (s.fn fn).vfsel with
  | none => s
  | some g =>
    let f := s.fn g
    let p := fld v 0 3
    if f.busMaster ∨ (v.testBit 3 ∧ (p = 0 ∨ !(s.part p).enabled)) then s
    else s.setFn g { f with part := p, bound := v.testBit 3 }

/-- The registers of an event ring (R491), written through `fn`. -/
def EvRing.write (r : EvRing) (fn reg v : Nat) : EvRing :=
  let fresh (r : EvRing) : EvRing := { r with head := 0, tail := 0, phase := true }
  match reg with
  | 0 => if r.enable then r else fresh { r with base := newBase r.base false v }
  | 1 => if r.enable then r else fresh { r with base := newBase r.base true v }
  | 2 =>
    let log2 := fld v 0 5
    let enable := v.testBit 5
    if log2 < 6 ∨ 16 < log2 then r
    else if log2 = r.log2 then { r with enable, msix := fld v 6 11, owner := fn }
    else if r.enable then r
    else fresh { r with log2, enable, msix := fld v 6 11, owner := fn }
  | 4 => { r with head := v % 2 ^ 16 }
  | _ => r

/-- An event ring of the module, 0 MEM_ELOG, 1 ECC_ELOG, 2 RST_ELOG. -/
def State.writeElog (s : State) (fn ring reg v : Nat) : State :=
  match ring with
  | 0 => { s with memRing := s.memRing.write fn reg v }
  | 1 => { s with ecc := { s.ecc with ring := s.ecc.ring.write fn reg v } }
  | _ => { s with ctrl := { s.ctrl with ring := s.ctrl.ring.write fn reg v } }

/-- Selectors (R465). -/
def State.writeSel (s : State) (fn off v : Nat) : State :=
  let f := s.fn fn
  match off with
  | 0x001010 => s.setFn fn { f with vfsel := v % 64 }
  | 0x001040 => s.setFn fn { f with qsel := v % 4096 }
  | 0x001080 => s.setFn fn { f with csel := v % 4096 }
  | 0x010000 => s.setFn fn { f with rsel := v % 64 }
  | 0x010044 => s.setFn fn { f with tsel := v % 16 }
  | 0x030004 => s.setFn fn { f with psel := v % 8 }
  | 0x040000 => s.setFn fn { f with fsel := v % 2 ^ 16 }
  | 0x060018 => s.setFn fn { f with pwrq := v % 32 }
  | _ => s

/-- A value in its range, or the old one: a field written outside the range that its rule gives keeps its value. -/
def ranged (lo hi old v : Nat) : Nat := if lo ≤ v ∧ v ≤ hi then v else old

/-- The other configuration registers (R296, R318, R334, R360, R439, R458). -/
def State.writePlain (s : State) (fn off v : Nat) : State :=
  let e := (s.fn fn).rsel
  let g := s.region e
  let c := s.ctrl
  let d := s.ecc.dataMask
  let mask (i : Nat) : State := { s with ecc := { s.ecc with dataMask := d - fld d (32 * i) 32 * 2 ^ (32 * i) + v % 2 ^ 32 * 2 ^ (32 * i) } }
  match off with
  | 0x001054 => let q := (s.fn fn).qsel
    s.setQueue q { s.queue q with badBell := w1c (s.queue q).badBell v 1 }
  | 0x002004 => { s with ctrl := { c with hbLo := v % 2 ^ 32 / 64 * 64 } }
  | 0x002008 => { s with ctrl := { c with hbHi := v % 2 ^ 32 } }
  | 0x00200C => { s with ctrl := { c with hbEnable := v.testBit 0, wdogMs := ranged 2 1000 c.wdogMs (fld v 1 10),
                                          recAt := if v.testBit 0 && !c.hbEnable then s.mtime else c.recAt } }
  | 0x010004 => s.setRegion e { g with newBase := g.newBase / 2 ^ 32 * 2 ^ 32 + v % 2 ^ 32 / 2 ^ 20 * 2 ^ 20 }
  | 0x010008 => s.setRegion e { g with newBase := g.newBase % 2 ^ 32 + v % 2 ^ 8 * 2 ^ 32 }
  | 0x010040 => { s with lcShare := v % 256 }
  | 0x020000 => mask 0
  | 0x020004 => mask 1
  | 0x020008 => mask 2
  | 0x02000C => mask 3
  | 0x020010 => { s with ecc := { s.ecc with checkMask := v % 2 ^ 16 } }
  | 0x020028 => { s with ecc := { s.ecc with period := fld v 0 10, pause := v.testBit 10 } }
  | 0x030014 => { s with fab := { s.fab with w1 := ranged 1 15 s.fab.w1 (fld v 0 4), w2 := ranged 1 15 s.fab.w2 (fld v 4 4),
                                             w3 := ranged 1 15 s.fab.w3 (fld v 8 4) } }
  | 0x030018 => { s with fab := { s.fab with reqTimeout := ranged 10 (2 ^ 20 - 1) s.fab.reqTimeout (fld v 0 20) } }
  | 0x03001C => ({ s with fab := { s.fab with timeMaster := v % 2 ^ 16 } } : State).noteMaster
  | 0x060004 => { s with power := { s.power with vset := ranged 110 170 s.power.vset (fld v 0 8) } }
  | 0x060010 => { s with power := { s.power with capErr := w1c s.power.capErr v 9 } }
  | 0x070004 => { s with ctrl := { c with replayMs := ranged 10 1000 c.replayMs (fld v 0 10) } }
  | _ => if 0x800000 ≤ off ∧ off < 0x808000 then
      s.setFn fn { s.fn fn with msixTable := Tbl.set 0 (s.fn fn).msixTable ((off - 0x800000) / 4) (v % 2 ^ 32) }
    else s

/-- A 32-bit write of BAR0 (R460, R464, R467), applied as its register says. -/
def State.regWrite (s : State) (fn off v : Nat) : State :=
  if !s.fnUp fn || !s.canWrite fn off then s
  else match off with
    | 0x001010 | 0x001040 | 0x001080 | 0x010000 | 0x010044 | 0x030004 | 0x040000 | 0x060018 => s.writeSel fn off v
    | 0x001014 => s.writeVfmap fn v
    | 0x001044 => s.writeQbase fn false v
    | 0x001048 => s.writeQbase fn true v
    | 0x00104C => s.writeQcfg fn v
    | 0x001058 => s.writeQctl fn v
    | 0x001084 => s.writeRing fn 0 v
    | 0x001088 => s.writeRing fn 1 v
    | 0x00108C => s.writeRing fn 2 v
    | 0x01000C => s.writeRattr fn v
    | 0x01004C => s.writeRetire v
    | 0x020014 => s.writeArm v
    | 0x030000 => s.writeModuleId v
    | 0x03000C => s.writePortCtl (s.fn fn).psel v
    | 0x060008 => s.writeCap v
    | 0x070008 => s.writeCoreRetire v
    | _ =>
      if 0x010080 ≤ off ∧ off < 0x010094 then s.writeElog fn 0 ((off - 0x010080) / 4) v
      else if 0x020080 ≤ off ∧ off < 0x020094 then s.writeElog fn 1 ((off - 0x020080) / 4) v
      else if 0x070080 ≤ off ∧ off < 0x070094 then s.writeElog fn 2 ((off - 0x070080) / 4) v
      else s.writePlain fn off v

/-- MGT_QCFG. -/
def execMgtQcfg (fn v : Nat) (s : State) : Host.Outcome State Fault Refusal := answer (.mgtQcfg fn v) (s.regWrite fn 0x00104C v)

/-- MGT_QBASE_LO or MGT_QBASE_HI. -/
def execMgtQbase (fn : Nat) (hi : Bool) (v : Nat) (s : State) : Host.Outcome State Fault Refusal :=
  answer (.mgtQbase fn hi v) (s.regWrite fn (if hi then 0x001048 else 0x001044) v)

/-- MGT_QCTL.RESUME. -/
def execResume (fn : Nat) (s : State) : Host.Outcome State Fault Refusal := answer (.resume fn) (s.regWrite fn 0x001058 1)

/-- MGT_QCTL.FLUSH. -/
def execFlush (fn : Nat) (s : State) : Host.Outcome State Fault Refusal := answer (.flush fn) (s.regWrite fn 0x001058 2)

/-- MGT_CBASE_LO, MGT_CBASE_HI or MGT_CCFG. -/
def execMgtCcfg (fn reg v : Nat) (s : State) : Host.Outcome State Fault Refusal :=
  answer (.mgtCcfg fn reg v) (s.regWrite fn (0x001084 + 4 * reg) v)

def execMemRattr (fn v : Nat) (s : State) : Host.Outcome State Fault Refusal := answer (.memRattr fn v) (s.regWrite fn 0x01000C v)

def execMemRetire (fn v : Nat) (s : State) : Host.Outcome State Fault Refusal := answer (.memRetire fn v) (s.regWrite fn 0x01004C v)

/-- ECC_FLIPMASK_ARM with ARMED = 1. -/
def execEccFlipmaskArm (fn v : Nat) (s : State) : Host.Outcome State Fault Refusal :=
  answer (.eccFlipmaskArm fn v) (s.regWrite fn 0x020014 (v ||| 1))

/-- ECC_FLIPMASK_ARM with ARMED = 0. -/
def execFlipmaskWithdraw (fn v : Nat) (s : State) : Host.Outcome State Fault Refusal :=
  answer (.flipmaskWithdraw fn v) (s.regWrite fn 0x020014 (v / 2 * 2))

/-- FAB_PORT_CTL.ENABLE. -/
def execFabPortEnable (fn v : Nat) (s : State) : Host.Outcome State Fault Refusal :=
  answer (.fabPortEnable fn v) (s.regWrite fn 0x03000C v)

/-- FAB_PORT_CTL.RETRAIN, with ENABLE as it reads. -/
def execRetrain (fn : Nat) (s : State) : Host.Outcome State Fault Refusal :=
  answer (.retrain fn) (s.regWrite fn 0x03000C (2 + bit (s.port (s.fn fn).psel).enable 0))

def execFabModuleId (fn v : Nat) (s : State) : Host.Outcome State Fault Refusal := answer (.fabModuleId fn v) (s.regWrite fn 0x030000 v)

def execRstCoreRetire (fn v : Nat) (s : State) : Host.Outcome State Fault Refusal :=
  answer (.rstCoreRetire fn v) (s.regWrite fn 0x070008 v)

def execPwrCapW (fn v : Nat) (s : State) : Host.Outcome State Fault Refusal := answer (.pwrCapW fn v) (s.regWrite fn 0x060008 v)

def execMgtVfmap (fn v : Nat) (s : State) : Host.Outcome State Fault Refusal := answer (.mgtVfmap fn v) (s.regWrite fn 0x001014 v)

/-- The offset of an event ring's registers (R463). -/
def elogBase (ring : Nat) : Nat :=
  match ring with
  | 0 => 0x010080
  | 1 => 0x020080
  | _ => 0x070080

def execElogRingConfig (fn ring reg v : Nat) (s : State) : Host.Outcome State Fault Refusal :=
  answer (.elogRingConfig fn ring reg v) (s.regWrite fn (elogBase ring + 4 * reg) v)

/-- REGISTER_WRITE: any register of BAR0. -/
def execRegisterWrite (fn off v : Nat) (s : State) : Host.Outcome State Fault Refusal :=
  answer (.registerWrite fn off v) (s.regWrite fn off v)

/-! ### BAR4 (R461, R462) and AtomicOps (R492) -/

/-- The accesses of a function. -/
def State.barAcc (s : State) (fn : Nat) : Acc := { part := s.fnPart fn, tables := isPf fn }

/-- A BAR4 load: each piece from its local offset. -/
def barLoad (s : State) (a : Acc) (off n : Nat) : Rd (List Byte) := do
  let l ← (pieces off n).mapM (fun c => loadPlace s a (s.global c.1) c.2 (s.resolveLocal a (s.global c.1) c.1))
  pure l.flatten

/-- BAR4_READ (R461, R328, R307). -/
def bar4Read (s : State) (fn addr len : Nat) : State :=
  if !s.fnUp fn then s
  else if !s.fnBound fn then { s with reply := .unsupported }
  else if s.behind (.bar4Read fn addr len) then { s.hold (.bar4Read fn addr len) with reply := .none }
  else match s.reading (s.barAcc fn) (barLoad s (s.barAcc fn) addr len) with
    | (.ok b, t) => { t with reply := .bytes b }
    | (.error (.fail st _), t) => { t with reply := if st = stMemUncorrectable then .poisoned else .unsupported }
    | (.error _, _) => { s.hold (.bar4Read fn addr len) with reply := .none }

def execBar4Read (fn addr len : Nat) (s : State) : Host.Outcome State Fault Refusal :=
  answer (.bar4Read fn addr len) (bar4Read s fn addr len)

/-- What becomes of a BAR4 write: dropped, held by its home (R21), or made. -/
def State.barStore (s : State) (fn addr : Nat) (data : List Byte) : State :=
  let a : Acc := { s.barAcc fn with tables := false }
  let at_ (c : Nat × Nat) : Except Err Place := s.resolveLocal a (s.global c.1) c.1
  let ps := pieces addr data.length
  let held := ps.any (fun c => match at_ c with
    | .error .held => true
    | _ => false)
  let drop := ps.any (fun c => match at_ c with
    | .ok (.mem p _) => s.inSlotSpace a.part c.1 || (List.range c.2).any (fun i => (s.lockAt (p + i)).isSome)
    | .error .held => false
    | _ => true)
  if drop then s
  else if held || s.behind (.bar4Write fn addr data) then s.hold (.bar4Write fn addr data)
  else (ps.foldl (fun t c => match at_ c with
    | .ok (.mem p nc) => t.lineWrite a.part a.ctx p nc ((data.drop (c.1 - addr)).take c.2)
    | _ => t) s).otherWrite (s.global addr) data.length

/-- BAR4_WRITE (R461). -/
def bar4Write (s : State) (fn addr : Nat) (data : List Byte) : State :=
  if !s.fnUp fn || !s.fnBound fn then s else s.barStore fn addr data

def execBar4Write (fn addr : Nat) (data : List Byte) (s : State) : Host.Outcome State Fault Refusal :=
  answer (.bar4Write fn addr data) (bar4Write s fn addr data)

/-- ATOMICOP_REQUEST (R492). -/
def execAtomicopRequest (fn bar addr : Nat) (s : State) : Host.Outcome State Fault Refusal :=
  answer (.atomicopRequest fn bar addr) (if s.fnUp fn then { s with reply := .unsupported } else s)

end Sys2Proof.Machine
end

