-- ==== Sys2Proof/Machine/Holds.lean ====
section
/-! DEFINITION. The end of back-pressure at a home: held accesses are carried out (R21, R22, R297, R312, R348). -/

namespace Sys2Proof.Machine

/-- A held command is carried out; where its home still holds it, it is held again. -/
def State.runHeld (s : State) (i : Instr) : State :=
  match i with
  | .read h len => readIn s h len
  | .write h data => writeIn s h data
  | .atomic h aop ty operand => atomicIn s h aop ty operand
  | .pull h raddr len => pullIn s h raddr len
  | .bulk h last planeCount data => bulkIn s h last planeCount data
  | .bcast h data => bcastIn s h data
  | .reduce h data => contributionIn s h h.firstMt (data.take (data.length - 8)) (le (data.drop (data.length - 8)))
  | .bar4Write fn addr data => bar4Write s fn addr data
  | .bar4Read fn addr len =>
    let t := bar4Read s fn addr len
    if t.reply = .none then t else { t with reply := s.reply, late := t.late ++ [t.reply] }
  | _ => s

/-- R226, R348: held commands in the order in which they are carried out: what did not wait in a receive buffer, as it came, then the
packets of each port as its receive buffers drain. -/
def State.heldOrder (s : State) : List Instr :=
  s.held.filter (fun i => (heldPacket i).isNone) ++ (List.range 8).flatMap (fun n =>
    let mine := s.held.filter (fun i => (heldPacket i).any (fun k => k.1 == n))
    (drainOrder s.weights s.shares (mine.filterMap (fun i => (heldPacket i).map Prod.snd))).filterMap (fun j => mine[j]?))

/-- R250, R251: the norm block's home held what a context in EXCHANGE had to do there: it is done now. -/
def State.retryNorm (s : State) (c : Nat) : State :=
  let x := s.ctx c
  if x.stepState ≠ .exchange ∨ x.state ≠ .active ∨ x.normAddr = 0 ∨ x.readyDone then s
  else match x.normDue with
    | some v => s.normReady c v
    | none => match s.groupOf c with
      | some g => s.normStep g.gid
      | none => s.normAlone c

/-- R22: up to `now` the watchdog time of the engines whose test cannot go on did not advance since `since`. -/
def State.resumeTests (s : State) (since now : Nat) : State :=
  { s with engines := s.engines.map (fun g => match g.2.mode, g.2.suspects with
    | .replay, c :: _ =>
      if s.replayOf g.1 c = .unknown then
        (g.1, { g.2 with heldSince := g.2.heldSince + (now - max since g.2.heldSince) })
      else g
    | _, _ => g) }

/-- What a group's sequencer had to leave to a home that held it goes on. -/
def State.retryGroup (s : State) (gid : Nat) : State := (s.resumeSends gid).serveRejoins gid

/-- R54: waiting records are written, ring by ring. -/
def State.drainRings (s : State) : State := (s.rings.map Prod.fst).foldl State.drainRing s

/-- R346, R347: every port says what room its receive buffers have now. -/
def State.reportAll (s : State) : State := (s.fab.ports.map Prod.fst).foldl (fun t n => t.report n) s

/-- R21, R297, R312: a hold has ended: what the module owes its home is made good, held commands are carried out, and what waited
goes on. -/
def State.serveHeld (s : State) : State :=
  let order := s.heldOrder
  let t : State := { s with
    held := [],
    queues := s.queues.map (fun u => (u.1, { u.2 with pkts := u.2.pkts.map (fun k => { k with waits := false }) })),
    items := s.items.map (fun i => { i with waits := false }) }
  let t := order.foldl State.runHeld t.payOwed
  let t := (t.ctxs.map Prod.fst).foldl State.retryNorm t
  let t := (t.groups.map (·.gid)).foldl State.retryGroup t
  let t := t.startAllXfers
  t.drainRings.reportAll.settle

/-- PCIE_LINK_UP (R474), and the records that waited for the port (R36, R54). -/
def execPcieLinkUp (port : Nat) (s : State) : Host.Outcome State Fault Refusal :=
  answer (.pcieLinkUp port) (linkUp s port).drainRings

/-- RESET_DONE, and what the die held while it was in reset (R21). -/
def execResetDone (dom idx : Nat) (d : ResetEnd) (s : State) : Host.Outcome State Fault Refusal :=
  let mine (r : ResetOp) : Bool := decide (r.dom = dom ∧ r.idx = idx)
  answer (.resetDone dom idx d) (match s.ctrl.resets.find? mine with
    | none => s
    | some r =>
      let t := resetDone s dom idx d.mt d.degraded
      if dom ≠ 2 ∨ t.ctrl.resets.any mine then t.drainRings
      else (resetDone (s.resumeTests r.start t.mtime) dom idx d.mt d.degraded).serveHeld)

/-- STACK_THERMAL_SAMPLE, and what the stack held in protective self-refresh (R312). A test that waited has its time afresh
(notes/assumptions/144). -/
def execStackThermalSample (stack temp : Nat) (s : State) : Host.Outcome State Fault Refusal :=
  let t := stackSample s stack temp
  answer (.stackThermalSample stack temp)
    (if (s.stack stack).protect && !(t.stack stack).protect then (stackSample (s.resumeTests 0 s.mtime) stack temp).serveHeld else t)

/-- DIE_LOCAL_CHANGE_DONE, and what the change held (R297). -/
def execDieLocalChangeDone (ent : Nat) (s : State) : Host.Outcome State Fault Refusal :=
  answer (.dieLocalChangeDone ent)
    (if (s.region ent).busy then (dieLocalChangeDone (s.resumeTests 0 s.mtime) ent).serveHeld else dieLocalChangeDone s ent)

end Sys2Proof.Machine
end

