-- ==== Sys2Proof/Machine/Dispatch.lean ====
section
/-! DEFINITION. The dispatcher: one arm per command, in the table's order. -/

namespace Sys2Proof.Machine

/-- The command's effect on everything but the queue of waiting commands. -/
def exec (i : Instr) (s : State) : Host.Outcome State Fault Refusal :=
  match i with
  | .nop q => Sys2Proof.Machine.execNop q s
  | .copy p => Sys2Proof.Machine.execCopy p s
  | .fill p => Sys2Proof.Machine.execFill p s
  | .hostSpill p => Sys2Proof.Machine.execHostSpill p s
  | .hostFetch p => Sys2Proof.Machine.execHostFetch p s
  | .tasklistRun p => Sys2Proof.Machine.execTasklistRun p s
  | .stepBegin p => Sys2Proof.Machine.execStepBegin p s
  | .stepCommit p => Sys2Proof.Machine.execStepCommit p s
  | .memAtomic p => Sys2Proof.Machine.execMemAtomic p s
  | .scrubCtrl p => Sys2Proof.Machine.execScrubCtrl p s
  | .flipmaskArm p => Sys2Proof.Machine.execFlipmaskArm p s
  | .partitionSet p => Sys2Proof.Machine.execPartitionSet p s
  | .groupJoin p => Sys2Proof.Machine.execGroupJoin p s
  | .bucketDefine p => Sys2Proof.Machine.execBucketDefine p s
  | .groupAbort p => Sys2Proof.Machine.execGroupAbort p s
  | .shadowMap p => Sys2Proof.Machine.execShadowMap p s
  | .feedOpen p => Sys2Proof.Machine.execFeedOpen p s
  | .feedSubmit p => Sys2Proof.Machine.execFeedSubmit p s
  | .feedClose p => Sys2Proof.Machine.execFeedClose p s
  | .tokenizerLoad p => Sys2Proof.Machine.execTokenizerLoad p s
  | .mediaSessionOpen p => Sys2Proof.Machine.execMediaSessionOpen p s
  | .mediaDecode p => Sys2Proof.Machine.execMediaDecode p s
  | .mediaEncode p => Sys2Proof.Machine.execMediaEncode p s
  | .contextCreate p => Sys2Proof.Machine.execContextCreate p s
  | .contextDestroy p => Sys2Proof.Machine.execContextDestroy p s
  | .resetDomain p => Sys2Proof.Machine.execResetDomain p s
  | .powerState p => Sys2Proof.Machine.execPowerState p s
  | .identChallenge p => Sys2Proof.Machine.execIdentChallenge p s
  | .countersRead p => Sys2Proof.Machine.execCountersRead p s
  | .numericsPolicy p => Sys2Proof.Machine.execNumericsPolicy p s
  | .empty p n => Sys2Proof.Machine.execEmpty p n s
  | .matmul p n => Sys2Proof.Machine.execMatmul p n s
  | .backward p n => Sys2Proof.Machine.execBackward p n s
  | .combine p n => Sys2Proof.Machine.execCombine p n s
  | .conv p n => Sys2Proof.Machine.execConv p n s
  | .convBwd p n => Sys2Proof.Machine.execConvBwd p n s
  | .poolBwd p n => Sys2Proof.Machine.execPoolBwd p n s
  | .vchain p n => Sys2Proof.Machine.execVchain p n s
  | .vfinish p n => Sys2Proof.Machine.execVfinish p n s
  | .adamw p n => Sys2Proof.Machine.execAdamw p n s
  | .sgdm p n => Sys2Proof.Machine.execSgdm p n s
  | .taskComplete p n mt => Sys2Proof.Machine.execTaskComplete p n mt s
  | .cmdTail fn q v => Sys2Proof.Machine.execCmdTail fn q v s
  | .cplHead fn c v => Sys2Proof.Machine.execCplHead fn c v s
  | .packetFetch q => Sys2Proof.Machine.execPacketFetch q s
  | .packetStart q => Sys2Proof.Machine.execPacketStart q s
  | .mtimeNotBefore q => Sys2Proof.Machine.execMtimeNotBefore q s
  | .waitSemaphoreReread q => Sys2Proof.Machine.execWaitSemaphoreReread q s
  | .packetCompletion p mt => Sys2Proof.Machine.execPacketCompletion p mt s
  | .mgtQcfg fn v => Sys2Proof.Machine.execMgtQcfg fn v s
  | .mgtQbase fn hi v => Sys2Proof.Machine.execMgtQbase fn hi v s
  | .resume fn => Sys2Proof.Machine.execResume fn s
  | .flush fn => Sys2Proof.Machine.execFlush fn s
  | .mgtCcfg fn reg v => Sys2Proof.Machine.execMgtCcfg fn reg v s
  | .memRattr fn v => Sys2Proof.Machine.execMemRattr fn v s
  | .memRetire fn v => Sys2Proof.Machine.execMemRetire fn v s
  | .channelRetirementDone ch => Sys2Proof.Machine.execChannelRetirementDone ch s
  | .eccFlipmaskArm fn v => Sys2Proof.Machine.execEccFlipmaskArm fn v s
  | .flipmaskWithdraw fn v => Sys2Proof.Machine.execFlipmaskWithdraw fn v s
  | .fabPortEnable fn v => Sys2Proof.Machine.execFabPortEnable fn v s
  | .retrain fn => Sys2Proof.Machine.execRetrain fn s
  | .fabModuleId fn v => Sys2Proof.Machine.execFabModuleId fn v s
  | .rstCoreRetire fn v => Sys2Proof.Machine.execRstCoreRetire fn v s
  | .pwrCapW fn v => Sys2Proof.Machine.execPwrCapW fn v s
  | .mgtVfmap fn v => Sys2Proof.Machine.execMgtVfmap fn v s
  | .elogRingConfig fn ring reg v => Sys2Proof.Machine.execElogRingConfig fn ring reg v s
  | .readClears fn off => Sys2Proof.Machine.execReadClears fn off s
  | .loReadLatch fn off => Sys2Proof.Machine.execLoReadLatch fn off s
  | .registerWrite fn off v => Sys2Proof.Machine.execRegisterWrite fn off v s
  | .bar4Read fn addr len => Sys2Proof.Machine.execBar4Read fn addr len s
  | .bar4Write fn addr data => Sys2Proof.Machine.execBar4Write fn addr data s
  | .atomicopRequest fn bar addr => Sys2Proof.Machine.execAtomicopRequest fn bar addr s
  | .powerUp => Sys2Proof.Machine.execPowerUp s
  | .inputOff full => Sys2Proof.Machine.execInputOff full s
  | .wakeN us => Sys2Proof.Machine.execWakeN us s
  | .perstnN port => Sys2Proof.Machine.execPerstnN port s
  | .pcieLinkDown port => Sys2Proof.Machine.execPcieLinkDown port s
  | .pcieLinkUp port => Sys2Proof.Machine.execPcieLinkUp port s
  | .hbCount => Sys2Proof.Machine.execHbCount s
  | .heartbeatRecord => Sys2Proof.Machine.execHeartbeatRecord s
  | .takeover => Sys2Proof.Machine.execTakeover s
  | .engineWatchdog e => Sys2Proof.Machine.execEngineWatchdog e s
  | .unitHang hub => Sys2Proof.Machine.execUnitHang hub s
  | .resetTimerExpiry dom idx => Sys2Proof.Machine.execResetTimerExpiry dom idx s
  | .resetDone dom idx d => Sys2Proof.Machine.execResetDone dom idx d s
  | .replayPass e mt => Sys2Proof.Machine.execReplayPass e mt s
  | .rstReplayMs e => Sys2Proof.Machine.execRstReplayMs e s
  | .replayFault e status detail => Sys2Proof.Machine.execReplayFault e status detail s
  | .contextLoad e ctx => Sys2Proof.Machine.execContextLoad e ctx s
  | .sliceGrant e mt => Sys2Proof.Machine.execSliceGrant e mt s
  | .sliceExpiry e => Sys2Proof.Machine.execSliceExpiry e s
  | .fwdDone ctx j => Sys2Proof.Machine.execFwdDone ctx j s
  | .spillDone ctx ent status mt => Sys2Proof.Machine.execSpillDone ctx ent status mt s
  | .fetchDone ctx ent status mt => Sys2Proof.Machine.execFetchDone ctx ent status mt s
  | .bucketSend gid b => Sys2Proof.Machine.execBucketSend gid b s
  | .reduce h data => Sys2Proof.Machine.execReduce h data s
  | .slotTableSum gid b adopted good1 good2 => Sys2Proof.Machine.execSlotTableSum gid b adopted good1 good2 s
  | .retry m => Sys2Proof.Machine.execRetry m s
  | .retryResend gid b dest => Sys2Proof.Machine.execRetryResend gid b dest s
  | .resend m => Sys2Proof.Machine.execResend m s
  | .bucketDeadline gid b adopted => Sys2Proof.Machine.execBucketDeadline gid b adopted s
  | .shardPublish gid b adopted => Sys2Proof.Machine.execShardPublish gid b adopted s
  | .bcast h data => Sys2Proof.Machine.execBcast h data s
  | .normUp m image => Sys2Proof.Machine.execNormUp m image s
  | .normDown m norm2 factor flags => Sys2Proof.Machine.execNormDown m norm2 factor flags s
  | .ready m => Sys2Proof.Machine.execReady m s
  | .commit m => Sys2Proof.Machine.execCommit m s
  | .abortReq m => Sys2Proof.Machine.execAbortReq m s
  | .abort m => Sys2Proof.Machine.execAbort m s
  | .decisionQuery m => Sys2Proof.Machine.execDecisionQuery m s
  | .decision m => Sys2Proof.Machine.execDecision m s
  | .rejoin m => Sys2Proof.Machine.execRejoin m s
  | .rejoinAns m => Sys2Proof.Machine.execRejoinAns m s
  | .read h len => Sys2Proof.Machine.execRead h len s
  | .write h data => Sys2Proof.Machine.execWrite h data s
  | .atomic h aop atype operand => Sys2Proof.Machine.execAtomic h aop atype operand s
  | .pull h raddr len => Sys2Proof.Machine.execPull h raddr len s
  | .bulk h last planeCount data => Sys2Proof.Machine.execBulk h last planeCount data s
  | .resp h status rkind value detail data => Sys2Proof.Machine.execResp h status rkind value detail data s
  | .bulkDone h status detail => Sys2Proof.Machine.execBulkDone h status detail s
  | .msgAck h => Sys2Proof.Machine.execMsgAck h s
  | .messageRepeat dest mseq => Sys2Proof.Machine.execMessageRepeat dest mseq s
  | .timeSync a src sub mseq arg0 arg1 mt => Sys2Proof.Machine.execTimeSync a src sub mseq arg0 arg1 mt s
  | .timeSyncExchange port => Sys2Proof.Machine.execTimeSyncExchange port s
  | .timeMasterLost => Sys2Proof.Machine.execTimeMasterLost s
  | .portState a mid up => Sys2Proof.Machine.execPortState a mid up s
  | .departing a src mseq => Sys2Proof.Machine.execDeparting a src mseq s
  | .link port f => Sys2Proof.Machine.execLink port f s
  | .remoteTimeout tag => Sys2Proof.Machine.execRemoteTimeout tag s
  | .portTrainingDone port ok plane => Sys2Proof.Machine.execPortTrainingDone port ok plane s
  | .laneSpare port lane => Sys2Proof.Machine.execLaneSpare port lane s
  | .patrolScrub stack => Sys2Proof.Machine.execPatrolScrub stack s
  | .stackThermalSample stack temp => Sys2Proof.Machine.execStackThermalSample stack temp s
  | .quadrantThermalSample quad temp => Sys2Proof.Machine.execQuadrantThermalSample quad temp s
  | .powerCapSample watts centiV => Sys2Proof.Machine.execPowerCapSample watts centiV s
  | .stackSelfRefresh stack => Sys2Proof.Machine.execStackSelfRefresh stack s
  | .sampleDecodeStart f => Sys2Proof.Machine.execSampleDecodeStart f s
  | .sampleReady f idx mt => Sys2Proof.Machine.execSampleReady f idx mt s
  | .softLate f idx => Sys2Proof.Machine.execSoftLate f idx s
  | .hardLate f idx => Sys2Proof.Machine.execHardLate f idx s
  | .reorderRelease f => Sys2Proof.Machine.execReorderRelease f s
  | .outputRecord sess => Sys2Proof.Machine.execOutputRecord sess s
  | .outConsReread sess => Sys2Proof.Machine.execOutConsReread sess s
  | .standbyReady => Sys2Proof.Machine.execStandbyReady s
  | .dieLocalChangeDone ent => Sys2Proof.Machine.execDieLocalChangeDone ent s
  | .powerTransitionDone => Sys2Proof.Machine.execPowerTransitionDone s
  | .channelLost ch => Sys2Proof.Machine.execChannelLost ch s
  | .laneRetrained port lane ok => Sys2Proof.Machine.execLaneRetrained port lane ok s
  | .discardedPacket a typ k => Sys2Proof.Machine.execDiscardedPacket a typ k s

end Sys2Proof.Machine
end

