-- ==== Sys2Proof/Safety.lean ====
section
/-! DEFINITION. The terms in which claims speak of runs: what every state of a run keeps, what an access of memory leaves alone, and
what standing still means. -/

namespace Sys2Proof.Machine

/-- The canonical form of all that is held by address or by number: equal contents are equal data. -/
structure State.Canonical (s : State) : Prop where
  mem      : s.mem.wf = true
  sp       : s.sp.wf = true
  host     : Tbl.wf 0#8 s.host = true
  queues   : Tbl.wf {} s.queues = true
  rings    : Tbl.wf {} s.rings = true
  fns      : Tbl.wf {} s.fns = true
  parts    : Tbl.wf {} s.parts = true
  regions  : Tbl.wf {} s.regions = true
  ctxs     : Tbl.wf {} s.ctxs = true
  clients  : Tbl.wf (0, 0) s.clients = true
  engines  : Tbl.wf {} s.engines = true
  units    : Tbl.wf {} s.units = true
  movers   : Tbl.wf 0 s.moverLast = true
  served   : Tbl.wf 0 s.unitLast = true
  caches   : Tbl.wf [] s.caches = true
  chans    : Tbl.wf {} s.chans = true
  stackTbl : Tbl.wf {} s.stackTbl = true
  ports    : Tbl.wf {} s.fab.ports = true
  feeds    : Tbl.wf {} s.feeds = true
  toks     : Tbl.wf {} s.toks = true
  sessions : Tbl.wf {} s.sessions = true

/-- Every packet's number is its own: below the next number, and no other packet's. A packet that has not started has done
nothing. -/
def State.Numbered (s : State) : Prop :=
  (s.allPkts.map (fun r => r.2.id)).Nodup ∧ (∀ r ∈ s.allPkts, r.2.id < s.nextPkt) ∧
    ∀ r ∈ s.allPkts, r.2.phase = .fetched → r.2.run = { role := r.2.run.role, step := r.2.run.step }

/-- The state without its memory system: memories, codes, caches, channels, stacks, the error and memory event rings, the
interrupts their records raise, the counter of free values, and what running tasks keep of ranges that others rewrite (R125). Two states
that agree in it differ by memory accesses at most. -/
def State.besidesMem (s : State) : State :=
  { s with items := s.items.map (fun i => { i with rivals := [] }), mem := {}, sp := {}, host := [], ecc := {}, memRing := {}, caches := [], copies := [], stackCk := [], chans := [],
           stackTbl := [], msix := [], fns := [], free := 0 }

/-- The state without its memory system and its fabric, through which an access may reach a peer. -/
def State.besidesIo (s : State) : State := { s.besidesMem with fab := {} }

/-- Bytes `bs` stand in host memory from bus address `a` on. -/
def State.HostHolds (s : State) (a : Nat) (bs : List Byte) : Prop := ∀ i, i < bs.length → s.hostByte (a + i) = bs.getD i 0#8

/-- The ring of queue `q` holds these slots at HEAD, and the fetcher can read them: the whole packet lies before the tail and before
the end of the ring (R35, R44). -/
def State.RingHolds (s : State) (q : Nat) (bs : List Byte) : Prop :=
  let u := s.queue q
  s.ringBytes q 1 false = .ok (bs.take 64) ∧ s.ringBytes q (bs.length / 64) false = .ok bs ∧
    bs.length / 64 ≤ u.filled ∧ bs.length / 64 < u.slots ∧ u.head + bs.length / 64 ≤ u.slots ∧
    (isHost u.base = true → s.hostPath q = true)

/-- The conditions of R47 that need no reading hold for the packet `k` at the front of queue `q`, behind `before`, and nothing
else holds it: the queue runs, its block is read, no read of it is on its way, and the power state executes it (R453). -/
def State.MayStart (s : State) (q : Nat) (before : List Packet) (k : Packet) : Prop :=
  s.front q = some (before, k) ∧ s.ctrl.alert = false ∧ (s.queue q).halted = false ∧ fenceMet before k = true ∧
    k.notBefore ≤ s.mtime ∧ k.indirect = none ∧ s.fab.reqs.any (fun r => r.pkt == k.id) = false ∧
    s.power.target = none ∧ powerCovers s.power.st k.opcode (s.ctx k.ctx).engines = false

/-- A step from the state with this command at the front of its queue neither faults nor is refused. -/
def State.Safe (s : State) (c : Instr) : Prop := ∃ t, step { s with pending := c :: s.pending } = .next t

/-- No mask is armed: writes change nothing but what they write (R335). -/
def State.Disarmed (s : State) : Prop := s.ecc.armed = false

/-- Memory holds nothing but data: no mask is armed, every word is clean, in the die caches and under them too, no lock word is in use, no group has slot space, no
channel is lost or was relocated empty, and the module is in ACTIVE. -/
structure State.Plain (s : State) : Prop where
  disarmed : s.Disarmed
  clean    : ∀ w, verdict (s.mem.ckAt w) = .clean ∧ verdict (s.sp.ckAt w) = .clean
  locks    : s.locks = []
  groups   : s.groups = []
  chans    : ∀ c, (s.chan c).retire ≠ 3 ∧ (s.chan c).empty = []
  copies   : s.copies = [] ∧ s.stackCk = []
  active   : s.power.st = .active

/-- Time passes and does nothing else: no corrected error is held back (R333), MTIME is not being corrected (R358), no lane swap is
agreed (R341). -/
def State.Calm (s : State) : Prop :=
  s.ecc.heldCe = [] ∧ s.fab.hold = 0 ∧ s.fab.slew = 0 ∧ ∀ p ∈ s.fab.ports, p.2.swaps = []

/-- No automatic transfer waits for a stream mover (R244). -/
def State.NoTransfers (s : State) : Prop := ∀ c, (s.ctx c).spillQ = [] ∧ (s.ctx c).fetchQ = []

/-- Packet `p` of queue `q` is finished and its record can be written now, to a ring in host memory (R51, R54): nothing that it has sent
or has to write is outstanding, and what completes with it moves nothing else. -/
structure State.MayEnd (s : State) (p q : Nat) (k : Packet) : Prop where
  pkt       : s.pkt p = some (q, k)
  finished  : k.phase = .finished
  reqs      : s.fab.reqs.any (fun r => r.pkt == p) = false
  owed      : s.owed.any (fun o => o.pkt == some p) = false
  role      : k.run.role ≠ .backward
  room      : (s.ring (s.queue q).ring).room = true
  waiting   : (s.ring (s.queue q).ring).waiting = []
  ring      : isHost (s.ring (s.queue q).ring).base = true
  inside    : (s.ring (s.queue q).ring).base + 32 * (s.ring (s.queue q).ring).tail < 2 ^ 64
  path      : s.hostPath q = true
  calm      : s.Calm
  transfers : s.NoTransfers

/-- No task list runs, and no context is resident or waits for an engine: a change of work moves nothing. -/
structure State.Workless (s : State) : Prop where
  lists   : ∀ r ∈ s.allPkts, r.2.opcode = opTasklist → r.2.phase = .started → r.2.run.begun = false
  items   : s.items = []
  engines : ∀ g ∈ s.engines, g.2.used = [] ∧ g.2.holder = none ∧ g.2.waiters = []

/-- Every task that an open list has yet to dispatch has a descriptor that can be read and names an operation of the table, with a
dependency on an earlier task. -/
def State.ListsSound (s : State) : Prop :=
  ∀ r ∈ s.allPkts, r.2.openList = true → ∀ i, r.2.run.next ≤ i → i < r.2.run.count →
    ∃ d, s.descriptor r.1 r.2 i = .ok d ∧ badNext (s.ctx r.2.ctx).engines (s.ctx r.2.ctx).policy { r.2 with run := { r.2.run with next := i } } d = false

/-- R491: from `s` to `t` the event ring `r` took the 32-byte record, if it is enabled and not full: it stands at TAIL with the PHASE of the
pass, shown for a ring in host memory, and the ring is `r'` then. A ring that takes none leaves everything as it was. -/
def EvRing.Took (r r' : EvRing) (s t : State) (rec : List Byte) : Prop :=
  (r.enable = false ∨ (r.tail + 1) % 2 ^ r.log2 = r.head % 2 ^ r.log2 → t = s) ∧
    (r.enable = true → (r.tail + 1) % 2 ^ r.log2 ≠ r.head % 2 ^ r.log2 →
      r' = { r with tail := (r.tail + 1) % 2 ^ r.log2, phase := if r.tail + 1 = 2 ^ r.log2 then !r.phase else r.phase } ∧
      (isHost r.base = true → r.base + 32 * r.tail + 32 ≤ 2 ^ 64 → t.mem = s.mem ∧
        t.HostHolds ((r.base + 32 * r.tail) % 2 ^ 48)
          (rec.take 11 ++ [rec.getD 11 0#8 ||| (if r.phase then 0x80#8 else 0#8)] ++ rec.drop 12)))

/-- The three event rings are disabled and no mask is armed: errors are counted, and nothing is recorded or injected (R317, R334). -/
structure State.Quiet (s : State) : Prop where
  disarmed : s.Disarmed
  ecc      : s.ecc.ring.enable = false
  mem      : s.memRing.enable = false
  rst      : s.ctrl.ring.enable = false

/-- Where a byte stands: `(true, h)` in host memory at bus address `h`, `(false, p)` in module memory at place `p`. -/
def State.spot (s : State) (a : Acc) (g : Nat) : Option (Bool × Nat) :=
  match s.resolve a g with
  | .ok (.host h) => some (true, h)
  | .ok (.mem p _) => some (false, p)
  | _ => none

/-- What a byte that stands there reads as. -/
def State.byteAt (s : State) (w : Bool × Nat) : Option Byte := if w.1 then some (s.hostByte w.2) else s.memByte w.2

/-- The access reaches every byte of the range, in host memory or module memory, and no two of them stand at one place. -/
structure State.Reaches (s : State) (a : Acc) (g n : Nat) : Prop where
  there : ∀ i, i < n → s.spot a (g + i) ≠ none
  apart : ∀ i j, i < n → j < n → s.spot a (g + i) = s.spot a (g + j) → i = j

/-- From `s` to `t`, the bytes `bs` were stored at address `g` on, and every other byte of module and host memory reads as before. -/
def State.Stored (s t : State) (a : Acc) (g : Nat) (bs : List Byte) : Prop :=
  (∀ i, i < bs.length → ∀ w, s.spot a (g + i) = some w → t.byteAt w = some (bs.getD i 0#8)) ∧
    ∀ w, (∀ i, i < bs.length → s.spot a (g + i) ≠ some w) → t.byteAt w = s.byteAt w

/-- From `s` to `t`, besides memory, only packets changed, and what engine `e` keeps of its stream mover and its progress. -/
def State.ByMover (s t : State) (e : Nat) : Prop :=
  { t.besidesMem with queues := s.queues, engines := s.engines, moverLast := s.moverLast } = s.besidesMem ∧
    (∀ n, n ≠ e → t.engine n = s.engine n ∧ ∀ l, l < 4 → Tbl.get 0 t.moverLast (4 * n + l) = Tbl.get 0 s.moverLast (4 * n + l)) ∧
    { t.engine e with moved := (s.engine e).moved, progress := (s.engine e).progress, heldSince := (s.engine e).heldSince } = s.engine e

/-- From `s` to `t`, no byte of memory changed. -/
def State.Kept (s t : State) : Prop := t.sp = s.sp ∧ ∀ w, t.byteAt w = s.byteAt w

/-- Packet `p` of queue `q` has finished with this status. -/
def State.Ended (s : State) (p q status : Nat) : Prop := ∃ e, s.pkt p = some (q, e) ∧ e.phase = .finished ∧ e.status = status

/-- From `s` to `t`, the bytes of one range came to stand in another, those places apart that `other` takes in, and nothing else changed
but there. -/
def State.Moved (s t : State) (a : Acc) (src dst n : Nat) (other : Bool × Nat → Prop) : Prop :=
  (∀ i, i < n → ∀ v w, s.spot a (src + i) = some v → s.spot a (dst + i) = some w → ¬other w → t.byteAt w = s.byteAt v) ∧
    ∀ w, ¬other w → (∀ i, i < n → s.spot a (dst + i) ≠ some w) → t.byteAt w = s.byteAt w

/-- A place that the activation block, its entries or the semaphores of micro-batch `j` take up (R240 to R242). -/
def State.inAct (s : State) (acc : Acc) (a : Act) (j : Nat) (w : Bool × Nat) : Prop :=
  (∃ i, i < 64 ∧ s.spot acc (a.addr + i) = some w) ∨ (∃ i, i < 32 * a.nent ∧ s.spot acc (a.entA + i) = some w) ∨
    ∃ i, i < 32 ∧ s.spot acc (a.mbA + 32 * j + i) = some w

/-- R335 CLASS 5, R322: what hub `h`'s burst queue takes next it keeps as MARK: an armed mask of no single-lane error waits for it. -/
def State.burstMarks (s : State) (h : Nat) : Prop :=
  s.ecc.armed = true ∧ s.ecc.cls = 5 ∧ s.ecc.index = h ∧ verdict s.ecc.maskCk = .bad

/-- R345: port `n` takes a packet that comes so: the port carries traffic, no word of it fails detection, it is the packet expected, and
the hub's burst queue does not keep its header as MARK (notes/assumptions/141). -/
def State.Accepts (s : State) (n : Nat) (via : Via) : Prop :=
  (s.port n).live = true ∧ via.bad = false ∧ (∀ l ∈ via.lseq, l % 4096 = (s.port n).expect % 4096) ∧
    ¬s.burstMarks (n / 4)

/-- The state once port `n` has taken a packet of VC `v` and so many flits (R345, R347). -/
def State.taken (s : State) (n : Nat) (via : Via) (v flits : Nat) : State := (s.arrive n via v flits).2

/-- R354: a GROUP message with `n` payload bytes has been taken, into its hub's message queue, and acknowledged, and is known from now on. -/
def State.heard (s : State) (m : GroupMsg) (n : Nat := 0) : State :=
  let t := ((s.taken m.port m.via 0 (flitsOf n)).noteMsg m.port).respond m.port m.src m.mseq 0 4 0 0
  { t with fab := { t.fab with seen := t.fab.seen ++ [(m.src, m.mseq)] } }

/-- The message is taken, its hub's message queue has room for it (R360), and it is a new one, for this joined group. -/
def State.Hears (s : State) (m : GroupMsg) (g : Group) : Prop :=
  m.wf = true ∧ s.Accepts m.port m.via ∧ s.msgRoom m.port = true ∧ (m.src, m.mseq) ∉ s.fab.seen ∧ s.group m.gid = some g

/-- R280: from `s` to `t`, the group's step was committed here: CUR flipped, the context COMMITTED, every started STEP_COMMIT done. -/
def State.Committed (s t : State) (g : Group) : Prop :=
  (t.ctx g.ctx).stepState = .committed ∧
    (∃ u, t.group g.gid = some u ∧ u.cur = 1 - g.cur % 2 ∧ u.keyState = 2 ∧ u.step = g.step ∧ u.commitMt = s.mtime) ∧
    ∀ p ∈ g.commitPkts, ∀ q k, s.pkt p = some (q, k) → k.phase ≠ .finished → t.Ended p q stOk

/-- R283: from `s` to `t`, the step and attempt `key` of the group were aborted here: CUR stays, the next attempt is expected, the context is
ABORTED, and every started STEP_COMMIT ended with STEP_ABORTED. -/
def State.Aborted (s t : State) (g : Group) (key : Nat × Nat) : Prop :=
  (t.ctx g.ctx).stepState = .aborted ∧
    (∃ u, t.group g.gid = some u ∧ u.cur = g.cur ∧ u.keyState = 1 ∧ u.step = key.1 ∧ u.attempt = (key.2 + 1) % 256) ∧
    ∀ p ∈ g.commitPkts, ∀ q k, s.pkt p = some (q, k) → k.phase ≠ .finished → t.Ended p q stStepAborted

/-- R295 to R297: every region in force is aligned, and split over the dies as it must be, and so is every window that changes. -/
structure State.Laid (s : State) : Prop where
  regions : ∀ r ∈ s.regions, r.2.valid = true →
    r.2.base % 2 ^ r.2.size = 0 ∧ 20 ≤ r.2.size ∧ (r.2.dieLocal = true → splitOk (s.part r.2.part).chans = true)
  windows : ∀ r ∈ s.regions, ∀ w ∈ r.2.windows, w.2.1 % 2 ^ w.2.2 = 0 ∧ 20 ≤ w.2.2

end Sys2Proof.Machine
end

