-- ==== Sys2Proof/Certificates/Slice0/Obligations.lean ====
section
/-! DEFINITION. The statements for the provers. Each says, for commands of the table, on which states they do their own work, what
the next state then is, and what it leaves as it was. -/

open Sys2Proof Sys2Proof.Machine

/-! ### The machine -/

/-- A step takes the command at the front of the queue and is that command's effect on the state with the queue's rest. -/
def Obligations.FrontCommandRuns : Prop :=
  ∀ (c : Instr) (r : List Instr) (s : State), step { s with pending := c :: r } = exec c { s with pending := r }

/-- On an empty queue one nanosecond passes (notes/assumptions/2, the model's choice): MTIME moves on by 1 while no correction
of R358 is under way, and it stands still in SLEEP and without input. An event that a command puts at a time moves MTIME there, never
back. Where no corrected error is held back, MTIME is not being corrected and no lane swap is agreed, nothing else changes with it but
what a paused engine keeps of its watchdog time. -/
def Obligations.EmptyQueueLetsTimePass : Prop :=
  ∀ s : State, s.pending = [] →
    (s.power.st = .sleep ∨ s.power.st = .off → step s = .next s) ∧
    (s.power.st ≠ .sleep → s.power.st ≠ .off → s.fab.hold = 0 → s.fab.slew = 0 →
      ∃ t, step s = .next t ∧ t.mtime = s.mtime + 1 ∧ (s.Calm → { t with mtime := s.mtime, engines := s.engines } = s)) ∧
    ∀ mt, (s.at mt).mtime = max s.mtime mt ∧ (s.Calm → { s.at mt with mtime := s.mtime, engines := s.engines } = s)

/-- A command that a row of the table spells answers a next state, whatever the state: none is a fault, none a refusal. A command
whose operands no row spells is refused. -/
def Obligations.EveryCommandAnswers : Prop :=
  ∀ (c : Instr) (s : State), (c.wf = true → ∃ t, exec c s = .next t) ∧ (c.wf = false → exec c s = .refused .illFormed)

/-- What the module holds right after reset where the spec gives it: partition 0 owns everything and the others nothing (R220),
context 0 is the management context (R206), every queue and ring is disabled, of 64 entries and empty, the first pass of a ring
has PHASE 1 (R39, R53), no interrupt, no reset and no port is up, and no command waits. -/
def Obligations.ResetState : Prop :=
  (∀ p, p < 8 → State.reset.part p = if p = 0 then Partition.whole .azg7208 else {}) ∧
  (State.reset.part 0).enabled = true ∧ (State.reset.part 0).bwShare = 256 ∧ State.reset.chanCount 0 = 512 ∧
  (∀ c, State.reset.ctx c = if c = 0 then Ctx.management .azg7208 else {}) ∧
  (State.reset.ctx 0).level = 3 ∧ (State.reset.ctx 0).memLimit = State.reset.memBytes 0 ∧
  (∀ q, (State.reset.queue q).enable = false ∧ (State.reset.queue q).log2 = 6 ∧ (State.reset.queue q).pkts = [] ∧
    (State.reset.queue q).head = 0 ∧ (State.reset.queue q).tail = 0) ∧
  (∀ c, (State.reset.ring c).enable = false ∧ (State.reset.ring c).log2 = 6 ∧ (State.reset.ring c).phase = true) ∧
  (∀ n, (State.reset.port n).st = .down) ∧ State.reset.ctrl.resets = [] ∧ State.reset.msix = [] ∧ State.reset.pending = []

/-! ### Invariants -/

/-- The state after reset meets the three invariants below: nothing is listed that an empty list would not say, no packet is
numbered, and no region is in force that is not laid as R295 to R297 ask. -/
def Obligations.ResetMeetsInvariants : Prop := State.reset.Canonical ∧ State.reset.Numbered ∧ State.reset.Laid

/-- Every step keeps the canonical form of module memory, scratchpads, host memory and every numbered collection of the module:
an entry reads as what was last written to it, and equal contents are equal data. -/
def Obligations.StepKeepsCanonical : Prop := ∀ s t : State, s.Canonical → step s = .next t → t.Canonical

/-- No command touches the commands that wait behind it, nor what is fused: the order code. -/
def Obligations.CommandsKeepQueueAndFuses : Prop :=
  ∀ (c : Instr) (s t : State), exec c s = .next t → t.pending = s.pending ∧ t.order = s.order

/-- Every step keeps every packet's number its own (R36: a packet is fetched and dispatched exactly once). -/
def Obligations.StepKeepsNumbers : Prop := ∀ s t : State, s.Canonical → s.Numbered → step s = .next t → t.Numbered

/-- R295 to R297: every step keeps every region in force aligned to its size, and every die-local one split over the dies as R295 asks. -/
def Obligations.RegionsStayLaid : Prop := ∀ s t : State, s.Canonical → s.Laid → step s = .next t → t.Laid

/-! ### The layout of packets -/

/-- R35, R42, R43: the fetcher reads a packet as software wrote it. Every field at every value that its place admits comes back, no
other bit is taken in, and the packet takes as many slots as its bytes fill. -/
def Obligations.PacketReadsAsWritten : Prop :=
  ∀ k : Packet, k.spells = true →
    packetOf k.id (encodePacket k) = k.written ∧ (encodePacket k).length = 64 * headerSlots (encodePacket k)

/-! ### The command protocol -/

/-- CMD_TAIL and CPL_HEAD, written by a function whose port is up and which sees the queue or the ring. A tail in the ring becomes the
queue's tail; what the slots it covers hold is kept; where it passes the head, what is filled is counted, for the slots that are then
unspecified. A tail at or above the
ring's size only sets BAD_DOORBELL. A head in the ring is taken, and with no record waiting nothing else happens. A function that
does not see the queue changes nothing. -/
def Obligations.DoorbellsMoveIndices : Prop :=
  (∀ (fn q v : Nat) (s : State), isFn fn = true → isQueue q = true → v < 2 ^ 32 →
    let u := s.queue q
    let d := (v + 2 ^ u.log2 - u.tail) % 2 ^ u.log2
    let n := u.filled + d
    let kept := u.kept ++ (List.range d).map (fun i => s.slotBytes q (u.tail + i))
    ((s.fnUp fn && s.fnSees fn u.part) = false → exec (.cmdTail fn q v) s = .next s) ∧
    ((s.fnUp fn && s.fnSees fn u.part) = true →
      (2 ^ u.log2 ≤ v → exec (.cmdTail fn q v) s = .next (s.setQueue q { u with badBell := true })) ∧
      (v < 2 ^ u.log2 → n < 2 ^ u.log2 → exec (.cmdTail fn q v) s = .next (s.setQueue q { u with tail := v, overrun := 0, kept })) ∧
      (v < 2 ^ u.log2 → 2 ^ u.log2 ≤ n → exec (.cmdTail fn q v) s = .next (s.setQueue q { u with tail := v, overrun := n, kept })))) ∧
  (∀ (fn c v : Nat) (s : State), s.Canonical → isFn fn = true → isQueue c = true → v < 2 ^ (s.ring c).log2 → (s.ring c).log2 ≤ 16 →
    s.fnUp fn = true → s.fnSees fn (s.partOf c) = true → (s.ring c).waiting = [] →
    exec (.cplHead fn c v) s = .next (s.setRing c { s.ring c with head := v }))

/-- PACKET_FETCH of a packet that stands in the ring as software wrote it and passes the checks made at fetch: it joins the queue's
packets with the fields it was written with, HEAD moves past its slots, and its context's client has one job more (R227). NOP
occupies its slots and does nothing else, whichever of the two commands takes it (R35). Otherwise only the reading of the slots leaves
its traces, and none where the ring stands in host memory. Nothing is fetched from a queue that is disabled or halted, or while the
module is down. -/
def Obligations.FetchTakesPacket : Prop :=
  (∀ (q : Nat) (k : Packet) (s : State), s.Canonical → isQueue q = true → s.fetches q = true → (s.queue q).flushing = false → (s.queue q).overrun = 0 →
    k.spells = true →
    k.id = s.nextPkt → s.RingHolds q (encodePacket k) →
    let n := (encodePacket k).length / 64
    let v := (s.ctx k.ctx).client
    let r := s.ringRead q n false
    (isHost (s.queue q).base = true → (s.queue q).base + 64 * (s.queue q).slots ≤ 2 ^ 64 → r = s) ∧
    (k.opcode ≠ 0 → k.opcode ≠ 0x0701 → s.fetchCheck q k.written (encodePacket k) = none →
      ∃ t, exec (.packetFetch q) s = .next t ∧
        t.queue q = { (s.queue q).advance n with pkts := (s.queue q).pkts ++ [{ k.written with client := some v }] } ∧
        t.client v = (((s.client v).1 + 1) % 2 ^ 64, (s.client v).2) ∧ t.nextPkt = s.nextPkt + 1 ∧
        { t with queues := r.queues, clients := r.clients, nextPkt := r.nextPkt } = r ∧ (∀ x, x ≠ q → t.queue x = s.queue x)) ∧
    (k.opcode = 0 → exec (.nop q) s = .next (r.setQueue q ((s.queue q).advance n)) ∧
      exec (.packetFetch q) s = .next (r.setQueue q ((s.queue q).advance n)))) ∧
  (∀ (q : Nat) (s : State), isQueue q = true → s.fetches q = false → (s.queue q).flushing = false →
    exec (.packetFetch q) s = .next s ∧ exec (.nop q) s = .next s)

/-- R47, R48. The packet at the front starts when no earlier uncompleted packet has a CLASS in its FENCE, its WAIT semaphore was met
(here: it has none) and MTIME has reached MTIME_NOT_BEFORE, equality included; it takes the next place in the order of starting, and
SEED and STEP are 0 with it where no step is open (R118).
While a fence or the time holds it, nothing changes. MTIME_NOT_BEFORE moves MTIME to the value waited for. -/
def Obligations.PacketStartsWhenMet : Prop :=
  (∀ (q : Nat) (before : List Packet) (k : Packet) (s : State), isQueue q = true → s.MayStart q before k →
    k.flags.testBit 0 = false → s.pkt k.id = some (q, k) → s.startCheck q k = none →
    k.opcode ≠ opTasklist → k.opcode ≠ 0x0701 → k.opcode ≠ 0x0702 →
    let c := s.ctx k.ctx
    ∃ t, exec (.packetStart q) s = .next t ∧ t.nextSeq = s.nextSeq + 1 ∧
      t.pkt k.id = some (q, { k with phase := .started, startSeq := s.nextSeq + 1, startMt := s.mtime, unit := s.unitOf q k,
                                     mover := if isMover k.opcode = true ∧ k.mover = none then s.freeMover k else k.mover,
                                     run := { k.run with role := .ordinary, seed := if c.stepState.isOpen then c.seed else 0,
                                                         step := if c.stepState.isOpen then c.step else 0 } }) ∧
      { t with queues := s.queues, nextSeq := s.nextSeq, engines := s.engines, moverLast := s.moverLast } = s ∧
      (isMover k.opcode = false ∨ s.freeMover k = none → t.engines = s.engines ∧ t.moverLast = s.moverLast)) ∧
  (∀ (q : Nat) (before : List Packet) (k : Packet) (s : State), isQueue q = true → s.front q = some (before, k) →
    (fenceMet before k = false ∨ s.mtime < k.notBefore) → exec (.packetStart q) s = .next s) ∧
  (∀ (q : Nat) (before : List Packet) (k : Packet) (s : State), isQueue q = true → s.front q = some (before, k) →
    exec (.mtimeNotBefore q) s = .next (s.at k.notBefore))

/-- R49: the re-read of the WAIT semaphore of the packet at the front decides anew whether the condition holds: its 64-bit value,
unsigned, is at least WAIT_VALUE. Here the semaphore is in host memory, and nothing else changes. R51: the SIGNAL add of a finished
packet is an exact add of 1 to the 64-bit semaphore, made before the record. Here semaphore and ring are in host memory and apart. -/
def Obligations.SemaphoresWaitAndCount : Prop :=
  (∀ (q : Nat) (before : List Packet) (k : Packet) (s : State), isQueue q = true → s.front q = some (before, k) →
     k.flags.testBit 0 = true → isHost k.waitAddr = true → k.waitAddr % 8 = 0 → s.hostPath q = true →
     exec (.waitSemaphoreReread q) s = .next (s.modPkt k.id (fun p =>
       { p with semOk := decide (k.waitVal ≤ le ((List.range 8).map (fun i => s.hostByte (k.waitAddr % 2 ^ 48 + i)))) }))) ∧
  (∀ (p mt q : Nat) (k : Packet) (s : State), mt < 2 ^ 64 → s.Canonical → s.Numbered → s.MayEnd p q k →
     k.flags.testBit 1 = true → k.signalled = false → isCheck k.status = false →
     (k.opcode = 0x0802 → (s.ctx k.ctx).stepState.isOpen = false) →
     let r := s.ring (s.queue q).ring
     let a := k.sigAddr % 2 ^ 48
     isHost k.sigAddr = true → s.noAtomics.contains (a / 8) = false → (a + 8 ≤ (r.base + 32 * r.tail) % 2 ^ 48 ∨ (r.base + 32 * r.tail) % 2 ^ 48 + 32 ≤ a) →
     ∃ t, exec (.packetCompletion p mt) s = .next t ∧ t.pkt p = none ∧ t.mem = s.mem ∧
       le ((List.range 8).map (fun i => t.hostByte (a + i))) = (le ((List.range 8).map (fun i => s.hostByte (a + i))) + 1) % 2 ^ 64 ∧
       t.HostHolds ((r.base + 32 * r.tail) % 2 ^ 48) (completionRecord q k r.phase (k.visible.getD (max s.mtime mt))))

/-- R50 to R55, R60, R61: a finished packet with no SIGNAL whose ring, in host memory, has room: its record stands at TAIL with the PHASE
of the pass, TAIL moves on and PHASE inverts at the wrap; its MTIME is that at which the packet's effects became visible (R52); the packet
is gone from its queue, which halts on a failure with STOP_ON_ERROR, a cancelled packet apart, and whose FLUSH ends with the last record
that it has cancelled (R61); its context's totals advance by its true counts, and its numerics policy takes effect (R95). One that comes
to complete while a step is open completes as one that ended with POLICY_LOCKED. Module memory does not change. -/
def Obligations.CompletionWritesRecord : Prop :=
  ∀ (p mt q : Nat) (k : Packet) (s : State), mt < 2 ^ 64 → s.Canonical → s.Numbered → s.MayEnd p q k → k.flags.testBit 1 = false →
    let late := k.opcode = 0x0802 ∧ k.status = stOk ∧ (s.ctx k.ctx).stepState.isOpen = true
    (late → exec (.packetCompletion p mt) s = exec (.packetCompletion p mt) (s.modPkt p (fun e => { e with status := 0x60 }))) ∧
    (¬late →
      let c := (s.queue q).ring
      let r := s.ring c
      let left := (s.queue q).pkts.filter (fun e => e.id != p)
      let flushed := (s.queue q).flushed = true ∧ ∀ e ∈ left, ¬(e.phase = .finished ∧ e.status = stCancelled)
      ∃ t, exec (.packetCompletion p mt) s = .next t ∧
        t.HostHolds ((r.base + 32 * r.tail) % 2 ^ 48) (completionRecord q k r.phase (k.visible.getD (max s.mtime mt))) ∧
        t.ring c = { r with tail := (r.tail + 1) % 2 ^ r.log2, phase := if r.tail + 1 = 2 ^ r.log2 then !r.phase else r.phase } ∧
        t.pkt p = none ∧ (k.run.wrote = [] → (t.queue q).pkts = left) ∧
        ((t.queue q).halted = true ↔ ((s.queue q).halted = true ∧ ¬flushed) ∨
          (k.flags.testBit 4 = true ∧ harmless k.endStatus = false ∧ k.status ≠ stCancelled)) ∧
        ((t.queue q).flushing = true ↔ (s.queue q).flushing = true ∧ ¬flushed) ∧
        (t.queue q).head = (s.queue q).head ∧ (t.queue q).tail = (s.queue q).tail ∧
        (k.counts.none = false → (s.ctx k.ctx).state ≠ .free → (t.ctx k.ctx).totals = (s.ctx k.ctx).totals.total k.counts) ∧
        (k.opcode = 0x0802 → k.status = stOk → (t.ctx k.ctx).policy = field k.params 0 1) ∧
        t.mem = s.mem ∧ t.sp = s.sp ∧ t.parts = s.parts ∧ t.regions = s.regions ∧ t.items = s.items ∧ t.groups = s.groups ∧
        (∀ a, (a < (r.base + 32 * r.tail) % 2 ^ 48 ∨ (r.base + 32 * r.tail) % 2 ^ 48 + 32 ≤ a) → t.hostByte a = s.hostByte a))

/-! ### Registers -/

/-- Registers that hold what is written to them: offset and width (R39, R296, R318, R334, R360, R458, R471). -/
def plainRegisters : List (Nat × Nat) :=
  [(0x001010, 6), (0x001040, 12), (0x001080, 12), (0x010000, 6), (0x010044, 4), (0x030004, 3), (0x040000, 16), (0x060018, 5),
   (0x010040, 8), (0x020000, 32), (0x020004, 32), (0x020008, 32), (0x02000C, 32), (0x020010, 16), (0x020028, 11), (0x03001C, 16)]

/-- REGISTER_WRITE of a selector or a plain register by a function that may write it, then a read of it: the read answers the value's
implemented bits, and the reserved ones read as zero (R460). Another function's selectors are as they were (R465), and so are
queues, memory and contexts. A write by a function that may not write the register, or through a port that is down, changes nothing. -/
def Obligations.RegisterReadsWhatWasWritten : Prop :=
  (∀ (fn off w v : Nat) (s : State), isFn fn = true → (off, w) ∈ plainRegisters → v < 2 ^ 32 → s.Canonical → s.fnUp fn = true →
    s.canWrite fn off = true →
    ∃ t u, exec (.registerWrite fn off v) s = .next t ∧ exec (.readClears fn off) t = .next u ∧ u.reply = .word (v % 2 ^ w) ∧
      (∀ g, g ≠ fn → t.fn g = s.fn g) ∧ { t with fns := s.fns, lcShare := s.lcShare, ecc := s.ecc, fab := s.fab } = s ∧
      { u with reply := t.reply } = t) ∧
  (∀ (fn off v : Nat) (s : State), isFn fn = true → isReg off = true → v < 2 ^ 32 →
    (s.fnUp fn && s.canWrite fn off) = false → exec (.registerWrite fn off v) s = .next s)

/-- R460, R466. A read of an RC register answers its count and zeroes it in one step, and nothing else changes; FAB_REPLAYS is the
selected port's. A read of a _LO register latches the matching _HI value for the same function; the next read of that _HI answers the
latched value and releases the latch, whatever the live value has become; with no latch held it answers the live value. -/
def Obligations.ReadsClearOrLatch : Prop :=
  (∀ (fn : Nat) (s : State), isFn fn = true → isPf fn = true → s.fnUp fn = true →
     exec (.readClears fn 0x020020) s = .next { s with reply := .word s.ecc.ceCount, ecc := { s.ecc with ceCount := 0 } } ∧
     exec (.readClears fn 0x020024) s = .next { s with reply := .word s.ecc.ueCount, ecc := { s.ecc with ueCount := 0 } } ∧
     exec (.readClears fn 0x030010) s = .next (({ s with reply := .word (s.port (s.fn fn).psel).replays } : State).setPort (s.fn fn).psel
       { s.port (s.fn fn).psel with replays := 0 }) ∧
     exec (.readClears fn 0x030024) s = .next { s with reply := .word s.fab.discards, fab := { s.fab with discards := 0 } } ∧
     exec (.readClears fn 0x030028) s = .next { s with reply := .word s.fab.drops, fab := { s.fab with drops := 0 } } ∧
     (s.order.media = true →
       exec (.readClears fn 0x050004) s = .next { s with reply := .word (min (2 ^ 32 - 1) s.media.concealed),
                                                         media := { s.media with concealed := 0 } } ∧
       exec (.readClears fn 0x050008) s = .next { s with reply := .word (min (2 ^ 32 - 1) s.media.exhausted),
                                                         media := { s.media with exhausted := 0 } } ∧
       exec (.readClears fn 0x05000C) s = .next { s with reply := .word (min (2 ^ 32 - 1) s.media.strudelOvf),
                                                         media := { s.media with strudelOvf := 0 } })) ∧
  ((∀ (fn lo : Nat) (s : State), isFn fn = true → latches lo = true → s.fnUp fn = true → s.canRead fn lo = true →
     exec (.loReadLatch fn lo) s = .next (({ s with reply := .word (s.regValue fn lo) } : State).setFn fn
       ((s.fn fn).setLatch (lo + 4) (some (s.regValue fn (lo + 4)))))) ∧
   (∀ (fn lo v : Nat) (s : State), isFn fn = true → latches lo = true → s.fnUp fn = true → s.canRead fn (lo + 4) = true →
     (s.fn fn).latch (lo + 4) = some v →
     exec (.loReadLatch fn (lo + 4)) s =
       .next (({ s with reply := .word v } : State).setFn fn ((s.fn fn).setLatch (lo + 4) none))) ∧
   (∀ (fn lo : Nat) (s : State), isFn fn = true → latches lo = true → s.fnUp fn = true → s.canRead fn (lo + 4) = true →
     (s.fn fn).latch (lo + 4) = none →
     exec (.loReadLatch fn (lo + 4)) s = .next { s with reply := .word (s.regValue fn (lo + 4)) }))

/-- R39 to R41, through a physical function. MGT_QCFG of a disabled, quiescent queue is taken, and a new size starts the ring empty;
while ENABLE is 1 a write takes ENABLE alone (notes/assumptions/30, the model's choice). No record waits at a ring given up or taken
in its place: such a record would move with its queue. A base is taken by a quiescent queue, whose
ring then starts empty, and ignored elsewhere. MGT_CCFG and the ring bases likewise; a new base or size restarts PHASE at 1. The
interrupt vector of an enabled ring may be written (R39). -/
def Obligations.QueuesAndRingsConfigured : Prop :=
  ∀ (fn v : Nat) (s : State), isFn fn = true → isPf fn = true → s.fnUp fn = true → v < 2 ^ 32 → s.Canonical →
    let q := (s.fn fn).qsel
    let u := s.queue q
    let c := (s.fn fn).csel
    let r := s.ring c
    (u.quiescent = true → 6 ≤ fld v 0 5 → fld v 0 5 ≤ 16 →
      (fld v 9 12 = u.ring ∨ fld v 0 5 ≠ u.log2 ∨ ((s.ring u.ring).waiting = [] ∧ (s.ring (fld v 9 12)).waiting = [])) →
      exec (.mgtQcfg fn v) s = .next (s.setQueue q
        (if fld v 0 5 = u.log2 then { u with enable := v.testBit 5, part := fld v 6 3, ring := fld v 9 12 }
         else { u with log2 := fld v 0 5, enable := v.testBit 5, part := fld v 6 3, ring := fld v 9 12, head := 0, tail := 0,
                       overrun := 0, kept := [] }))) ∧
    (u.enable = true → fld v 0 5 = u.log2 → 6 ≤ u.log2 → u.log2 ≤ 16 →
      exec (.mgtQcfg fn v) s = .next (s.setQueue q { u with enable := v.testBit 5 })) ∧
    (∀ hi, u.quiescent = true →
      exec (.mgtQbase fn hi v) s = .next (s.setQueue q { u with base := newBase u.base hi v, head := 0, tail := 0, overrun := 0, kept := [] })) ∧
    (∀ hi, u.quiescent = false → exec (.mgtQbase fn hi v) s = .next s) ∧
    (∀ reg, reg < 2 → r.enable = false →
      exec (.mgtCcfg fn reg v) s =
        .next (s.setRing c { r with base := newBase r.base (reg == 1) v, head := 0, tail := 0, phase := true })) ∧
    (r.enable = true → r.waiting = [] → 6 ≤ fld v 0 5 → fld v 0 5 ≤ 16 →
      exec (.mgtCcfg fn 2 v) s = .next (s.setRing c { r with enable := v.testBit 5, msix := fld v 6 11, owner := fn })) ∧
    (r.enable = false → r.waiting = [] → 6 ≤ fld v 0 5 → fld v 0 5 ≤ 16 →
      exec (.mgtCcfg fn 2 v) s = .next (s.setRing c
        (if fld v 0 5 = r.log2 then { r with enable := v.testBit 5, msix := fld v 6 11, owner := fn }
         else { r with log2 := fld v 0 5, enable := v.testBit 5, msix := fld v 6 11, owner := fn, head := 0, tail := 0,
                       phase := true })))

/-- R60, R61. RESUME clears HALTED, and fetching goes on at HEAD, unless a FLUSH goes on. FLUSH of a halted queue finishes every fetched
packet that had not started as CANCELLED. Once the ring has been gone through, HEAD is at the tail, so it is where the ring is empty; HALTED
clears with the last CANCELLED record, at once where there is none, and until then the FLUSH goes on. FLUSH of a queue that is not
halted, or being flushed, does nothing. -/
def Obligations.ResumeAndFlush : Prop :=
  ∀ (fn : Nat) (s : State), isFn fn = true → isPf fn = true → s.fnUp fn = true → s.Canonical → s.Numbered →
    let q := (s.fn fn).qsel
    let u := s.queue q
    exec (.resume fn) s = .next (s.setQueue q { u with halted := u.halted && u.flushing }) ∧
    ((u.halted = false ∨ u.flushing = true) → exec (.flush fn) s = .next s) ∧
    (u.halted = true → u.flushing = false → u.flushed = false → ∃ t, exec (.flush fn) s = .next t ∧ (t.queue q).tail = u.tail ∧
      ((t.queue q).flushing = false → (t.queue q).halted = false ∧ (t.queue q).head = u.tail ∧ (t.queue q).overrun = 0) ∧
      ((t.queue q).flushing = true → (t.queue q).halted = true ∧ ((t.queue q).flushed = true →
        (t.queue q).head = u.tail ∧ ∃ k ∈ (t.queue q).pkts, k.phase = .finished ∧ k.status = stCancelled)) ∧
      (u.filled = 0 → (t.queue q).flushing = false ∨ (t.queue q).flushed = true) ∧
      (u.filled = 0 → (∀ k ∈ u.pkts, k.phase = .started) → (t.queue q).flushing = false) ∧
      (∀ k ∈ u.pkts, k.phase = .fetched → ∀ e, t.pkt k.id = some e → e.2.phase = .finished ∧ e.2.status = stCancelled ∧ e.2.signalled = true))

/-- R296, R297: MEM_RATTR of the selected entry through a physical function. A refused write sets ERR and changes nothing else. A write
that changes no die-local window is applied at once. One that does is applied with BUSY set until DIE_LOCAL_CHANGE_DONE, when what was
held is carried out, and the granules of the new window read as never written. -/
def Obligations.RegionEntryApplied : Prop :=
  (∀ (fn v : Nat) (s : State), isFn fn = true → isPf fn = true → s.fnUp fn = true → v < 2 ^ 32 →
    let e := (s.fn fn).rsel
    let r := s.region e
    let size := fld v 12 6
    let new : Region := { r with
      valid := v.testBit 0, dieLocal := v.testBit 1, lc := v.testBit 2, nocache := v.testBit 3, remote := v.testBit 4,
      pin := v.testBit 5, plane := fld v 6 3, part := fld v 9 3, size, err := false, base := r.newBase }
    let refused := size < 20 ∨ 40 < size ∨ r.newBase % 2 ^ size ≠ 0 ∨ s.memBytes new.part < r.newBase + 2 ^ size ∨
      (∃ x ∈ s.regions, x.1 ≠ e ∧ x.2.meets new = true) ∨ (new.dieLocal = true ∧ splitOk (s.part new.part).chans = false)
    (refused → exec (.memRattr fn v) s = .next (s.setRegion e { r with err := true, newBase := r.base })) ∧
    (¬refused → r.window = new.window → exec (.memRattr fn v) s = .next (s.setRegion e new)) ∧
    (¬refused → r.window = none → new.window = some (new.part, new.base, size) →
      ∃ t, exec (.memRattr fn v) s = .next t ∧ (t.region e).busy = true ∧ (t.region e).base = r.newBase ∧
        (∀ p, (s.part new.part).chans.testBit (chanOf p) = true →
          r.newBase / 256 / max 1 (popCount 512 (s.part new.part).chans) ≤ p % 2 ^ 31 / 256 →
          p % 2 ^ 31 / 256 < (r.newBase + 2 ^ size) / 256 / max 1 (popCount 512 (s.part new.part).chans) → t.mem.raw p = 0#8) ∧
        { t with mem := s.mem, caches := s.caches, copies := s.copies, stackCk := s.stackCk, chans := s.chans, regions := s.regions } = s)) ∧
  (∀ (e : Nat) (s : State), e < 64 → (s.region e).busy = false → exec (.dieLocalChangeDone e) s = .next s) ∧
  (∀ (e : Nat) (s : State), e < 64 → (s.region e).busy = true →
    exec (.dieLocalChangeDone e) s = .next (((s.resumeTests 0 s.mtime).setRegion e
      { s.region e with busy := false, windows := [] }).settle).serveHeld)

/-- R315, R316, with the memory event ring not enabled. MEM_RETIRE with GO starts the retirement of a channel in service whose stack has
retired none, and is refused where the stack has retired one. CHANNEL_RETIREMENT_DONE ends the move, unless a die reset or thermal
protection has it paused. CHANNEL_LOST of a channel whose stack has no share left leaves it uncorrectable: every byte of it is read as
MEM_UNCORRECTABLE. -/
def Obligations.ChannelsRetire : Prop :=
  (∀ (fn v : Nat) (s : State), isFn fn = true → isPf fn = true → s.fnUp fn = true → v < 2 ^ 32 → s.memRing.enable = false →
    let ch := fld v 0 9
    let k := s.stack (ch / 32)
    let c := s.chan ch
    v.testBit 9 = true → ch < s.order.chans → c.retire = 0 →
    (k.retired = false → exec (.memRetire fn v) s =
      .next ((s.setStack (ch / 32) { k with retired := true }).setChan ch { c with retire := 1 })) ∧
    (k.retired = true → exec (.memRetire fn v) s = .next s)) ∧
  (∀ (ch : Nat) (s : State), ch < 512 → s.memRing.enable = false →
    let c := s.chan ch
    let held := (s.stack (ch / 32)).protect = true ∨ ∃ r ∈ s.ctrl.resets, r.dom = 2 ∧ r.idx = ch / 64
    (c.retire = 1 → ¬held → exec (.channelRetirementDone ch) s = .next (s.setChan ch { c with retire := 2 })) ∧
    (c.retire ≠ 1 ∨ held → exec (.channelRetirementDone ch) s = .next s)) ∧
  (∀ (ch : Nat) (s : State), ch < s.order.chans → s.memRing.enable = false → (s.chan ch).retire = 0 →
    (s.stack (ch / 32)).retired = true →
    ∃ t, exec (.channelLost ch) s = .next t ∧ t = s.setChan ch { s.chan ch with retire := 3 } ∧
      ∀ p, chanOf p = ch → t.memByte p = none)

/-- R334, R335. ECC_FLIPMASK_ARM takes ARMED, CLASS and INDEX, and FIRED clears where 1 is written; writing 0 to ARMED withdraws the mask:
no code word changes. A CLASS or INDEX that no unit has is ignored as a whole. R437, R456, R471. RST_CORE_RETIRE of a core that runs
an item waits for it to be idle; of a core that is not enabled it does nothing. PWR_CAP_W is taken within the order code's range, and
outside it sets CAP_ERR alone. MGT_VFMAP binds the selected virtual function to an enabled partition other than 0; it is refused for
others, and ignored while Bus Master Enable is set. -/
def Obligations.MasksCoresAndCaps : Prop :=
  (∀ (fn v : Nat) (s : State), isFn fn = true → isPf fn = true → s.fnUp fn = true → v < 2 ^ 32 →
     (fld v 4 14 < eccUnits s.order (fld v 1 3) →
       exec (.eccFlipmaskArm fn v) s = .next { s with ecc := { s.ecc with
         armed := true, cls := fld v 1 3, index := fld v 4 14, fired := s.ecc.fired && !v.testBit 18 } } ∧
       exec (.flipmaskWithdraw fn v) s = .next { s with ecc := { s.ecc with
         armed := false, cls := fld v 1 3, index := fld v 4 14, fired := s.ecc.fired && !v.testBit 18 } }) ∧
     (eccUnits s.order (fld v 1 3) ≤ fld v 4 14 →
       exec (.eccFlipmaskArm fn v) s = .next s ∧ exec (.flipmaskWithdraw fn v) s = .next s)) ∧
  (∀ (fn v : Nat) (s : State), isFn fn = true → isPf fn = true → s.fnUp fn = true → v < 2 ^ 32 →
     (let n := fld v 0 14
      v.testBit 14 = true → n < 128 * s.order.engines →
      ((s.core n).kind ≠ .enabled → exec (.rstCoreRetire fn v) s = .next s) ∧
      ((s.core n).kind = .enabled → (∃ i ∈ s.items, i.eng = n / 128 ∧ i.site = .core (n % 128)) →
        exec (.rstCoreRetire fn v) s = .next (s.setCore n { s.core n with wanted := true })) ∧
      ((s.core n).kind = .enabled → (∀ i ∈ s.items, ¬(i.eng = n / 128 ∧ i.site = .core (n % 128))) →
        exec (.rstCoreRetire fn v) s = .next (s.retireCore n).settle)) ∧
     (s.order.minWatts ≤ fld v 0 13 → fld v 0 13 ≤ s.order.maxWatts →
       exec (.pwrCapW fn v) s = .next { s with power := { s.power with cap := fld v 0 13 } }) ∧
     (fld v 0 13 < s.order.minWatts ∨ s.order.maxWatts < fld v 0 13 →
       exec (.pwrCapW fn v) s = .next { s with power := { s.power with capErr := true } }) ∧
     (∀ g, vfTarget (s.fn fn).vfsel = some g →
       let p := fld v 0 3
       let refused := (s.fn g).busMaster = true ∨ (v.testBit 3 = true ∧ (p = 0 ∨ (s.part p).enabled = false))
       (refused → exec (.mgtVfmap fn v) s = .next s) ∧
       (¬refused → exec (.mgtVfmap fn v) s = .next (s.setFn g { s.fn g with part := p, bound := v.testBit 3 }))))

/-- R340, R360. A module ID is taken while every port is DOWN, and ignored otherwise. ENABLE of a DOWN port with a valid module ID starts
its training, its logical lanes on the lowest lanes that have not failed and the others spare (R339, R341); with fewer than 24 of them it
is FAILED. With an invalid module ID the port stays DOWN. A
FAILED port stays FAILED whatever ENABLE is. RETRAIN of a live port trains it again, and of a port that is DOWN does nothing. -/
def Obligations.FabricPortsControlled : Prop :=
  (∀ (fn v : Nat) (s : State), isFn fn = true → isPf fn = true → s.fnUp fn = true → v < 2 ^ 32 →
    ((∃ p ∈ s.fab.ports, p.2.st ≠ .down) → exec (.fabModuleId fn v) s = .next s) ∧
    ((∀ p ∈ s.fab.ports, p.2.st = .down ∧ p.2.enable = false) →
      exec (.fabModuleId fn v) s = .next ({ s with fab := { s.fab with moduleId := v % 2 ^ 16 } } : State).noteMaster)) ∧
  (∀ (fn v : Nat) (s : State), isFn fn = true → isPf fn = true → s.fnUp fn = true → v < 2 ^ 32 → s.Canonical → s.ctrl.resets = [] →
    let n := (s.fn fn).psel
    let p := s.port n
    let healthy := (List.range (s.order.lanes + 4)).filter (fun l => !p.settleSwaps.outLanes.contains l)
    (v.testBit 0 = true → v.testBit 1 = false → p.enable = false → p.st = .down → s.fab.moduleId < 0xFFF0 →
      ∃ t, exec (.fabPortEnable fn v) s = .next t ∧ (t.port n).enable = true ∧
        (s.order.lanes ≤ healthy.length → (t.port n).st = .training ∧ (t.port n).width = s.order.lanes ∧
          (t.port n).lanes = healthy.take s.order.lanes ∧ (t.port n).spares = healthy.drop s.order.lanes) ∧
        (healthy.length < 24 → (t.port n).st = .failed ∧ (t.port n).width = 0) ∧ { t with fab := { t.fab with ports := s.fab.ports } } = s ∧
        ∀ m, m ≠ n → t.port m = s.port m) ∧
    (v.testBit 0 = true → v.testBit 1 = false → p.enable = false → p.st = .down → 0xFFF0 ≤ s.fab.moduleId →
      exec (.fabPortEnable fn v) s = .next (s.setPort n { p with enable := true })) ∧
    (p.st = .failed → v.testBit 1 = false → exec (.fabPortEnable fn v) s = .next (s.setPort n { p with enable := v.testBit 0 })) ∧
    (p.st = .down → exec (.retrain fn) s = .next s) ∧
    (p.live = true → ∃ t, exec (.retrain fn) s = .next t ∧ t = (s.setPort n p.train).reachChanged s))

/-- R491, for each of the three event rings through a physical function. While ENABLE is 1 a base is ignored, and so is a _CFG write
that changes the size. Such a write to a disabled ring sets TAIL and HEAD to 0 and restarts PHASE at 1, and may enable it in the same
value. Clearing and setting ENABLE with nothing else changed keeps TAIL and PHASE. A record is dropped while the ring is disabled or
full, that is when TAIL + 1 equals HEAD modulo its size; otherwise it is written at TAIL,
with the PHASE of the pass, and TAIL moves on. -/
def Obligations.EventRingsConfigured : Prop :=
  (∀ (fn ring reg v : Nat) (s : State), isFn fn = true → isPf fn = true → s.fnUp fn = true → ring < 3 → reg < 5 → v < 2 ^ 32 →
    exec (.elogRingConfig fn ring reg v) s = .next (match ring with
      | 0 => { s with memRing := s.memRing.write fn reg v }
      | 1 => { s with ecc := { s.ecc with ring := s.ecc.ring.write fn reg v } }
      | _ => { s with ctrl := { s.ctrl with ring := s.ctrl.ring.write fn reg v } })) ∧
  (∀ (r : EvRing) (fn v : Nat), r.enable = true → r.write fn 0 v = r ∧ r.write fn 1 v = r ∧ (fld v 0 5 ≠ r.log2 → r.write fn 2 v = r)) ∧
  (∀ (r : EvRing) (fn v : Nat), r.enable = false →
    r.write fn 0 v = { r with base := newBase r.base false v, head := 0, tail := 0, phase := true } ∧
    r.write fn 1 v = { r with base := newBase r.base true v, head := 0, tail := 0, phase := true } ∧
    (6 ≤ fld v 0 5 → fld v 0 5 ≤ 16 → fld v 0 5 ≠ r.log2 →
      r.write fn 2 v = { r with log2 := fld v 0 5, enable := v.testBit 5, msix := fld v 6 11, owner := fn, head := 0, tail := 0, phase := true })) ∧
  (∀ (r : EvRing) (fn v : Nat), 6 ≤ r.log2 → r.log2 ≤ 16 → fld v 0 5 = r.log2 →
    r.write fn 2 v = { r with enable := v.testBit 5, msix := fld v 6 11, owner := fn }) ∧
  (∀ (r : EvRing) (fn v : Nat), r.write fn 3 v = r ∧ r.write fn 4 v = { r with head := v % 2 ^ 16 }) ∧
  (∀ (kind st ch fl row sp : Nat) (s : State), s.memRing.Took (s.memEvent kind st ch fl row sp).memRing s (s.memEvent kind st ch fl row sp)
    (toLe 8 s.mtime ++ toLe 1 kind ++ toLe 1 st ++ toLe 1 ch ++ toLe 1 fl ++ toLe 4 row ++ toLe 4 sp ++
      toLe 1 (s.stack st).temp ++ toLe 1 (s.stack st).steps ++ List.replicate 10 0#8)) ∧
  (∀ (kind cls fl idx synd addr c n : Nat) (s : State),
    s.ecc.ring.Took (s.eccEvent kind cls fl idx synd addr c n).ecc.ring s (s.eccEvent kind cls fl idx synd addr c n)
      (toLe 8 s.mtime ++ toLe 1 kind ++ toLe 1 cls ++ [0#8] ++ toLe 1 fl ++ toLe 2 idx ++ toLe 2 synd ++ toLe 8 addr ++ toLe 4 c ++ toLe 4 n)) ∧
  (∀ (kind dom cause idx c dur d : Nat) (s : State),
    s.ctrl.ring.Took (s.rstEvent kind dom cause idx c dur d).ctrl.ring s (s.rstEvent kind dom cause idx c dur d)
      (toLe 8 s.mtime ++ toLe 1 kind ++ toLe 1 dom ++ toLe 1 cause ++ [0#8] ++ toLe 2 idx ++ toLe 2 0 ++ toLe 4 c ++ toLe 4 dur ++ toLe 8 d))

/-- R461, R462, R492. Bytes that a physical function writes through BAR4 within one line of partition 0's memory, with no mask armed,
no word in error and no granule of the channel relocated empty, are what a BAR4 read then answers. A write beyond the partition's memory is dropped, and a read
there answers Unsupported Request; so does an AtomicOp to any BAR, and nothing else changes. -/
def Obligations.Bar4ReadsWhatWasWritten : Prop :=
  (∀ (fn addr : Nat) (data : List Byte) (s : State), isFn fn = true → isPf fn = true → s.fnUp fn = true → s.Canonical →
    0 < data.length → addr % 128 + data.length ≤ 128 → addr + data.length ≤ s.memBytes 0 → addr + data.length ≤ 2 ^ 40 →
    s.Disarmed → s.power.st = .active → s.locks = [] → s.groups = [] → s.heldAt 0 addr (s.place 0 addr) = false →
    (s.chan (chanOf (s.place 0 addr))).retire = 0 → (s.chan (chanOf (s.place 0 addr))).empty = [] →
    (∀ w, verdict (s.mem.ckAt w) = .clean) → s.copies = [] → s.stackCk = [] → s.held = [] →
    ∃ t u, exec (.bar4Write fn addr data) s = .next t ∧ exec (.bar4Read fn addr data.length) t = .next u ∧ u.reply = .bytes data ∧
      t.besidesMem = s.besidesMem ∧ t.host = s.host ∧ t.sp = s.sp ∧
      (∀ p, (p < s.place 0 addr ∨ s.place 0 addr + data.length ≤ p) → t.memByte p = s.memByte p)) ∧
  (∀ (fn addr : Nat) (data : List Byte) (s : State), isFn fn = true → isPf fn = true → s.fnUp fn = true → addr < 2 ^ 40 →
    0 < data.length → data.length ≤ 4096 → s.memBytes 0 ≤ addr →
    exec (.bar4Write fn addr data) s = .next s ∧ exec (.bar4Read fn addr 1) s = .next { s with reply := .unsupported }) ∧
  (∀ (fn bar addr : Nat) (s : State), isFn fn = true → bar < 6 → addr < 2 ^ 41 → s.fnUp fn = true →
    exec (.atomicopRequest fn bar addr) s = .next { s with reply := .unsupported })

/-! ### Power, input and host links -/

/-- R451, R452: POWER_STATE, its turn come. A partition other than 0 is denied; the present state ends it with OK; DOZE and SLEEP with work
open end it with POWER_BUSY; while a reset or a transition is under way it waits. Its turn at the module
controller is taken (R45). Otherwise the transition to its target begins, with
its AUTO_WAKE, and the packet waits for the end. -/
def Obligations.PowerStateBegins : Prop :=
  ∀ (p q : Nat) (k : Packet) (s : State), s.managed p 0x0704 = some (q, k) → k.waiting = false →
    let tgt := pstateOf (field k.params 0 1)
    let fl := field k.params 1 1
    let u := s.turned q k
    (s.partOf q ≠ 0 → exec (.powerState p) s = .next (u.finish k.id stPartitionDenied none)) ∧
    (s.partOf q = 0 → (s.ctrl.resets ≠ [] ∨ s.power.target ≠ none) → exec (.powerState p) s = .next u) ∧
    (s.partOf q = 0 → s.ctrl.resets = [] → s.power.target = none →
      (tgt = s.power.st → exec (.powerState p) s = .next (u.finish k.id stOk none)) ∧
      (tgt ≠ s.power.st → (tgt = .doze ∨ tgt = .sleep) → s.powerBusy k.id = true →
        exec (.powerState p) s = .next (u.finish k.id 0x70 none)) ∧
      (tgt ≠ s.power.st → ((tgt = .doze ∨ tgt = .sleep) → s.powerBusy k.id = false) →
        ∃ t, exec (.powerState p) s = .next t ∧ t.pkt k.id = some (q, { k with waiting := true, unit := 0 }) ∧
          t.power = { s.power with target := some (tgt, some k.id), autoWake := fl.testBit 0, orderly := fl.testBit 1, wakeHeld := false } ∧
          { t with queues := s.queues, engines := s.engines, power := s.power, unitLast := s.unitLast } = s))

/-- R450, R452 to R454: a transition ends. IDLE waits for what runs; DOZE loses scratchpads and residency and leaves every stack in
self-refresh, and no cache line, here with no event recorded; ACTIVE leaves no stack in it; SLEEP keeps nothing but waits until the record of its packet is written. In DOZE a stack
returns to self-refresh 1 ms after its last access. -/
def Obligations.PowerTransitionEnds : Prop :=
  (∀ (p : Nat) (s : State), s.power.target = some (.idle, some p) →
    (s.items ≠ [] → exec .powerTransitionDone s = .next s) ∧
    (s.items = [] → (∀ r ∈ s.allPkts, isMover r.2.opcode = true → r.2.phase ≠ .started) →
      exec .powerTransitionDone s =
        .next (({ s with power := { s.power with st := .idle, target := none } } : State).finish p stOk none))) ∧
  (∀ (p : Nat) (s : State), s.Canonical → s.Quiet → s.power.target = some (.doze, some p) →
    ∃ t, exec .powerTransitionDone s = .next t ∧ t.power.st = .doze ∧ t.power.target = none ∧ t.sp = {} ∧
      (∀ k, k < s.order.stackCount → (t.stack k).refresh = true) ∧ (∀ g ∈ t.engines, g.2.used = [] ∧ g.2.holder = none) ∧
      (∀ c ∈ t.caches, s.order.dies ≤ c.1 / 32768) ∧ t.ctxs = s.ctxs ∧ t.regions = s.regions ∧ t.parts = s.parts) ∧
  (∀ (p : Option Nat) (s : State), s.power.target = some (.active, p) →
    ∃ t, exec .powerTransitionDone s = .next t ∧ t.power.st = .active ∧ t.power.target = none ∧ ∀ k, (t.stack k).refresh = false) ∧
  (∀ (p : Nat) (s : State), s.power.target = some (.sleep, some p) → s.power.orderly = false → s.power.wakeHeld = false →
    let e := (s.finish p stOk none).complete p
    (e.pkt p = none → exec .powerTransitionDone s = .next (e.powerLost .sleep)) ∧
    (e.pkt p ≠ none → exec .powerTransitionDone s = .next e)) ∧
  (∀ (k : Nat) (s : State), isStack k = true →
    (s.power.st = .doze → (s.stack k).refresh = false → k < s.order.stackCount →
      exec (.stackSelfRefresh k) s =
        .next ((s.at ((s.stack k).accessAt + 1000000)).setStack k { s.stack k with refresh := true })) ∧
    (s.power.st ≠ .doze → exec (.stackSelfRefresh k) s = .next s))

/-- R455, R477 to R481. When the input returns the module comes up: memory, queues and contexts are gone, partition 0 owns everything,
MTIME stands at 0, and RST_STATUS names domain 4 until it is in ACTIVE. With ALERT_N left asserted it stays down. Removal of the input
loses everything and clears ALERT_N. A low pulse of 1 ms or longer on WAKE_N wakes the module from SLEEP; one shorter than 0.5 ms is
ignored, and so is any in another state. -/
def Obligations.InputAndWake : Prop :=
  (∀ s : State, s.power.st = .off → s.ctrl.alert = false →
    ∃ t, exec .powerUp s = .next t ∧ t.power.st = .active ∧ t.mtime = 0 ∧ t.mem = {} ∧ t.queues = [] ∧
      t.ctxs = [(0, Ctx.management s.order)] ∧ t.parts = [(0, Partition.whole s.order)] ∧ t.curReset.map (·.dom) = some 4 ∧
      t.host = s.host ∧ t.order = s.order) ∧
  (∀ s : State, (s.power.st ≠ .off ∨ s.ctrl.alert = true) → exec .powerUp s = .next s) ∧
  (∀ s : State, ∃ t, exec (.inputOff true) s = .next t ∧ t.power.st = .off ∧ t.ctrl.alert = false ∧ t.mem = {} ∧ t.queues = [] ∧
    t.ctrl.link0 = false ∧ t.ctrl.link1 = false ∧ t.host = s.host) ∧
  (∀ (us : Nat) (s : State), s.power.target = none →
    (1000 ≤ us → s.power.st = .sleep → s.ctrl.alert = false → exec (.wakeN us) s = .next s.comeUp) ∧
    (us < 500 → exec (.wakeN us) s = .next s) ∧ (s.power.st ≠ .sleep → exec (.wakeN us) s = .next s))

/-- R449, R474, R482. PERSTn_N takes down the link of its port and resets the port's functions, their bindings apart; nothing else
changes. A link that goes down changes nothing else. A link that comes up sends every message held for the port's functions; here no record waits for it. -/
def Obligations.HostLinksComeAndGo : Prop :=
  (∀ (h : Nat) (s : State), isHub h = true → s.Canonical →
    ∃ t, exec (.perstnN h) s = .next t ∧ (if h = 0 then t.ctrl.link0 else t.ctrl.link1) = false ∧
      (∀ f, t.fn f = if f / 17 = h then { bound := (s.fn f).bound, part := (s.fn f).part } else s.fn f) ∧
      { t with fns := s.fns, ctrl := s.ctrl } = s) ∧
  (∀ s : State, exec (.pcieLinkDown 0) s = .next { s with ctrl := { s.ctrl with link0 := false } } ∧
    exec (.pcieLinkDown 1) s = .next { s with ctrl := { s.ctrl with link1 := false } }) ∧
  (∀ (h : Nat) (s : State), isHub h = true → s.Canonical → s.power.st = .active → s.ctrl.resets = [] → (∀ r ∈ s.rings, r.2.waiting = []) →
    ∃ t, exec (.pcieLinkUp h) s = .next t ∧ t.hostUp h = true ∧
      (∀ f, f / 17 = h → (t.fn f).pendingVec = [] ∧ ∀ v ∈ (s.fn f).pendingVec, (f, v) ∈ t.msix) ∧
      { t with fns := s.fns, ctrl := s.ctrl, msix := s.msix } = s)

/-- R311, R312, R456, R457, with no event recorded. A stack above 95 °C takes a voltage step every 1 ms, gives one back every 10 ms at 90 °C
or below, holds between, and enters protective self-refresh at 105 °C. A quadrant above 100 °C takes a step every 1 ms. While the
mean input power of the last 1 ms exceeds the cap, V_cap falls by 25 mV, to 0.55 V at least; while it stays below 98 % it rises by
25 mV every 1 ms, to 0.85 V at most. Voltages count in 5 mV. -/
def Obligations.TemperatureAndPowerCap : Prop :=
  (∀ (n temp : Nat) (s : State), isStack n = true → n < s.order.stackCount → temp < 256 → s.power.st = .active → s.memRing.enable = false →
    s.Canonical → (s.stack n).protect = false →
    let k := s.stack n
    (95 < temp → temp < 105 → k.steps < 8 → (k.stepAt = 0 ∨ k.stepAt - 1 + 1000000 ≤ s.mtime) →
      exec (.stackThermalSample n temp) s = .next (s.setStack n { k with temp, steps := k.steps + 1, stepAt := s.mtime + 1 })) ∧
    (90 < temp → temp ≤ 95 → exec (.stackThermalSample n temp) s = .next (s.setStack n { k with temp })) ∧
    (temp ≤ 90 → 0 < k.steps → k.stepAt - 1 + 10000000 ≤ s.mtime →
      exec (.stackThermalSample n temp) s = .next (s.setStack n
        { k with temp, steps := k.steps - 1, stepAt := if k.steps = 1 then 0 else s.mtime + 1 })) ∧
    (105 ≤ temp → ∃ t, exec (.stackThermalSample n temp) s = .next t ∧ (t.stack n).protect = true ∧ (t.stack n).temp = temp)) ∧
  (∀ (n temp : Nat) (s : State), n < 4 * s.order.dies → temp < 256 → s.awake = true → 100 < temp →
    let k := Tbl.get ({} : Quad) s.power.quads n
    k.steps < 8 → (k.stepAt = 0 ∨ k.stepAt - 1 + 1000000 ≤ s.mtime) →
    ∃ t, exec (.quadrantThermalSample n temp) s = .next t ∧ (Tbl.get ({} : Quad) t.power.quads n).steps = k.steps + 1 ∧
      (Tbl.get ({} : Quad) t.power.quads n).temp = temp ∧ t.mtime = s.mtime) ∧
  (∀ (w c : Nat) (s : State), w < 2 ^ 13 → c < 2 ^ 13 → s.awake = true →
    let l := (w :: s.power.window).take 10
    let p : Power := { s.power with window := l, watts := l.sum / l.length, centiV := c }
    (p.cap * l.length < l.sum →
      exec (.powerCapSample w c) s = .next { s with power := { p with vcap := max 110 (p.vcap - 5), vcapAt := s.mtime } }) ∧
    (l.sum ≤ p.cap * l.length → (98 * p.cap * l.length ≤ 100 * l.sum ∨ s.mtime < p.vcapAt + 1000000) →
      exec (.powerCapSample w c) s = .next { s with power := p }) ∧
    (l.sum ≤ p.cap * l.length → 100 * l.sum < 98 * p.cap * l.length → p.vcapAt + 1000000 ≤ s.mtime →
      exec (.powerCapSample w c) s = .next { s with power := { p with vcap := min 170 (p.vcap + 5), vcapAt := s.mtime } }))

/-- R486, R487: IDENT_CHALLENGE stores 128 bytes: 64 that identify the module, and the signature, under the fused key, of "AZID", the
packet's nonce and those 64 bytes. Then it completes with OK; nothing outside memory and its own packet changes. R423, R24, R25, R27.
HB_COUNT grows by 1, 1 ms after it last grew. The heartbeat record follows 10 ms after the last one, here with the host port up: SEQ
one more, then its body. A ready standby takes over 3 ms after HB_COUNT last grew: the other hub is active, HB_COUNT goes on, and a
POWER_STATE or CONTEXT_DESTROY under way starts again (R26), one whose end only its record waits for goes on; with none ready the
module is reset. -/
def Obligations.ControllersReport : Prop :=
  (∀ (p q : Nat) (k : Packet) (s : State), s.managed p 0x0705 = some (q, k) →
     let u := s.turned q k
     let r := u.store { s.accOf q k with host := true } (field k.params 32 8) (s.identResult (k.params.take 32))
     (isHost (field k.params 32 8) = true → s.hostPath q = true) → (s.identResult (k.params.take 32)).length = 128 ∧
     (r.2 = none → ∃ t, exec (.identChallenge p) s = .next t ∧ t = r.1.finish k.id stOk none ∧
       t.besidesIo = (u.finish k.id stOk none).besidesIo)) ∧
  ((∀ s : State, s.awake = true → let u := s.at (s.ctrl.hbAt + 1000000)
     exec .hbCount s = .next { u with ctrl := { u.ctrl with hbCount := (u.ctrl.hbCount + 1) % 2 ^ 32, hbAt := s.ctrl.hbAt + 1000000 } } ∧
       u.ctrl.hbCount = s.ctrl.hbCount) ∧
   (∀ s : State, s.Canonical → s.awake = true → s.ctrl.hbEnable = true → s.ctrl.alert = false → s.ctrl.resets = [] → s.hostUp 0 = true →
     let a := s.ctrl.hbLo + s.ctrl.hbHi * 2 ^ 32
     let u := s.at (s.ctrl.recAt + 10000000)
     isHost a = true → a + 64 ≤ 2 ^ 64 →
     ∃ t, exec .heartbeatRecord s = .next t ∧ t.ctrl.hbSeq = (s.ctrl.hbSeq + 1) % 2 ^ 64 ∧
       t.HostHolds (a % 2 ^ 48) (toLe 8 (s.ctrl.hbSeq + 1) ++ u.heartbeatBody) ∧
       { t with host := u.host, ctrl := u.ctrl } = u) ∧
   (∀ s : State, s.Canonical → s.awake = true → s.ctrl.alert = false → s.ctrl.resets = [] →
     (s.ctrl.standby = true → ∃ t, exec .takeover s = .next t ∧ t.ctrl.activeHub = 1 - s.ctrl.activeHub ∧ t.ctrl.standby = false ∧
       t.ctrl.takeovers = min 255 (s.ctrl.takeovers + 1) ∧ t.ctrl.hbCount = s.ctrl.hbCount ∧
       (∀ c, t.ctx c = { s.ctx c with destroying := none }) ∧ ((∀ p, s.power.target.bind Prod.snd ≠ some p) → t.queues = s.queues) ∧
       ∀ x p, s.power.target = some (x, some p) →
         ((∀ q k, s.pkt p = some (q, k) → k.phase ≠ .finished) → t.power.target = none ∧
           t.pkt p = (s.pkt p).map (fun r => (r.1, { r.2 with waiting := false }))) ∧
         (∀ q k, s.pkt p = some (q, k) → k.phase = .finished → t.power.target = s.power.target ∧ t.queues = s.queues)) ∧
     (s.ctrl.standby = false → ∃ t, exec .takeover s = .next t ∧ t.curReset.map (·.dom) = some 4)) ∧
   (∀ s : State, s.awake = true → s.ctrl.resets = [] →
     exec .standbyReady s = .next { s with ctrl := { s.ctrl with standby := true } }))

/-! ### Controllers, resets and replay -/

/-- R424, R426, R427, R431. RESET_DOMAIN of an engine by a partition that does not own it is denied. From partition 0 the engine goes into
reset: its scratchpad reads as zero, the reset is under way and the packet waits for its end. An engine that has held work for the
watchdog time is reset by the watchdog at that time; one that runs nothing is not. The hub of a hung media or input unit is reset. -/
def Obligations.ResetsBegin : Prop :=
  (∀ (p q : Nat) (k : Packet) (s : State), s.managed p 0x0703 = some (q, k) → k.waiting = false → field k.params 0 1 = 0 →
    let e := field k.params 2 2
    (s.partOf q ≠ 0 → (s.part (s.partOf q)).engines.testBit e = false →
      exec (.resetDomain p) s = .next (s.finish k.id stPartitionDenied none)) ∧
    (s.partOf q = 0 → e < 80 → s.ctrl.resets = [] → s.ctrl.recent = [] →
      ∃ t, exec (.resetDomain p) s = .next t ∧ (t.engine e).mode = .resetting ∧
        (∃ r ∈ t.ctrl.resets, r.dom = 0 ∧ r.idx = e ∧ r.pkts = [(k.id, stOk)] ∧ r.start = s.mtime) ∧
        t.ctrl.nEngine = min 0xFFFF (s.ctrl.nEngine + 1) ∧ (∀ a, a / 2 ^ 24 = e → t.sp.raw a = 0#8))) ∧
  (∀ (e : Nat) (s : State), isEngine e = true → (s.engine e).mode = .service →
    (s.items.any (fun i => i.eng == e) = false → s.moverHeld e = false → exec (.engineWatchdog e) s = .next s) ∧
    (s.items.any (fun i => i.eng == e) = true ∨ s.moverHeld e = true → s.paused e = false → s.ctrl.resets = [] → s.ctrl.recent = [] →
      ∃ t, exec (.engineWatchdog e) s = .next t ∧ (t.engine e).mode = .resetting ∧
        t.mtime = max s.mtime ((s.engine e).heldSince + s.ctrl.wdogMs * 1000000) ∧
        ∃ r ∈ t.ctrl.resets, r.dom = 0 ∧ r.idx = e ∧ r.cause = byWatchdog)) ∧
  (∀ (h : Nat) (s : State), isHub h = true →
    (s.unitItems h = [] → exec (.unitHang h) s = .next s) ∧
    (s.unitItems h ≠ [] → s.ctrl.resets = [] → s.ctrl.activeHub ≠ h →
      ∃ t, exec (.unitHang h) s = .next t ∧ t.hostUp h = false ∧ ∃ r ∈ t.ctrl.resets, r.dom = 3 ∧ r.idx = h ∧ r.cause = byUnitHang))

/-- R427 to R432, R481. A module reset whose timer expires asserts ALERT_N; an engine's is abandoned, and its die is reset, with the
packet of the engine's reset to end with RESET_ESCALATED. The end of power-up starts MTIME from 0, and the channels that its training
reports degraded are retired (R315); records that waited for a ring are written. A port's reset that is done is under
way no more, and its packet finishes with OK; with a timer already run out it is not done. -/
def Obligations.ResetsEnd : Prop :=
  (∀ (r : ResetOp) (s : State), s.ctrl.resets = [r] → r.dom = 4 → r.idx = 0 →
    let u := s.at (r.start + 10 ^ 10)
    exec (.resetTimerExpiry 4 0) s = .next { u with ctrl := { u.ctrl with alert := true } } ∧ u.mtime = max s.mtime (r.start + 10 ^ 10)) ∧
  (∀ (e p : Nat) (r : ResetOp) (s : State), isEngine e = true → s.ctrl.resets = [r] → r.dom = 0 → r.idx = e → r.pkts = [(p, stOk)] →
    ∃ t, exec (.resetTimerExpiry 0 e) s = .next t ∧ (∀ x ∈ t.ctrl.resets, x.dom ≠ 0) ∧
      ∃ x ∈ t.ctrl.resets, x.dom = 2 ∧ x.idx = e / 10 ∧ x.cause = byEscalation ∧ x.pkts = [(p, 0x38)]) ∧
  (∀ (mt : Nat) (g : List Nat) (r : ResetOp) (s : State), mt < 2 ^ 64 → (∀ c ∈ g, c < 512) → s.ctrl.alert = false → s.ctrl.resets = [r] →
    r.dom = 4 → r.idx = 0 → r.cause = byPowerUp → max s.mtime mt ≤ r.start + 10 ^ 10 →
    exec (.resetDone 4 0 ⟨mt, g⟩) s = .next ((g.filter (fun c => decide (c < s.order.chans))).foldl State.startRetire
      { s with mtime := 0, ctrl := { s.ctrl with resets := [], hbAt := 0, recAt := 0 } }).drainRings) ∧
  (∀ (n mt p q : Nat) (g : List Nat) (k : Packet) (r : ResetOp) (s : State), isPort n = true → mt < 2 ^ 64 → (∀ c ∈ g, c < 512) →
    s.ctrl.alert = false → s.ctrl.resets = [r] →
    r.dom = 1 → r.idx = n → r.cause = byCommand → (∀ c ∈ s.rings, c.2.waiting = []) → r.pkts = [(p, stOk)] → s.pkt p = some (q, k) → k.phase = .started → k.opcode = 0x0703 →
    (r.start + 2 * 10 ^ 9 < max s.mtime mt → exec (.resetDone 1 n ⟨mt, g⟩) s = .next s) ∧
    (max s.mtime mt ≤ r.start + 2 * 10 ^ 9 →
      ∃ t e, exec (.resetDone 1 n ⟨mt, g⟩) s = .next t ∧ t.ctrl.resets = [] ∧ t.pkt p = some (q, e) ∧ e.phase = .finished ∧ e.status = stOk))

/-- R434, R435. A suspect whose replay finds no failed read passes, and so does one whose replay has run for RST_REPLAY_MS; after the last
suspect the engine is back in service. A replayed read that fails faults the suspect with the read's status. A replay that hangs
quarantines it, unless it waits on what a home holds (R22) or its die is stopped (R312). -/
def Obligations.ReplayJudgesSuspects : Prop :=
  (∀ (e c mt : Nat) (s : State), isEngine e = true → mt < 2 ^ 64 → s.Canonical → (s.engine e).mode = .replay → (s.engine e).suspects = [c] →
    (s.replayOf e c = .clean → ∃ t, exec (.replayPass e mt) s = .next t ∧ (t.engine e).mode = .service ∧ (t.engine e).suspects = []) ∧
    (∃ t, exec (.rstReplayMs e) s = .next t ∧ (t.engine e).mode = .service ∧ (t.engine e).suspects = [] ∧
      t.mtime = max s.mtime ((s.engine e).replayAt + s.ctrl.replayMs * 1000000))) ∧
  (∀ (e c st d : Nat) (s : State), isEngine e = true → st < 256 → s.Canonical → (s.engine e).mode = .replay → (s.engine e).suspects = [c] →
    s.replayOf e c = .fault st d → (s.ctx c).state = .active →
    (∀ mt, mt < 2 ^ 64 → exec (.replayPass e mt) s = .next s) ∧
    ∃ t, exec (.replayFault e st d) s = .next t ∧ (t.ctx c).state = .faulted ∧ (t.ctx c).fStatus = st ∧ (t.ctx c).fDetail = d ∧
      (t.engine e).mode = .service) ∧
  (∀ (e c : Nat) (s : State), isEngine e = true → (s.engine e).mode = .replay → (s.engine e).suspects = [c] → (s.ctx c).state = .active →
    s.ctrl.resets = [] → s.ctrl.recent = [] → s.replayOf e c ≠ .unknown → s.dieStopped (e / 10) = false →
    ∃ t, exec (.engineWatchdog e) s = .next t ∧ (t.ctx c).state = .quarantined ∧ t.ctrl.quarantines = s.ctrl.quarantines + 1 ∧
      (t.engine e).mode = .resetting)

/-! ### Contexts, partitions, scheduling -/

/-- R207, R208. CONTEXT_CREATE of a FREE entry makes it ACTIVE with the fields of its block; of another it ends with CONTEXT_EXISTS.
CONTEXT_DESTROY, once no other packet of the context is there, frees the entry, ends its group and session, and completes with OK;
the other contexts stay. Both have had their turn at the module controller (R45). -/
def Obligations.ContextsCreatedAndDestroyed : Prop :=
  (∀ (p q : Nat) (k : Packet) (s : State), s.managed p 0x0701 = some (q, k) →
    ((s.ctx k.ctx).state ≠ .free → exec (.contextCreate p) s = .next ((s.turned q k).finish k.id stContextExists none)) ∧
    ((s.ctx k.ctx).state = .free → exec (.contextCreate p) s = .next (((s.turned q k).setCtx k.ctx
      { state := .active, kind := field k.params 1 1, level := field k.params 2 1, part := s.partOf q, client := field k.params 4 2,
        sliceUs := field k.params 6 2, engines := field k.params 8 16, memBase := field k.params 24 8,
        memLimit := field k.params 32 8 }).finish k.id stOk none))) ∧
  (∀ (p q : Nat) (k : Packet) (s : State), s.managed p 0x0702 = some (q, k) → s.Canonical → s.Numbered → s.Workless → s.locks = [] →
    (∀ r ∈ s.allPkts, r.2.ctx = k.ctx → r.2.id = k.id) →
    ∃ t e, exec (.contextDestroy p) s = .next t ∧ t.ctx k.ctx = {} ∧ (∀ c, c ≠ k.ctx → t.ctx c = s.ctx c) ∧
      (∀ g ∈ t.groups, g.ctx ≠ k.ctx) ∧ (∀ x ∈ t.sessions, x.2.opened = true → x.2.ctx ≠ k.ctx) ∧
      t.pkt k.id = some (q, e) ∧ e.phase = .finished ∧ e.status = stOk ∧ t.mem = s.mem ∧ t.parts = s.parts)

/-- R221 to R225. PARTITION_SET from another partition is denied; a resource that another partition owns ends it with PARTITION_CONFLICT, a
busy one with PARTITION_BUSY. Otherwise the partition is as its block says, the others as they were, and every byte of a channel
that changes hands reads as never written, its lock words too; context 0 follows partition 0. Its turn at the memory side's unit is
taken (R64). -/
def Obligations.PartitionIsSet : Prop :=
  ∀ (p q : Nat) (k : Packet) (s : State), s.started p 0x0304 = some (q, k) → s.Canonical →
    let n := field k.params 0 1
    let v := partOfBlock k.params
    let u := s.turned q k
    (s.partOf q ≠ 0 → exec (.partitionSet p) s = .next (u.finish k.id stPartitionDenied none)) ∧
    (s.partOf q = 0 → s.partConflict n v = true → exec (.partitionSet p) s = .next (u.finish k.id stPartitionConflict none)) ∧
    (s.partOf q = 0 → s.partConflict n v = false → s.partBusy n v = true →
      exec (.partitionSet p) s = .next (u.finish k.id stPartitionBusy none)) ∧
    (s.partOf q = 0 → s.partConflict n v = false → s.partBusy n v = false → (∀ l ∈ s.locks, ∀ w ∈ l.waiters, w.1 ≠ k.id) →
      ∃ t e, exec (.partitionSet p) s = .next t ∧ t.part n = v ∧ (∀ m, m ≠ n → t.part m = s.part m) ∧
        t.pkt k.id = some (q, e) ∧ e.phase = .finished ∧ e.status = stOk ∧
        (∀ a, ((s.part n).chans ^^^ v.chans).testBit (chanOf a) = true →
          t.mem.raw a = 0#8 ∧ Tbl.get false t.mem.touched (unitOf a) = false ∧ ∀ l ∈ t.locks, chanOf l.addr ≠ chanOf a) ∧
        (n = 0 → (t.ctx 0).engines = v.engines ∧ (t.ctx 0).memLimit = t.memBytes 0) ∧
        (n ≠ 0 → t.ctxs = s.ctxs) ∧ (s.Quiet → t.host = s.host) ∧ t.sp.cells = s.sp.cells)

/-- R93, R95. COUNTERS_READ stores one snapshot of the context's four totals and MTIME, and with CLEAR zeroes them when it is taken. While
the context's lowest engine is in reset it ends with ENGINE_RESET, and while that engine replays it waits (R433, R434); a
block in host memory waits for the host port (R36).
NUMERICS_POLICY ends with OK, and its record sets the policy (R50), unless a step is open: then it ends with its own status. -/
def Obligations.CountersAndPolicy : Prop :=
  (∀ (p q : Nat) (k : Packet) (s : State), s.started p 0x0801 = some (q, k) →
    let c := s.ctx k.ctx
    let u := s.turned q k
    ((∃ e, s.stepEngine k.ctx = some e ∧ s.engineReset e = true) → exec (.countersRead p) s = .next (u.finish k.id stEngineReset none)) ∧
    ((∃ e, s.stepEngine k.ctx = some e ∧ s.engineReset e = false ∧ (s.engine e).mode ≠ .service) → exec (.countersRead p) s = .next u) ∧
    (s.stepServes k.ctx = true → isHost (field k.params 0 8) = true → s.hostPath q = false → exec (.countersRead p) s = .next u) ∧
    (s.stepServes k.ctx = true → (isHost (field k.params 0 8) = true → s.hostPath q = true) →
    let r := u.store { s.accOf q k with host := true } (field k.params 0 8) (toLe 8 c.totals.sat ++ toLe 8 c.totals.flush ++ toLe 8 c.totals.promote
      ++ toLe 8 c.totals.nans ++ toLe 8 s.mtime ++ toLe 8 0)
    r.2 = none →
    ((field k.params 8 1).testBit 0 = false → exec (.countersRead p) s = .next (r.1.finish k.id stOk none)) ∧
    ((field k.params 8 1).testBit 0 = true →
      exec (.countersRead p) s = .next ((r.1.setCtx k.ctx { r.1.ctx k.ctx with totals := {} }).finish k.id stOk none)) ∧
    r.1.besidesIo = u.besidesIo)) ∧
  (∀ (p q : Nat) (k : Packet) (s : State), s.started p 0x0802 = some (q, k) →
    ((s.ctx k.ctx).stepState.isOpen = true → exec (.numericsPolicy p) s = .next ((s.turned q k).finish k.id 0x60 none)) ∧
    ((s.ctx k.ctx).stepState.isOpen = false → exec (.numericsPolicy p) s = .next ((s.turned q k).finish k.id stOk none)))

/-- R211 to R215. A task list that begins makes its context wait for each engine of its mask that it can use and is not resident on. The
first waiting context takes a slot. A slice granted on an engine dispatches an item of the holder, stamped with the slice's end; the
slice lasts SLICE_US from then on. At the slice's end no context holds the engine. -/
def Obligations.ListsScheduled : Prop :=
  (∀ (p q e : Nat) (k : Packet) (s : State), s.started p opTasklist = some (q, k) → s.Canonical → s.Numbered → s.Workless →
    k.run.begun = false → k.run.failed = none → k.run.stop = none → k.run.next = 0 → 1 ≤ field k.params 8 4 →
    (∀ r ∈ s.allPkts, r.2.openList = false) → e < s.order.engines → (s.ctx k.ctx).engines.testBit e = true →
    (s.ctx k.ctx).state = .active →
    let run : ListRun := { k.run with addr := field k.params 0 8, count := field k.params 8 4, begun := true }
    (∃ d, s.descriptor q { k with run } 0 = .ok d ∧ kindOf d = .core ∧ badNext (s.ctx k.ctx).engines (s.ctx k.ctx).policy { k with run } d = false) →
    ∃ t, exec (.tasklistRun p) s = .next t ∧ t.pkt k.id = some (q, { k with run }) ∧ (k.ctx, s.mtime) ∈ (t.engine e).waiters ∧
      { t with queues := s.queues, engines := s.engines } = s) ∧
  (∀ (e c m : Nat) (s : State), isEngine e = true → isCtx c = true → s.ListsSound → s.engineUp e = true → (s.ctx c).state = .active →
    (s.engine e).waiters = [(c, m)] → (s.engine e).used = [] → (s.engine e).holder = none →
    ∃ t, exec (.contextLoad e c) s = .next t ∧ (t.engine e).used = [0] ∧ ((t.engine e).slot 0).ctx = c) ∧
  (∀ (e c n mt : Nat) (s : State), isEngine e = true → mt < 2 ^ 64 → s.Canonical → s.Numbered → s.ListsSound → s.Calm → n < 32 →
    (s.engine e).used = [n] → ((s.engine e).slot n).ctx = c → ((s.engine e).slot n).debt = 0 → s.runnable e c = true →
    (∀ f, (s.engine f).holder = none) → (∃ r ∈ s.listsOf c, (s.siteFor e r.1 r.2).isSome = true) →
    ∃ t, exec (.sliceGrant e mt) s = .next t ∧
      ∃ i ∈ t.items, i.eng = e ∧ i.ctx = c ∧ i.done = false ∧ i.sliceEnd = max s.mtime mt + (s.ctx c).slice) ∧
  (∀ (e n : Nat) (s : State), isEngine e = true → (s.engine e).holder = some n →
    ∃ t, exec (.sliceExpiry e) s = .next t ∧ (t.engine e).holder = none ∧ t.mtime = max s.mtime (s.engine e).sliceEnd)

/-! ### Tasks -/

/-- The task commands and their operations (R136, R163, R182). -/
def taskCommands (p i : Nat) : List (Instr × Nat) :=
  [(.matmul p i, 0x01), (.backward p i, 0x02), (.combine p i, 0x03), (.conv p i, 0x10), (.convBwd p i, 0x11), (.poolBwd p i, 0x12),
   (.vchain p i, 0x20), (.vfinish p i, 0x21), (.adamw p i, 0x28), (.sgdm p i, 0x29)]

/-- R132, R134, R160. A running task of the command's operation reads all its operands, under the numerics policy that its context had
when it was dispatched (R143), then makes its writes, and its work is then done with
its counts and the ranges it wrote; TASK_COMPLETE is due. Here no narrow header and no rate table takes part, no task that is not
ordered with it has written (R125, R160), and every store is made. Where its computation fails with a
status, the task fails with it and writes nothing. A command that names a task of another operation, or one whose work is done,
changes nothing. EMPTY does no work. Outside memory, the fabric and the item itself, nothing changes. -/
def Obligations.TasksDoTheirWork : Prop :=
  (∀ (p i op q : Nat) (c : Instr) (k : Packet) (it : Item) (d : List Byte) (r : Rd Out) (o : Out) (s : State),
    (c, op) ∈ taskCommands p i → s.task p i op = some (q, k, it, d) → taskOut s q k i it.policy d = some r →
    let a := s.taskAcc q k i
    (s.reading a r).1 = .ok o → o.adds = [] → o.maxes = [] → s.rivalsOf a = [] → s.Disarmed →
    let w := (s.reading a r).2.storeAll a (joined o.writes)
    let wrote := mergeRanges (o.writes.map (fun x => (x.1, x.2.length)))
    w.2 = none →
    exec c s = .next (w.1.workDone p i o.marks false [] wrote) ∧ w.1.besidesIo = s.besidesIo ∧ (s.item p i).isSome = true ∧
      (w.1.workDone p i o.marks false [] wrote).item p i =
        some { it with done := true, marks := o.marks, drift := false, drifts := [], wrote }) ∧
  (∀ (p i op q st x : Nat) (c : Instr) (k : Packet) (it : Item) (d : List Byte) (r : Rd Out) (s : State),
    (c, op) ∈ taskCommands p i → s.task p i op = some (q, k, it, d) → taskOut s q k i it.policy d = some r →
    (s.reading (s.taskAcc q k i) r).1 = .error (.fail st x) → s.Disarmed →
    exec c s = .next ((s.reading (s.taskAcc q k i) r).2.workFailed p i st (if st = stBadDescriptor then i else x) {})) ∧
  (∀ (p i op : Nat) (c : Instr) (s : State), (c, op) ∈ taskCommands p i → s.task p i op = none → exec c s = .next s) ∧
  (∀ (p i : Nat) (s : State), (s.task p i 0 ≠ none → exec (.empty p i) s = .next (s.workDone p i {})) ∧
    (s.task p i 0 = none → exec (.empty p i) s = .next s))

/-- R132 to R134, R424: TASK_COMPLETE of a task whose work is done takes the item off its core, adds its counts to its packet's and one to
the engine's progress, at the time given or now, whichever is later. A task whose work is not done stays, and so does one on a die that
is stopped (R312). -/
def Obligations.TaskCompletionFreesCore : Prop :=
  ∀ (p i mt q : Nat) (k : Packet) (it : Item) (s : State), mt < 2 ^ 64 → s.Numbered → s.Calm → s.item p i = some it →
    (it.done = false ∨ s.dieStopped (it.eng / 10) = true → exec (.taskComplete p i mt) s = .next s) ∧
    (it.done = true → (s.engine it.eng).mode = .service → s.dieStopped (it.eng / 10) = false → s.fab.reqs = [] → s.pkt p = some (q, k) → i < k.run.next → s.ListsSound →
      ∃ t e, exec (.taskComplete p i mt) s = .next t ∧ t.item p i = none ∧ (t.engine it.eng).progress = (s.engine it.eng).progress + 1 ∧
        t.mtime = max s.mtime mt ∧ t.pkt p = some (q, e) ∧ e.run.marks = k.run.marks.add it.marks)

/-! ### Memory -/

/-- R294, with no die-local region in the partition: the hash sends each partition-local offset to one place of one of the partition's
channels, no two offsets to one place, and its inverse finds the offset again. -/
def Obligations.HashIsOneToOne : Prop :=
  ∀ (part c a b : Nat) (s : State), (∀ r ∈ s.regions, r.2.part = part → r.2.dieLocal = false) → (s.part part).chans < 2 ^ 512 →
    s.chanCount part = 2 ^ c → a < s.memBytes part → b < s.memBytes part →
    (s.part part).chans.testBit (chanOf (s.place part a)) = true ∧ s.place part a % 256 = a % 256 ∧
      s.offsetOf part (s.place part a) = a ∧ (s.place part a = s.place part b → a = b)

/-- R320 to R324. A clean word in which one byte of its eighteen has changed reads as it was, and a read rewrites it clean. A marked word
is read as uncorrectable. A write of a whole word leaves exactly what was written; a write of part of an uncorrectable word
leaves it uncorrectable. -/
def Obligations.OneBadByteIsCorrected : Prop :=
  (∀ (m : Mem) (w l : Nat) (v : Byte), m.wf = true → verdict (m.ckAt w) = .clean → v ≠ 0#8 → l < 18 →
    let f := m.flip w (if 2 ≤ l then v.toNat * 256 ^ (l - 2) else 0) (if l < 2 then v.toNat * 256 ^ l else 0)
    (∀ p, f.byte p = m.byte p) ∧ f.repair w = m) ∧
  (∀ (m : Mem) (w p : Nat), m.wf = true → p / 16 = w → (m.mark w).byte p = none) ∧
  (∀ (m : Mem) (p i : Nat) (bs : List Byte), m.wf = true → wholeWord p bs = true → i < 16 →
    (m.writeWord p bs).byte (p + i) = some (bs.getD i 0#8)) ∧
  (∀ (m : Mem) (p r : Nat) (bs : List Byte), m.wf = true → wholeWord p bs = false → p % 16 + bs.length ≤ 16 →
    verdict (m.ckAt (p / 16)) = .bad → r / 16 = p / 16 → (m.writeWord p bs).byte r = none)

/-- R302, R303. A COPY between ranges of host memory and module memory that share no byte stores the source's bytes at the destination,
and one whose ranges are identical changes no byte. Where the ranges overlap, each byte of the destination is the old or the new
source byte. FILL repeats its pattern. Both then end with OK, and no other byte changes. A COPY to a peer sends its bytes and waits for
BULK_DONE; one from a peer asks for them by PULL. A packet that ends frees its stream mover, and an automatic transfer that waits for
it may start (R244); none waits here as the packet takes its mover. With no idle stream mover the packet waits. -/
def Obligations.CopyAndFill : Prop :=
  (∀ (p q e : Nat) (k : Packet) (s : State), s.started p 0x0101 = some (q, k) → s.Canonical → s.Laid → s.Plain → s.Quiet → s.takeMover k = some e →
    (k.mover = none → s.NoTransfers) →
    let src := field k.params 0 8
    let dst := field k.params 8 8
    let n := field k.params 16 8
    let a := s.moverAcc q k ((field k.params 24 1).testBit 1)
    ((isHost src = true ∨ isHost dst = true) → s.hostUp (field k.params 24 1 % 2) = true) →
    (1 ≤ n → s.Reaches a src n → s.Reaches a dst n → ∃ t, exec (.copy p) s = .next (t.startXfers e) ∧ t.Ended k.id q stOk ∧
      (src = dst → s.Kept t) ∧
      (∀ i, i < n → ∀ v w, s.spot a (src + i) = some v → s.spot a (dst + i) = some w →
        t.byteAt w = s.byteAt v ∨ t.byteAt w = t.byteAt v) ∧
      ((∀ i j, i < n → j < n → s.spot a (src + i) ≠ s.spot a (dst + j)) →
        ∀ i, i < n → ∀ v w, s.spot a (src + i) = some v → s.spot a (dst + i) = some w → t.byteAt w = s.byteAt v) ∧
      (∀ w, (∀ i, i < n → s.spot a (dst + i) ≠ some w) → t.byteAt w = s.byteAt w) ∧ t.sp = s.sp ∧ s.ByMover t e) ∧
    (1 ≤ n → s.Reaches a src n → s.isPeer dst = true → (∃ j, j < 8 ∧ s.reaches (dst >>> 48) j = true) →
      ∃ t r, exec (.copy p) s = .next t ∧ s.Kept t ∧ t.pkt k.id = some (q, r) ∧ r.waiting = true ∧ r.phase = .started ∧ r.planes ≠ [] ∧
        ∀ j ∈ r.planes, s.reaches (dst >>> 48) j = true) ∧
    (s.isPeer src = true → (dst >>> 48 = s.fab.moduleId → s.canStore a dst n = none) → src ≠ dst →
      (∃ j, j < 8 ∧ s.reaches (src >>> 48) j = true) → s.fab.reqs.length < 4096 →
      ∃ t, exec (.copy p) s = .next t ∧ s.Kept t ∧ t.pkt k.id = some (q, { k with mover := some e, waiting := true }) ∧
        ∃ r ∈ t.fab.reqs, r.kind = 3 ∧ r.addr = src ∧ r.len = n ∧ r.land = dst ∧ r.pkt = k.id ∧ r.tag = k.tag)) ∧
  (∀ (p q e : Nat) (k : Packet) (s : State), s.started p 0x0102 = some (q, k) → s.Canonical → s.Laid → s.Plain → s.Quiet → s.takeMover k = some e →
    (k.mover = none → s.NoTransfers) → fillCheck k.params = none → k.params.length = 32 →
    let dst := field k.params 0 8
    let n := field k.params 8 8
    let a := s.moverAcc q k ((field k.params 24 1).testBit 1)
    (isHost dst = true → s.hostUp (field k.params 24 1 % 2) = true) → s.Reaches a dst n →
    ∃ t, exec (.fill p) s = .next (t.startXfers e) ∧ t.Ended k.id q stOk ∧ s.Stored t a dst ((List.range n).map (fun i => k.params.getD (16 + i % 8) 0#8)) ∧
      t.sp = s.sp ∧ s.ByMover t e) ∧
  (∀ (p q : Nat) (k : Packet) (s : State), s.takeMover k = none →
    (s.started p 0x0101 = some (q, k) → exec (.copy p) s = .next s) ∧ (s.started p 0x0102 = some (q, k) → exec (.fill p) s = .next s))

/-- R304 to R306, where no lock is in use. ADD, MIN, MAX and SWAP on a word of module memory put the new value there and the old one, zero-
extended, at RESULT_ADDR; the packet ends with the status that the stored result's counts give. LOCK and TRYLOCK of a free word
take it for the packet's party, and UNLOCK of it ends with LOCK_NOT_HELD. An atomic on a peer's word goes there, and the packet waits.
R307, R309, on a word whose lock is in use, with no result asked for. ADD, MIN, MAX and SWAP end with MEM_BOUNDS. While another party
holds the lock, TRYLOCK ends with LOCK_BUSY, UNLOCK with LOCK_NOT_HELD, and LOCK waits behind the waiters, unless its context is being destroyed, which removes it (R310). LOCK by the holder ends with
LOCK_BUSY. UNLOCK by the holder passes the lock to the first waiter, whose packet ends with OK, or frees it. The packet has had its
turn at the unit (R64), and a lock operation reads the word's line in its home cache (R299). -/
def Obligations.AtomicsAndLocks : Prop :=
  (∀ (p q : Nat) (k : Packet) (s : State), s.started p 0x0301 = some (q, k) → s.Canonical → s.Laid → s.Plain → s.Quiet → atomicCheck s k = none →
     let a := s.accOf q k
     let g := field k.params 0 8
     let r := field k.params 16 8
     let aop := field k.params 24 1
     let ty := field k.params 25 1
     (r ≠ 0 → s.Reaches a r 8) →
     (∀ pl nc, s.resolve a g = .ok (.mem pl nc) → aop < 4 →
       let n := atypeBytes ty
       let old := le ((List.range n).map (fun i => (s.memByte (pl + i)).getD 0#8))
       let v := atomicOp aop ty old (field k.params 8 8)
       ∃ t e, exec (.memAtomic p) s = .next t ∧ t.pkt k.id = some (q, e) ∧ e.phase = .finished ∧ e.status = okStatus v.2 ∧ e.counts = v.2 ∧
         (r ≠ 0 → ∀ i, i < 8 → ∀ w, s.spot a (r + i) = some w → t.byteAt w = some ((toLe 8 old).getD i 0#8)) ∧
         (∀ i, i < n → (r ≠ 0 → ∀ j, j < 8 → s.spot a (r + j) ≠ some (false, pl + i)) →
           t.memByte (pl + i) = some ((toLe n v.1).getD i 0#8)) ∧
         (∀ w, (∀ i, i < n → w ≠ (false, pl + i)) → (r ≠ 0 → ∀ j, j < 8 → s.spot a (r + j) ≠ some w) → t.byteAt w = s.byteAt w) ∧
         t.sp = s.sp ∧ { t.besidesMem with queues := s.queues, unitLast := s.unitLast } = s.besidesMem) ∧
     (∀ pl nc, s.resolve a g = .ok (.mem pl nc) →
       let v := (s.turned q k).noteRead a.part k.ctx (pl, 8, false)
       ((aop = 4 ∨ aop = 5) → exec (.memAtomic p) s =
         .next (({ v with locks := [({ addr := pl, holder := some (field k.params 26 1, k.ctx) } : Lock)] } : State).atomicEnd q k 0 stOk {})) ∧
       (aop = 6 → exec (.memAtomic p) s = .next (v.atomicEnd q k 0 stLockNotHeld {}))) ∧
     (s.resolve a g = .ok .peer → aop < 4 → (∃ j, j < 8 ∧ s.reaches (g >>> 48) j = true) → s.fab.reqs.length < 4096 →
       ∃ t, exec (.memAtomic p) s = .next t ∧ s.Kept t ∧ t.pkt k.id = some (q, { k with waiting := true, unit := 0 }) ∧
         ∃ x ∈ t.fab.reqs, x.kind = 2 ∧ x.addr = g ∧ x.pkt = k.id)) ∧
  (∀ (p q pl : Nat) (nc : Bool) (k : Packet) (l : Lock) (h : Nat × Nat) (s : State), s.started p 0x0301 = some (q, k) → s.Canonical →
     s.resolve (s.accOf q k) (field k.params 0 8) = .ok (.mem pl nc) → s.groups = [] → field k.params 16 8 = 0 →
     s.chanLost pl = false → s.lockAt pl = some l → l.holder = some h → (∀ x ∈ s.locks, x.addr / 8 = pl / 8 → x = l) →
     let aop := field k.params 24 1
     let me := (field k.params 26 1, k.ctx)
     let v := (s.turned q k).noteRead (s.partOf q) k.ctx (pl, 8, false)
     (aop < 4 → exec (.memAtomic p) s = .next ((s.turned q k).finish k.id stMemBounds (some (field k.params 0 8)))) ∧
     (aop = 5 → exec (.memAtomic p) s = .next (v.finish k.id stLockBusy none)) ∧
     (aop = 4 → h = me → exec (.memAtomic p) s = .next (v.finish k.id stLockBusy none)) ∧
     (aop = 6 → h ≠ me → exec (.memAtomic p) s = .next (v.finish k.id stLockNotHeld none)) ∧
     (aop = 4 → h ≠ me → (s.ctx k.ctx).destroying.isSome = true → exec (.memAtomic p) s = .next (v.finish k.id stLockWaitRemoved none)) ∧
     (aop = 4 → h ≠ me → (s.ctx k.ctx).destroying = none → l.waiters.length < 64 →
       ∃ t, exec (.memAtomic p) s = .next t ∧ t.lockAt pl = some { l with waiters := l.waiters ++ [(k.id, me)] } ∧
         t.pkt k.id = some (q, { k with waiting := true, unit := 0 }) ∧ { t with queues := v.queues, locks := v.locks } = v) ∧
     (aop = 6 → h = me → l.broken = false → l.waiters = [] →
       ∃ t, exec (.memAtomic p) s = .next t ∧ t.lockAt pl = none ∧ t.Ended k.id q stOk) ∧
     (∀ pw e c rest qw kw, aop = 6 → h = me → l.broken = false → l.waiters = (pw, e, c) :: rest → s.pkt pw = some (qw, kw) →
       kw.phase = .started →
       ∃ t, exec (.memAtomic p) s = .next t ∧ t.lockAt pl = some { l with holder := some (e, c), waiters := rest } ∧
         t.Ended pw qw stOk ∧ t.Ended k.id q stOk))

/-- R330 to R332, R335, R336, with no record kept. A demand scrub beyond the partition's memory reads nothing. Otherwise it changes no byte
as it is read, leaves no correctable word in its range, and ends with OK, or with SCRUB_UNCORRECTABLE and the first uncorrectable
word, of a lost or emptied granule too. The other actions set the patrol, from partition 0 alone. FLIPMASK_ARM arms the mask of its
block. A patrol pass rewrites the correctable words of its stack, those under a dirty cache line too, and there is one pass of a stack in a period; paused, the patrol does
nothing. -/
def Obligations.ScrubsAndMasks : Prop :=
  (∀ (p q : Nat) (k : Packet) (s : State), s.started p 0x0302 = some (q, k) →
    let act := field k.params 0 1
    let part := s.partOf q
    let off := field k.params 8 8
    let n := field k.params 4 4 * 4096
    let u := s.turned q k
    (act ≠ 0 → part ≠ 0 → exec (.scrubCtrl p) s = .next (u.finish k.id stPartitionDenied none)) ∧
    (part = 0 →
      (act = 1 → exec (.scrubCtrl p) s = .next (({ u with ecc := { s.ecc with period := field k.params 2 2 } } : State).finish k.id stOk none)) ∧
      (act = 2 → exec (.scrubCtrl p) s = .next (({ u with ecc := { s.ecc with pause := true } } : State).finish k.id stOk none)) ∧
      (act = 3 → exec (.scrubCtrl p) s = .next (({ u with ecc := { s.ecc with pause := false } } : State).finish k.id stOk none))) ∧
    (act = 0 → s.memBytes part < off + n →
      exec (.scrubCtrl p) s = .next (u.finish k.id stMemBounds (some (s.global (max off (s.memBytes part)))))) ∧
    (act = 0 → off + n ≤ s.memBytes part → s.Canonical → s.Quiet →
      let words := s.dirtyWords part off (off + n)
      let bad := (words.filter (fun w => decide (verdict w.2.2 = .bad))).map Prod.fst
        ++ (s.lostRuns part off (off + n)).map (fun r => s.offsetOf part r.1)
      ∃ t, exec (.scrubCtrl p) s = .next t ∧ s.Kept t ∧
        (∀ w ∈ t.dirtyWords part off (off + n), ∀ l v, verdict w.2.2 ≠ .fix l v) ∧
        (bad = [] → t.Ended k.id q stOk) ∧
        (∀ w r, bad = w :: r → t.Ended k.id q stScrubUncorrectable ∧ (t.pkt k.id).map (·.2.detail) = some (some (s.global (r.foldl min w)))) ∧
        { t.besidesMem with queues := s.queues, unitLast := s.unitLast } = s.besidesMem)) ∧
  (∀ (p q : Nat) (k : Packet) (s : State), s.started p 0x0303 = some (q, k) →
    let part := s.partOf q
    let cls := field k.params 18 1
    let idx := field k.params 20 2
    let u := s.turned q k
    (cls ≠ 0 → part ≠ 0 → exec (.flipmaskArm p) s = .next (u.finish k.id stPartitionDenied none)) ∧
    (cls = 0 → (s.part part).chans.testBit idx = false → exec (.flipmaskArm p) s = .next (u.finish k.id stBadParam (some (2 ^ 16 + 20)))) ∧
    ((if cls = 0 then (s.part part).chans.testBit idx = true else part = 0) →
      exec (.flipmaskArm p) s = .next (({ u with ecc := { s.ecc with
        dataMask := field k.params 0 16, checkMask := field k.params 16 2, armed := true, cls, index := idx } } : State).finish k.id stOk none))) ∧
  (∀ (j : Nat) (s : State), isStack j = true →
    let last := Tbl.get 0 s.ecc.passAt j
    let again := last ≠ 0 ∧ (last - 1) / s.ecc.periodNs = s.mtime / s.ecc.periodNs
    ((s.ecc.pause = true ∨ again) → exec (.patrolScrub j) s = .next s) ∧
    (s.ecc.pause = false → ¬again → j < s.order.stackCount → s.Canonical → s.Quiet →
      ∃ t, exec (.patrolScrub j) s = .next t ∧ s.Kept t ∧
        (∀ w ∈ t.stackErrors, chanOf (16 * w.1) / 32 = j → s.chanLost (16 * w.1) = false →
          Tbl.get false s.mem.touched (unitOf (16 * w.1)) = true → ∀ l v, verdict w.2 ≠ .fix l v) ∧
        t.ecc.stackPass = Tbl.set 0 s.ecc.stackPass j (Tbl.get 0 s.ecc.stackPass j + 1) ∧ t.besidesMem = s.besidesMem))

/-! ### Steps and residency -/

/-- R229 to R231, R236: STEP_BEGIN whose step number is accepted and whose blocks can be read and written opens the step in FILL with the
fields of its block; lookahead lists of the step become forward lists of it; the context's group, whose members can all be reached and
which has no commit waiting, begins it. A bad block or entry ends it
as a failed check does, with no SIGNAL add. A step number that is not accepted ends it with STEP_OPEN or STEP_SEQUENCE. While the step
sequencer's engine is in reset it ends with ENGINE_RESET, and while that engine replays it waits (R228, R433, R434). R279: STEP_COMMIT is
refused by the group, the step number, or the state; with no group the step is COMMITTED and the packet ends with OK; in a group whose
module is not ready it waits. -/
def Obligations.StepsBeginAndCommit : Prop :=
  (∀ (p q : Nat) (k : Packet) (s : State), s.started p 0x0202 = some (q, k) → s.Canonical →
    let x := s.ctx k.ctx
    let step := field k.params 8 4
    let act := field k.params 16 8
    let norm := field k.params 24 8
    let u := s.turned q k
    let r := u.reading (s.accOf q k) (actBegin u (s.accOf q k) act (field k.params 12 2))
    ((∃ e, s.stepEngine k.ctx = some e ∧ s.engineReset e = true) → exec (.stepBegin p) s = .next (s.finish k.id stEngineReset none)) ∧
    ((∃ e, s.stepEngine k.ctx = some e ∧ s.engineReset e = false ∧ (s.engine e).mode ≠ .service) → exec (.stepBegin p) s = .next s) ∧
    (s.stepServes k.ctx = true →
    (∀ st, act = 0 → stepRefused x step = some st → exec (.stepBegin p) s = .next (u.finish k.id st none)) ∧
    (∀ d, r.1 = .error (.fail stBadDescriptor d) → exec (.stepBegin p) s = .next (r.2.finishSilent k.id stBadDescriptor (some d))) ∧
    ((∀ g, s.groupOf k.ctx = some g → g.holdCommit = false ∧ g.commitPkts = [] ∧ ∀ m ∈ g.members, m = s.fab.moduleId ∨ s.present m = true) →
     ∀ ws av ents, r.1 = .ok (ws, av, ents) → stepRefused x step = none →
      (∀ w ∈ ws ++ normBegin norm step, r.2.canStore (s.accOf q k) w.1 w.2.length = none) →
      ∃ t, exec (.stepBegin p) s = .next t ∧ t.Ended k.id q stOk ∧
        t.ctx k.ctx = { x with
          seed := field k.params 0 8, step, stepState := .fill, nmb := field k.params 12 2, lpmb := field k.params 14 1,
          lookahead := (field k.params 15 1).testBit 0, act := av, ents, normAddr := norm, normDue := none,
          kStart := (av.map (·.kcur)).getD 0, bwdMet := 0, bwdDone := 0, spillQ := [], fetchQ := [], spilled := [], fwdSeen := [], spilledAdd := [], homeAdd := [], localDone := false, readyDone := false } ∧
        (∀ c, c ≠ k.ctx → t.ctx c = s.ctx c) ∧
        (∀ p' q' e, s.pkt p' = some (q', e) → e.ctx = k.ctx → e.phase = .started → e.run.role = .lookahead → e.run.step = step →
          ∃ e', t.pkt p' = some (q', e') ∧ e'.run.role = .forward) ∧
        (∀ g, s.groupOf k.ctx = some g → g.begin step ∈ t.groups)))) ∧
  (∀ (p q : Nat) (k : Packet) (s : State), s.started p 0x0203 = some (q, k) → s.Canonical → s.stepServes k.ctx = true →
    let x := s.ctx k.ctx
    let gid := field k.params 0 2
    let step := field k.params 4 4
    let named := gid = ((s.groupOf k.ctx).map (·.gid)).getD 0xFFFF ∧ (gid = 0xFFFF → s.groupOf k.ctx = none)
    let u := s.turned q k
    (¬named → exec (.stepCommit p) s = .next (u.finish k.id 0x43 none)) ∧
    (named → (x.stepState.isOpen = false ∨ step ≠ x.step) → exec (.stepCommit p) s = .next (u.finish k.id stStaleStep none)) ∧
    (named → x.stepState.isOpen = true → step = x.step → x.stepState ≠ .exchange →
      exec (.stepCommit p) s = .next (u.finish k.id 0x4E none)) ∧
    (named → step = x.step → x.stepState = .exchange → s.groupOf k.ctx = none →
      ∃ t, exec (.stepCommit p) s = .next t ∧ t.Ended k.id q stOk ∧ { t.ctx k.ctx with act := x.act } = { x with stepState := .committed } ∧
        (∀ c, c ≠ k.ctx → t.ctx c = s.ctx c) ∧ (x.act = none → s.Kept t ∧ (t.ctx k.ctx).act = none)) ∧
    (∀ g, named → step = x.step → x.stepState = .exchange → s.groupOf k.ctx = some g → s.group g.gid = some g → g.rank ≠ 0xFFFF →
      (g.allPublished && g.allLanded && g.mirrorLanded) = false →
      exec (.stepCommit p) s = .next ((u.wait k.id).putGroup { g with commitPkts := g.commitPkts ++ [k.id] })))

/-- R243 to R247. FWD_DONE is taken once, in FILL, while its semaphore is not zero; with AUTO the entries of a spill class then wait for
spilling, or the first is on its way, where the micro-batch is not among the last K_S. A spill to host memory moves the entry's
bytes there, a fetch brings them back, through the entry's host port, and no transfer is then under way, unless one that waits for the
stream mover starts. A spill that fails moves nothing, and a fetch that fails faults the context. While the step sequencer's engine is in
reset or replays, FWD_DONE waits (R228). -/
def Obligations.ResidencyTransfers : Prop :=
  (∀ (c j : Nat) (a : Act) (s : State), isCtx c = true → s.act c = some a → s.Canonical →
    let x := s.ctx c
    ((x.stepState ≠ .fill ∨ x.nmb ≤ j ∨ j ∈ x.fwdSeen ∨ s.stepServes c = false ∨
      ∀ v, (s.readNat (s.ctxAcc c) (a.mbA + 32 * j) 8).1 = .ok v → v = 0) → exec (.fwdDone c j) s = .next s) ∧
    (∀ v, x.stepState = .fill → j < x.nmb → j ∉ x.fwdSeen → s.stepServes c = true →
      (s.readNat (s.ctxAcc c) (a.mbA + 32 * j) 8).1 = .ok v → v ≠ 0 →
      ∃ t, exec (.fwdDone c j) s = .next t ∧ (t.ctx c).fwdSeen = x.fwdSeen ++ [j] ∧
        (a.auto = true → j + x.kStart < x.nmb → x.fetchQ = [] → (∀ e ∈ s.entsOf c a j, (s.ent c e).cls ≠ 3) →
          ∀ e ∈ s.entsOf c a j, ((s.ent c e).cls = 1 ∨ (s.ent c e).cls = 2) →
            e ∈ (t.ctx c).spillQ ∨ (t.ctx c).xfer = some (e, false)))) ∧
  (∀ (c e mt : Nat) (fetch : Bool) (a : Act) (s : State), isCtx c = true → mt < 2 ^ 64 → s.act c = some a → s.Canonical → s.Laid → s.Plain → s.Quiet →
    let x := s.ctx c
    let v := s.ent c e
    let acc := s.ctxAcc c
    let own : Acc := { part := x.part, host := true }
    let done : Nat → Instr := fun st => if fetch then .fetchDone c e st mt else .spillDone c e st mt
    (x.xfer ≠ some (e, fetch) → ∀ st, st < 256 → exec (done st) s = .next s) ∧
    (x.xfer = some (e, fetch) → x.xferPlanes = [] → s.fab.reqs = [] → x.spillQ = [] → x.fetchQ = [] → x.stepState = .fill →
      e < a.nent → v.cls = 1 → x.xferFail = none →
      (s.Reaches acc v.home v.bytes → s.Reaches acc v.spill v.bytes → s.hostUp v.port = true →
        ∃ t : State, exec (done 0) s = .next (t.nextXfer c) ∧ (t.ctx c).xfer = none ∧ t.mtime = max s.mtime mt ∧
          s.Moved t acc (if fetch then v.spill else v.home) (if fetch then v.home else v.spill) v.bytes (s.inAct own a v.mb)) ∧
      (s.hostUp v.port = false → exec (done 0) s = .next s) ∧
      (∀ st, st < 256 → st ≠ 0 → fetch = false → ∃ t : State, exec (done st) s = .next (t.nextXfer c) ∧ (t.ctx c).xfer = none ∧
        ∀ w, ¬s.inAct own a v.mb w → t.byteAt w = s.byteAt w) ∧
      (∀ st, st < 256 → st ≠ 0 → fetch = true → x.state = .active → s.Workless →
        ∃ t : State, exec (done st) s = .next (t.nextXfer c) ∧ (t.ctx c).xfer = none ∧ (t.ctx c).state = .faulted ∧ (t.ctx c).fDetail = v.spill ∧
          (t.ctx c).fStatus = (if st = stMemUncorrectable then st else stFabricUnreachable))))

/-- R248. HOST_SPILL and HOST_FETCH copy their bytes through a host port that is up and end with OK, whatever the entry they name; with
none named, nothing but the destination changes. An ENTRY that does not match ends the packet with BAD_PARAM. A packet that ends frees
its stream mover, and an automatic transfer that waits for it may start (R244); none waits here as the packet takes its mover. -/
def Obligations.HostTransfers : Prop :=
  ∀ (p q m : Nat) (spill : Bool) (k : Packet) (s : State),
    let c : Instr := if spill then .hostSpill p else .hostFetch p
    let src := field k.params 0 8
    let dst := field k.params 8 8
    let n := field k.params 16 4
    let e := field k.params 24 4
    let a : Acc := { s.accOf q k with host := true }
    s.started p (if spill then 0x0103 else 0x0104) = some (q, k) → s.Canonical → s.Laid → s.Plain → s.Quiet →
    (s.takeMover k = none → exec c s = .next s) ∧
    (s.takeMover k = some m → s.hostUp (field k.params 20 1 % 2) = true →
      (e ≠ 0xFFFFFFFF → s.namedEnt k.ctx e src dst n spill = none →
        exec c s = .next ((s.finishSilent k.id stBadParam (some (2 ^ 16 + 24))).moverFree k)) ∧
      ((k.mover = none → s.NoTransfers) → s.Reaches a src n → s.Reaches a dst n →
        (e = 0xFFFFFFFF → s.namedEnt k.ctx e src dst n spill = none → ∃ t, exec c s = .next (t.startXfers m) ∧ t.Ended k.id q stOk ∧
          s.Moved t a src dst n (fun _ => False) ∧ t.sp = s.sp ∧ s.ByMover t m) ∧
        (∀ act v, s.namedEnt k.ctx e src dst n spill = some (act, v) → ∃ t, exec c s = .next (t.startXfers m) ∧ t.Ended k.id q stOk ∧
          s.Moved t a src dst n (s.inAct { part := (s.ctx k.ctx).part, host := true } act v.mb))))

/-! ### Groups -/

/-- R260 to R267, R275, R282. GROUP_JOIN is refused for a context that has a group or an open step, for a module that is not named exactly
once as a member, or that is named as a shadow, and for too small a slot space; otherwise the module takes part in the group, and but
for the group's record no byte changes. BUCKET_DEFINE and SHADOW_MAP are refused while a step is open; a bucket's new definition replaces an old
one, and a shadow map waits for the next step. GROUP_ABORT at the root aborts the step; elsewhere it asks the root and waits. -/
def Obligations.GroupsFormed : Prop :=
  (∀ (p q : Nat) (k : Packet) (s : State), s.started p 0x0401 = some (q, k) → s.Canonical → s.Laid → s.Quiet →
    let u := s.turned q k
    let g := groupOfBlock k (s.partOf q) s.fab.moduleId
    let member := g.shadowOf = 0xFFFF
    let refused := (s.groupOf k.ctx).isSome = true ∨ (s.group g.gid).isSome = true ∨ 8 ≤ s.groups.length ∨
      (s.ctx k.ctx).stepState.isOpen = true ∨ (member ∧ g.members.count s.fab.moduleId ≠ 1) ∨ (¬member ∧ s.fab.moduleId ∈ g.members)
    (refused → exec (.groupJoin p) s = .next (u.finish k.id 0x43 none)) ∧
    (¬refused → member → g.slotBytes < g.slotNeed → exec (.groupJoin p) s = .next (u.finish k.id 0x44 none)) ∧
    (¬refused → (member → g.slotNeed ≤ g.slotBytes) → g.slotOff + g.slotBytes ≤ s.memBytes g.part →
      (s.ctx k.ctx).memBase ≤ g.slotOff → g.slotOff + g.slotBytes ≤ (s.ctx k.ctx).memLimit →
      s.canStore (s.accOf q k) g.grec 128 = none →
      ((field k.params 4 1).testBit 2 = false →
        ∃ t, exec (.groupJoin p) s = .next t ∧ t.Ended k.id q stOk ∧ t.groups = s.groups ++ [g] ∧
          (∀ w, (∀ i, i < 128 → s.spot { part := s.partOf q } (g.grec + i) ≠ some w) → t.byteAt w = s.byteAt w) ∧
          { t.besidesMem with queues := s.queues, groups := s.groups, unitLast := s.unitLast } = s.besidesMem) ∧
      ((field k.params 4 1).testBit 2 = true → (∃ m ∈ g.members, m ≠ s.fab.moduleId ∧ ∃ j, j < 8 ∧ s.reaches m j = true) →
        ∃ t u e, exec (.groupJoin p) s = .next t ∧ t.groups = s.groups ++ [u] ∧ u.gid = g.gid ∧ u.rejoining = true ∧
          u.step = field k.params 20 4 ∧ u.rejoinPkt = some k.id ∧ t.pkt k.id = some (q, e) ∧ e.waiting = true ∧
          (∀ m, m ∈ u.rejoinAwait ↔ m ∈ g.members ∧ m ≠ s.fab.moduleId ∧ ∃ j, j < 8 ∧ s.reaches m j = true) ∧
          ∀ m ∈ u.rejoinAwait, ∃ x ∈ t.fab.unacked, x.dest = m))) ∧
  (∀ (p q : Nat) (k : Packet) (s : State), s.Canonical → (∀ x ∈ s.groups, ∀ y ∈ s.groups, x.gid = y.gid → x = y) →
    let u := s.turned q k
    let mine := (s.groupOf k.ctx).map (·.gid)
    let open_ := (s.ctx k.ctx).stepState.isOpen
    (s.started p 0x0402 = some (q, k) →
      (mine ≠ some (field k.params 0 2) → exec (.bucketDefine p) s = .next (u.finish k.id 0x43 none)) ∧
      (mine = some (field k.params 0 2) → open_ = true → exec (.bucketDefine p) s = .next (u.finish k.id 0x45 none)) ∧
      (∀ g, s.groupOf k.ctx = some g → mine = some (field k.params 0 2) → open_ = false →
        (g.bmax < field k.params 8 4 → exec (.bucketDefine p) s = .next (u.finish k.id 0x44 none)) ∧
        (field k.params 8 4 ≤ g.bmax →
          let a := s.accOf q k
          let r := u.reading a ((List.range (field k.params 5 1)).mapM (fun i => load u a (s.global (field k.params 32 8 + 32 * i)) 32))
          ∀ es, r.1 = .ok es → es.all (bregOk g.n) = true → r.2.canStore a (r.2.global (field k.params 40 8)) 64 = none →
            let v : Bucket := { id := field k.params 2 2, manual := (field k.params 4 1).testBit 0, nreg := field k.params 5 1,
                                size := field k.params 8 4, target := field k.params 12 4, gradOff := field k.params 16 8,
                                sumOff := field k.params 24 8, regOff := field k.params 32 8, recOff := field k.params 40 8,
                                crc := crc32c k.params, regions := es.map bregOf }
            ∃ t, exec (.bucketDefine p) s = .next t ∧ t.Ended k.id q stOk ∧
              { g with buckets := g.buckets.filter (fun x => x.id != v.id) ++ [v] } ∈ t.groups ∧ t.ctxs = s.ctxs))) ∧
    (s.started p 0x0404 = some (q, k) →
      (mine ≠ some (field k.params 0 2) → exec (.shadowMap p) s = .next (u.finish k.id 0x43 none)) ∧
      (mine = some (field k.params 0 2) → open_ = true → exec (.shadowMap p) s = .next (u.finish k.id 0x45 none)) ∧
      (∀ g, s.groupOf k.ctx = some g → mine = some (field k.params 0 2) → open_ = false →
        (g.maxShadow < field k.params 2 2 → exec (.shadowMap p) s = .next (u.finish k.id 0x44 none)) ∧
        (field k.params 2 2 ≤ g.maxShadow → ∃ t, exec (.shadowMap p) s = .next t ∧ t.Ended k.id q stOk ∧
          { g with newMap := some ((List.range (field k.params 2 2)).map
              (fun i => (field k.params (16 + 8 * i) 2, field k.params (18 + 8 * i) 2))) } ∈ t.groups))) ∧
    (s.started p 0x0403 = some (q, k) →
      (mine ≠ some (field k.params 0 2) → exec (.groupAbort p) s = .next (u.finish k.id 0x43 none)) ∧
      (∀ g, s.groupOf k.ctx = some g → mine = some (field k.params 0 2) →
        ((g.keyState ≠ 1 ∨ field k.params 4 4 ≠ g.step) → exec (.groupAbort p) s = .next (u.finish k.id stStaleStep none)) ∧
        (g.keyState = 1 → field k.params 4 4 = g.step → (s.ctx k.ctx).stepState = .aborted →
          exec (.groupAbort p) s = .next (u.finish k.id stOk none)) ∧
        (g.keyState = 1 → field k.params 4 4 = g.step → (s.ctx k.ctx).stepState ≠ .aborted →
          (g.rank = g.root → g.asked = [] → k.id ∉ g.commitPkts → s.Workless →
            ∃ t, exec (.groupAbort p) s = .next t ∧ t.Ended k.id q stOk ∧ s.Aborted t g g.key) ∧
          (g.rank ≠ g.root → g.members.getD g.root 0xFFFF ≠ s.fab.moduleId →
            ∃ t, exec (.groupAbort p) s = .next t ∧ t.pkt k.id = some (q, { k with waiting := true, unit := 0 }) ∧
              ∃ x ∈ t.fab.unacked, x.dest = g.members.getD g.root 0xFFFF ∧
                x.pkt.hdr = [0x07, g.gid, g.step, g.attempt, s.fab.mseq, g.rank, g.rank % 4096 * 2 ^ 24])))))

/-- R269, R271, R274, R276. BUCKET_SEND of a bucket that is neither full in DRAIN nor left over in EXCHANGE does nothing; of another it sends it,
unless the attempt ends on the way. A contribution of another definition or key is counted in STALE and changes nothing else. One
whose slot set still holds another bucket is answered with RETRY, and one that fails its CRC-64 with RESEND. Any other lands in the
slot of its source, which is then filled. The first flit of the first of them stamps FIRST_MTIME.
A deadline that passes changes nothing under WAIT, and asks for an abort with cause 0x41 under ABORT. -/
def Obligations.ContributionsCollected : Prop :=
  (∀ (gid bid : Nat) (g : Group) (b : Bucket) (s : State), gid < 2 ^ 16 → bid < 2 ^ 16 → s.group gid = some g → g.bucket bid = some b →
    let st := (s.ctx g.ctx).stepState
    let r := s.readNat (s.groupAcc g) (s.global (b.recOff + 8)) 8
    ((b.send ≠ 0 ∨ (st ≠ .exchange ∧ st ≠ .drain)) → exec (.bucketSend gid bid) s = .next s) ∧
    (∀ fill, b.send = 0 → st = .drain → r.1 = .ok fill → fill < b.target → exec (.bucketSend gid bid) s = .next r.2) ∧
    (b.send = 0 → (st = .exchange ∨ (st = .drain ∧ ∃ fill, r.1 = .ok fill ∧ b.target ≤ fill)) →
      ∃ t u v, exec (.bucketSend gid bid) s = .next t ∧ t.group gid = some u ∧ u.bucket bid = some v ∧
      (v.send = 2 ∨ (v.send = 1 ∧ (u.key ≠ g.key ∨ ∃ e ∈ u.dueSends, e.1 = bid))))) ∧
  (∀ (h : ReduceHdr) (data : List Byte) (s : State), (Instr.reduce h data).wf = true → s.Accepts h.port h.via → h.last = false →
    let u := (s.taken h.port h.via 1 (flitsOf data.length)).stampFirst h
    let v := u.dropRun h
    exec (.reduce h data) s =
      .next ((({ v with fab := { v.fab with runs := v.fab.runs ++ [u.runWith h data] } } : State).at h.lastMt).report h.port)) ∧
  (∀ (h : ReduceHdr) (g : Group) (b : Bucket) (s : State), s.group h.gid = some g → g.bucket h.bucket = some b → b.crc = h.defCrc →
    g.keyOk h.step h.attempt = true → g.rank ≠ 0xFFFF → h.srcRank < g.n → (h.shard = g.rank ∨ (h.shard = (g.rank + g.n - 1) % g.n ∧ g.deputy = true)) →
    let adopted := decide (h.shard ≠ g.rank)
    (b.table adopted).step = h.step → (b.table adopted).own = 0 → (b.table adopted).firstMt = none →
    ∃ x y, (s.stampFirst h).group h.gid = some x ∧ x.bucket h.bucket = some y ∧ (y.table adopted).firstMt = some h.firstMt) ∧
  (∀ (h : ReduceHdr) (data : List Byte) (g : Group) (s : State), (Instr.reduce h data).wf = true → s.Accepts h.port h.via → h.last = true →
    let u := (s.taken h.port h.via 1 (flitsOf data.length)).stampFirst h
    u.group h.gid = some g → g.abortPol = false →
    let v := (u.dropRun h).at h.lastMt
    let r := u.runWith h (data.take (data.length - 8))
    let pred := (g.rank + g.n - 1) % g.n
    (∀ b, g.bucket h.bucket = some b → (b.crc ≠ h.defCrc ∨ g.keyOk h.step h.attempt = false) →
      exec (.reduce h data) s = .next ((v.stale g).report h.port)) ∧
    (∀ b slot, g.bucket h.bucket = some b → b.crc = h.defCrc → g.keyOk h.step h.attempt = true → g.rank ≠ 0xFFFF → h.srcRank < g.n →
      (h.shard = g.rank ∨ (h.shard = pred ∧ g.deputy = true)) →
      (if h.shadow then (g.slotsOf h.srcRank)[1]? else some h.srcRank) = some slot → h.src ≠ s.fab.moduleId →
      let adopted := decide (h.shard ≠ g.rank)
      let me := if adopted then pred else g.rank
      v.slotsHeld g b adopted h.srcRank r.bytes.length = false →
      let o : Own := if (b.table adopted).step = h.step then b.table adopted else { step := h.step }
      let o : Own := { o with firstMt := some (o.firstMt.getD r.first) }
      let good := crc64 r.bytes = le (data.drop (data.length - 8)) ∧ r.bytes.length = (b.shard g.n h.shard).2
      let other := g.holder b adopted ≠ 0 ∧ g.holder b adopted ≠ b.id + 1
      o.own = 0 →
      (∀ x, other → g.bucket (g.holder b adopted - 1) = some x → ((x.table adopted).own = 0 ∨ (x.table adopted).own = 3) →
        exec (.reduce h data) s = .next (((v.putBucket { g with retries := g.retries + 1 } (b.setTable adopted o)).tellAt g
          (h.step, h.attempt) (some h.src) 0x01 me b.id).report h.port)) ∧
      (¬other → ¬good → slot ∉ o.crcFails →
        exec (.reduce h data) s = .next (((v.putBucket { g with cksumFails := g.cksumFails + 1 }
          (b.setTable adopted { o with crcFails := o.crcFails ++ [slot] })).tellAt g (h.step, h.attempt) (some h.src) 0x02 me b.id).report h.port)) ∧
      (¬other → good → (∀ x ∈ g.slotsOf h.srcRank, x ∉ o.present) → slot ∉ o.present →
        exec (.reduce h data) s = .next (((v.landAt g (g.slotAddr (b.setTable adopted o) adopted slot) r.bytes true).putBucket
          (g.hold (b.setTable adopted o) adopted) ((b.setTable adopted o).setTable adopted
            { o with present := o.present ++ [slot], fromShadow := o.fromShadow + if slot < g.n then 0 else 1 })).report h.port)))) ∧
  (∀ (gid bid : Nat) (adopted : Bool) (g : Group) (b : Bucket) (first : Nat) (s : State), gid < 2 ^ 16 → bid < 2 ^ 16 →
    s.group gid = some g → g.bucket bid = some b → (b.table adopted).firstMt = some first →
    let due := first + g.dUs * 1000 + 1
    (g.overdue b adopted due = none → exec (.bucketDeadline gid bid adopted) s = .next s) ∧
    (∀ r, g.overdue b adopted due = some r →
      ((adopted = true ∧ g.adoptedRank = 0xFFFF) → exec (.bucketDeadline gid bid adopted) s = .next s) ∧
      ((adopted = true → g.adoptedRank ≠ 0xFFFF) →
        (g.abortPol = false → exec (.bucketDeadline gid bid adopted) s = .next (s.at due)) ∧
        (g.abortPol = true → exec (.bucketDeadline gid bid adopted) s =
          .next ((s.at due).requestAbortAt gid (if g.keyState = 0 then ((b.table adopted).step, 0) else g.key) 0x41 bid r)))))

/-- R271, R354. RETRY from the owner has the contribution for its shard sent again 10 µs later; RESEND has it sent again at once, and is
answered once for a shard. Messages under another key change nothing but that they are acknowledged. -/
def Obligations.ContributionsSentAgain : Prop :=
  (∀ (m : GroupMsg) (g : Group) (b : Bucket) (s : State), s.Hears m g → g.bucket (m.arg % 2 ^ 16) = some b →
    ((m.step, m.attempt) ≠ g.key → exec (.retry m) s = .next ((s.heard m).report m.port) ∧ exec (.resend m) s = .next ((s.heard m).report m.port)) ∧
    ((m.step, m.attempt) = g.key → g.home m.srcRank = some m.src →
      exec (.retry m) s = .next (((s.heard m).putGroup { g with
        resendAt := g.resendAt ++ [(m.arg % 2 ^ 16, m.srcRank, s.mtime + 10000)] }).report m.port) ∧
      (m.srcRank ∈ b.resent → exec (.resend m) s = .next ((s.heard m).report m.port)) ∧
      (m.srcRank ∉ b.resent → exec (.resend m) s =
        .next ((((s.heard m).putBucket g { b with resent := b.resent ++ [m.srcRank] }).contribute g.gid b.id m.srcRank).report m.port)))) ∧
  (∀ (gid bid dest : Nat) (g : Group) (s : State), gid < 2 ^ 16 → bid < 2 ^ 16 → dest < 2 ^ 16 → s.group gid = some g →
    ((∀ e ∈ g.resendAt, ¬(e.1 = bid ∧ g.home e.2.1 = some dest)) → exec (.retryResend gid bid dest) s = .next s) ∧
    (∀ k mt r, g.resendAt = (bid, k, mt) :: r → g.home k = some dest →
      exec (.retryResend gid bid dest) s = .next (((s.at mt).putGroup { g with resendAt := r }).contribute gid bid k))) ∧
  (∀ (gid bid k dest : Nat) (bs : List Byte) (g : Group) (b : Bucket) (s : State), s.group gid = some g → g.bucket bid = some b →
    g.home k = some dest → dest ≠ s.fab.moduleId → 0 < (b.shard g.n k).2 →
    let r := s.reading (s.groupAcc g) (load s (s.groupAcc g) (s.global (b.gradOff + (b.shard g.n k).1)) (b.shard g.n k).2)
    r.1 = .ok bs → s.contribute gid bid k = r.2.sendShard g b dest bs)

/-- R219, R272, R273. A slot table with a rank missing is not summed, nor is one while the memory-side sequencer's slice is another context's.
A full one whose slots can be read is: the sum in rank order stands at
SUM_OFFSET, its squares enter the norm unless the bucket is MANUAL, OWN becomes SUMMED and 1 is added to SUMMED. A sum of finite FP32 numbers
is made one rank at a time, each time rounded to nearest with ties to even. -/
def Obligations.SlotTablesSummed : Prop :=
  (∀ (gid bid : Nat) (adopted good2 : Bool) (g : Group) (b : Bucket) (s : State), gid < 2 ^ 16 → bid < 2 ^ 16 →
    s.group gid = some g → g.bucket bid = some b →
    let me := if adopted then g.adoptedRank else g.rank
    let o := b.table adopted
    let len := (b.shard g.n me).2
    let full := len = 0 ∨ ∀ r, r < g.n → r ∈ o.ranks g.n g.shadows
    (¬full → ∀ good1, exec (.slotTableSum gid bid adopted good1 good2) s = .next s) ∧
    (full → 0 < len → me ≠ 0xFFFF → g.keyState = 1 → (s.ctx g.ctx).stepState.isOpen = true → o.own = 0 →
      let tk := s.unitTakes memoryUnit s.sumWork g.ctx
      let u := tk.2.2
      let slots := (List.range g.n).map (fun r => ((g.slotsOf r).find? (fun k => o.present.contains k)).getD r)
      let rd := u.reading (u.groupAcc g) (slots.mapM (fun k => slotLoad u g (g.slotAddr b adopted k) len))
      ((s.ctx g.ctx).state = .active → tk.1 = false → ∀ good1, exec (.slotTableSum gid bid adopted good1 good2) s = .next u) ∧
      ((s.ctx g.ctx).state = .active → tk.1 = true → ∀ parts w x, rd.1 = .ok parts → rd.2.store { u.groupAcc g with atHome := true } (rd.2.global b.sumOff) (sumSlots parts) = (w, none) →
        (if b.manual then .ok (w, g) else w.addSquares g adopted (sumSlots parts)) = Except.ok x →
        exec (.slotTableSum gid bid adopted true good2) s =
          .next (((x.1.putBucket x.2 (b.setTable adopted { o with own := 1, step := x.2.step })).bump (u.groupAcc x.2)
            ((x.1.putBucket x.2 (b.setTable adopted { o with own := 1, step := x.2.step })).global (b.recOff + 16))).normStep gid)))) ∧
  (∀ (l : List (List Byte)) (n i : Nat), l ≠ [] → (∀ x ∈ l, x.length = 4 * n) → i < n → 1 < l.length →
    (sumSlots l).length = 4 * n ∧
      ∀ a r, l = a :: r → field (sumSlots l) (4 * i) 4 =
        bits32 (r.foldl (fun v c => add32 v (f32 (field c (4 * i) 4))) (f32 (field a (4 * i) 4))))

/-- R277, R278, R250, R251. SHARD_PUBLISH of a bucket that is not SUMMED, or whose PUBLISH is zero, does nothing; of another, with one parameter region,
it sends the shard of half 1 − CUR to every other live member and shadow, and the bucket is PUBLISHED. A broadcast under the expected key lands
where it says, and waits while its home holds accesses; one of another definition or key is counted in STALE. A child's norm image is kept until it is added; the norm result is
taken once, and goes on down. -/
def Obligations.ShardsAndNorms : Prop :=
  (∀ (gid bid : Nat) (adopted : Bool) (g : Group) (b : Bucket) (s : State), gid < 2 ^ 16 → bid < 2 ^ 16 →
    s.group gid = some g → g.bucket bid = some b →
    let me := if adopted then g.adoptedRank else g.rank
    let o := b.table adopted
    let published := b.setTable adopted { o with own := 2 }
    let pub := s.readNat (s.groupAcc g) (s.global (b.recOff + 24)) 8
    let u := pub.2
    (o.own ≠ 1 → exec (.shardPublish gid bid adopted) s = .next s) ∧
    (me ≠ 0xFFFF → o.own = 1 → pub.1 = .ok 0 → exec (.shardPublish gid bid adopted) s = .next u) ∧
    (∀ n, me ≠ 0xFFFF → o.own = 1 → pub.1 = .ok n → n ≠ 0 →
      (b.regions = [] → exec (.shardPublish gid bid adopted) s = .next ((u.putBucket g published).readyStep gid)) ∧
      (∀ r bs, b.regions = [r] → r.kind = 0 → 0 < (r.shard me).2 →
        let all := (((List.range g.n).filter (fun k => k != me && g.live k)).map (fun k => g.members.getD k 0xFFFF)
          ++ g.shadows.map Prod.snd).eraseDups.filter (· != u.fab.moduleId)
        let src := (if 1 - g.cur % 2 = 0 then r.base0 else r.base1) + (r.shard me).1
        let rd := u.reading (u.groupAcc g) (load u (u.groupAcc g) (u.global src) (r.shard me).2)
        all ≠ [] → rd.1 = .ok bs →
        exec (.shardPublish gid bid adopted) s =
          .next (((all.foldl (fun t d => t.bcastTo g b me false src bs d) rd.2).putBucket g published).readyStep gid)))) ∧
  (∀ (h : BcastHdr) (data : List Byte) (g : Group) (b : Bucket) (s : State), (Instr.bcast h data).wf = true → s.Accepts h.port h.via →
    s.group h.gid = some g → g.bucket h.bucket = some b → g.rejoining = false →
    let u := s.taken h.port h.via 3 (flitsOf data.length)
    let held := u.landHeld g h.addr data.length = true ∨ u.behind (.bcast h data) = true
    (b.crc ≠ h.defCrc → exec (.bcast h data) s = .next ((u.stale g).report h.port)) ∧
    (b.crc = h.defCrc → h.addr + data.length ≤ u.memBytes g.part →
      (held → exec (.bcast h data) s = .next ((u.hold (.bcast h data)).report h.port)) ∧
      (¬held → g.keyOk h.step h.attempt = false → exec (.bcast h data) s = .next ((u.stale g).report h.port)) ∧
      (¬held → g.keyOk h.step h.attempt = true →
        (h.mirror = false → exec (.bcast h data) s = .next ((((u.landAt g h.addr data).putBucket g { b with
          landed := b.landed.filter (fun e => !(e.1 == h.owner && e.2.1 == h.addr)) ++ [(h.owner, h.addr, data.length)] }).readyStep h.gid).report h.port)) ∧
        (h.mirror = true → exec (.bcast h data) s = .next ((((u.landAt g h.addr data).putBucket g { b with
          mirrored := b.mirrored.filter (fun e => e.1 != h.addr) ++ [(h.addr, data.length)] }).readyStep h.gid).report h.port))))) ∧
  (∀ (m : GroupMsg) (image : List Byte) (g : Group) (s : State), s.Hears m g → (Instr.normUp m image).wf = true →
    let u := s.heard m image.length
    ((g.keyOk m.step m.attempt = false ∨ ∃ e ∈ g.normKids, e.1 = m.srcRank) → exec (.normUp m image) s = .next (u.report m.port)) ∧
    (g.keyOk m.step m.attempt = true → (∀ e ∈ g.normKids, e.1 ≠ m.srcRank) → exec (.normUp m image) s =
      .next (((u.putGroup { g with normKids := g.normKids ++ [(m.srcRank, image)] }).normStep g.gid).report m.port))) ∧
  (∀ (m : GroupMsg) (norm2 factor flags : Nat) (g : Group) (s : State), s.Hears m g → norm2 < 2 ^ 32 → factor < 2 ^ 32 → flags < 256 →
    let u := s.heard m 12
    ((g.keyState ≠ 1 ∨ g.keyOk m.step m.attempt = false ∨ (s.ctx g.ctx).readyDone = true) →
      exec (.normDown m norm2 factor flags) s = .next (u.report m.port)) ∧
    (g.keyState = 1 → g.keyOk m.step m.attempt = true → (s.ctx g.ctx).readyDone = false → exec (.normDown m norm2 factor flags) s =
      .next (((u.normDown g (norm2, factor, flags &&& 4)).normReady g.ctx (norm2, factor, flags &&& 4)).report m.port))) ∧
  (∀ (maxnorm : Nat) (r : Red), ((r.nan || r.pinf || r.ninf) = true → normOf maxnorm r = (0x7FC00000, 0x7FC00000, 4)) ∧
    ((r.nan || r.pinf || r.ninf) = false → ∀ x, f32 maxnorm = .num x → r.sum ≤ x * x → (normOf maxnorm r).2 = (0x3F800000, 0)))

/-- R280, R281, R283, R287. The last child to become ready has the root commit the step, once the root's module is ready too. COMMIT flips CUR,
leaves the context COMMITTED and ends STEP_COMMIT with OK; a shadow holds it, from before its own STEP_BEGIN on too. ABORT, and an abort request at a root that has not decided, leave the
context ABORTED, CUR unchanged and the next attempt expected. A new root adopts a decision that a child holds. A rejoin ends with OK when every
member asked has agreed, and with STALE_STEP where one refused. -/
def Obligations.GroupsDecide : Prop :=
  ∀ (m : GroupMsg) (g : Group) (s : State), s.Hears m g → s.Canonical → s.Workless →
    let key := (m.step, m.attempt)
    let fresh := g.keyState = 1 ∧ key = g.key
    ((g.keyOk m.step m.attempt = false ∨ (g.rank ≠ 0xFFFF ∧ g.keyState ≠ 1)) → exec (.commit m) s = .next ((s.heard m).report m.port)) ∧
    (g.keyOk m.step m.attempt = true → g.rank = 0xFFFF → g.keyState ≠ 1 → exec (.commit m) s = .next (((s.heard m).putGroup { g with
      holdCommit := true, step := if g.keyState = 0 then m.step else g.step }).report m.port)) ∧
    ((g.keyOk m.step m.attempt = false ∨ m.srcRank ∈ g.readyKids) → exec (.ready m) s = .next ((s.heard m).report m.port)) ∧
    (g.keyOk m.step m.attempt = true → g.keyState ≠ 1 → m.srcRank ∉ g.readyKids → g.rank ≠ 0xFFFF →
      exec (.ready m) s = .next (((s.heard m).putGroup { g with readyKids := g.readyKids ++ [m.srcRank] }).report m.port)) ∧
    (fresh → m.srcRank ∉ g.readyKids →
      (g.commitPkts = [] → g.rank ≠ 0xFFFF →
        exec (.ready m) s = .next (((s.heard m).putGroup { g with readyKids := g.readyKids ++ [m.srcRank] }).report m.port)) ∧
      (g.rank = 0 → g.adoptedRank = 0xFFFF → g.asked = [] → g.commitPkts ≠ [] → g.allPublished = true → g.allLanded = true →
        g.mirrorLanded = true → 0 ∉ g.readyKids → m.srcRank ≠ 0 → (∀ c ∈ g.kids 0, c ∈ g.readyKids ∨ c = m.srcRank) →
        ∃ t, exec (.ready m) s = .next t ∧ s.Committed t g)) ∧
    (fresh → g.rank ≠ 0xFFFF → ∃ t, exec (.commit m) s = .next t ∧ s.Committed t g) ∧
    (fresh → g.rank = 0xFFFF → g.allLanded = true → ∃ t, exec (.commit m) s = .next t ∧ s.Committed t g) ∧
    (fresh → g.rank = 0xFFFF → g.allLanded = false → exec (.commit m) s = .next (((s.heard m).putGroup { g with holdCommit := true }).report m.port)) ∧
    ((g.rank ≠ g.root ∨ g.keyOk m.step m.attempt = false) → exec (.abortReq m) s = .next ((s.heard m).report m.port)) ∧
    (fresh → g.rank = g.root → g.asked = [] → ∃ t, exec (.abortReq m) s = .next t ∧ s.Aborted t g key) ∧
    (g.keyOk m.step m.attempt = false → exec (.abort m) s = .next ((s.heard m).report m.port)) ∧
    (fresh → ∃ t, exec (.abort m) s = .next t ∧ s.Aborted t g key) ∧
    exec (.decisionQuery m) s = .next (((s.heard m).groupMsg m.src 0x0A g.gid m.step m.attempt g.rank
      (if g.held m.step m.attempt = some true then 3 else if g.held m.step m.attempt = some false then 2 else 0)).report m.port) ∧
    ((m.srcRank ∉ g.asked ∨ g.keyOk m.step m.attempt = false) → exec (.decision m) s = .next ((s.heard m).report m.port)) ∧
    (fresh → m.srcRank ∈ g.asked → m.arg % 4 = 3 → ∃ t, exec (.decision m) s = .next t ∧ s.Committed t g) ∧
    (fresh → m.srcRank ∈ g.asked → m.arg % 4 = 2 → ∃ t, exec (.decision m) s = .next t ∧ s.Aborted t g key) ∧
    exec (.rejoin m) s = .next ((((s.heard m).putGroup { g with
      rejoiners := g.rejoiners.filter (fun r => r.1 != m.src) ++ [(m.src, m.step, false)] }).serveRejoins g.gid).report m.port) ∧
    (g.rejoinPkt = none → exec (.rejoinAns m) s = .next ((if m.arg % 2 = 0
      then (s.heard m).putGroup { g with rejoiners := g.rejoiners.filter (fun r => r.1 != m.src) } else s.heard m).report m.port)) ∧
    (∀ p, g.rejoinPkt = some p →
      ((∃ x ∈ g.rejoinAwait, x ≠ m.src) → exec (.rejoinAns m) s = .next (((s.heard m).putGroup { g with
        rejoinAwait := g.rejoinAwait.filter (· != m.src), rejoinNo := g.rejoinNo || m.arg % 2 == 0 }).report m.port)) ∧
      ((∀ x ∈ g.rejoinAwait, x = m.src) → ∀ q k, s.pkt p = some (q, k) → k.phase = .started →
        (g.rejoinNo = false → m.arg % 2 = 1 → ∃ t u, exec (.rejoinAns m) s = .next t ∧ t.Ended p q stOk ∧ t.group g.gid = some u ∧
          u.rejoinPkt = none) ∧
        ((g.rejoinNo = true ∨ m.arg % 2 = 0) → ∃ t, exec (.rejoinAns m) s = .next t ∧ t.Ended p q stStaleStep ∧ t.group g.gid = none)))

/-! ### The fabric -/

/-- R293, R305, R352. A peer's READ, WRITE, ATOMIC, PULL or BULK outside the regions that peers may access, or beyond the partition's memory, is answered
with MEM_BOUNDS and the global address; so is a READ or WRITE of no byte, or of more than 256 (notes/assumptions/134, the model's choice). Within them a
READ, with nothing held before it, is answered with the bytes, a WRITE stores them, an ATOMIC puts the new value there and answers with the old one, a PULL pushes the bytes back as
BULK, and a BULK packet lands, unless it answers a request that has failed; BULK_DONE follows once every packet of the plane up to LAST has landed. -/
def Obligations.RemoteRequestsServed : Prop :=
  ∀ (h : MemHdr) (s : State), h.wf = true → s.Accepts h.port h.via → s.Canonical → s.Laid → s.Plain → s.Quiet → s.held = [] →
    let a : Acc := { part := h.part }
    let g := s.global h.addr
    let took (vc n : Nat) : State := s.taken h.port h.via vc (flitsOf n)
    let reply (t : State) (st kind v d : Nat) (bs : List Byte) : State := (t.respond h.port h.src h.tag st kind v d bs h.part).report h.port
    let dead := ∃ e ∈ s.fab.released, e.1 = h.src ∧ e.2.1 = h.tag ∧ e.2.2.1 ≤ h.addr ∧ h.addr < e.2.2.1 + e.2.2.2
    let pulled := ∃ r ∈ s.fab.reqs, r.kind = 3 ∧ r.tag = h.tag ∧ r.dest = h.src
    (∀ len data aop ty v raddr last n, len ≤ 2 ^ 40 → data.length ≤ 16352 → aop < 256 → ty < 256 → v < 2 ^ 64 → raddr < 2 ^ 48 → n < 2 ^ 32 →
      ((len = 0 ∨ 256 < len ∨ s.remoteOk h.part h.addr len = false) →
        exec (.read h len) s = .next (reply (took 2 0) stMemBounds 0 0 g [])) ∧
      (1 ≤ len → s.remoteOk h.part h.addr len = false → exec (.pull h raddr len) s = .next (reply (took 2 0) stMemBounds 3 0 g [])) ∧
      ((data = [] ∨ 256 < data.length ∨ s.remoteOk h.part h.addr data.length = false) →
        exec (.write h data) s = .next (reply (took 2 data.length) stMemBounds 1 0 g [])) ∧
      (dead → exec (.bulk h last n data) s = .next ((took 3 data.length).report h.port)) ∧
      (s.remoteOk h.part h.addr data.length = false → ¬pulled → ¬dead →
        exec (.bulk h last n data) s = .next (reply (took 3 data.length) stMemBounds 3 0 g [])) ∧
      (aop ≤ 3 → atomicAllowed aop ty 0 = true → h.addr % atypeBytes ty = 0 → s.remoteOk h.part h.addr (atypeBytes ty) = false →
        exec (.atomic h aop ty v) s = .next (reply (took 2 0) stMemBounds 2 0 g []))) ∧
    (∀ len, 1 ≤ len → len ≤ 2 ^ 40 → s.remoteOk h.part h.addr len = true → s.Reaches a g len → ∃ u bs, s.Kept u ∧ bs.length = len ∧
      (∀ i, i < len → ∀ w, s.spot a (g + i) = some w → s.byteAt w = some (bs.getD i 0#8)) ∧
      (len ≤ 256 → exec (.read h len) s = .next (reply u stOk 0 0 0 bs)) ∧
      ∀ raddr, raddr < 2 ^ 41 → (∃ j, j < 8 ∧ s.reaches h.src j = true) →
        ∃ v pl, u.sendBulk h.part h.tag (h.src * 2 ^ 48 + raddr) bs = .ok (v, pl) ∧ exec (.pull h raddr len) s = .next (v.report h.port)) ∧
    (∀ data, data ≠ [] → s.remoteOk h.part h.addr data.length = true → s.Reaches a g data.length →
      (data.length ≤ 256 → ∃ u, s.Stored u a g data ∧ exec (.write h data) s = .next (reply u stOk 1 0 0 [])) ∧
      (data.length ≤ 16352 → ∃ u, s.Stored u a g data ∧ u.fab = (took 3 data.length).fab ∧
        ∀ last n, n < 2 ^ 32 → ¬pulled → ¬dead →
          let mine : Nat × Nat × Nat × Nat → Bool := fun e => e.1 == h.src && e.2.1 == h.tag && e.2.2.1 == h.port
          let had := ((s.fab.bulkIn.find? mine).map (·.2.2.2)).getD 0
          let others := s.fab.bulkIn.filter (fun e => !mine e)
          exec (.bulk h last n data) s = .next (if last = true ∧ had + 1 = n
            then reply { u with fab := { u.fab with bulkIn := others } } stOk 3 0 0 []
            else ({ u with fab := { u.fab with bulkIn := others ++ [(h.src, h.tag, h.port, had + 1)] } } : State).report h.port))) ∧
    (∀ aop ty v pl nc, aop ≤ 3 → ty < 256 → v < 2 ^ 64 → atomicAllowed aop ty 0 = true → h.addr % atypeBytes ty = 0 →
      s.remoteOk h.part h.addr (atypeBytes ty) = true → s.resolve a g = .ok (.mem pl nc) →
      let n := atypeBytes ty
      let old := le ((List.range n).map (fun i => (s.memByte (pl + i)).getD 0#8))
      ∃ u : State, exec (.atomic h aop ty v) s = .next (reply u stOk 2 old 0 []) ∧
        (∀ i, i < n → u.memByte (pl + i) = some ((toLe n (atomicOp aop ty old v).1).getD i 0#8)) ∧
        ∀ w, (∀ i, i < n → w ≠ (false, pl + i)) → u.byteAt w = s.byteAt w)

/-- R352, R354, R356. A reply to no outstanding request, or from a module that it did not go to, is discarded. READ data lands for the packet that asked, a WRITE's acknowledgement ends its
request, an ATOMIC's old value ends the MEM_ATOMIC, and a reply with a failing status ends it with that status. A bulk operation ends
with OK when the last of its planes has reported. A pulled range that has landed whole, with the BULK_DONE of its plane made, ends its packet. MSG_ACK ends
the repetition of a message, which otherwise goes again 20 µs after it last went, unless its destination has departed. FAB_REQ_TIMEOUT after its issue a
request fails with REMOTE_TIMEOUT, module ID and port in DETAIL. A stream mover's packet that ends frees its mover (R244). -/
def Obligations.RemoteAnswersTaken : Prop :=
  (∀ (h : MemHdr) (st rkind v d : Nat) (data : List Byte) (s : State), (Instr.resp h st rkind v d data).wf = true → s.Accepts h.port h.via →
    let u := s.taken h.port h.via 0 (flitsOf data.length)
    ((∀ r ∈ s.fab.reqs, ¬(r.tag = h.tag ∧ r.kind = rkind ∧ r.queued = none ∧ (r.dest = h.src ∨ st = stFabricUnreachable))) →
      exec (.resp h st rkind v d data) s = .next (u.report h.port)) ∧
    (∀ r, s.fab.reqs = [r] → r.tag = h.tag → r.kind = rkind → r.queued = none → r.dest = h.src → r.drift = none →
      let t : State := { u with fab := { u.fab with reqs := [] } }
      (rkind = 0 → succeeded st = true → (r.task ≠ 0 ∨ ∀ e, s.pkt r.pkt = some e → e.2.opcode ≠ opTasklist) →
        exec (.resp h st rkind v d data) s =
          .next (({ t with fab := { t.fab with landed := t.fab.landed ++ [(r.pkt, r.task, r.addr, data)] } } : State).report h.port)) ∧
      (rkind = 1 → succeeded st = true → exec (.resp h st rkind v d data) s = .next (t.report h.port)) ∧
      (∀ q k, rkind = 2 → s.pkt r.pkt = some (q, k) → k.opcode = 0x0301 → k.phase = .started → r.pkt < 2 ^ 60 →
        (succeeded st = true → k.waiting = true →
          let c := (atomicOp (field k.params 24 1) (field k.params 25 1) v (field k.params 8 8)).2
          exec (.resp h st rkind v d data) s = .next ((t.atomicEnd q k v (okStatus c) c).report h.port)) ∧
        (succeeded st = false → exec (.resp h st rkind v d data) s = .next ((t.finish r.pkt st (some d)).report h.port))))) ∧
  (∀ (h : MemHdr) (st d q : Nat) (k : Packet) (s : State), (Instr.bulkDone h st d).wf = true → s.Accepts h.port h.via →
    s.pkt k.id = some (q, k) → k.phase = .started → k.waiting = true → k.tag = h.tag → k.bulkDest = h.src →
    (∀ r ∈ s.allPkts, r.2.phase = .started → r.2.waiting = true → r.2.planes ≠ [] → r.2.tag = h.tag → r = (q, k)) →
    let u := s.taken h.port h.via 0 (flitsOf 0)
    (k.planes = [h.port] → succeeded st = true → ∃ t : State, exec (.bulkDone h st d) s = .next ((t.moverFree k).report h.port) ∧ t.Ended k.id q stOk ∧
      { t with queues := u.queues, engines := u.engines } = u ∧ (∀ e, k.mover ≠ some e → t.engine e = s.engine e)) ∧
    (∀ x r, k.planes = h.port :: x :: r → succeeded st = true →
      exec (.bulkDone h st d) s = .next ((u.modPkt k.id (fun e => { e with planes := x :: r })).report h.port)) ∧
    (k.planes ≠ [] → succeeded st = false → st ≠ stMemUncorrectable →
      exec (.bulkDone h st d) s = .next (((u.finish k.id st (some d)).moverFree k).report h.port))) ∧
  (∀ (h : MemHdr) (last : Bool) (n q : Nat) (data : List Byte) (r : Req) (k : Packet) (s : State), (Instr.bulk h last n data).wf = true →
    s.Accepts h.port h.via → s.Canonical → s.Laid → s.Plain → s.Quiet → s.held = [] →
    s.fab.reqs = [r] → r.kind = 3 → r.tag = h.tag → r.dest = h.src → s.pkt r.pkt = some (q, k) → k.phase = .started →
    (∀ e ∈ s.fab.released, ¬(e.1 = h.src ∧ e.2.1 = h.tag)) → r.land >>> 48 = s.fab.moduleId →
    r.land % 2 ^ 48 ≤ h.addr → h.addr + data.length ≤ r.land % 2 ^ 48 + r.total →
    let a := s.moverAcc q k ((field k.params 24 1).testBit 1)
    let g := s.global h.addr
    s.Reaches a g data.length →
    (r.len ≤ data.length → last = true → n = 1 → (∀ e ∈ s.fab.bulkIn, ¬(e.1 = h.src ∧ e.2.1 = h.tag)) →
      ∃ t : State, exec (.bulk h last n data) s = .next ((t.moverFree k).report h.port) ∧ t.Ended r.pkt q stOk ∧ t.fab.reqs = [] ∧ s.Stored t a g data) ∧
    ((data.length < r.len ∨ last = false) → ∃ t, exec (.bulk h last n data) s = .next t ∧
      t.fab.reqs = [{ r with len := r.len - data.length }] ∧ t.pkt r.pkt = some (q, k) ∧ s.Stored t a g data)) ∧
  (∀ (h : MemHdr) (s : State), h.wf = true → s.Accepts h.port h.via → ∃ t, exec (.msgAck h) s = .next t ∧
    (∀ u, u ∈ t.fab.unacked ↔ u ∈ s.fab.unacked ∧ ¬(u.dest = h.src ∧ u.mseq = h.tag)) ∧
    { t with fab := { t.fab with unacked := s.fab.unacked } } = (s.taken h.port h.via 0 (flitsOf 0)).report h.port) ∧
  (∀ (u : Unacked) (s : State), u.dest < 2 ^ 16 → u.mseq < 2 ^ 32 →
    ((∀ x ∈ s.fab.unacked, ¬(x.dest = u.dest ∧ x.mseq = u.mseq)) → exec (.messageRepeat u.dest u.mseq) s = .next s) ∧
    (s.fab.unacked = [u] → s.present u.dest = false →
      exec (.messageRepeat u.dest u.mseq) s = .next { s with fab := { s.fab with unacked := [] } }) ∧
    (∀ n, s.fab.unacked = [u] → s.present u.dest = true → s.planeFor 0 u.dest 0 = some n →
      let t := s.at (u.sent + 20000)
      exec (.messageRepeat u.dest u.mseq) s =
        .next (({ t with fab := { t.fab with unacked := [{ u with sent := t.mtime }] } } : State).transmit n u.pkt))) ∧
  (∀ (tag : Nat) (s : State), tag < 2 ^ 32 →
    ((∀ r ∈ s.fab.reqs, ¬(r.tag = tag ∧ r.queued = none)) → exec (.remoteTimeout tag) s = .next s) ∧
    (∀ r q k, s.fab.reqs = [r] → r.tag = tag → r.queued = none → r.pkt < 2 ^ 60 → s.pkt r.pkt = some (q, k) → k.phase = .started → k.opcode = 0x0301 →
      ∃ t e, exec (.remoteTimeout tag) s = .next t ∧ t.pkt r.pkt = some (q, e) ∧ e.phase = .finished ∧ e.status = stRemoteTimeout ∧
        e.detail = some (r.dest + r.port * 2 ^ 16) ∧ t.fab.reqs = [] ∧ t.mtime = max s.mtime (r.sent + s.fab.reqTimeout * 1000)))

/-- R340, R341, R343, R345, R346, R353, R354. PORT_STATE sets or clears one reachability bit; a member whose last plane goes is seen departed by its
group, as is one that sends DEPARTING, which is acknowledged and acted on once. Training leaves a port UP or DEGRADED, or MISWIRED on the wrong plane, and
FAILED at the third failure. A bad lane is replaced by a spare, agreed by a
lane command and swapped after as many flits as it says, and comes back as a spare if it recovers; the lowest-numbered spare and 256 flits
are the model's choice (notes/assumptions/138). A LINK flit frees what it acknowledges; the
eighth NAK of one packet in a row trains the port again. A packet of a reserved TYPE, or on a VC other than its type's, is counted. What comes on
a port that carries no traffic, with a bad word, or out of order is not accepted. -/
def Obligations.PortsAndLanes : Prop :=
  (∀ (n mid : Nat) (up : Bool) (via : Via) (s : State), (Instr.portState ⟨n, via⟩ mid up).wf = true → s.Canonical →
    (¬s.Accepts n via → exec (.portState ⟨n, via⟩ mid up) s = .next (s.taken n via 0 (flitsOf 0)) ∧
      (¬s.burstMarks (n / 4) → ∀ m, (s.taken n via 0 (flitsOf 0)).port m = s.port m ∨ (m = n ∧ ((s.taken n via 0 (flitsOf 0)).port n).expect = (s.port n).expect ∧
        ((s.taken n via 0 (flitsOf 0)).port n).got = (s.port n).got)))) ∧
  (∀ (n mid : Nat) (up : Bool) (via : Via) (s : State), (Instr.portState ⟨n, via⟩ mid up).wf = true → s.Accepts n via → s.msgRoom n = true →
    (∃ t b, exec (.portState ⟨n, via⟩ mid up) s = .next t ∧ t.fab.reach = Tbl.set 0 s.fab.reach mid b ∧
      ∀ j, b.testBit j = if j = n then up else (Tbl.get 0 s.fab.reach mid).testBit j) ∧
    (∀ g, up = false → s.group g.gid = some g → mid ∈ g.members → mid ∉ g.departed → mid ≠ s.fab.moduleId → mid ∉ s.fab.gone →
      Tbl.wf 0 s.fab.reach = true → s.reaches mid n = true → (∀ j, j < 8 → j ≠ n → s.reaches mid j = false) →
      ∃ t u, exec (.portState ⟨n, via⟩ mid up) s = .next t ∧ t.group g.gid = some u ∧ mid ∈ u.departed)) ∧
  (∀ (n src m : Nat) (via : Via) (s : State), (Instr.departing ⟨n, via⟩ src m).wf = true → s.Accepts n via → s.msgRoom n = true →
    ((src, m) ∈ s.fab.seen → exec (.departing ⟨n, via⟩ src m) s =
      .next ((((s.taken n via 0 (flitsOf 0)).noteMsg n).respond n src m 0 4 0 0).report n)) ∧
    ((src, m) ∉ s.fab.seen → ∃ t, exec (.departing ⟨n, via⟩ src m) s = .next t ∧ src ∈ t.fab.gone ∧ (src, m) ∈ t.fab.seen) ∧
    (∀ g, (src, m) ∉ s.fab.seen → s.group g.gid = some g → src ∈ g.members → src ∉ g.departed → src ≠ s.fab.moduleId → s.present src = true →
      ∃ t u, exec (.departing ⟨n, via⟩ src m) s = .next t ∧ t.group g.gid = some u ∧ src ∈ u.departed)) ∧
  (∀ (n pl : Nat) (ok : Bool) (s : State), isPort n = true → pl < 8 → s.Canonical → s.groups = [] →
    let p := s.port n
    (p.st ≠ .training → exec (.portTrainingDone n ok pl) s = .next s) ∧
    (p.st = .training →
      (pl ≠ n → exec (.portTrainingDone n true pl) s = .next (s.setPort n { p with st := .miswired, plane := pl, fails := 0, events := p.events + 1 })) ∧
      (pl = n → ∃ t, exec (.portTrainingDone n true pl) s = .next t ∧
        (t.port n).st = (if p.width < s.order.lanes then .degraded else .up) ∧ (t.port n).plane = n ∧ (t.port n).fails = 0 ∧
        (t.port n).replay = p.replay ∧ ∀ m, m ≠ n → t.port m = s.port m) ∧
      (p.fails < 2 → exec (.portTrainingDone n false pl) s = .next (s.setPort n { p with fails := p.fails + 1 })) ∧
      (2 ≤ p.fails → p.replay = [] → p.txq = [] → (∀ r ∈ s.fab.reqs, r.port = n → r.queued = none) →
        ∃ t, exec (.portTrainingDone n false pl) s = .next t ∧ (t.port n).st = .failed ∧ ∀ m, m ≠ n → t.port m = s.port m))) ∧
  (∀ (n lane : Nat) (ok : Bool) (s : State), isPort n = true → lane < 100 → s.Canonical → s.groups = [] →
    let p := s.port n
    (lane ∉ p.outLanes → exec (.laneRetrained n lane ok) s = .next s) ∧
    (lane ∈ p.outLanes → exec (.laneRetrained n lane ok) s = .next (s.setPort n (if ok
      then { p with outLanes := p.outLanes.filter (· != lane), spares := p.spares ++ [lane] } else p))) ∧
    let going := ∃ w ∈ p.swaps, w.2.1 = lane
    ((p.live = false ∨ lane ∈ p.outLanes ∨ going ∨ (lane ∉ p.lanes ∧ lane ∉ p.spares)) → exec (.laneSpare n lane) s = .next s) ∧
    (p.live = true → lane ∉ p.outLanes → ¬going → lane ∈ p.spares → exec (.laneSpare n lane) s =
      .next (s.setPort n { p with spares := p.spares.filter (· != lane), outLanes := p.outLanes ++ [lane] })) ∧
    (p.live = true → lane ∉ p.outLanes → ¬going → lane ∈ p.lanes → lane ∉ p.spares →
      (∀ into, into ∈ p.spares → (∀ x ∈ p.spares, into ≤ x) →
        exec (.laneSpare n lane) s = .next (s.setPort n { p.agree true lane into 256 with
          links := { p.linkNow (s.rxHeld n) with laneCmd := true, swapOut := lane, swapIn := into, swapAfter := 256 } :: p.links })) ∧
      (p.spares = [] → p.swaps = [] → 48 ≤ p.width →
        p.width / 2 ≤ ((List.range (s.order.lanes + 4)).filter (fun l => decide (l ∉ p.outLanes ∧ l ≠ lane))).length → ∃ t, exec (.laneSpare n lane) s = .next t ∧ (t.port n).st = .training ∧
        (t.port n).width = p.width / 2 ∧ (t.port n).replay = p.replay ∧ lane ∉ (t.port n).lanes) ∧
      (p.spares = [] → p.width < 48 → p.replay = [] → p.txq = [] →
        ∃ t, exec (.laneSpare n lane) s = .next t ∧ (t.port n).st = .failed))) ∧
  (∀ (n : Nat) (f : LinkFlit) (s : State), isPort n = true → f.wf = true → s.Canonical → s.groups = [] →
    let p := s.port n
    let left := p.acked f.ackSeq
    (p.live = false → exec (.link n f) s = .next s) ∧
    (p.live = true → p.txq = [] → f.nak = false → f.laneCmd = true → f.swapOut ∈ p.lanes → f.swapIn ∈ p.spares → p.swaps = [] → 0 < f.swapAfter →
      ∃ t, exec (.link n f) s = .next t ∧ (t.port n).lanes = p.lanes ∧ (t.port n).swaps = [(false, f.swapOut, f.swapIn, f.swapAfter)] ∧
        f.swapIn ∉ (t.port n).spares) ∧
    (p.live = true → p.txq = [] → f.laneCmd = false →
      (f.nak = false → ∃ t, exec (.link n f) s = .next t ∧ (t.port n).replay = left ∧ (t.port n).wire = p.wire ∧
        { t with fab := { t.fab with ports := s.fab.ports } } = s) ∧
      (f.nak = true → left = p.replay → left ≠ [] →
        (p.nakRow < 7 → ∃ t, exec (.link n f) s = .next t ∧ (t.port n).wire = left.reverse ++ p.wire ∧ (t.port n).nakRow = p.nakRow + 1 ∧
          (t.port n).replay = p.replay) ∧
        (p.nakRow = 7 → ∃ t, exec (.link n f) s = .next t ∧ (t.port n).st = .training ∧ (t.port n).replay = p.replay)))) ∧
  (∀ (own : Bool) (out into c flits : Nat) (p : Port), p.swaps = [(own, out, into, c)] → out ∈ p.lanes →
    (flits < c → p.passed own flits = { p with swaps := [(own, out, into, c - flits)] }) ∧
    (c ≤ flits → (p.passed own flits).swaps = [] ∧ (p.passed own flits).lanes = p.lanes.map (fun l => if l = out then into else l) ∧
      out ∈ (p.passed own flits).outLanes)) ∧
  (∀ (n typ vc len : Nat) (via : Via) (s : State), (Instr.discardedPacket ⟨n, via⟩ typ ⟨vc, len⟩).wf = true → s.Accepts n via →
    let u := s.taken n via vc (flitsOf len)
    ((typ = 0 ∨ typeVc typ = some vc) → exec (.discardedPacket ⟨n, via⟩ typ ⟨vc, len⟩) s = .next (u.report n)) ∧
    (typ ≠ 0 → typeVc typ ≠ some vc → exec (.discardedPacket ⟨n, via⟩ typ ⟨vc, len⟩) s =
      .next (({ u with fab := { u.fab with discards := min 0xFFFFFFFF (s.fab.discards + 1) } } : State).report n)))

/-- R358. A TIME_SYNC request is answered with the stamps of its arrival and its answer. The module asks its time master on each port that
reaches it, 1 ms after it last did. When the last answer of a round has come, the exchange with the smallest round trip gives the offset: above 10 µs MTIME steps
forward, below −10 µs it stands still for as long, and otherwise it is slewed. After more than 10 ms without its master MTIME runs free. -/
def Obligations.TimeIsKept : Prop :=
  (∀ (n src sub mseq a0 a1 mt : Nat) (via : Via) (s : State), (Instr.timeSync ⟨n, via⟩ src sub mseq a0 a1 mt).wf = true → s.Accepts n via → s.msgRoom n = true →
    let c : Instr := .timeSync ⟨n, via⟩ src sub mseq a0 a1 mt
    let u := ((s.taken n via 0 (flitsOf 0)).noteMsg n).at mt
    let w : State := { u with fab := { u.fab with seen := u.fab.seen ++ [(src, mseq)] } }
    ((src, mseq) ∈ s.fab.seen → exec c s = .next (u.report n)) ∧
    ((src, mseq) ∉ s.fab.seen → sub = 0 → exec c s = .next ((w.sendTime n src 1 w.mtime w.mtime).report n)) ∧
    ((src, mseq) ∉ s.fab.seen → sub ≠ 0 → (sub ≠ 1 ∨ s.follows = false ∨ src ≠ s.fab.timeMaster ∨ ∀ e ∈ s.fab.syncOut, e.1 ≠ n) →
      exec c s = .next (w.report n)) ∧
    (∀ t1 : Nat, (src, mseq) ∉ s.fab.seen → sub = 1 → s.follows = true → src = s.fab.timeMaster →
      let t4 := w.mtime
      let trip : Int := ((t4 : Int) - t1) - ((a1 : Int) - a0)
      let off : Int := (((a0 : Int) - t1) + ((a1 : Int) - t4)) / 2
      (∀ m r, s.fab.syncOut = (n, t1) :: m :: r → (∀ e ∈ m :: r, e.1 ≠ n) → (∀ x, s.fab.syncBest = some x → x.1 ≤ trip) →
        s.fab.syncBest ≠ none → exec c s = .next (({ w with fab := { w.fab with syncOut := m :: r } } : State).report n)) ∧
      (s.fab.syncOut = [(n, t1)] →
        ∃ t o, exec c s = .next t ∧
          (o = off ∨ ∃ x, s.fab.syncBest = some x ∧ x.1 ≤ trip ∧ o = x.2) ∧ (∀ x, s.fab.syncBest = some x → trip < x.1 → o = off) ∧
          t.fab.lost = false ∧ (t.fab.aligned = true ↔ -40 ≤ o ∧ o ≤ 40) ∧ t.fab.syncOut = [] ∧ t.fab.syncBest = none ∧
          (10000 < o → (t.mtime : Int) = w.mtime + o ∧ t.fab.hold = 0 ∧ t.fab.slew = 0) ∧
          (o < -10000 → t.mtime = w.mtime ∧ (t.fab.hold : Int) = -o ∧ t.fab.slew = 0) ∧
          (-10000 ≤ o → o ≤ 10000 → t.mtime = w.mtime ∧ t.fab.hold = 0 ∧ t.fab.slew = o)))) ∧
  (∀ (n : Nat) (s : State), isPort n = true →
    ((s.follows = false ∨ s.reaches s.fab.timeMaster n = false) → exec (.timeSyncExchange n) s = .next s) ∧
    (s.follows = true → s.reaches s.fab.timeMaster n = true →
      let last := Tbl.get 0 s.fab.syncAt n
      let v := if last = 0 then s else s.at (last - 1 + 1000000)
      exec (.timeSyncExchange n) s =
        .next (({ v with fab := { v.fab with syncOut := v.fab.syncOut.filter (fun e => e.1 != n) ++ [(n, v.mtime)],
                                             syncAt := Tbl.set 0 v.fab.syncAt n (v.mtime + 1) } } : State).sendTime
          n s.fab.timeMaster 0 v.mtime 0))) ∧
  (∀ s : State, (s.fab.masterGone = none → exec .timeMasterLost s = .next s) ∧
    (∀ since, s.fab.masterGone = some since → ∃ t, exec .timeMasterLost s = .next t ∧ t.fab.lost = true ∧ t.fab.aligned = false ∧
      t.fab.slew = 0 ∧ t.fab.hold = 0 ∧ t.fab.syncOut = [] ∧ t.fab.syncBest = none ∧ t.mtime = max s.mtime (since + 10000001)))

/-! ### Input and video -/

/-- R363 to R370, R380 to R390. FEED_OPEN of a closed feed with an allowed recipe opens it; FEED_SUBMIT takes its samples in order of index, and
waits while the feed is full; FEED_CLOSE discards, or drains; all three wait while the feed is STALLED. TOKENIZER_LOAD of an idle slot with allowed tables loads it. The lowest waiting
sample in the window starts to decode once its context holds the slice of the hub's feed units (R219); decoded, it is ready with its data, or a tombstone; too late, it is counted once, or
under SKIP becomes a tombstone. The lowest undelivered sample that is ready is delivered while a buffer is free, unless a store fails, which
faults its context (notes/assumptions/156, the model's choice). -/
def Obligations.FeedsRun : Prop :=
  (∀ (p q : Nat) (k : Packet) (s : State), s.started p 0x0501 = some (q, k) →
    let n := field k.params 0 2
    let f := feedOf k.ctx (s.partOf q) k.params
    let u := s.turned q k
    let all : Rd (List (List Byte) × List (Nat × Nat × Nat)) := do
      let xs ← readXforms u (s.accOf q k) f
      let log ← readReplay u (s.accOf q k) f
      pure (xs, log)
    let r := u.reading (s.accOf q k) all
    (s.feedStalled n = true → exec (.feedOpen p) s = .next u) ∧
    (s.feedStalled n = false →
    ((s.ctx k.ctx).kind ≠ 1 → exec (.feedOpen p) s = .next (u.finish k.id stBadParam (some 4))) ∧
    ((s.ctx k.ctx).kind = 1 → ((s.feed n).st ≠ .closed ∨ ∃ x ∈ s.feeds, x.2.st ≠ .closed ∧ x.2.ctx = k.ctx) →
      exec (.feedOpen p) s = .next (u.finish k.id 0x53 none)) ∧
    (∀ xs log, (s.ctx k.ctx).kind = 1 → (s.feed n).st = .closed → (∀ x ∈ s.feeds, x.2.ctx = k.ctx → x.2.st = .closed) → r.1 = .ok (xs, log) →
      (∀ i e, f.fields[i]? = some e → e.media = true → xformOk e.kind (xs.getD i []) = true ∧ xformBytes e.kind (xs.getD i []) ≤ e.slot) →
      let vids := (List.range f.fields.length).filter (fun i => (f.fields.getD i {}).kind == 6)
      let pool := (vids.map (fun i => field (xs.getD i []) 14 1 * field (xs.getD i []) 15 1)).sum
      (4096 < s.poolUsed + pool → exec (.feedOpen p) s = .next (r.2.finish k.id 0x5A none)) ∧
      (s.poolUsed + pool ≤ 4096 → exec (.feedOpen p) s = .next ((r.2.setFeed n { f with
        pool, log, vsess := (vids.map (fun i => field (xs.getD i []) 14 1)).foldl (fun m v => if m = 0 then v else min m v) 0 }).finish k.id stOk none))))) ∧
  (∀ (p q : Nat) (k : Packet) (s : State), s.started p 0x0502 = some (q, k) →
    let u := s.turned q k
    let n := field k.params 0 2
    let f := s.feed n
    let count := field k.params 2 2
    ((s.feedStalled n = true ∨ (f.st = .opened ∧ field k.params 8 8 = f.next ∧ 65536 < f.samples.length + count)) →
      exec (.feedSubmit p) s = .next u) ∧
    (s.feedStalled n = false →
    ((f.st = .closed ∨ f.st = .draining) → exec (.feedSubmit p) s = .next (u.finish k.id 0x53 none)) ∧
    (f.st = .opened → field k.params 8 8 ≠ f.next → exec (.feedSubmit p) s = .next (u.finish k.id 0x54 none)) ∧
    (f.st = .opened → field k.params 8 8 = f.next → f.samples.length + count ≤ 65536 → exec (.feedSubmit p) s =
      .next ((u.setFeed n { f with next := f.next + count, samples := f.samples ++ (List.range count).map (fun i =>
        ({ idx := f.next + i, src := field k.params (32 + 16 * i) 8, len := field k.params (40 + 16 * i) 5,
           port := field k.params (45 + 16 * i) 1 } : Sample)) }).finish k.id stOk none)))) ∧
  (∀ (p q : Nat) (k : Packet) (s : State), s.started p 0x0503 = some (q, k) → s.Canonical →
    let u := s.turned q k
    let n := field k.params 0 2
    let f := s.feed n
    (s.feedStalled n = true → exec (.feedClose p) s = .next u) ∧
    (s.feedStalled n = false →
    ((f.st = .closed ∨ f.st = .draining) → exec (.feedClose p) s = .next (u.finish k.id 0x53 none)) ∧
    (f.st = .opened → (field k.params 2 1).testBit 0 = true → exec (.feedClose p) s = .next ((u.setFeed n {}).finish k.id stOk none)) ∧
    (f.st = .opened → (field k.params 2 1).testBit 0 = false → f.samples = [] →
      ∃ t, exec (.feedClose p) s = .next t ∧ t.Ended k.id q stOk ∧ t.feed n = {}) ∧
    (f.st = .opened → (field k.params 2 1).testBit 0 = false → f.samples ≠ [] →
      exec (.feedClose p) s = .next ((u.wait k.id).setFeed n { f with st := .draining, closePkt := some k.id })))) ∧
  (∀ (p q : Nat) (k : Packet) (s : State), s.started p 0x0504 = some (q, k) →
    let n := field k.params 0 1
    let v := tokOf (s.partOf q) k.params
    let rd : Nat → Nat → Except Err (List Byte) := fun g m => ((load s (s.accOf q k) g m).run.run []).1
    let used := ∃ x ∈ s.feeds, x.2.st ≠ .closed ∧ x.2.tokSlot = n ∧ ∃ e ∈ x.2.fields, e.kind = 3
    (used → exec (.tokenizerLoad p) s = .next ((s.turned q k).finish k.id 0x55 none)) ∧
    (∀ b1 b2 bs mb b3, ¬used → rd v.norm (4 * 1114112) = .ok b1 → rd v.cls 1114112 = .ok b2 → rd v.byteTok 1024 = .ok bs →
      rd v.merge (16 * v.merges) = .ok mb → rd v.join 32 = .ok b3 →
      let ms := mergesOf mb v.merges
      ((∃ i, i < 256 ∧ v.vocab ≤ field bs (4 * i) 4) →
        ∃ t e, exec (.tokenizerLoad p) s = .next t ∧ t.pkt k.id = some (q, e) ∧ e.phase = .finished ∧ e.status = stBadParam ∧
          e.detail = some (2 ^ 16 + 32) ∧ t.toks = s.toks) ∧
      ((∀ i, i < 256 → field bs (4 * i) 4 < v.vocab) → (∀ m ∈ ms, m.1 < v.vocab ∧ m.2.1 < v.vocab ∧ m.2.2.1 < v.vocab) → risingMerges ms = true →
        sortBy (fun x y => decide (x ≤ y)) (ms.map (fun m => m.2.2.2)) = List.range v.merges →
        ∃ t, exec (.tokenizerLoad p) s = .next t ∧ t.Ended k.id q stOk ∧ t.toks = Tbl.set {} s.toks n v))) ∧
  (∀ (n : Nat) (s : State), n < 2 ^ 16 →
    let f := s.feed n
    let video := ∃ e ∈ f.fields, e.kind = 6
    ((∀ x ∈ f.samples, x.phase ≠ .waiting) → exec (.sampleDecodeStart n) s = .next s) ∧
    (∀ before x after, f.samples = before ++ x :: after → (∀ y ∈ before, y.phase ≠ .waiting) → x.phase = .waiting → s.feedRuns n = true →
      let full := video ∧ f.vsess ≤ (f.samples.filter (fun y => y.phase != .waiting)).length
      ((f.oldest + 8192 ≤ x.idx ∨ full) → exec (.sampleDecodeStart n) s = .next s) ∧
      (x.idx < f.oldest + 8192 → ¬full →
        let tk := s.unitTakes (feedUnit (n % 2)) (s.feedWork (n % 2)) f.ctx
        let u := tk.2.2
        (tk.1 = false → exec (.sampleDecodeStart n) s = .next u) ∧
        (tk.1 = true → f.imposed x.idx = none → exec (.sampleDecodeStart n) s = .next (u.modSample n x.idx (fun y =>
          { y with phase := .decoding, startMt := u.mtime, slice := tk.2.1, sess := f.freeSess }))) ∧
        (∀ r d, tk.1 = true → f.imposed x.idx = some (r, d) → exec (.sampleDecodeStart n) s = .next (u.modSample n x.idx (fun y =>
          { y with phase := .ready, startMt := u.mtime, tomb := some (r, 0xFF, d), sess := f.freeSess })))))) ∧
  (∀ (n mt : Nat) (x : Sample) (s : State), n < 2 ^ 16 → mt < 2 ^ 64 → s.Canonical →
    let f := s.feed n
    f.samples.find? (fun y => y.idx == x.idx) = some x →
    (x.phase ≠ .decoding → exec (.sampleReady n x.idx mt) s = .next s ∧ exec (.softLate n x.idx) s = .next s ∧
      exec (.hardLate n x.idx) s = .next s) ∧
    let late := f.skip = true ∧ f.replayed x.idx = false ∧ x.startMt + f.hardNs ≤ max s.mtime mt
    (x.phase = .decoding → s.feedRuns n = true → late → ∃ t y, exec (.sampleReady n x.idx mt) s = .next t ∧ y ∈ (t.feed n).samples ∧
      y.idx = x.idx ∧ y.phase = .ready ∧ y.tomb = some (0x10, 0xFF, 0) ∧ t.mtime = max s.mtime (x.startMt + f.hardNs)) ∧
    (x.phase = .decoding → s.feedRuns n = true → ¬late → (isHost x.src = true → s.hostUp x.port = true) → x.tomb = none →
      let a : Acc := { s.ctxAcc f.ctx with pkt := 2 ^ 61 + n * 2 ^ 32 + x.idx % 2 ^ 32 }
      let r := s.reading a (decodeSample s f a x)
      (∀ d, r.1 = .ok d → ∃ t, exec (.sampleReady n x.idx mt) s = .next t ∧ t.mtime = max s.mtime mt ∧
        ((d.scratch = [] ∨ (t.ctx f.ctx).state = .active) → ∃ y, y ∈ (t.feed n).samples ∧ y.idx = x.idx ∧ y.phase = .ready ∧
          (d.tomb = none → y.data = d.data ∧ y.tomb = none) ∧ ∀ reason i, d.tomb = some (reason, i) → y.tomb = some (reason, i, 0))) ∧
      (∀ d, r.1 = .error (.fail stMemBounds d) → ∃ t y, exec (.sampleReady n x.idx mt) s = .next t ∧ y ∈ (t.feed n).samples ∧ y.idx = x.idx ∧
        y.phase = .ready ∧ y.tomb = some (6, 0xFF, 0))) ∧
    (x.phase = .decoding →
      ((x.soft = true ∨ f.mean = 0) → exec (.softLate n x.idx) s = .next s) ∧
      (x.soft = false → f.mean ≠ 0 → f.st ≠ .closed → ∃ t y, exec (.softLate n x.idx) s = .next t ∧ t.mtime = max s.mtime (x.startMt + f.softX * f.mean) ∧
        y ∈ (t.feed n).samples ∧ y.idx = x.idx ∧ y.soft = true ∧ y.phase = .decoding) ∧
      (let late := s.at (x.startMt + max (f.hardX * f.mean) (f.hardMin * 1000))
       ((f.skip = false ∨ f.replayed x.idx = true) → exec (.hardLate n x.idx) s = .next late) ∧
       (f.skip = true → f.replayed x.idx = false → exec (.hardLate n x.idx) s =
         .next (late.modSample n x.idx (fun y => { y with phase := .ready, tomb := some (0x10, 0xFF, 0) })))))) ∧
  (∀ (n : Nat) (s : State), n < 2 ^ 16 → s.Canonical →
    let f := s.feed n
    ((∀ x ∈ f.samples, x.idx ≠ f.oldest) → exec (.reorderRelease n) s = .next s) ∧
    (∀ x, f.samples.find? (fun y => y.idx == f.oldest) = some x →
      let m := x.idx / f.mbSamples
      let a : Acc := { s.ctxAcc f.ctx with pkt := freeRead n }
      let r := s.reading a (loadNat s a (f.sem + 8) 8)
      ((s.feedRuns n = false ∨ x.phase ≠ .ready) → exec (.reorderRelease n) s = .next s) ∧
      (∀ free, s.feedRuns n = true → x.phase = .ready → x.idx % f.mbSamples = 0 → r.1 = .ok free → free + f.mbSlots ≤ m →
        exec (.reorderRelease n) s = .next (r.2.dropLanded a.pkt)) ∧
      (s.feedRuns n = true → x.phase = .ready → (x.idx % f.mbSamples ≠ 0 ∨ ∃ free, r.1 = .ok free ∧ m < free + f.mbSlots) → f.st = .opened →
        ∃ t, exec (.reorderRelease n) s = .next t ∧ ((t.ctx f.ctx).state = .active →
          (t.feed n).oldest = x.idx + 1 ∧ (t.feed n).st = .opened ∧ (t.feed n).samples = f.samples.filter (fun y => y.idx != x.idx) ∧
          (t.feed n).tombs = f.tombs + (if x.tomb = none then 0 else 1) ∧
          (t.feed n).mbCount = (if f.mbCount + 1 = f.mbSamples ∨ (x.idx + 1) % f.mbSamples = 0 then 0 else f.mbCount + 1)))))

/-- R401 to R420. MEDIA_SESSION_OPEN reserves its frame buffers for a context that holds no session, and zeroes the count of a decoder's
consumer. MEDIA_DECODE, its turn come, takes its stream after what the session has taken; it then decodes, or has ended. MEDIA_ENCODE codes
one picture and ends with OK, or with what was exhausted. Both wait until their context holds the slice of its codec engine (R219). A picture in output order is recorded while the ring has room. A count of
the consumer that falls, or runs ahead of the records, spoils the ring. -/
def Obligations.MediaRuns : Prop :=
  (∀ (p q : Nat) (k : Packet) (s : State), s.started p 0x0601 = some (q, k) →
    let n := field k.params 0 2
    let x := sessionOf k.ctx k.params
    let u := s.turned q k
    let refused := (s.ctx k.ctx).kind ≠ 2 ∨ (s.sessionOf k.ctx).isSome = true ∨ (s.session n).opened = true
    (refused → exec (.mediaSessionOpen p) s = .next (u.finish k.id 0x5B none)) ∧
    (¬refused → 4096 < s.poolUsed + x.nfb → exec (.mediaSessionOpen p) s = .next (u.finish k.id 0x5A none)) ∧
    (¬refused → s.poolUsed + x.nfb ≤ 4096 →
      (x.encode = true → exec (.mediaSessionOpen p) s = .next ((u.setSession n x).finish k.id stOk none)) ∧
      (∀ w, x.encode = false → u.store { s.accOf q k with host := true } x.consAddr (toLe 8 0) = (w, none) →
        exec (.mediaSessionOpen p) s = .next ((w.setSession n x).finish k.id stOk none)))) ∧
  (∀ (p q : Nat) (k : Packet) (s : State), s.mediaPkt p 0x0602 = some (q, k) → s.Canonical →
    (s.sessionOf k.ctx = none → (s.ctx k.ctx).state = .active → exec (.mediaDecode p) s = .next (s.finish k.id 0x5B none)) ∧
    (∀ n x bs, s.sessionOf k.ctx = some (n, x) → x.encode = false → s.sessRuns n = true → x.queue = [] → x.running = none →
      s.mediaEarlier k x = false → badRelease x k.params = none →
      let src := field k.params 0 8
      let len := field k.params 8 5
      let fl := field k.params 13 1
      (isHost src = true → len ≠ 0 → s.hostUp (fld fl 2 1) = true) →
      ((load s (s.sessAcc x k.id true) src len).run.run []).1 = .ok bs →
      let tk := (s.acceptDecode n k).codecTurn n
      (tk.1 = false → exec (.mediaDecode p) s = .next tk.2) ∧
      (tk.1 = true → ∃ t, exec (.mediaDecode p) s = .next t ∧ (t.session n).hist = (if fl.testBit 1 then [] else x.hist) ++ bs ∧
        ((t.session n).running = some k.id ∨ ∃ st, t.Ended k.id q st) ∧
        (len = 0 → fl.testBit 0 = false → x.outQ = [] → t.Ended k.id q stOk)))) ∧
  (∀ (p q n : Nat) (k : Packet) (x : Session) (s : State), s.mediaPkt p 0x0603 = some (q, k) → s.Canonical →
    s.sessionOf k.ctx = some (n, x) → x.encode = true → s.sessRuns n = true → s.mediaEarlier k x = false →
    let tk := s.codecTurn n
    let u := tk.2
    let a := u.sessAcc x k.id
    let r := u.reading a (loadSource u a k.params)
    (tk.1 = false → exec (.mediaEncode p) s = .next u) ∧
    (tk.1 = true → ∀ src w, r.1 = .ok src →
      let e := x.encode1 k.params src
      r.2.storeAll a e.1 = (w, none) →
      ∃ t, exec (.mediaEncode p) s = .next t ∧ t.Ended k.id q e.2.2 ∧ (t.session n).coded = x.coded + 1 ∧ (t.session n).hist = e.2.1.hist ∧
        t.media.exhausted = (if e.2.2 = 0x52 then min 0xFFFFFFFF (s.media.exhausted + 1) else s.media.exhausted))) ∧
  (∀ (n : Nat) (s : State), n < 2 ^ 16 →
    let x := s.session n
    (x.outQ = [] → exec (.outputRecord n) s = .next s) ∧
    (x.consBad = false → x.cons + 2 ^ x.outLog2 ≤ x.records → exec (.outputRecord n) s = .next s) ∧
    (∀ i r w u, x.outQ = i :: r → s.sessRuns n = true → x.consBad = false → x.records < x.cons + 2 ^ x.outLog2 →
      let p := x.running.getD 0
      let f := x.buf i
      s.storeAll (s.sessAcc x p) (if x.statN = 0 then [] else [(x.statAddr + x.records % x.statN * x.statBytes,
        x.statBlock x.records f.inter f.conceal f.luma f.blocks)]) = (w, none) →
      w.storeAll (s.sessAcc x p true) [(x.outAddr + 32 * (x.records % 2 ^ x.outLog2), x.outRec i)] = (u, none) →
      exec (.outputRecord n) s = .next (((u.signalQuiet (s.sessAcc x p true) x.sem).setSession n
        { x.setBuf i { f with out := false, exp := true, shown := true } with
          outQ := r, records := x.records + 1, lastLuma := if x.statN = 0 then none else some f.luma, conceal := x.conceal + (if f.conceal && !f.shown then 1 else 0) }).decodeTurn n))) ∧
  (∀ (n : Nat) (s : State), n < 2 ^ 16 → s.Canonical →
    let x := s.session n
    let a := s.sessAcc x (x.running.getD 0) true
    let r := s.reading a (loadNat s a x.consAddr 8)
    ((x.encode = true ∨ s.sessRuns n = false) → exec (.outConsReread n) s = .next s) ∧
    (∀ v, x.encode = false → s.sessRuns n = true → r.1 = .ok v → ∃ t, exec (.outConsReread n) s = .next t ∧
      t.session n = { x with cons := v, consBad := x.consBad || decide (v < x.cons ∨ x.records < v) } ∧
      ∀ m, m ≠ n → t.session m = s.session m))
end

