-- ==== Sys2Proof/Laws/Bytes.lean ====
section
/-! SUPPORT. The laws of byte order and of fields in blocks (R35). -/

namespace Sys2Proof.Machine

@[simp] theorem toLe_length (n v : Nat) : (toLe n v).length = n := by
  induction n generalizing v with
  | zero => rfl
  | succ n ih => simp [toLe, ih]

/-- A number that fits its bytes is read back. -/
theorem le_toLe {n v : Nat} (h : v < 256 ^ n) : le (toLe n v) = v := by
  induction n generalizing v with
  | zero => simp at h; simp [toLe, le, h]
  | succ n ih =>
    have h2 : v / 256 < 256 ^ n := by
      rw [Nat.pow_succ] at h
      omega
    simp [toLe, le, ih h2]
    omega

/-- Little-endian bytes are below 256 to their number. -/
theorem le_lt (l : List Byte) : le l < 256 ^ l.length := by
  induction l with
  | nil => simp [le]
  | cons b r ih =>
    have hb : b.toNat < 256 := b.isLt
    simp only [le, List.length_cons, Nat.pow_succ]
    omega

/-- Bytes are read back. -/
theorem toLe_le (l : List Byte) : toLe l.length (le l) = l := by
  induction l with
  | nil => rfl
  | cons b r ih =>
    have hb : b.toNat < 256 := b.isLt
    have h1 : (b.toNat + 256 * le r) / 256 = le r := by omega
    have h2 : BitVec.ofNat 8 (b.toNat + 256 * le r) = b := by
      apply BitVec.eq_of_toNat_eq
      simp only [BitVec.toNat_ofNat]
      omega
    simp [toLe, le, h1, h2, ih]

/-- A field that begins where a block's leading part ends. -/
theorem field_append_right (a b : List Byte) (n size : Nat) (h : a.length ≤ n) : field (a ++ b) n size = field b (n - a.length) size := by
  simp [field, List.drop_append, List.drop_eq_nil_of_le h]

/-- A field of a block's leading part. -/
theorem field_append_left (a b : List Byte) (n size : Nat) (h : n + size ≤ a.length) : field (a ++ b) n size = field a n size := by
  have h1 : size - (a.length - n) = 0 := by omega
  have h2 : n - a.length = 0 := by omega
  simp [field, List.drop_append, List.take_append, List.length_drop, h1, h2]

/-- The field that is a number's own bytes. -/
theorem field_toLe {n v : Nat} (b : List Byte) (h : v < 256 ^ n) : field (toLe n v ++ b) 0 n = v := by
  rw [field_append_left _ _ _ _ (by simp)]
  simp [field, List.take_of_length_le, le_toLe h]

end Sys2Proof.Machine
end

