-- ==== Sys2Proof/Laws/Memory.lean ====
section
/-! SUPPORT. What a load does: it answers when each of its pieces does, and memory that nothing has written, nor any lock, retirement
or region concerns, answers everywhere. -/

namespace Sys2Proof.Machine

/-- The pieces of a range lie in it. -/
theorem cutLines_within : ∀ (f g n : Nat) (c : Nat × Nat), c ∈ cutLines f g n → g ≤ c.1 ∧ c.1 + c.2 ≤ g + n ∧ 0 < c.2
  | 0, _, _, c, h => by simp [cutLines] at h
  | f + 1, g, n, c, h => by
    simp only [cutLines] at h
    split at h
    · simp at h
    · rcases List.mem_cons.mp h with e | e
      · subst e
        simp only
        omega
      · have := cutLines_within f _ _ c e
        omega

theorem pieces_within {g n : Nat} {c : Nat × Nat} (h : c ∈ pieces g n) : g ≤ c.1 ∧ c.1 + c.2 ≤ g + n ∧ 0 < c.2 := cutLines_within _ _ _ _ h

/-- A computation that answers, whatever has been read before. -/
def Rd.Answers {α : Type} (r : Rd α) : Prop := ∀ l, ∃ v, (r.run.run l).1 = .ok v

theorem Rd.answers_pure {α : Type} (v : α) : Rd.Answers (pure v) := fun _ => ⟨v, rfl⟩

theorem Rd.answers_note (p n : Nat) (nc : Bool) : Rd.Answers (Rd.note p n nc) := fun _ => ⟨(), rfl⟩

theorem Rd.answers_bind {α β : Type} {r : Rd α} {f : α → Rd β} (h : r.Answers) (k : ∀ v, (f v).Answers) : Rd.Answers (r >>= f) := by
  intro l
  obtain ⟨v, e⟩ := h l
  obtain ⟨w, e'⟩ := k v (r.run.run l).2
  refine ⟨w, ?_⟩
  rw [← e']
  show ((ExceptT.bindCont f (r.run.run l).1).run (r.run.run l).2).1 = _
  rw [e]
  rfl

theorem Rd.answers_mapM {α β : Type} {f : α → Rd β} : ∀ {l : List α}, (∀ x ∈ l, (f x).Answers) → Rd.Answers (l.mapM f)
  | [], _ => by simpa using Rd.answers_pure _
  | x :: l, h => by
    rw [List.mapM_cons]
    exact Rd.answers_bind (h x List.mem_cons_self) fun v =>
      Rd.answers_bind (Rd.answers_mapM fun y hy => h y (List.mem_cons_of_mem _ hy)) fun _ => Rd.answers_pure _

/-- A load answers when each of its pieces does. -/
theorem load_answers {s : State} {a : Acc} {g n : Nat} (h : ∀ c ∈ pieces g n, (loadPiece s a c.1 c.2).Answers) : (load s a g n).Answers :=
  Rd.answers_bind (Rd.answers_mapM h) fun _ => Rd.answers_pure _

/-- Memory in which no word is bad and no channel is lost reads everywhere. -/
theorem memByte_clean {s : State} (hc : s.chans = []) (hk : s.mem.ck = []) (p : Nat) : s.memByte p ≠ none := by
  simp only [State.memByte, State.chanLost, State.chan, hc, Tbl.get, Mem.byte, Mem.ckAt, hk, Chan.isEmpty]
  split
  · simp_all
  · split
    · simp
    · split
      · simp
      · split
        · rw [show verdict 0#16 = .clean from by decide]
          simp
        · simp

/-- The module's own memory, where it reads everywhere and nothing else concerns the access: every load inside the partition
answers. -/
theorem load_fresh {s : State} {a : Acc} {off n : Nat} (hr : s.regions = []) (hg : s.groups = []) (mb : ∀ p, s.memByte p ≠ none)
    (hx : s.ctrl.resets = []) (hk : s.stackTbl = []) (lo : a.lo ≤ off) (hi : off + n ≤ a.hi) (hm : off + n ≤ s.memBytes a.part) (h40 : off + n ≤ 2 ^ 40)
    (hid : s.fab.moduleId < 0xFFFF) : (load s a (s.fab.moduleId * 2 ^ 48 + off) n).Answers := by
  refine load_answers fun c hcm => ?_
  obtain ⟨h1, h2, h3⟩ := pieces_within hcm
  have e : c.1 = s.fab.moduleId * 2 ^ 48 + (c.1 - s.fab.moduleId * 2 ^ 48) := by omega
  generalize hd : c.1 - s.fab.moduleId * 2 ^ 48 = d at e
  have hdlt : d < 2 ^ 40 := by omega
  have e1 : c.1 >>> 48 = s.fab.moduleId := by rw [Nat.shiftRight_eq_div_pow]; omega
  have e2 : c.1 % 2 ^ 48 = d := by omega
  have res : s.resolve a c.1 = .ok (.mem (s.place a.part d) (!a.atHome && (a.nocache || ((s.regionAt a.part d).map (·.nocache)).getD false))) := by
    have held : s.heldAt a.part d (s.place a.part d) = false := by simp [State.heldAt, hr, hx, State.stack, hk, Tbl.get]
    simp only [State.resolve, e1, e2, State.resolveLocal, held]
    rw [if_neg (by omega), if_neg (by omega), if_neg (by omega), if_neg (by omega), if_neg (by omega), if_neg (by omega)]
    simp
  rw [loadPiece, res]
  have found : (List.range c.2).find? (fun i => (s.memByte (s.place a.part d + i)).isNone) = none := by
    rw [List.find?_eq_none]
    intro i _
    cases hb : s.memByte (s.place a.part d + i)
    · exact absurd hb (mb _)
    · simp
  simp only [loadPlace, State.inSlotSpace, hg, found, List.any_nil]
  exact Rd.answers_bind (Rd.answers_note _ _ _) fun _ => Rd.answers_pure _

end Sys2Proof.Machine
end

