-- ==== Sys2Proof/Laws/Packets.lean ====
section
/-! SUPPORT. What changing one packet does to the packets found by number, and what taking a packet off a port's wire does. -/

namespace Sys2Proof.Machine

theorem find_map_self {f : Packet → Packet} {p : Nat} (hid : ∀ k, k.id = p → (f k).id = p) (l : List Packet) :
    (l.map (fun k => if k.id = p then f k else k)).find? (fun k => k.id == p) = (l.find? (fun k => k.id == p)).map f := by
  induction l with
  | nil => rfl
  | cons a l ih =>
    by_cases h : a.id = p
    · simp [h, hid a h]
    · simpa [h] using ih

theorem find_map_other {f : Packet → Packet} {p r : Nat} (hid : ∀ k, k.id = p → (f k).id = p) (hr : r ≠ p) (l : List Packet) :
    (l.map (fun k => if k.id = p then f k else k)).find? (fun k => k.id == r) = l.find? (fun k => k.id == r) := by
  induction l with
  | nil => rfl
  | cons a l ih =>
    by_cases h : a.id = p
    · have hf := hid a h
      simpa [h, hf, Ne.symm hr] using ih
    · by_cases h' : a.id = r
      · simp [h', hr]
      · simpa [h, h'] using ih

theorem findPkt_mod_self {f : Packet → Packet} {p : Nat} (hid : ∀ k, k.id = p → (f k).id = p) (t : Tbl Queue) :
    findPkt (t.map (fun e => (e.1, { e.2 with pkts := e.2.pkts.map (fun k => if k.id = p then f k else k) }))) p =
      (findPkt t p).map (fun e => (e.1, f e.2)) := by
  induction t with
  | nil => rfl
  | cons a t ih =>
    simp only [List.map_cons, findPkt, find_map_self hid]
    cases a.2.pkts.find? (fun k => k.id == p) with
    | none => simpa using ih
    | some k => rfl

theorem findPkt_mod_other {f : Packet → Packet} {p r : Nat} (hid : ∀ k, k.id = p → (f k).id = p) (hr : r ≠ p) (t : Tbl Queue) :
    findPkt (t.map (fun e => (e.1, { e.2 with pkts := e.2.pkts.map (fun k => if k.id = p then f k else k) }))) r = findPkt t r := by
  induction t with
  | nil => rfl
  | cons a t ih => simp only [List.map_cons, findPkt, find_map_other hid hr, ih]

/-- A change of packet `p` that leaves its number is seen by who looks `p` up. -/
theorem State.modPkt_pkt {s : State} {p : Nat} {f : Packet → Packet} (hid : ∀ k, k.id = p → (f k).id = p) :
    (s.modPkt p f).pkt p = (s.pkt p).map (fun e => (e.1, f e.2)) := findPkt_mod_self hid s.queues

/-- Every other packet is found as it was. -/
theorem State.modPkt_pkt_other {s : State} {p r : Nat} {f : Packet → Packet} (hid : ∀ k, k.id = p → (f k).id = p) (hr : r ≠ p) :
    (s.modPkt p f).pkt r = s.pkt r := findPkt_mod_other hid hr s.queues

/-- A packet whose work ends has finished with the status, the DETAIL and the counts given. -/
theorem State.finish_pkt {s : State} {p q st : Nat} {k : Packet} {d : Option Nat} {c : Counts} (h : s.pkt p = some (q, k))
    (hp : k.phase ≠ .finished) :
    (s.finish p st d c).pkt p = some (q, { k with phase := .finished, status := st, detail := d, counts := c, waiting := false }) := by
  unfold State.finish
  rw [State.modPkt_pkt (fun k hk => by split <;> simpa using hk), h]
  simp [hp]

/-- Work leaves what it does in the packet that has started, and nothing in one that has not. -/
theorem State.modRun_pkt {s : State} {p q : Nat} {k : Packet} {f : ListRun → ListRun} (h : s.pkt p = some (q, k)) :
    (s.modRun p f).pkt p = some (q, if k.phase = .fetched then k else { k with run := f k.run }) := by
  unfold State.modRun
  rw [State.modPkt_pkt (fun k hk => by split <;> simpa using hk), h]
  rfl

/-- A burst queue keeps exactly what an armed mask of no single-lane error meets as MARK. -/
theorem State.burst_marks {s : State} {n : Nat} : (s.burst n).1 = true ↔ s.burstMarks (n / 4) := by
  unfold State.burst State.burstMarks
  by_cases h : s.ecc.armed = true ∧ s.ecc.cls = 5 ∧ s.ecc.index = n / 4
  · obtain ⟨h1, h2, h3⟩ := h
    simp only [h1, h2, h3, and_self, if_true, true_and]
    split <;> simp_all
  · rw [if_neg h]
    simp only [Bool.false_eq_true, false_iff]
    exact fun ⟨a, b, c, _⟩ => h ⟨a, b, c⟩

/-- What the queue keeps as MARK does not depend on the port's own state. -/
theorem State.burst_setPort {s : State} {n : Nat} {q : Port} : ((s.setPort n q).burst n).1 = (s.burst n).1 := by
  rw [Bool.eq_iff_iff, State.burst_marks, State.burst_marks]
  simp only [State.burstMarks, State.setPort]

/-- R345: a port takes exactly the packets that it accepts. -/
theorem State.arrive_accepts {s : State} {n v flits : Nat} {via : Via} :
    (s.arrive n via v flits).1 = true ↔ s.Accepts n via := by
  have expected : (∀ l ∈ via.lseq, l % 4096 = (s.port n).expect % 4096) ↔
      (via.lseq.getD (s.port n).expect + 4096 - (s.port n).expect % 4096) % 4096 = 0 := by
    cases via.lseq <;> simp <;> omega
  unfold State.arrive State.Accepts
  rw [expected]
  dsimp only
  cases hl : (s.port n).live <;> cases hb : via.bad <;>
    simp only [Bool.not_true, Bool.not_false, Bool.false_eq_true, if_true, if_false, false_and, true_and, reduceCtorEq]
  split
  · rename_i h
    simp only [h, State.burst_setPort, Bool.not_eq_true', true_and, ← State.burst_marks, Bool.not_eq_true]
  · rename_i h
    split <;> simp [h]

/-- What a packet that is accepted does. -/
theorem State.received_accepts {s : State} {n v flits : Nat} {via : Via} {act : State → State} (h : s.Accepts n via) :
    s.received n via v flits act = (act (s.taken n via v flits)).report n := by
  have := State.arrive_accepts (v := v) (flits := flits) |>.2 h
  unfold State.received State.taken
  split
  · rename_i e; rw [e]
  · rename_i e; simp [e] at this

/-- What one that is not accepted does: nothing beyond the port's answer. -/
theorem State.received_other {s : State} {n v flits : Nat} {via : Via} {act : State → State} (h : ¬s.Accepts n via) :
    s.received n via v flits act = s.taken n via v flits := by
  have := mt (State.arrive_accepts (v := v) (flits := flits)).1 h
  unfold State.received State.taken
  split
  · rename_i e; simp [e] at this
  · rename_i e; rw [e]

end Sys2Proof.Machine
end

