-- ==== Sys2Proof/Laws/Sort.lean ====
section
/-! SUPPORT. A list in order holds what the list held. -/

namespace Sys2Proof.Machine

theorem mem_insertBy {α : Type} {le : α → α → Bool} {x y : α} : ∀ {l : List α}, y ∈ insertBy le x l ↔ y = x ∨ y ∈ l
  | [] => by simp [insertBy]
  | z :: l => by
    simp only [insertBy]
    split
    · simp
    · rw [List.mem_cons, mem_insertBy, List.mem_cons]
      exact ⟨fun h => by rcases h with h | h | h <;> simp [h], fun h => by rcases h with h | h | h <;> simp [h]⟩

@[simp] theorem mem_sortBy {α : Type} {le : α → α → Bool} {y : α} : ∀ {l : List α}, y ∈ sortBy le l ↔ y ∈ l
  | [] => Iff.rfl
  | x :: l => by rw [sortBy, mem_insertBy, mem_sortBy, List.mem_cons]

theorem insertBy_length {α : Type} (le : α → α → Bool) (x : α) : ∀ l : List α, (insertBy le x l).length = l.length + 1
  | [] => rfl
  | y :: l => by
    simp only [insertBy]
    split
    · rfl
    · simp [insertBy_length le x l]

@[simp] theorem sortBy_length {α : Type} (le : α → α → Bool) : ∀ l : List α, (sortBy le l).length = l.length
  | [] => rfl
  | x :: l => by rw [sortBy, insertBy_length, sortBy_length le l, List.length_cons]

end Sys2Proof.Machine
end

