-- ==== Sys2Proof/Laws/State.lean ====
section
/-! SUPPORT. What each update of the state leaves as it was: one lemma per field per update. -/

namespace Sys2Proof.Machine

variable (s : State)

/-! State.setCore -/
@[simp] theorem State.setCore_order (n : Nat) (c : Core) : (s.setCore n c).order = s.order := rfl
@[simp] theorem State.setCore_mtime (n : Nat) (c : Core) : (s.setCore n c).mtime = s.mtime := rfl
@[simp] theorem State.setCore_pending (n : Nat) (c : Core) : (s.setCore n c).pending = s.pending := rfl
@[simp] theorem State.setCore_free (n : Nat) (c : Core) : (s.setCore n c).free = s.free := rfl
@[simp] theorem State.setCore_nextPkt (n : Nat) (c : Core) : (s.setCore n c).nextPkt = s.nextPkt := rfl
@[simp] theorem State.setCore_nextSeq (n : Nat) (c : Core) : (s.setCore n c).nextSeq = s.nextSeq := rfl
@[simp] theorem State.setCore_queues (n : Nat) (c : Core) : (s.setCore n c).queues = s.queues := rfl
@[simp] theorem State.setCore_rings (n : Nat) (c : Core) : (s.setCore n c).rings = s.rings := rfl
@[simp] theorem State.setCore_fns (n : Nat) (c : Core) : (s.setCore n c).fns = s.fns := rfl
@[simp] theorem State.setCore_reply (n : Nat) (c : Core) : (s.setCore n c).reply = s.reply := rfl
@[simp] theorem State.setCore_msix (n : Nat) (c : Core) : (s.setCore n c).msix = s.msix := rfl
@[simp] theorem State.setCore_parts (n : Nat) (c : Core) : (s.setCore n c).parts = s.parts := rfl
@[simp] theorem State.setCore_regions (n : Nat) (c : Core) : (s.setCore n c).regions = s.regions := rfl
@[simp] theorem State.setCore_ctxs (n : Nat) (c : Core) : (s.setCore n c).ctxs = s.ctxs := rfl
@[simp] theorem State.setCore_clients (n : Nat) (c : Core) : (s.setCore n c).clients = s.clients := rfl
@[simp] theorem State.setCore_engines (n : Nat) (c : Core) : (s.setCore n c).engines = s.engines := rfl
@[simp] theorem State.setCore_units (n : Nat) (c : Core) : (s.setCore n c).units = s.units := rfl
@[simp] theorem State.setCore_moverLast (n : Nat) (c : Core) : (s.setCore n c).moverLast = s.moverLast := rfl
@[simp] theorem State.setCore_unitLast (n : Nat) (c : Core) : (s.setCore n c).unitLast = s.unitLast := rfl
@[simp] theorem State.setCore_items (n : Nat) (c : Core) : (s.setCore n c).items = s.items := rfl
@[simp] theorem State.setCore_mem (n : Nat) (c : Core) : (s.setCore n c).mem = s.mem := rfl
@[simp] theorem State.setCore_sp (n : Nat) (c : Core) : (s.setCore n c).sp = s.sp := rfl
@[simp] theorem State.setCore_spLost (n : Nat) (c : Core) : (s.setCore n c).spLost = s.spLost := rfl
@[simp] theorem State.setCore_host (n : Nat) (c : Core) : (s.setCore n c).host = s.host := rfl
@[simp] theorem State.setCore_noAtomics (n : Nat) (c : Core) : (s.setCore n c).noAtomics = s.noAtomics := rfl
@[simp] theorem State.setCore_held (n : Nat) (c : Core) : (s.setCore n c).held = s.held := rfl
@[simp] theorem State.setCore_owed (n : Nat) (c : Core) : (s.setCore n c).owed = s.owed := rfl
@[simp] theorem State.setCore_copies (n : Nat) (c : Core) : (s.setCore n c).copies = s.copies := rfl
@[simp] theorem State.setCore_stackCk (n : Nat) (c : Core) : (s.setCore n c).stackCk = s.stackCk := rfl
@[simp] theorem State.setCore_late (n : Nat) (c : Core) : (s.setCore n c).late = s.late := rfl
@[simp] theorem State.setCore_locks (n : Nat) (c : Core) : (s.setCore n c).locks = s.locks := rfl
@[simp] theorem State.setCore_caches (n : Nat) (c : Core) : (s.setCore n c).caches = s.caches := rfl
@[simp] theorem State.setCore_ecc (n : Nat) (c : Core) : (s.setCore n c).ecc = s.ecc := rfl
@[simp] theorem State.setCore_memRing (n : Nat) (c : Core) : (s.setCore n c).memRing = s.memRing := rfl
@[simp] theorem State.setCore_lcShare (n : Nat) (c : Core) : (s.setCore n c).lcShare = s.lcShare := rfl
@[simp] theorem State.setCore_chans (n : Nat) (c : Core) : (s.setCore n c).chans = s.chans := rfl
@[simp] theorem State.setCore_stackTbl (n : Nat) (c : Core) : (s.setCore n c).stackTbl = s.stackTbl := rfl
@[simp] theorem State.setCore_groups (n : Nat) (c : Core) : (s.setCore n c).groups = s.groups := rfl
@[simp] theorem State.setCore_fab (n : Nat) (c : Core) : (s.setCore n c).fab = s.fab := rfl
@[simp] theorem State.setCore_feeds (n : Nat) (c : Core) : (s.setCore n c).feeds = s.feeds := rfl
@[simp] theorem State.setCore_toks (n : Nat) (c : Core) : (s.setCore n c).toks = s.toks := rfl
@[simp] theorem State.setCore_sessions (n : Nat) (c : Core) : (s.setCore n c).sessions = s.sessions := rfl
@[simp] theorem State.setCore_media (n : Nat) (c : Core) : (s.setCore n c).media = s.media := rfl
@[simp] theorem State.setCore_ctrl (n : Nat) (c : Core) : (s.setCore n c).ctrl = s.ctrl := rfl
@[simp] theorem State.setCore_power (n : Nat) (c : Core) : (s.setCore n c).power = s.power := rfl

/-! State.setQueue -/
@[simp] theorem State.setQueue_order (n : Nat) (v : Queue) : (s.setQueue n v).order = s.order := rfl
@[simp] theorem State.setQueue_cores (n : Nat) (v : Queue) : (s.setQueue n v).cores = s.cores := rfl
@[simp] theorem State.setQueue_mtime (n : Nat) (v : Queue) : (s.setQueue n v).mtime = s.mtime := rfl
@[simp] theorem State.setQueue_pending (n : Nat) (v : Queue) : (s.setQueue n v).pending = s.pending := rfl
@[simp] theorem State.setQueue_free (n : Nat) (v : Queue) : (s.setQueue n v).free = s.free := rfl
@[simp] theorem State.setQueue_nextPkt (n : Nat) (v : Queue) : (s.setQueue n v).nextPkt = s.nextPkt := rfl
@[simp] theorem State.setQueue_nextSeq (n : Nat) (v : Queue) : (s.setQueue n v).nextSeq = s.nextSeq := rfl
@[simp] theorem State.setQueue_rings (n : Nat) (v : Queue) : (s.setQueue n v).rings = s.rings := rfl
@[simp] theorem State.setQueue_fns (n : Nat) (v : Queue) : (s.setQueue n v).fns = s.fns := rfl
@[simp] theorem State.setQueue_reply (n : Nat) (v : Queue) : (s.setQueue n v).reply = s.reply := rfl
@[simp] theorem State.setQueue_msix (n : Nat) (v : Queue) : (s.setQueue n v).msix = s.msix := rfl
@[simp] theorem State.setQueue_parts (n : Nat) (v : Queue) : (s.setQueue n v).parts = s.parts := rfl
@[simp] theorem State.setQueue_regions (n : Nat) (v : Queue) : (s.setQueue n v).regions = s.regions := rfl
@[simp] theorem State.setQueue_ctxs (n : Nat) (v : Queue) : (s.setQueue n v).ctxs = s.ctxs := rfl
@[simp] theorem State.setQueue_clients (n : Nat) (v : Queue) : (s.setQueue n v).clients = s.clients := rfl
@[simp] theorem State.setQueue_engines (n : Nat) (v : Queue) : (s.setQueue n v).engines = s.engines := rfl
@[simp] theorem State.setQueue_units (n : Nat) (v : Queue) : (s.setQueue n v).units = s.units := rfl
@[simp] theorem State.setQueue_moverLast (n : Nat) (v : Queue) : (s.setQueue n v).moverLast = s.moverLast := rfl
@[simp] theorem State.setQueue_unitLast (n : Nat) (v : Queue) : (s.setQueue n v).unitLast = s.unitLast := rfl
@[simp] theorem State.setQueue_items (n : Nat) (v : Queue) : (s.setQueue n v).items = s.items := rfl
@[simp] theorem State.setQueue_mem (n : Nat) (v : Queue) : (s.setQueue n v).mem = s.mem := rfl
@[simp] theorem State.setQueue_sp (n : Nat) (v : Queue) : (s.setQueue n v).sp = s.sp := rfl
@[simp] theorem State.setQueue_spLost (n : Nat) (v : Queue) : (s.setQueue n v).spLost = s.spLost := rfl
@[simp] theorem State.setQueue_host (n : Nat) (v : Queue) : (s.setQueue n v).host = s.host := rfl
@[simp] theorem State.setQueue_noAtomics (n : Nat) (v : Queue) : (s.setQueue n v).noAtomics = s.noAtomics := rfl
@[simp] theorem State.setQueue_held (n : Nat) (v : Queue) : (s.setQueue n v).held = s.held := rfl
@[simp] theorem State.setQueue_owed (n : Nat) (v : Queue) : (s.setQueue n v).owed = s.owed := rfl
@[simp] theorem State.setQueue_copies (n : Nat) (v : Queue) : (s.setQueue n v).copies = s.copies := rfl
@[simp] theorem State.setQueue_stackCk (n : Nat) (v : Queue) : (s.setQueue n v).stackCk = s.stackCk := rfl
@[simp] theorem State.setQueue_late (n : Nat) (v : Queue) : (s.setQueue n v).late = s.late := rfl
@[simp] theorem State.setQueue_locks (n : Nat) (v : Queue) : (s.setQueue n v).locks = s.locks := rfl
@[simp] theorem State.setQueue_caches (n : Nat) (v : Queue) : (s.setQueue n v).caches = s.caches := rfl
@[simp] theorem State.setQueue_ecc (n : Nat) (v : Queue) : (s.setQueue n v).ecc = s.ecc := rfl
@[simp] theorem State.setQueue_memRing (n : Nat) (v : Queue) : (s.setQueue n v).memRing = s.memRing := rfl
@[simp] theorem State.setQueue_lcShare (n : Nat) (v : Queue) : (s.setQueue n v).lcShare = s.lcShare := rfl
@[simp] theorem State.setQueue_chans (n : Nat) (v : Queue) : (s.setQueue n v).chans = s.chans := rfl
@[simp] theorem State.setQueue_stackTbl (n : Nat) (v : Queue) : (s.setQueue n v).stackTbl = s.stackTbl := rfl
@[simp] theorem State.setQueue_groups (n : Nat) (v : Queue) : (s.setQueue n v).groups = s.groups := rfl
@[simp] theorem State.setQueue_fab (n : Nat) (v : Queue) : (s.setQueue n v).fab = s.fab := rfl
@[simp] theorem State.setQueue_feeds (n : Nat) (v : Queue) : (s.setQueue n v).feeds = s.feeds := rfl
@[simp] theorem State.setQueue_toks (n : Nat) (v : Queue) : (s.setQueue n v).toks = s.toks := rfl
@[simp] theorem State.setQueue_sessions (n : Nat) (v : Queue) : (s.setQueue n v).sessions = s.sessions := rfl
@[simp] theorem State.setQueue_media (n : Nat) (v : Queue) : (s.setQueue n v).media = s.media := rfl
@[simp] theorem State.setQueue_ctrl (n : Nat) (v : Queue) : (s.setQueue n v).ctrl = s.ctrl := rfl
@[simp] theorem State.setQueue_power (n : Nat) (v : Queue) : (s.setQueue n v).power = s.power := rfl

/-! State.setRing -/
@[simp] theorem State.setRing_order (n : Nat) (v : CplRing) : (s.setRing n v).order = s.order := rfl
@[simp] theorem State.setRing_cores (n : Nat) (v : CplRing) : (s.setRing n v).cores = s.cores := rfl
@[simp] theorem State.setRing_mtime (n : Nat) (v : CplRing) : (s.setRing n v).mtime = s.mtime := rfl
@[simp] theorem State.setRing_pending (n : Nat) (v : CplRing) : (s.setRing n v).pending = s.pending := rfl
@[simp] theorem State.setRing_free (n : Nat) (v : CplRing) : (s.setRing n v).free = s.free := rfl
@[simp] theorem State.setRing_nextPkt (n : Nat) (v : CplRing) : (s.setRing n v).nextPkt = s.nextPkt := rfl
@[simp] theorem State.setRing_nextSeq (n : Nat) (v : CplRing) : (s.setRing n v).nextSeq = s.nextSeq := rfl
@[simp] theorem State.setRing_queues (n : Nat) (v : CplRing) : (s.setRing n v).queues = s.queues := rfl
@[simp] theorem State.setRing_fns (n : Nat) (v : CplRing) : (s.setRing n v).fns = s.fns := rfl
@[simp] theorem State.setRing_reply (n : Nat) (v : CplRing) : (s.setRing n v).reply = s.reply := rfl
@[simp] theorem State.setRing_msix (n : Nat) (v : CplRing) : (s.setRing n v).msix = s.msix := rfl
@[simp] theorem State.setRing_parts (n : Nat) (v : CplRing) : (s.setRing n v).parts = s.parts := rfl
@[simp] theorem State.setRing_regions (n : Nat) (v : CplRing) : (s.setRing n v).regions = s.regions := rfl
@[simp] theorem State.setRing_ctxs (n : Nat) (v : CplRing) : (s.setRing n v).ctxs = s.ctxs := rfl
@[simp] theorem State.setRing_clients (n : Nat) (v : CplRing) : (s.setRing n v).clients = s.clients := rfl
@[simp] theorem State.setRing_engines (n : Nat) (v : CplRing) : (s.setRing n v).engines = s.engines := rfl
@[simp] theorem State.setRing_units (n : Nat) (v : CplRing) : (s.setRing n v).units = s.units := rfl
@[simp] theorem State.setRing_moverLast (n : Nat) (v : CplRing) : (s.setRing n v).moverLast = s.moverLast := rfl
@[simp] theorem State.setRing_unitLast (n : Nat) (v : CplRing) : (s.setRing n v).unitLast = s.unitLast := rfl
@[simp] theorem State.setRing_items (n : Nat) (v : CplRing) : (s.setRing n v).items = s.items := rfl
@[simp] theorem State.setRing_mem (n : Nat) (v : CplRing) : (s.setRing n v).mem = s.mem := rfl
@[simp] theorem State.setRing_sp (n : Nat) (v : CplRing) : (s.setRing n v).sp = s.sp := rfl
@[simp] theorem State.setRing_spLost (n : Nat) (v : CplRing) : (s.setRing n v).spLost = s.spLost := rfl
@[simp] theorem State.setRing_host (n : Nat) (v : CplRing) : (s.setRing n v).host = s.host := rfl
@[simp] theorem State.setRing_noAtomics (n : Nat) (v : CplRing) : (s.setRing n v).noAtomics = s.noAtomics := rfl
@[simp] theorem State.setRing_held (n : Nat) (v : CplRing) : (s.setRing n v).held = s.held := rfl
@[simp] theorem State.setRing_owed (n : Nat) (v : CplRing) : (s.setRing n v).owed = s.owed := rfl
@[simp] theorem State.setRing_copies (n : Nat) (v : CplRing) : (s.setRing n v).copies = s.copies := rfl
@[simp] theorem State.setRing_stackCk (n : Nat) (v : CplRing) : (s.setRing n v).stackCk = s.stackCk := rfl
@[simp] theorem State.setRing_late (n : Nat) (v : CplRing) : (s.setRing n v).late = s.late := rfl
@[simp] theorem State.setRing_locks (n : Nat) (v : CplRing) : (s.setRing n v).locks = s.locks := rfl
@[simp] theorem State.setRing_caches (n : Nat) (v : CplRing) : (s.setRing n v).caches = s.caches := rfl
@[simp] theorem State.setRing_ecc (n : Nat) (v : CplRing) : (s.setRing n v).ecc = s.ecc := rfl
@[simp] theorem State.setRing_memRing (n : Nat) (v : CplRing) : (s.setRing n v).memRing = s.memRing := rfl
@[simp] theorem State.setRing_lcShare (n : Nat) (v : CplRing) : (s.setRing n v).lcShare = s.lcShare := rfl
@[simp] theorem State.setRing_chans (n : Nat) (v : CplRing) : (s.setRing n v).chans = s.chans := rfl
@[simp] theorem State.setRing_stackTbl (n : Nat) (v : CplRing) : (s.setRing n v).stackTbl = s.stackTbl := rfl
@[simp] theorem State.setRing_groups (n : Nat) (v : CplRing) : (s.setRing n v).groups = s.groups := rfl
@[simp] theorem State.setRing_fab (n : Nat) (v : CplRing) : (s.setRing n v).fab = s.fab := rfl
@[simp] theorem State.setRing_feeds (n : Nat) (v : CplRing) : (s.setRing n v).feeds = s.feeds := rfl
@[simp] theorem State.setRing_toks (n : Nat) (v : CplRing) : (s.setRing n v).toks = s.toks := rfl
@[simp] theorem State.setRing_sessions (n : Nat) (v : CplRing) : (s.setRing n v).sessions = s.sessions := rfl
@[simp] theorem State.setRing_media (n : Nat) (v : CplRing) : (s.setRing n v).media = s.media := rfl
@[simp] theorem State.setRing_ctrl (n : Nat) (v : CplRing) : (s.setRing n v).ctrl = s.ctrl := rfl
@[simp] theorem State.setRing_power (n : Nat) (v : CplRing) : (s.setRing n v).power = s.power := rfl

/-! State.setFn -/
@[simp] theorem State.setFn_order (n : Nat) (v : Fn) : (s.setFn n v).order = s.order := rfl
@[simp] theorem State.setFn_cores (n : Nat) (v : Fn) : (s.setFn n v).cores = s.cores := rfl
@[simp] theorem State.setFn_mtime (n : Nat) (v : Fn) : (s.setFn n v).mtime = s.mtime := rfl
@[simp] theorem State.setFn_pending (n : Nat) (v : Fn) : (s.setFn n v).pending = s.pending := rfl
@[simp] theorem State.setFn_free (n : Nat) (v : Fn) : (s.setFn n v).free = s.free := rfl
@[simp] theorem State.setFn_nextPkt (n : Nat) (v : Fn) : (s.setFn n v).nextPkt = s.nextPkt := rfl
@[simp] theorem State.setFn_nextSeq (n : Nat) (v : Fn) : (s.setFn n v).nextSeq = s.nextSeq := rfl
@[simp] theorem State.setFn_queues (n : Nat) (v : Fn) : (s.setFn n v).queues = s.queues := rfl
@[simp] theorem State.setFn_rings (n : Nat) (v : Fn) : (s.setFn n v).rings = s.rings := rfl
@[simp] theorem State.setFn_reply (n : Nat) (v : Fn) : (s.setFn n v).reply = s.reply := rfl
@[simp] theorem State.setFn_msix (n : Nat) (v : Fn) : (s.setFn n v).msix = s.msix := rfl
@[simp] theorem State.setFn_parts (n : Nat) (v : Fn) : (s.setFn n v).parts = s.parts := rfl
@[simp] theorem State.setFn_regions (n : Nat) (v : Fn) : (s.setFn n v).regions = s.regions := rfl
@[simp] theorem State.setFn_ctxs (n : Nat) (v : Fn) : (s.setFn n v).ctxs = s.ctxs := rfl
@[simp] theorem State.setFn_clients (n : Nat) (v : Fn) : (s.setFn n v).clients = s.clients := rfl
@[simp] theorem State.setFn_engines (n : Nat) (v : Fn) : (s.setFn n v).engines = s.engines := rfl
@[simp] theorem State.setFn_units (n : Nat) (v : Fn) : (s.setFn n v).units = s.units := rfl
@[simp] theorem State.setFn_moverLast (n : Nat) (v : Fn) : (s.setFn n v).moverLast = s.moverLast := rfl
@[simp] theorem State.setFn_unitLast (n : Nat) (v : Fn) : (s.setFn n v).unitLast = s.unitLast := rfl
@[simp] theorem State.setFn_items (n : Nat) (v : Fn) : (s.setFn n v).items = s.items := rfl
@[simp] theorem State.setFn_mem (n : Nat) (v : Fn) : (s.setFn n v).mem = s.mem := rfl
@[simp] theorem State.setFn_sp (n : Nat) (v : Fn) : (s.setFn n v).sp = s.sp := rfl
@[simp] theorem State.setFn_spLost (n : Nat) (v : Fn) : (s.setFn n v).spLost = s.spLost := rfl
@[simp] theorem State.setFn_host (n : Nat) (v : Fn) : (s.setFn n v).host = s.host := rfl
@[simp] theorem State.setFn_noAtomics (n : Nat) (v : Fn) : (s.setFn n v).noAtomics = s.noAtomics := rfl
@[simp] theorem State.setFn_held (n : Nat) (v : Fn) : (s.setFn n v).held = s.held := rfl
@[simp] theorem State.setFn_owed (n : Nat) (v : Fn) : (s.setFn n v).owed = s.owed := rfl
@[simp] theorem State.setFn_copies (n : Nat) (v : Fn) : (s.setFn n v).copies = s.copies := rfl
@[simp] theorem State.setFn_stackCk (n : Nat) (v : Fn) : (s.setFn n v).stackCk = s.stackCk := rfl
@[simp] theorem State.setFn_late (n : Nat) (v : Fn) : (s.setFn n v).late = s.late := rfl
@[simp] theorem State.setFn_locks (n : Nat) (v : Fn) : (s.setFn n v).locks = s.locks := rfl
@[simp] theorem State.setFn_caches (n : Nat) (v : Fn) : (s.setFn n v).caches = s.caches := rfl
@[simp] theorem State.setFn_ecc (n : Nat) (v : Fn) : (s.setFn n v).ecc = s.ecc := rfl
@[simp] theorem State.setFn_memRing (n : Nat) (v : Fn) : (s.setFn n v).memRing = s.memRing := rfl
@[simp] theorem State.setFn_lcShare (n : Nat) (v : Fn) : (s.setFn n v).lcShare = s.lcShare := rfl
@[simp] theorem State.setFn_chans (n : Nat) (v : Fn) : (s.setFn n v).chans = s.chans := rfl
@[simp] theorem State.setFn_stackTbl (n : Nat) (v : Fn) : (s.setFn n v).stackTbl = s.stackTbl := rfl
@[simp] theorem State.setFn_groups (n : Nat) (v : Fn) : (s.setFn n v).groups = s.groups := rfl
@[simp] theorem State.setFn_fab (n : Nat) (v : Fn) : (s.setFn n v).fab = s.fab := rfl
@[simp] theorem State.setFn_feeds (n : Nat) (v : Fn) : (s.setFn n v).feeds = s.feeds := rfl
@[simp] theorem State.setFn_toks (n : Nat) (v : Fn) : (s.setFn n v).toks = s.toks := rfl
@[simp] theorem State.setFn_sessions (n : Nat) (v : Fn) : (s.setFn n v).sessions = s.sessions := rfl
@[simp] theorem State.setFn_media (n : Nat) (v : Fn) : (s.setFn n v).media = s.media := rfl
@[simp] theorem State.setFn_ctrl (n : Nat) (v : Fn) : (s.setFn n v).ctrl = s.ctrl := rfl
@[simp] theorem State.setFn_power (n : Nat) (v : Fn) : (s.setFn n v).power = s.power := rfl

/-! State.setPart -/
@[simp] theorem State.setPart_order (n : Nat) (v : Partition) : (s.setPart n v).order = s.order := rfl
@[simp] theorem State.setPart_cores (n : Nat) (v : Partition) : (s.setPart n v).cores = s.cores := rfl
@[simp] theorem State.setPart_mtime (n : Nat) (v : Partition) : (s.setPart n v).mtime = s.mtime := rfl
@[simp] theorem State.setPart_pending (n : Nat) (v : Partition) : (s.setPart n v).pending = s.pending := rfl
@[simp] theorem State.setPart_free (n : Nat) (v : Partition) : (s.setPart n v).free = s.free := rfl
@[simp] theorem State.setPart_nextPkt (n : Nat) (v : Partition) : (s.setPart n v).nextPkt = s.nextPkt := rfl
@[simp] theorem State.setPart_nextSeq (n : Nat) (v : Partition) : (s.setPart n v).nextSeq = s.nextSeq := rfl
@[simp] theorem State.setPart_queues (n : Nat) (v : Partition) : (s.setPart n v).queues = s.queues := rfl
@[simp] theorem State.setPart_rings (n : Nat) (v : Partition) : (s.setPart n v).rings = s.rings := rfl
@[simp] theorem State.setPart_fns (n : Nat) (v : Partition) : (s.setPart n v).fns = s.fns := rfl
@[simp] theorem State.setPart_reply (n : Nat) (v : Partition) : (s.setPart n v).reply = s.reply := rfl
@[simp] theorem State.setPart_msix (n : Nat) (v : Partition) : (s.setPart n v).msix = s.msix := rfl
@[simp] theorem State.setPart_regions (n : Nat) (v : Partition) : (s.setPart n v).regions = s.regions := rfl
@[simp] theorem State.setPart_ctxs (n : Nat) (v : Partition) : (s.setPart n v).ctxs = s.ctxs := rfl
@[simp] theorem State.setPart_clients (n : Nat) (v : Partition) : (s.setPart n v).clients = s.clients := rfl
@[simp] theorem State.setPart_engines (n : Nat) (v : Partition) : (s.setPart n v).engines = s.engines := rfl
@[simp] theorem State.setPart_units (n : Nat) (v : Partition) : (s.setPart n v).units = s.units := rfl
@[simp] theorem State.setPart_moverLast (n : Nat) (v : Partition) : (s.setPart n v).moverLast = s.moverLast := rfl
@[simp] theorem State.setPart_unitLast (n : Nat) (v : Partition) : (s.setPart n v).unitLast = s.unitLast := rfl
@[simp] theorem State.setPart_items (n : Nat) (v : Partition) : (s.setPart n v).items = s.items := rfl
@[simp] theorem State.setPart_mem (n : Nat) (v : Partition) : (s.setPart n v).mem = s.mem := rfl
@[simp] theorem State.setPart_sp (n : Nat) (v : Partition) : (s.setPart n v).sp = s.sp := rfl
@[simp] theorem State.setPart_spLost (n : Nat) (v : Partition) : (s.setPart n v).spLost = s.spLost := rfl
@[simp] theorem State.setPart_host (n : Nat) (v : Partition) : (s.setPart n v).host = s.host := rfl
@[simp] theorem State.setPart_noAtomics (n : Nat) (v : Partition) : (s.setPart n v).noAtomics = s.noAtomics := rfl
@[simp] theorem State.setPart_held (n : Nat) (v : Partition) : (s.setPart n v).held = s.held := rfl
@[simp] theorem State.setPart_owed (n : Nat) (v : Partition) : (s.setPart n v).owed = s.owed := rfl
@[simp] theorem State.setPart_copies (n : Nat) (v : Partition) : (s.setPart n v).copies = s.copies := rfl
@[simp] theorem State.setPart_stackCk (n : Nat) (v : Partition) : (s.setPart n v).stackCk = s.stackCk := rfl
@[simp] theorem State.setPart_late (n : Nat) (v : Partition) : (s.setPart n v).late = s.late := rfl
@[simp] theorem State.setPart_locks (n : Nat) (v : Partition) : (s.setPart n v).locks = s.locks := rfl
@[simp] theorem State.setPart_caches (n : Nat) (v : Partition) : (s.setPart n v).caches = s.caches := rfl
@[simp] theorem State.setPart_ecc (n : Nat) (v : Partition) : (s.setPart n v).ecc = s.ecc := rfl
@[simp] theorem State.setPart_memRing (n : Nat) (v : Partition) : (s.setPart n v).memRing = s.memRing := rfl
@[simp] theorem State.setPart_lcShare (n : Nat) (v : Partition) : (s.setPart n v).lcShare = s.lcShare := rfl
@[simp] theorem State.setPart_chans (n : Nat) (v : Partition) : (s.setPart n v).chans = s.chans := rfl
@[simp] theorem State.setPart_stackTbl (n : Nat) (v : Partition) : (s.setPart n v).stackTbl = s.stackTbl := rfl
@[simp] theorem State.setPart_groups (n : Nat) (v : Partition) : (s.setPart n v).groups = s.groups := rfl
@[simp] theorem State.setPart_fab (n : Nat) (v : Partition) : (s.setPart n v).fab = s.fab := rfl
@[simp] theorem State.setPart_feeds (n : Nat) (v : Partition) : (s.setPart n v).feeds = s.feeds := rfl
@[simp] theorem State.setPart_toks (n : Nat) (v : Partition) : (s.setPart n v).toks = s.toks := rfl
@[simp] theorem State.setPart_sessions (n : Nat) (v : Partition) : (s.setPart n v).sessions = s.sessions := rfl
@[simp] theorem State.setPart_media (n : Nat) (v : Partition) : (s.setPart n v).media = s.media := rfl
@[simp] theorem State.setPart_ctrl (n : Nat) (v : Partition) : (s.setPart n v).ctrl = s.ctrl := rfl
@[simp] theorem State.setPart_power (n : Nat) (v : Partition) : (s.setPart n v).power = s.power := rfl

/-! State.setRegion -/
@[simp] theorem State.setRegion_order (n : Nat) (v : Region) : (s.setRegion n v).order = s.order := rfl
@[simp] theorem State.setRegion_cores (n : Nat) (v : Region) : (s.setRegion n v).cores = s.cores := rfl
@[simp] theorem State.setRegion_mtime (n : Nat) (v : Region) : (s.setRegion n v).mtime = s.mtime := rfl
@[simp] theorem State.setRegion_pending (n : Nat) (v : Region) : (s.setRegion n v).pending = s.pending := rfl
@[simp] theorem State.setRegion_free (n : Nat) (v : Region) : (s.setRegion n v).free = s.free := rfl
@[simp] theorem State.setRegion_nextPkt (n : Nat) (v : Region) : (s.setRegion n v).nextPkt = s.nextPkt := rfl
@[simp] theorem State.setRegion_nextSeq (n : Nat) (v : Region) : (s.setRegion n v).nextSeq = s.nextSeq := rfl
@[simp] theorem State.setRegion_queues (n : Nat) (v : Region) : (s.setRegion n v).queues = s.queues := rfl
@[simp] theorem State.setRegion_rings (n : Nat) (v : Region) : (s.setRegion n v).rings = s.rings := rfl
@[simp] theorem State.setRegion_fns (n : Nat) (v : Region) : (s.setRegion n v).fns = s.fns := rfl
@[simp] theorem State.setRegion_reply (n : Nat) (v : Region) : (s.setRegion n v).reply = s.reply := rfl
@[simp] theorem State.setRegion_msix (n : Nat) (v : Region) : (s.setRegion n v).msix = s.msix := rfl
@[simp] theorem State.setRegion_parts (n : Nat) (v : Region) : (s.setRegion n v).parts = s.parts := rfl
@[simp] theorem State.setRegion_ctxs (n : Nat) (v : Region) : (s.setRegion n v).ctxs = s.ctxs := rfl
@[simp] theorem State.setRegion_clients (n : Nat) (v : Region) : (s.setRegion n v).clients = s.clients := rfl
@[simp] theorem State.setRegion_engines (n : Nat) (v : Region) : (s.setRegion n v).engines = s.engines := rfl
@[simp] theorem State.setRegion_units (n : Nat) (v : Region) : (s.setRegion n v).units = s.units := rfl
@[simp] theorem State.setRegion_moverLast (n : Nat) (v : Region) : (s.setRegion n v).moverLast = s.moverLast := rfl
@[simp] theorem State.setRegion_unitLast (n : Nat) (v : Region) : (s.setRegion n v).unitLast = s.unitLast := rfl
@[simp] theorem State.setRegion_items (n : Nat) (v : Region) : (s.setRegion n v).items = s.items := rfl
@[simp] theorem State.setRegion_mem (n : Nat) (v : Region) : (s.setRegion n v).mem = s.mem := rfl
@[simp] theorem State.setRegion_sp (n : Nat) (v : Region) : (s.setRegion n v).sp = s.sp := rfl
@[simp] theorem State.setRegion_spLost (n : Nat) (v : Region) : (s.setRegion n v).spLost = s.spLost := rfl
@[simp] theorem State.setRegion_host (n : Nat) (v : Region) : (s.setRegion n v).host = s.host := rfl
@[simp] theorem State.setRegion_noAtomics (n : Nat) (v : Region) : (s.setRegion n v).noAtomics = s.noAtomics := rfl
@[simp] theorem State.setRegion_held (n : Nat) (v : Region) : (s.setRegion n v).held = s.held := rfl
@[simp] theorem State.setRegion_owed (n : Nat) (v : Region) : (s.setRegion n v).owed = s.owed := rfl
@[simp] theorem State.setRegion_copies (n : Nat) (v : Region) : (s.setRegion n v).copies = s.copies := rfl
@[simp] theorem State.setRegion_stackCk (n : Nat) (v : Region) : (s.setRegion n v).stackCk = s.stackCk := rfl
@[simp] theorem State.setRegion_late (n : Nat) (v : Region) : (s.setRegion n v).late = s.late := rfl
@[simp] theorem State.setRegion_locks (n : Nat) (v : Region) : (s.setRegion n v).locks = s.locks := rfl
@[simp] theorem State.setRegion_caches (n : Nat) (v : Region) : (s.setRegion n v).caches = s.caches := rfl
@[simp] theorem State.setRegion_ecc (n : Nat) (v : Region) : (s.setRegion n v).ecc = s.ecc := rfl
@[simp] theorem State.setRegion_memRing (n : Nat) (v : Region) : (s.setRegion n v).memRing = s.memRing := rfl
@[simp] theorem State.setRegion_lcShare (n : Nat) (v : Region) : (s.setRegion n v).lcShare = s.lcShare := rfl
@[simp] theorem State.setRegion_chans (n : Nat) (v : Region) : (s.setRegion n v).chans = s.chans := rfl
@[simp] theorem State.setRegion_stackTbl (n : Nat) (v : Region) : (s.setRegion n v).stackTbl = s.stackTbl := rfl
@[simp] theorem State.setRegion_groups (n : Nat) (v : Region) : (s.setRegion n v).groups = s.groups := rfl
@[simp] theorem State.setRegion_fab (n : Nat) (v : Region) : (s.setRegion n v).fab = s.fab := rfl
@[simp] theorem State.setRegion_feeds (n : Nat) (v : Region) : (s.setRegion n v).feeds = s.feeds := rfl
@[simp] theorem State.setRegion_toks (n : Nat) (v : Region) : (s.setRegion n v).toks = s.toks := rfl
@[simp] theorem State.setRegion_sessions (n : Nat) (v : Region) : (s.setRegion n v).sessions = s.sessions := rfl
@[simp] theorem State.setRegion_media (n : Nat) (v : Region) : (s.setRegion n v).media = s.media := rfl
@[simp] theorem State.setRegion_ctrl (n : Nat) (v : Region) : (s.setRegion n v).ctrl = s.ctrl := rfl
@[simp] theorem State.setRegion_power (n : Nat) (v : Region) : (s.setRegion n v).power = s.power := rfl

/-! State.setCtx -/
@[simp] theorem State.setCtx_order (n : Nat) (v : Ctx) : (s.setCtx n v).order = s.order := rfl
@[simp] theorem State.setCtx_cores (n : Nat) (v : Ctx) : (s.setCtx n v).cores = s.cores := rfl
@[simp] theorem State.setCtx_mtime (n : Nat) (v : Ctx) : (s.setCtx n v).mtime = s.mtime := rfl
@[simp] theorem State.setCtx_pending (n : Nat) (v : Ctx) : (s.setCtx n v).pending = s.pending := rfl
@[simp] theorem State.setCtx_free (n : Nat) (v : Ctx) : (s.setCtx n v).free = s.free := rfl
@[simp] theorem State.setCtx_nextPkt (n : Nat) (v : Ctx) : (s.setCtx n v).nextPkt = s.nextPkt := rfl
@[simp] theorem State.setCtx_nextSeq (n : Nat) (v : Ctx) : (s.setCtx n v).nextSeq = s.nextSeq := rfl
@[simp] theorem State.setCtx_queues (n : Nat) (v : Ctx) : (s.setCtx n v).queues = s.queues := rfl
@[simp] theorem State.setCtx_rings (n : Nat) (v : Ctx) : (s.setCtx n v).rings = s.rings := rfl
@[simp] theorem State.setCtx_fns (n : Nat) (v : Ctx) : (s.setCtx n v).fns = s.fns := rfl
@[simp] theorem State.setCtx_reply (n : Nat) (v : Ctx) : (s.setCtx n v).reply = s.reply := rfl
@[simp] theorem State.setCtx_msix (n : Nat) (v : Ctx) : (s.setCtx n v).msix = s.msix := rfl
@[simp] theorem State.setCtx_parts (n : Nat) (v : Ctx) : (s.setCtx n v).parts = s.parts := rfl
@[simp] theorem State.setCtx_regions (n : Nat) (v : Ctx) : (s.setCtx n v).regions = s.regions := rfl
@[simp] theorem State.setCtx_clients (n : Nat) (v : Ctx) : (s.setCtx n v).clients = s.clients := rfl
@[simp] theorem State.setCtx_engines (n : Nat) (v : Ctx) : (s.setCtx n v).engines = s.engines := rfl
@[simp] theorem State.setCtx_units (n : Nat) (v : Ctx) : (s.setCtx n v).units = s.units := rfl
@[simp] theorem State.setCtx_moverLast (n : Nat) (v : Ctx) : (s.setCtx n v).moverLast = s.moverLast := rfl
@[simp] theorem State.setCtx_unitLast (n : Nat) (v : Ctx) : (s.setCtx n v).unitLast = s.unitLast := rfl
@[simp] theorem State.setCtx_items (n : Nat) (v : Ctx) : (s.setCtx n v).items = s.items := rfl
@[simp] theorem State.setCtx_mem (n : Nat) (v : Ctx) : (s.setCtx n v).mem = s.mem := rfl
@[simp] theorem State.setCtx_sp (n : Nat) (v : Ctx) : (s.setCtx n v).sp = s.sp := rfl
@[simp] theorem State.setCtx_spLost (n : Nat) (v : Ctx) : (s.setCtx n v).spLost = s.spLost := rfl
@[simp] theorem State.setCtx_host (n : Nat) (v : Ctx) : (s.setCtx n v).host = s.host := rfl
@[simp] theorem State.setCtx_noAtomics (n : Nat) (v : Ctx) : (s.setCtx n v).noAtomics = s.noAtomics := rfl
@[simp] theorem State.setCtx_held (n : Nat) (v : Ctx) : (s.setCtx n v).held = s.held := rfl
@[simp] theorem State.setCtx_owed (n : Nat) (v : Ctx) : (s.setCtx n v).owed = s.owed := rfl
@[simp] theorem State.setCtx_copies (n : Nat) (v : Ctx) : (s.setCtx n v).copies = s.copies := rfl
@[simp] theorem State.setCtx_stackCk (n : Nat) (v : Ctx) : (s.setCtx n v).stackCk = s.stackCk := rfl
@[simp] theorem State.setCtx_late (n : Nat) (v : Ctx) : (s.setCtx n v).late = s.late := rfl
@[simp] theorem State.setCtx_locks (n : Nat) (v : Ctx) : (s.setCtx n v).locks = s.locks := rfl
@[simp] theorem State.setCtx_caches (n : Nat) (v : Ctx) : (s.setCtx n v).caches = s.caches := rfl
@[simp] theorem State.setCtx_ecc (n : Nat) (v : Ctx) : (s.setCtx n v).ecc = s.ecc := rfl
@[simp] theorem State.setCtx_memRing (n : Nat) (v : Ctx) : (s.setCtx n v).memRing = s.memRing := rfl
@[simp] theorem State.setCtx_lcShare (n : Nat) (v : Ctx) : (s.setCtx n v).lcShare = s.lcShare := rfl
@[simp] theorem State.setCtx_chans (n : Nat) (v : Ctx) : (s.setCtx n v).chans = s.chans := rfl
@[simp] theorem State.setCtx_stackTbl (n : Nat) (v : Ctx) : (s.setCtx n v).stackTbl = s.stackTbl := rfl
@[simp] theorem State.setCtx_groups (n : Nat) (v : Ctx) : (s.setCtx n v).groups = s.groups := rfl
@[simp] theorem State.setCtx_fab (n : Nat) (v : Ctx) : (s.setCtx n v).fab = s.fab := rfl
@[simp] theorem State.setCtx_feeds (n : Nat) (v : Ctx) : (s.setCtx n v).feeds = s.feeds := rfl
@[simp] theorem State.setCtx_toks (n : Nat) (v : Ctx) : (s.setCtx n v).toks = s.toks := rfl
@[simp] theorem State.setCtx_sessions (n : Nat) (v : Ctx) : (s.setCtx n v).sessions = s.sessions := rfl
@[simp] theorem State.setCtx_media (n : Nat) (v : Ctx) : (s.setCtx n v).media = s.media := rfl
@[simp] theorem State.setCtx_ctrl (n : Nat) (v : Ctx) : (s.setCtx n v).ctrl = s.ctrl := rfl
@[simp] theorem State.setCtx_power (n : Nat) (v : Ctx) : (s.setCtx n v).power = s.power := rfl

/-! State.setClient -/
@[simp] theorem State.setClient_order (n : Nat) (v : Nat × Nat) : (s.setClient n v).order = s.order := rfl
@[simp] theorem State.setClient_cores (n : Nat) (v : Nat × Nat) : (s.setClient n v).cores = s.cores := rfl
@[simp] theorem State.setClient_mtime (n : Nat) (v : Nat × Nat) : (s.setClient n v).mtime = s.mtime := rfl
@[simp] theorem State.setClient_pending (n : Nat) (v : Nat × Nat) : (s.setClient n v).pending = s.pending := rfl
@[simp] theorem State.setClient_free (n : Nat) (v : Nat × Nat) : (s.setClient n v).free = s.free := rfl
@[simp] theorem State.setClient_nextPkt (n : Nat) (v : Nat × Nat) : (s.setClient n v).nextPkt = s.nextPkt := rfl
@[simp] theorem State.setClient_nextSeq (n : Nat) (v : Nat × Nat) : (s.setClient n v).nextSeq = s.nextSeq := rfl
@[simp] theorem State.setClient_queues (n : Nat) (v : Nat × Nat) : (s.setClient n v).queues = s.queues := rfl
@[simp] theorem State.setClient_rings (n : Nat) (v : Nat × Nat) : (s.setClient n v).rings = s.rings := rfl
@[simp] theorem State.setClient_fns (n : Nat) (v : Nat × Nat) : (s.setClient n v).fns = s.fns := rfl
@[simp] theorem State.setClient_reply (n : Nat) (v : Nat × Nat) : (s.setClient n v).reply = s.reply := rfl
@[simp] theorem State.setClient_msix (n : Nat) (v : Nat × Nat) : (s.setClient n v).msix = s.msix := rfl
@[simp] theorem State.setClient_parts (n : Nat) (v : Nat × Nat) : (s.setClient n v).parts = s.parts := rfl
@[simp] theorem State.setClient_regions (n : Nat) (v : Nat × Nat) : (s.setClient n v).regions = s.regions := rfl
@[simp] theorem State.setClient_ctxs (n : Nat) (v : Nat × Nat) : (s.setClient n v).ctxs = s.ctxs := rfl
@[simp] theorem State.setClient_engines (n : Nat) (v : Nat × Nat) : (s.setClient n v).engines = s.engines := rfl
@[simp] theorem State.setClient_units (n : Nat) (v : Nat × Nat) : (s.setClient n v).units = s.units := rfl
@[simp] theorem State.setClient_moverLast (n : Nat) (v : Nat × Nat) : (s.setClient n v).moverLast = s.moverLast := rfl
@[simp] theorem State.setClient_unitLast (n : Nat) (v : Nat × Nat) : (s.setClient n v).unitLast = s.unitLast := rfl
@[simp] theorem State.setClient_items (n : Nat) (v : Nat × Nat) : (s.setClient n v).items = s.items := rfl
@[simp] theorem State.setClient_mem (n : Nat) (v : Nat × Nat) : (s.setClient n v).mem = s.mem := rfl
@[simp] theorem State.setClient_sp (n : Nat) (v : Nat × Nat) : (s.setClient n v).sp = s.sp := rfl
@[simp] theorem State.setClient_spLost (n : Nat) (v : Nat × Nat) : (s.setClient n v).spLost = s.spLost := rfl
@[simp] theorem State.setClient_host (n : Nat) (v : Nat × Nat) : (s.setClient n v).host = s.host := rfl
@[simp] theorem State.setClient_noAtomics (n : Nat) (v : Nat × Nat) : (s.setClient n v).noAtomics = s.noAtomics := rfl
@[simp] theorem State.setClient_held (n : Nat) (v : Nat × Nat) : (s.setClient n v).held = s.held := rfl
@[simp] theorem State.setClient_owed (n : Nat) (v : Nat × Nat) : (s.setClient n v).owed = s.owed := rfl
@[simp] theorem State.setClient_copies (n : Nat) (v : Nat × Nat) : (s.setClient n v).copies = s.copies := rfl
@[simp] theorem State.setClient_stackCk (n : Nat) (v : Nat × Nat) : (s.setClient n v).stackCk = s.stackCk := rfl
@[simp] theorem State.setClient_late (n : Nat) (v : Nat × Nat) : (s.setClient n v).late = s.late := rfl
@[simp] theorem State.setClient_locks (n : Nat) (v : Nat × Nat) : (s.setClient n v).locks = s.locks := rfl
@[simp] theorem State.setClient_caches (n : Nat) (v : Nat × Nat) : (s.setClient n v).caches = s.caches := rfl
@[simp] theorem State.setClient_ecc (n : Nat) (v : Nat × Nat) : (s.setClient n v).ecc = s.ecc := rfl
@[simp] theorem State.setClient_memRing (n : Nat) (v : Nat × Nat) : (s.setClient n v).memRing = s.memRing := rfl
@[simp] theorem State.setClient_lcShare (n : Nat) (v : Nat × Nat) : (s.setClient n v).lcShare = s.lcShare := rfl
@[simp] theorem State.setClient_chans (n : Nat) (v : Nat × Nat) : (s.setClient n v).chans = s.chans := rfl
@[simp] theorem State.setClient_stackTbl (n : Nat) (v : Nat × Nat) : (s.setClient n v).stackTbl = s.stackTbl := rfl
@[simp] theorem State.setClient_groups (n : Nat) (v : Nat × Nat) : (s.setClient n v).groups = s.groups := rfl
@[simp] theorem State.setClient_fab (n : Nat) (v : Nat × Nat) : (s.setClient n v).fab = s.fab := rfl
@[simp] theorem State.setClient_feeds (n : Nat) (v : Nat × Nat) : (s.setClient n v).feeds = s.feeds := rfl
@[simp] theorem State.setClient_toks (n : Nat) (v : Nat × Nat) : (s.setClient n v).toks = s.toks := rfl
@[simp] theorem State.setClient_sessions (n : Nat) (v : Nat × Nat) : (s.setClient n v).sessions = s.sessions := rfl
@[simp] theorem State.setClient_media (n : Nat) (v : Nat × Nat) : (s.setClient n v).media = s.media := rfl
@[simp] theorem State.setClient_ctrl (n : Nat) (v : Nat × Nat) : (s.setClient n v).ctrl = s.ctrl := rfl
@[simp] theorem State.setClient_power (n : Nat) (v : Nat × Nat) : (s.setClient n v).power = s.power := rfl

/-! State.setEngine -/
@[simp] theorem State.setEngine_order (n : Nat) (v : Engine) : (s.setEngine n v).order = s.order := rfl
@[simp] theorem State.setEngine_cores (n : Nat) (v : Engine) : (s.setEngine n v).cores = s.cores := rfl
@[simp] theorem State.setEngine_mtime (n : Nat) (v : Engine) : (s.setEngine n v).mtime = s.mtime := rfl
@[simp] theorem State.setEngine_pending (n : Nat) (v : Engine) : (s.setEngine n v).pending = s.pending := rfl
@[simp] theorem State.setEngine_free (n : Nat) (v : Engine) : (s.setEngine n v).free = s.free := rfl
@[simp] theorem State.setEngine_nextPkt (n : Nat) (v : Engine) : (s.setEngine n v).nextPkt = s.nextPkt := rfl
@[simp] theorem State.setEngine_nextSeq (n : Nat) (v : Engine) : (s.setEngine n v).nextSeq = s.nextSeq := rfl
@[simp] theorem State.setEngine_queues (n : Nat) (v : Engine) : (s.setEngine n v).queues = s.queues := rfl
@[simp] theorem State.setEngine_rings (n : Nat) (v : Engine) : (s.setEngine n v).rings = s.rings := rfl
@[simp] theorem State.setEngine_fns (n : Nat) (v : Engine) : (s.setEngine n v).fns = s.fns := rfl
@[simp] theorem State.setEngine_reply (n : Nat) (v : Engine) : (s.setEngine n v).reply = s.reply := rfl
@[simp] theorem State.setEngine_msix (n : Nat) (v : Engine) : (s.setEngine n v).msix = s.msix := rfl
@[simp] theorem State.setEngine_parts (n : Nat) (v : Engine) : (s.setEngine n v).parts = s.parts := rfl
@[simp] theorem State.setEngine_regions (n : Nat) (v : Engine) : (s.setEngine n v).regions = s.regions := rfl
@[simp] theorem State.setEngine_ctxs (n : Nat) (v : Engine) : (s.setEngine n v).ctxs = s.ctxs := rfl
@[simp] theorem State.setEngine_clients (n : Nat) (v : Engine) : (s.setEngine n v).clients = s.clients := rfl
@[simp] theorem State.setEngine_units (n : Nat) (v : Engine) : (s.setEngine n v).units = s.units := rfl
@[simp] theorem State.setEngine_moverLast (n : Nat) (v : Engine) : (s.setEngine n v).moverLast = s.moverLast := rfl
@[simp] theorem State.setEngine_unitLast (n : Nat) (v : Engine) : (s.setEngine n v).unitLast = s.unitLast := rfl
@[simp] theorem State.setEngine_items (n : Nat) (v : Engine) : (s.setEngine n v).items = s.items := rfl
@[simp] theorem State.setEngine_mem (n : Nat) (v : Engine) : (s.setEngine n v).mem = s.mem := rfl
@[simp] theorem State.setEngine_sp (n : Nat) (v : Engine) : (s.setEngine n v).sp = s.sp := rfl
@[simp] theorem State.setEngine_spLost (n : Nat) (v : Engine) : (s.setEngine n v).spLost = s.spLost := rfl
@[simp] theorem State.setEngine_host (n : Nat) (v : Engine) : (s.setEngine n v).host = s.host := rfl
@[simp] theorem State.setEngine_noAtomics (n : Nat) (v : Engine) : (s.setEngine n v).noAtomics = s.noAtomics := rfl
@[simp] theorem State.setEngine_held (n : Nat) (v : Engine) : (s.setEngine n v).held = s.held := rfl
@[simp] theorem State.setEngine_owed (n : Nat) (v : Engine) : (s.setEngine n v).owed = s.owed := rfl
@[simp] theorem State.setEngine_copies (n : Nat) (v : Engine) : (s.setEngine n v).copies = s.copies := rfl
@[simp] theorem State.setEngine_stackCk (n : Nat) (v : Engine) : (s.setEngine n v).stackCk = s.stackCk := rfl
@[simp] theorem State.setEngine_late (n : Nat) (v : Engine) : (s.setEngine n v).late = s.late := rfl
@[simp] theorem State.setEngine_locks (n : Nat) (v : Engine) : (s.setEngine n v).locks = s.locks := rfl
@[simp] theorem State.setEngine_caches (n : Nat) (v : Engine) : (s.setEngine n v).caches = s.caches := rfl
@[simp] theorem State.setEngine_ecc (n : Nat) (v : Engine) : (s.setEngine n v).ecc = s.ecc := rfl
@[simp] theorem State.setEngine_memRing (n : Nat) (v : Engine) : (s.setEngine n v).memRing = s.memRing := rfl
@[simp] theorem State.setEngine_lcShare (n : Nat) (v : Engine) : (s.setEngine n v).lcShare = s.lcShare := rfl
@[simp] theorem State.setEngine_chans (n : Nat) (v : Engine) : (s.setEngine n v).chans = s.chans := rfl
@[simp] theorem State.setEngine_stackTbl (n : Nat) (v : Engine) : (s.setEngine n v).stackTbl = s.stackTbl := rfl
@[simp] theorem State.setEngine_groups (n : Nat) (v : Engine) : (s.setEngine n v).groups = s.groups := rfl
@[simp] theorem State.setEngine_fab (n : Nat) (v : Engine) : (s.setEngine n v).fab = s.fab := rfl
@[simp] theorem State.setEngine_feeds (n : Nat) (v : Engine) : (s.setEngine n v).feeds = s.feeds := rfl
@[simp] theorem State.setEngine_toks (n : Nat) (v : Engine) : (s.setEngine n v).toks = s.toks := rfl
@[simp] theorem State.setEngine_sessions (n : Nat) (v : Engine) : (s.setEngine n v).sessions = s.sessions := rfl
@[simp] theorem State.setEngine_media (n : Nat) (v : Engine) : (s.setEngine n v).media = s.media := rfl
@[simp] theorem State.setEngine_ctrl (n : Nat) (v : Engine) : (s.setEngine n v).ctrl = s.ctrl := rfl
@[simp] theorem State.setEngine_power (n : Nat) (v : Engine) : (s.setEngine n v).power = s.power := rfl

/-! State.setChan -/
@[simp] theorem State.setChan_order (n : Nat) (v : Chan) : (s.setChan n v).order = s.order := rfl
@[simp] theorem State.setChan_cores (n : Nat) (v : Chan) : (s.setChan n v).cores = s.cores := rfl
@[simp] theorem State.setChan_mtime (n : Nat) (v : Chan) : (s.setChan n v).mtime = s.mtime := rfl
@[simp] theorem State.setChan_pending (n : Nat) (v : Chan) : (s.setChan n v).pending = s.pending := rfl
@[simp] theorem State.setChan_free (n : Nat) (v : Chan) : (s.setChan n v).free = s.free := rfl
@[simp] theorem State.setChan_nextPkt (n : Nat) (v : Chan) : (s.setChan n v).nextPkt = s.nextPkt := rfl
@[simp] theorem State.setChan_nextSeq (n : Nat) (v : Chan) : (s.setChan n v).nextSeq = s.nextSeq := rfl
@[simp] theorem State.setChan_queues (n : Nat) (v : Chan) : (s.setChan n v).queues = s.queues := rfl
@[simp] theorem State.setChan_rings (n : Nat) (v : Chan) : (s.setChan n v).rings = s.rings := rfl
@[simp] theorem State.setChan_fns (n : Nat) (v : Chan) : (s.setChan n v).fns = s.fns := rfl
@[simp] theorem State.setChan_reply (n : Nat) (v : Chan) : (s.setChan n v).reply = s.reply := rfl
@[simp] theorem State.setChan_msix (n : Nat) (v : Chan) : (s.setChan n v).msix = s.msix := rfl
@[simp] theorem State.setChan_parts (n : Nat) (v : Chan) : (s.setChan n v).parts = s.parts := rfl
@[simp] theorem State.setChan_regions (n : Nat) (v : Chan) : (s.setChan n v).regions = s.regions := rfl
@[simp] theorem State.setChan_ctxs (n : Nat) (v : Chan) : (s.setChan n v).ctxs = s.ctxs := rfl
@[simp] theorem State.setChan_clients (n : Nat) (v : Chan) : (s.setChan n v).clients = s.clients := rfl
@[simp] theorem State.setChan_engines (n : Nat) (v : Chan) : (s.setChan n v).engines = s.engines := rfl
@[simp] theorem State.setChan_units (n : Nat) (v : Chan) : (s.setChan n v).units = s.units := rfl
@[simp] theorem State.setChan_moverLast (n : Nat) (v : Chan) : (s.setChan n v).moverLast = s.moverLast := rfl
@[simp] theorem State.setChan_unitLast (n : Nat) (v : Chan) : (s.setChan n v).unitLast = s.unitLast := rfl
@[simp] theorem State.setChan_items (n : Nat) (v : Chan) : (s.setChan n v).items = s.items := rfl
@[simp] theorem State.setChan_mem (n : Nat) (v : Chan) : (s.setChan n v).mem = s.mem := rfl
@[simp] theorem State.setChan_sp (n : Nat) (v : Chan) : (s.setChan n v).sp = s.sp := rfl
@[simp] theorem State.setChan_spLost (n : Nat) (v : Chan) : (s.setChan n v).spLost = s.spLost := rfl
@[simp] theorem State.setChan_host (n : Nat) (v : Chan) : (s.setChan n v).host = s.host := rfl
@[simp] theorem State.setChan_noAtomics (n : Nat) (v : Chan) : (s.setChan n v).noAtomics = s.noAtomics := rfl
@[simp] theorem State.setChan_held (n : Nat) (v : Chan) : (s.setChan n v).held = s.held := rfl
@[simp] theorem State.setChan_owed (n : Nat) (v : Chan) : (s.setChan n v).owed = s.owed := rfl
@[simp] theorem State.setChan_copies (n : Nat) (v : Chan) : (s.setChan n v).copies = s.copies := rfl
@[simp] theorem State.setChan_stackCk (n : Nat) (v : Chan) : (s.setChan n v).stackCk = s.stackCk := rfl
@[simp] theorem State.setChan_late (n : Nat) (v : Chan) : (s.setChan n v).late = s.late := rfl
@[simp] theorem State.setChan_locks (n : Nat) (v : Chan) : (s.setChan n v).locks = s.locks := rfl
@[simp] theorem State.setChan_caches (n : Nat) (v : Chan) : (s.setChan n v).caches = s.caches := rfl
@[simp] theorem State.setChan_ecc (n : Nat) (v : Chan) : (s.setChan n v).ecc = s.ecc := rfl
@[simp] theorem State.setChan_memRing (n : Nat) (v : Chan) : (s.setChan n v).memRing = s.memRing := rfl
@[simp] theorem State.setChan_lcShare (n : Nat) (v : Chan) : (s.setChan n v).lcShare = s.lcShare := rfl
@[simp] theorem State.setChan_stackTbl (n : Nat) (v : Chan) : (s.setChan n v).stackTbl = s.stackTbl := rfl
@[simp] theorem State.setChan_groups (n : Nat) (v : Chan) : (s.setChan n v).groups = s.groups := rfl
@[simp] theorem State.setChan_fab (n : Nat) (v : Chan) : (s.setChan n v).fab = s.fab := rfl
@[simp] theorem State.setChan_feeds (n : Nat) (v : Chan) : (s.setChan n v).feeds = s.feeds := rfl
@[simp] theorem State.setChan_toks (n : Nat) (v : Chan) : (s.setChan n v).toks = s.toks := rfl
@[simp] theorem State.setChan_sessions (n : Nat) (v : Chan) : (s.setChan n v).sessions = s.sessions := rfl
@[simp] theorem State.setChan_media (n : Nat) (v : Chan) : (s.setChan n v).media = s.media := rfl
@[simp] theorem State.setChan_ctrl (n : Nat) (v : Chan) : (s.setChan n v).ctrl = s.ctrl := rfl
@[simp] theorem State.setChan_power (n : Nat) (v : Chan) : (s.setChan n v).power = s.power := rfl

/-! State.setStack -/
@[simp] theorem State.setStack_order (n : Nat) (v : Stack) : (s.setStack n v).order = s.order := rfl
@[simp] theorem State.setStack_cores (n : Nat) (v : Stack) : (s.setStack n v).cores = s.cores := rfl
@[simp] theorem State.setStack_mtime (n : Nat) (v : Stack) : (s.setStack n v).mtime = s.mtime := rfl
@[simp] theorem State.setStack_pending (n : Nat) (v : Stack) : (s.setStack n v).pending = s.pending := rfl
@[simp] theorem State.setStack_free (n : Nat) (v : Stack) : (s.setStack n v).free = s.free := rfl
@[simp] theorem State.setStack_nextPkt (n : Nat) (v : Stack) : (s.setStack n v).nextPkt = s.nextPkt := rfl
@[simp] theorem State.setStack_nextSeq (n : Nat) (v : Stack) : (s.setStack n v).nextSeq = s.nextSeq := rfl
@[simp] theorem State.setStack_queues (n : Nat) (v : Stack) : (s.setStack n v).queues = s.queues := rfl
@[simp] theorem State.setStack_rings (n : Nat) (v : Stack) : (s.setStack n v).rings = s.rings := rfl
@[simp] theorem State.setStack_fns (n : Nat) (v : Stack) : (s.setStack n v).fns = s.fns := rfl
@[simp] theorem State.setStack_reply (n : Nat) (v : Stack) : (s.setStack n v).reply = s.reply := rfl
@[simp] theorem State.setStack_msix (n : Nat) (v : Stack) : (s.setStack n v).msix = s.msix := rfl
@[simp] theorem State.setStack_parts (n : Nat) (v : Stack) : (s.setStack n v).parts = s.parts := rfl
@[simp] theorem State.setStack_regions (n : Nat) (v : Stack) : (s.setStack n v).regions = s.regions := rfl
@[simp] theorem State.setStack_ctxs (n : Nat) (v : Stack) : (s.setStack n v).ctxs = s.ctxs := rfl
@[simp] theorem State.setStack_clients (n : Nat) (v : Stack) : (s.setStack n v).clients = s.clients := rfl
@[simp] theorem State.setStack_engines (n : Nat) (v : Stack) : (s.setStack n v).engines = s.engines := rfl
@[simp] theorem State.setStack_units (n : Nat) (v : Stack) : (s.setStack n v).units = s.units := rfl
@[simp] theorem State.setStack_moverLast (n : Nat) (v : Stack) : (s.setStack n v).moverLast = s.moverLast := rfl
@[simp] theorem State.setStack_unitLast (n : Nat) (v : Stack) : (s.setStack n v).unitLast = s.unitLast := rfl
@[simp] theorem State.setStack_items (n : Nat) (v : Stack) : (s.setStack n v).items = s.items := rfl
@[simp] theorem State.setStack_mem (n : Nat) (v : Stack) : (s.setStack n v).mem = s.mem := rfl
@[simp] theorem State.setStack_sp (n : Nat) (v : Stack) : (s.setStack n v).sp = s.sp := rfl
@[simp] theorem State.setStack_spLost (n : Nat) (v : Stack) : (s.setStack n v).spLost = s.spLost := rfl
@[simp] theorem State.setStack_host (n : Nat) (v : Stack) : (s.setStack n v).host = s.host := rfl
@[simp] theorem State.setStack_noAtomics (n : Nat) (v : Stack) : (s.setStack n v).noAtomics = s.noAtomics := rfl
@[simp] theorem State.setStack_held (n : Nat) (v : Stack) : (s.setStack n v).held = s.held := rfl
@[simp] theorem State.setStack_owed (n : Nat) (v : Stack) : (s.setStack n v).owed = s.owed := rfl
@[simp] theorem State.setStack_copies (n : Nat) (v : Stack) : (s.setStack n v).copies = s.copies := rfl
@[simp] theorem State.setStack_stackCk (n : Nat) (v : Stack) : (s.setStack n v).stackCk = s.stackCk := rfl
@[simp] theorem State.setStack_late (n : Nat) (v : Stack) : (s.setStack n v).late = s.late := rfl
@[simp] theorem State.setStack_locks (n : Nat) (v : Stack) : (s.setStack n v).locks = s.locks := rfl
@[simp] theorem State.setStack_caches (n : Nat) (v : Stack) : (s.setStack n v).caches = s.caches := rfl
@[simp] theorem State.setStack_ecc (n : Nat) (v : Stack) : (s.setStack n v).ecc = s.ecc := rfl
@[simp] theorem State.setStack_memRing (n : Nat) (v : Stack) : (s.setStack n v).memRing = s.memRing := rfl
@[simp] theorem State.setStack_lcShare (n : Nat) (v : Stack) : (s.setStack n v).lcShare = s.lcShare := rfl
@[simp] theorem State.setStack_chans (n : Nat) (v : Stack) : (s.setStack n v).chans = s.chans := rfl
@[simp] theorem State.setStack_groups (n : Nat) (v : Stack) : (s.setStack n v).groups = s.groups := rfl
@[simp] theorem State.setStack_fab (n : Nat) (v : Stack) : (s.setStack n v).fab = s.fab := rfl
@[simp] theorem State.setStack_feeds (n : Nat) (v : Stack) : (s.setStack n v).feeds = s.feeds := rfl
@[simp] theorem State.setStack_toks (n : Nat) (v : Stack) : (s.setStack n v).toks = s.toks := rfl
@[simp] theorem State.setStack_sessions (n : Nat) (v : Stack) : (s.setStack n v).sessions = s.sessions := rfl
@[simp] theorem State.setStack_media (n : Nat) (v : Stack) : (s.setStack n v).media = s.media := rfl
@[simp] theorem State.setStack_ctrl (n : Nat) (v : Stack) : (s.setStack n v).ctrl = s.ctrl := rfl
@[simp] theorem State.setStack_power (n : Nat) (v : Stack) : (s.setStack n v).power = s.power := rfl

/-! State.setPort -/
@[simp] theorem State.setPort_order (n : Nat) (v : Port) : (s.setPort n v).order = s.order := rfl
@[simp] theorem State.setPort_cores (n : Nat) (v : Port) : (s.setPort n v).cores = s.cores := rfl
@[simp] theorem State.setPort_mtime (n : Nat) (v : Port) : (s.setPort n v).mtime = s.mtime := rfl
@[simp] theorem State.setPort_pending (n : Nat) (v : Port) : (s.setPort n v).pending = s.pending := rfl
@[simp] theorem State.setPort_free (n : Nat) (v : Port) : (s.setPort n v).free = s.free := rfl
@[simp] theorem State.setPort_nextPkt (n : Nat) (v : Port) : (s.setPort n v).nextPkt = s.nextPkt := rfl
@[simp] theorem State.setPort_nextSeq (n : Nat) (v : Port) : (s.setPort n v).nextSeq = s.nextSeq := rfl
@[simp] theorem State.setPort_queues (n : Nat) (v : Port) : (s.setPort n v).queues = s.queues := rfl
@[simp] theorem State.setPort_rings (n : Nat) (v : Port) : (s.setPort n v).rings = s.rings := rfl
@[simp] theorem State.setPort_fns (n : Nat) (v : Port) : (s.setPort n v).fns = s.fns := rfl
@[simp] theorem State.setPort_reply (n : Nat) (v : Port) : (s.setPort n v).reply = s.reply := rfl
@[simp] theorem State.setPort_msix (n : Nat) (v : Port) : (s.setPort n v).msix = s.msix := rfl
@[simp] theorem State.setPort_parts (n : Nat) (v : Port) : (s.setPort n v).parts = s.parts := rfl
@[simp] theorem State.setPort_regions (n : Nat) (v : Port) : (s.setPort n v).regions = s.regions := rfl
@[simp] theorem State.setPort_ctxs (n : Nat) (v : Port) : (s.setPort n v).ctxs = s.ctxs := rfl
@[simp] theorem State.setPort_clients (n : Nat) (v : Port) : (s.setPort n v).clients = s.clients := rfl
@[simp] theorem State.setPort_engines (n : Nat) (v : Port) : (s.setPort n v).engines = s.engines := rfl
@[simp] theorem State.setPort_units (n : Nat) (v : Port) : (s.setPort n v).units = s.units := rfl
@[simp] theorem State.setPort_moverLast (n : Nat) (v : Port) : (s.setPort n v).moverLast = s.moverLast := rfl
@[simp] theorem State.setPort_unitLast (n : Nat) (v : Port) : (s.setPort n v).unitLast = s.unitLast := rfl
@[simp] theorem State.setPort_items (n : Nat) (v : Port) : (s.setPort n v).items = s.items := rfl
@[simp] theorem State.setPort_mem (n : Nat) (v : Port) : (s.setPort n v).mem = s.mem := rfl
@[simp] theorem State.setPort_sp (n : Nat) (v : Port) : (s.setPort n v).sp = s.sp := rfl
@[simp] theorem State.setPort_spLost (n : Nat) (v : Port) : (s.setPort n v).spLost = s.spLost := rfl
@[simp] theorem State.setPort_host (n : Nat) (v : Port) : (s.setPort n v).host = s.host := rfl
@[simp] theorem State.setPort_noAtomics (n : Nat) (v : Port) : (s.setPort n v).noAtomics = s.noAtomics := rfl
@[simp] theorem State.setPort_held (n : Nat) (v : Port) : (s.setPort n v).held = s.held := rfl
@[simp] theorem State.setPort_owed (n : Nat) (v : Port) : (s.setPort n v).owed = s.owed := rfl
@[simp] theorem State.setPort_copies (n : Nat) (v : Port) : (s.setPort n v).copies = s.copies := rfl
@[simp] theorem State.setPort_stackCk (n : Nat) (v : Port) : (s.setPort n v).stackCk = s.stackCk := rfl
@[simp] theorem State.setPort_late (n : Nat) (v : Port) : (s.setPort n v).late = s.late := rfl
@[simp] theorem State.setPort_locks (n : Nat) (v : Port) : (s.setPort n v).locks = s.locks := rfl
@[simp] theorem State.setPort_caches (n : Nat) (v : Port) : (s.setPort n v).caches = s.caches := rfl
@[simp] theorem State.setPort_ecc (n : Nat) (v : Port) : (s.setPort n v).ecc = s.ecc := rfl
@[simp] theorem State.setPort_memRing (n : Nat) (v : Port) : (s.setPort n v).memRing = s.memRing := rfl
@[simp] theorem State.setPort_lcShare (n : Nat) (v : Port) : (s.setPort n v).lcShare = s.lcShare := rfl
@[simp] theorem State.setPort_chans (n : Nat) (v : Port) : (s.setPort n v).chans = s.chans := rfl
@[simp] theorem State.setPort_stackTbl (n : Nat) (v : Port) : (s.setPort n v).stackTbl = s.stackTbl := rfl
@[simp] theorem State.setPort_groups (n : Nat) (v : Port) : (s.setPort n v).groups = s.groups := rfl
@[simp] theorem State.setPort_feeds (n : Nat) (v : Port) : (s.setPort n v).feeds = s.feeds := rfl
@[simp] theorem State.setPort_toks (n : Nat) (v : Port) : (s.setPort n v).toks = s.toks := rfl
@[simp] theorem State.setPort_sessions (n : Nat) (v : Port) : (s.setPort n v).sessions = s.sessions := rfl
@[simp] theorem State.setPort_media (n : Nat) (v : Port) : (s.setPort n v).media = s.media := rfl
@[simp] theorem State.setPort_ctrl (n : Nat) (v : Port) : (s.setPort n v).ctrl = s.ctrl := rfl
@[simp] theorem State.setPort_power (n : Nat) (v : Port) : (s.setPort n v).power = s.power := rfl

/-! State.setFeed -/
@[simp] theorem State.setFeed_order (n : Nat) (v : Feed) : (s.setFeed n v).order = s.order := rfl
@[simp] theorem State.setFeed_cores (n : Nat) (v : Feed) : (s.setFeed n v).cores = s.cores := rfl
@[simp] theorem State.setFeed_mtime (n : Nat) (v : Feed) : (s.setFeed n v).mtime = s.mtime := rfl
@[simp] theorem State.setFeed_pending (n : Nat) (v : Feed) : (s.setFeed n v).pending = s.pending := rfl
@[simp] theorem State.setFeed_free (n : Nat) (v : Feed) : (s.setFeed n v).free = s.free := rfl
@[simp] theorem State.setFeed_nextPkt (n : Nat) (v : Feed) : (s.setFeed n v).nextPkt = s.nextPkt := rfl
@[simp] theorem State.setFeed_nextSeq (n : Nat) (v : Feed) : (s.setFeed n v).nextSeq = s.nextSeq := rfl
@[simp] theorem State.setFeed_queues (n : Nat) (v : Feed) : (s.setFeed n v).queues = s.queues := rfl
@[simp] theorem State.setFeed_rings (n : Nat) (v : Feed) : (s.setFeed n v).rings = s.rings := rfl
@[simp] theorem State.setFeed_fns (n : Nat) (v : Feed) : (s.setFeed n v).fns = s.fns := rfl
@[simp] theorem State.setFeed_reply (n : Nat) (v : Feed) : (s.setFeed n v).reply = s.reply := rfl
@[simp] theorem State.setFeed_msix (n : Nat) (v : Feed) : (s.setFeed n v).msix = s.msix := rfl
@[simp] theorem State.setFeed_parts (n : Nat) (v : Feed) : (s.setFeed n v).parts = s.parts := rfl
@[simp] theorem State.setFeed_regions (n : Nat) (v : Feed) : (s.setFeed n v).regions = s.regions := rfl
@[simp] theorem State.setFeed_ctxs (n : Nat) (v : Feed) : (s.setFeed n v).ctxs = s.ctxs := rfl
@[simp] theorem State.setFeed_clients (n : Nat) (v : Feed) : (s.setFeed n v).clients = s.clients := rfl
@[simp] theorem State.setFeed_engines (n : Nat) (v : Feed) : (s.setFeed n v).engines = s.engines := rfl
@[simp] theorem State.setFeed_units (n : Nat) (v : Feed) : (s.setFeed n v).units = s.units := rfl
@[simp] theorem State.setFeed_moverLast (n : Nat) (v : Feed) : (s.setFeed n v).moverLast = s.moverLast := rfl
@[simp] theorem State.setFeed_unitLast (n : Nat) (v : Feed) : (s.setFeed n v).unitLast = s.unitLast := rfl
@[simp] theorem State.setFeed_items (n : Nat) (v : Feed) : (s.setFeed n v).items = s.items := rfl
@[simp] theorem State.setFeed_mem (n : Nat) (v : Feed) : (s.setFeed n v).mem = s.mem := rfl
@[simp] theorem State.setFeed_sp (n : Nat) (v : Feed) : (s.setFeed n v).sp = s.sp := rfl
@[simp] theorem State.setFeed_spLost (n : Nat) (v : Feed) : (s.setFeed n v).spLost = s.spLost := rfl
@[simp] theorem State.setFeed_host (n : Nat) (v : Feed) : (s.setFeed n v).host = s.host := rfl
@[simp] theorem State.setFeed_noAtomics (n : Nat) (v : Feed) : (s.setFeed n v).noAtomics = s.noAtomics := rfl
@[simp] theorem State.setFeed_held (n : Nat) (v : Feed) : (s.setFeed n v).held = s.held := rfl
@[simp] theorem State.setFeed_owed (n : Nat) (v : Feed) : (s.setFeed n v).owed = s.owed := rfl
@[simp] theorem State.setFeed_copies (n : Nat) (v : Feed) : (s.setFeed n v).copies = s.copies := rfl
@[simp] theorem State.setFeed_stackCk (n : Nat) (v : Feed) : (s.setFeed n v).stackCk = s.stackCk := rfl
@[simp] theorem State.setFeed_late (n : Nat) (v : Feed) : (s.setFeed n v).late = s.late := rfl
@[simp] theorem State.setFeed_locks (n : Nat) (v : Feed) : (s.setFeed n v).locks = s.locks := rfl
@[simp] theorem State.setFeed_caches (n : Nat) (v : Feed) : (s.setFeed n v).caches = s.caches := rfl
@[simp] theorem State.setFeed_ecc (n : Nat) (v : Feed) : (s.setFeed n v).ecc = s.ecc := rfl
@[simp] theorem State.setFeed_memRing (n : Nat) (v : Feed) : (s.setFeed n v).memRing = s.memRing := rfl
@[simp] theorem State.setFeed_lcShare (n : Nat) (v : Feed) : (s.setFeed n v).lcShare = s.lcShare := rfl
@[simp] theorem State.setFeed_chans (n : Nat) (v : Feed) : (s.setFeed n v).chans = s.chans := rfl
@[simp] theorem State.setFeed_stackTbl (n : Nat) (v : Feed) : (s.setFeed n v).stackTbl = s.stackTbl := rfl
@[simp] theorem State.setFeed_groups (n : Nat) (v : Feed) : (s.setFeed n v).groups = s.groups := rfl
@[simp] theorem State.setFeed_fab (n : Nat) (v : Feed) : (s.setFeed n v).fab = s.fab := rfl
@[simp] theorem State.setFeed_toks (n : Nat) (v : Feed) : (s.setFeed n v).toks = s.toks := rfl
@[simp] theorem State.setFeed_sessions (n : Nat) (v : Feed) : (s.setFeed n v).sessions = s.sessions := rfl
@[simp] theorem State.setFeed_media (n : Nat) (v : Feed) : (s.setFeed n v).media = s.media := rfl
@[simp] theorem State.setFeed_ctrl (n : Nat) (v : Feed) : (s.setFeed n v).ctrl = s.ctrl := rfl
@[simp] theorem State.setFeed_power (n : Nat) (v : Feed) : (s.setFeed n v).power = s.power := rfl

/-! State.setTok -/
@[simp] theorem State.setTok_order (n : Nat) (v : Tok) : (s.setTok n v).order = s.order := rfl
@[simp] theorem State.setTok_cores (n : Nat) (v : Tok) : (s.setTok n v).cores = s.cores := rfl
@[simp] theorem State.setTok_mtime (n : Nat) (v : Tok) : (s.setTok n v).mtime = s.mtime := rfl
@[simp] theorem State.setTok_pending (n : Nat) (v : Tok) : (s.setTok n v).pending = s.pending := rfl
@[simp] theorem State.setTok_free (n : Nat) (v : Tok) : (s.setTok n v).free = s.free := rfl
@[simp] theorem State.setTok_nextPkt (n : Nat) (v : Tok) : (s.setTok n v).nextPkt = s.nextPkt := rfl
@[simp] theorem State.setTok_nextSeq (n : Nat) (v : Tok) : (s.setTok n v).nextSeq = s.nextSeq := rfl
@[simp] theorem State.setTok_queues (n : Nat) (v : Tok) : (s.setTok n v).queues = s.queues := rfl
@[simp] theorem State.setTok_rings (n : Nat) (v : Tok) : (s.setTok n v).rings = s.rings := rfl
@[simp] theorem State.setTok_fns (n : Nat) (v : Tok) : (s.setTok n v).fns = s.fns := rfl
@[simp] theorem State.setTok_reply (n : Nat) (v : Tok) : (s.setTok n v).reply = s.reply := rfl
@[simp] theorem State.setTok_msix (n : Nat) (v : Tok) : (s.setTok n v).msix = s.msix := rfl
@[simp] theorem State.setTok_parts (n : Nat) (v : Tok) : (s.setTok n v).parts = s.parts := rfl
@[simp] theorem State.setTok_regions (n : Nat) (v : Tok) : (s.setTok n v).regions = s.regions := rfl
@[simp] theorem State.setTok_ctxs (n : Nat) (v : Tok) : (s.setTok n v).ctxs = s.ctxs := rfl
@[simp] theorem State.setTok_clients (n : Nat) (v : Tok) : (s.setTok n v).clients = s.clients := rfl
@[simp] theorem State.setTok_engines (n : Nat) (v : Tok) : (s.setTok n v).engines = s.engines := rfl
@[simp] theorem State.setTok_units (n : Nat) (v : Tok) : (s.setTok n v).units = s.units := rfl
@[simp] theorem State.setTok_moverLast (n : Nat) (v : Tok) : (s.setTok n v).moverLast = s.moverLast := rfl
@[simp] theorem State.setTok_unitLast (n : Nat) (v : Tok) : (s.setTok n v).unitLast = s.unitLast := rfl
@[simp] theorem State.setTok_items (n : Nat) (v : Tok) : (s.setTok n v).items = s.items := rfl
@[simp] theorem State.setTok_mem (n : Nat) (v : Tok) : (s.setTok n v).mem = s.mem := rfl
@[simp] theorem State.setTok_sp (n : Nat) (v : Tok) : (s.setTok n v).sp = s.sp := rfl
@[simp] theorem State.setTok_spLost (n : Nat) (v : Tok) : (s.setTok n v).spLost = s.spLost := rfl
@[simp] theorem State.setTok_host (n : Nat) (v : Tok) : (s.setTok n v).host = s.host := rfl
@[simp] theorem State.setTok_noAtomics (n : Nat) (v : Tok) : (s.setTok n v).noAtomics = s.noAtomics := rfl
@[simp] theorem State.setTok_held (n : Nat) (v : Tok) : (s.setTok n v).held = s.held := rfl
@[simp] theorem State.setTok_owed (n : Nat) (v : Tok) : (s.setTok n v).owed = s.owed := rfl
@[simp] theorem State.setTok_copies (n : Nat) (v : Tok) : (s.setTok n v).copies = s.copies := rfl
@[simp] theorem State.setTok_stackCk (n : Nat) (v : Tok) : (s.setTok n v).stackCk = s.stackCk := rfl
@[simp] theorem State.setTok_late (n : Nat) (v : Tok) : (s.setTok n v).late = s.late := rfl
@[simp] theorem State.setTok_locks (n : Nat) (v : Tok) : (s.setTok n v).locks = s.locks := rfl
@[simp] theorem State.setTok_caches (n : Nat) (v : Tok) : (s.setTok n v).caches = s.caches := rfl
@[simp] theorem State.setTok_ecc (n : Nat) (v : Tok) : (s.setTok n v).ecc = s.ecc := rfl
@[simp] theorem State.setTok_memRing (n : Nat) (v : Tok) : (s.setTok n v).memRing = s.memRing := rfl
@[simp] theorem State.setTok_lcShare (n : Nat) (v : Tok) : (s.setTok n v).lcShare = s.lcShare := rfl
@[simp] theorem State.setTok_chans (n : Nat) (v : Tok) : (s.setTok n v).chans = s.chans := rfl
@[simp] theorem State.setTok_stackTbl (n : Nat) (v : Tok) : (s.setTok n v).stackTbl = s.stackTbl := rfl
@[simp] theorem State.setTok_groups (n : Nat) (v : Tok) : (s.setTok n v).groups = s.groups := rfl
@[simp] theorem State.setTok_fab (n : Nat) (v : Tok) : (s.setTok n v).fab = s.fab := rfl
@[simp] theorem State.setTok_feeds (n : Nat) (v : Tok) : (s.setTok n v).feeds = s.feeds := rfl
@[simp] theorem State.setTok_sessions (n : Nat) (v : Tok) : (s.setTok n v).sessions = s.sessions := rfl
@[simp] theorem State.setTok_media (n : Nat) (v : Tok) : (s.setTok n v).media = s.media := rfl
@[simp] theorem State.setTok_ctrl (n : Nat) (v : Tok) : (s.setTok n v).ctrl = s.ctrl := rfl
@[simp] theorem State.setTok_power (n : Nat) (v : Tok) : (s.setTok n v).power = s.power := rfl

/-! State.setSession -/
@[simp] theorem State.setSession_order (n : Nat) (v : Session) : (s.setSession n v).order = s.order := rfl
@[simp] theorem State.setSession_cores (n : Nat) (v : Session) : (s.setSession n v).cores = s.cores := rfl
@[simp] theorem State.setSession_mtime (n : Nat) (v : Session) : (s.setSession n v).mtime = s.mtime := rfl
@[simp] theorem State.setSession_pending (n : Nat) (v : Session) : (s.setSession n v).pending = s.pending := rfl
@[simp] theorem State.setSession_free (n : Nat) (v : Session) : (s.setSession n v).free = s.free := rfl
@[simp] theorem State.setSession_nextPkt (n : Nat) (v : Session) : (s.setSession n v).nextPkt = s.nextPkt := rfl
@[simp] theorem State.setSession_nextSeq (n : Nat) (v : Session) : (s.setSession n v).nextSeq = s.nextSeq := rfl
@[simp] theorem State.setSession_queues (n : Nat) (v : Session) : (s.setSession n v).queues = s.queues := rfl
@[simp] theorem State.setSession_rings (n : Nat) (v : Session) : (s.setSession n v).rings = s.rings := rfl
@[simp] theorem State.setSession_fns (n : Nat) (v : Session) : (s.setSession n v).fns = s.fns := rfl
@[simp] theorem State.setSession_reply (n : Nat) (v : Session) : (s.setSession n v).reply = s.reply := rfl
@[simp] theorem State.setSession_msix (n : Nat) (v : Session) : (s.setSession n v).msix = s.msix := rfl
@[simp] theorem State.setSession_parts (n : Nat) (v : Session) : (s.setSession n v).parts = s.parts := rfl
@[simp] theorem State.setSession_regions (n : Nat) (v : Session) : (s.setSession n v).regions = s.regions := rfl
@[simp] theorem State.setSession_ctxs (n : Nat) (v : Session) : (s.setSession n v).ctxs = s.ctxs := rfl
@[simp] theorem State.setSession_clients (n : Nat) (v : Session) : (s.setSession n v).clients = s.clients := rfl
@[simp] theorem State.setSession_engines (n : Nat) (v : Session) : (s.setSession n v).engines = s.engines := rfl
@[simp] theorem State.setSession_units (n : Nat) (v : Session) : (s.setSession n v).units = s.units := rfl
@[simp] theorem State.setSession_moverLast (n : Nat) (v : Session) : (s.setSession n v).moverLast = s.moverLast := rfl
@[simp] theorem State.setSession_unitLast (n : Nat) (v : Session) : (s.setSession n v).unitLast = s.unitLast := rfl
@[simp] theorem State.setSession_items (n : Nat) (v : Session) : (s.setSession n v).items = s.items := rfl
@[simp] theorem State.setSession_mem (n : Nat) (v : Session) : (s.setSession n v).mem = s.mem := rfl
@[simp] theorem State.setSession_sp (n : Nat) (v : Session) : (s.setSession n v).sp = s.sp := rfl
@[simp] theorem State.setSession_spLost (n : Nat) (v : Session) : (s.setSession n v).spLost = s.spLost := rfl
@[simp] theorem State.setSession_host (n : Nat) (v : Session) : (s.setSession n v).host = s.host := rfl
@[simp] theorem State.setSession_noAtomics (n : Nat) (v : Session) : (s.setSession n v).noAtomics = s.noAtomics := rfl
@[simp] theorem State.setSession_held (n : Nat) (v : Session) : (s.setSession n v).held = s.held := rfl
@[simp] theorem State.setSession_owed (n : Nat) (v : Session) : (s.setSession n v).owed = s.owed := rfl
@[simp] theorem State.setSession_copies (n : Nat) (v : Session) : (s.setSession n v).copies = s.copies := rfl
@[simp] theorem State.setSession_stackCk (n : Nat) (v : Session) : (s.setSession n v).stackCk = s.stackCk := rfl
@[simp] theorem State.setSession_late (n : Nat) (v : Session) : (s.setSession n v).late = s.late := rfl
@[simp] theorem State.setSession_locks (n : Nat) (v : Session) : (s.setSession n v).locks = s.locks := rfl
@[simp] theorem State.setSession_caches (n : Nat) (v : Session) : (s.setSession n v).caches = s.caches := rfl
@[simp] theorem State.setSession_ecc (n : Nat) (v : Session) : (s.setSession n v).ecc = s.ecc := rfl
@[simp] theorem State.setSession_memRing (n : Nat) (v : Session) : (s.setSession n v).memRing = s.memRing := rfl
@[simp] theorem State.setSession_lcShare (n : Nat) (v : Session) : (s.setSession n v).lcShare = s.lcShare := rfl
@[simp] theorem State.setSession_chans (n : Nat) (v : Session) : (s.setSession n v).chans = s.chans := rfl
@[simp] theorem State.setSession_stackTbl (n : Nat) (v : Session) : (s.setSession n v).stackTbl = s.stackTbl := rfl
@[simp] theorem State.setSession_groups (n : Nat) (v : Session) : (s.setSession n v).groups = s.groups := rfl
@[simp] theorem State.setSession_fab (n : Nat) (v : Session) : (s.setSession n v).fab = s.fab := rfl
@[simp] theorem State.setSession_feeds (n : Nat) (v : Session) : (s.setSession n v).feeds = s.feeds := rfl
@[simp] theorem State.setSession_toks (n : Nat) (v : Session) : (s.setSession n v).toks = s.toks := rfl
@[simp] theorem State.setSession_media (n : Nat) (v : Session) : (s.setSession n v).media = s.media := rfl
@[simp] theorem State.setSession_ctrl (n : Nat) (v : Session) : (s.setSession n v).ctrl = s.ctrl := rfl
@[simp] theorem State.setSession_power (n : Nat) (v : Session) : (s.setSession n v).power = s.power := rfl

/-! State.modPkt -/
@[simp] theorem State.modPkt_order (n : Nat) (g : Packet → Packet) : (s.modPkt n g).order = s.order := rfl
@[simp] theorem State.modPkt_cores (n : Nat) (g : Packet → Packet) : (s.modPkt n g).cores = s.cores := rfl
@[simp] theorem State.modPkt_mtime (n : Nat) (g : Packet → Packet) : (s.modPkt n g).mtime = s.mtime := rfl
@[simp] theorem State.modPkt_pending (n : Nat) (g : Packet → Packet) : (s.modPkt n g).pending = s.pending := rfl
@[simp] theorem State.modPkt_free (n : Nat) (g : Packet → Packet) : (s.modPkt n g).free = s.free := rfl
@[simp] theorem State.modPkt_nextPkt (n : Nat) (g : Packet → Packet) : (s.modPkt n g).nextPkt = s.nextPkt := rfl
@[simp] theorem State.modPkt_nextSeq (n : Nat) (g : Packet → Packet) : (s.modPkt n g).nextSeq = s.nextSeq := rfl
@[simp] theorem State.modPkt_rings (n : Nat) (g : Packet → Packet) : (s.modPkt n g).rings = s.rings := rfl
@[simp] theorem State.modPkt_fns (n : Nat) (g : Packet → Packet) : (s.modPkt n g).fns = s.fns := rfl
@[simp] theorem State.modPkt_reply (n : Nat) (g : Packet → Packet) : (s.modPkt n g).reply = s.reply := rfl
@[simp] theorem State.modPkt_msix (n : Nat) (g : Packet → Packet) : (s.modPkt n g).msix = s.msix := rfl
@[simp] theorem State.modPkt_parts (n : Nat) (g : Packet → Packet) : (s.modPkt n g).parts = s.parts := rfl
@[simp] theorem State.modPkt_regions (n : Nat) (g : Packet → Packet) : (s.modPkt n g).regions = s.regions := rfl
@[simp] theorem State.modPkt_ctxs (n : Nat) (g : Packet → Packet) : (s.modPkt n g).ctxs = s.ctxs := rfl
@[simp] theorem State.modPkt_clients (n : Nat) (g : Packet → Packet) : (s.modPkt n g).clients = s.clients := rfl
@[simp] theorem State.modPkt_engines (n : Nat) (g : Packet → Packet) : (s.modPkt n g).engines = s.engines := rfl
@[simp] theorem State.modPkt_units (n : Nat) (g : Packet → Packet) : (s.modPkt n g).units = s.units := rfl
@[simp] theorem State.modPkt_moverLast (n : Nat) (g : Packet → Packet) : (s.modPkt n g).moverLast = s.moverLast := rfl
@[simp] theorem State.modPkt_unitLast (n : Nat) (g : Packet → Packet) : (s.modPkt n g).unitLast = s.unitLast := rfl
@[simp] theorem State.modPkt_items (n : Nat) (g : Packet → Packet) : (s.modPkt n g).items = s.items := rfl
@[simp] theorem State.modPkt_mem (n : Nat) (g : Packet → Packet) : (s.modPkt n g).mem = s.mem := rfl
@[simp] theorem State.modPkt_sp (n : Nat) (g : Packet → Packet) : (s.modPkt n g).sp = s.sp := rfl
@[simp] theorem State.modPkt_spLost (n : Nat) (g : Packet → Packet) : (s.modPkt n g).spLost = s.spLost := rfl
@[simp] theorem State.modPkt_host (n : Nat) (g : Packet → Packet) : (s.modPkt n g).host = s.host := rfl
@[simp] theorem State.modPkt_noAtomics (n : Nat) (g : Packet → Packet) : (s.modPkt n g).noAtomics = s.noAtomics := rfl
@[simp] theorem State.modPkt_held (n : Nat) (g : Packet → Packet) : (s.modPkt n g).held = s.held := rfl
@[simp] theorem State.modPkt_owed (n : Nat) (g : Packet → Packet) : (s.modPkt n g).owed = s.owed := rfl
@[simp] theorem State.modPkt_copies (n : Nat) (g : Packet → Packet) : (s.modPkt n g).copies = s.copies := rfl
@[simp] theorem State.modPkt_stackCk (n : Nat) (g : Packet → Packet) : (s.modPkt n g).stackCk = s.stackCk := rfl
@[simp] theorem State.modPkt_late (n : Nat) (g : Packet → Packet) : (s.modPkt n g).late = s.late := rfl
@[simp] theorem State.modPkt_locks (n : Nat) (g : Packet → Packet) : (s.modPkt n g).locks = s.locks := rfl
@[simp] theorem State.modPkt_caches (n : Nat) (g : Packet → Packet) : (s.modPkt n g).caches = s.caches := rfl
@[simp] theorem State.modPkt_ecc (n : Nat) (g : Packet → Packet) : (s.modPkt n g).ecc = s.ecc := rfl
@[simp] theorem State.modPkt_memRing (n : Nat) (g : Packet → Packet) : (s.modPkt n g).memRing = s.memRing := rfl
@[simp] theorem State.modPkt_lcShare (n : Nat) (g : Packet → Packet) : (s.modPkt n g).lcShare = s.lcShare := rfl
@[simp] theorem State.modPkt_chans (n : Nat) (g : Packet → Packet) : (s.modPkt n g).chans = s.chans := rfl
@[simp] theorem State.modPkt_stackTbl (n : Nat) (g : Packet → Packet) : (s.modPkt n g).stackTbl = s.stackTbl := rfl
@[simp] theorem State.modPkt_groups (n : Nat) (g : Packet → Packet) : (s.modPkt n g).groups = s.groups := rfl
@[simp] theorem State.modPkt_fab (n : Nat) (g : Packet → Packet) : (s.modPkt n g).fab = s.fab := rfl
@[simp] theorem State.modPkt_feeds (n : Nat) (g : Packet → Packet) : (s.modPkt n g).feeds = s.feeds := rfl
@[simp] theorem State.modPkt_toks (n : Nat) (g : Packet → Packet) : (s.modPkt n g).toks = s.toks := rfl
@[simp] theorem State.modPkt_sessions (n : Nat) (g : Packet → Packet) : (s.modPkt n g).sessions = s.sessions := rfl
@[simp] theorem State.modPkt_media (n : Nat) (g : Packet → Packet) : (s.modPkt n g).media = s.media := rfl
@[simp] theorem State.modPkt_ctrl (n : Nat) (g : Packet → Packet) : (s.modPkt n g).ctrl = s.ctrl := rfl
@[simp] theorem State.modPkt_power (n : Nat) (g : Packet → Packet) : (s.modPkt n g).power = s.power := rfl

/-! State.modRun -/
@[simp] theorem State.modRun_order (n : Nat) (g : ListRun → ListRun) : (s.modRun n g).order = s.order := rfl
@[simp] theorem State.modRun_cores (n : Nat) (g : ListRun → ListRun) : (s.modRun n g).cores = s.cores := rfl
@[simp] theorem State.modRun_mtime (n : Nat) (g : ListRun → ListRun) : (s.modRun n g).mtime = s.mtime := rfl
@[simp] theorem State.modRun_pending (n : Nat) (g : ListRun → ListRun) : (s.modRun n g).pending = s.pending := rfl
@[simp] theorem State.modRun_free (n : Nat) (g : ListRun → ListRun) : (s.modRun n g).free = s.free := rfl
@[simp] theorem State.modRun_nextPkt (n : Nat) (g : ListRun → ListRun) : (s.modRun n g).nextPkt = s.nextPkt := rfl
@[simp] theorem State.modRun_nextSeq (n : Nat) (g : ListRun → ListRun) : (s.modRun n g).nextSeq = s.nextSeq := rfl
@[simp] theorem State.modRun_rings (n : Nat) (g : ListRun → ListRun) : (s.modRun n g).rings = s.rings := rfl
@[simp] theorem State.modRun_fns (n : Nat) (g : ListRun → ListRun) : (s.modRun n g).fns = s.fns := rfl
@[simp] theorem State.modRun_reply (n : Nat) (g : ListRun → ListRun) : (s.modRun n g).reply = s.reply := rfl
@[simp] theorem State.modRun_msix (n : Nat) (g : ListRun → ListRun) : (s.modRun n g).msix = s.msix := rfl
@[simp] theorem State.modRun_parts (n : Nat) (g : ListRun → ListRun) : (s.modRun n g).parts = s.parts := rfl
@[simp] theorem State.modRun_regions (n : Nat) (g : ListRun → ListRun) : (s.modRun n g).regions = s.regions := rfl
@[simp] theorem State.modRun_ctxs (n : Nat) (g : ListRun → ListRun) : (s.modRun n g).ctxs = s.ctxs := rfl
@[simp] theorem State.modRun_clients (n : Nat) (g : ListRun → ListRun) : (s.modRun n g).clients = s.clients := rfl
@[simp] theorem State.modRun_engines (n : Nat) (g : ListRun → ListRun) : (s.modRun n g).engines = s.engines := rfl
@[simp] theorem State.modRun_units (n : Nat) (g : ListRun → ListRun) : (s.modRun n g).units = s.units := rfl
@[simp] theorem State.modRun_moverLast (n : Nat) (g : ListRun → ListRun) : (s.modRun n g).moverLast = s.moverLast := rfl
@[simp] theorem State.modRun_unitLast (n : Nat) (g : ListRun → ListRun) : (s.modRun n g).unitLast = s.unitLast := rfl
@[simp] theorem State.modRun_items (n : Nat) (g : ListRun → ListRun) : (s.modRun n g).items = s.items := rfl
@[simp] theorem State.modRun_mem (n : Nat) (g : ListRun → ListRun) : (s.modRun n g).mem = s.mem := rfl
@[simp] theorem State.modRun_sp (n : Nat) (g : ListRun → ListRun) : (s.modRun n g).sp = s.sp := rfl
@[simp] theorem State.modRun_spLost (n : Nat) (g : ListRun → ListRun) : (s.modRun n g).spLost = s.spLost := rfl
@[simp] theorem State.modRun_host (n : Nat) (g : ListRun → ListRun) : (s.modRun n g).host = s.host := rfl
@[simp] theorem State.modRun_noAtomics (n : Nat) (g : ListRun → ListRun) : (s.modRun n g).noAtomics = s.noAtomics := rfl
@[simp] theorem State.modRun_held (n : Nat) (g : ListRun → ListRun) : (s.modRun n g).held = s.held := rfl
@[simp] theorem State.modRun_owed (n : Nat) (g : ListRun → ListRun) : (s.modRun n g).owed = s.owed := rfl
@[simp] theorem State.modRun_copies (n : Nat) (g : ListRun → ListRun) : (s.modRun n g).copies = s.copies := rfl
@[simp] theorem State.modRun_stackCk (n : Nat) (g : ListRun → ListRun) : (s.modRun n g).stackCk = s.stackCk := rfl
@[simp] theorem State.modRun_late (n : Nat) (g : ListRun → ListRun) : (s.modRun n g).late = s.late := rfl
@[simp] theorem State.modRun_locks (n : Nat) (g : ListRun → ListRun) : (s.modRun n g).locks = s.locks := rfl
@[simp] theorem State.modRun_caches (n : Nat) (g : ListRun → ListRun) : (s.modRun n g).caches = s.caches := rfl
@[simp] theorem State.modRun_ecc (n : Nat) (g : ListRun → ListRun) : (s.modRun n g).ecc = s.ecc := rfl
@[simp] theorem State.modRun_memRing (n : Nat) (g : ListRun → ListRun) : (s.modRun n g).memRing = s.memRing := rfl
@[simp] theorem State.modRun_lcShare (n : Nat) (g : ListRun → ListRun) : (s.modRun n g).lcShare = s.lcShare := rfl
@[simp] theorem State.modRun_chans (n : Nat) (g : ListRun → ListRun) : (s.modRun n g).chans = s.chans := rfl
@[simp] theorem State.modRun_stackTbl (n : Nat) (g : ListRun → ListRun) : (s.modRun n g).stackTbl = s.stackTbl := rfl
@[simp] theorem State.modRun_groups (n : Nat) (g : ListRun → ListRun) : (s.modRun n g).groups = s.groups := rfl
@[simp] theorem State.modRun_fab (n : Nat) (g : ListRun → ListRun) : (s.modRun n g).fab = s.fab := rfl
@[simp] theorem State.modRun_feeds (n : Nat) (g : ListRun → ListRun) : (s.modRun n g).feeds = s.feeds := rfl
@[simp] theorem State.modRun_toks (n : Nat) (g : ListRun → ListRun) : (s.modRun n g).toks = s.toks := rfl
@[simp] theorem State.modRun_sessions (n : Nat) (g : ListRun → ListRun) : (s.modRun n g).sessions = s.sessions := rfl
@[simp] theorem State.modRun_media (n : Nat) (g : ListRun → ListRun) : (s.modRun n g).media = s.media := rfl
@[simp] theorem State.modRun_ctrl (n : Nat) (g : ListRun → ListRun) : (s.modRun n g).ctrl = s.ctrl := rfl
@[simp] theorem State.modRun_power (n : Nat) (g : ListRun → ListRun) : (s.modRun n g).power = s.power := rfl

/-! State.modItem -/
@[simp] theorem State.modItem_order (n i : Nat) (g : Item → Item) : (s.modItem n i g).order = s.order := rfl
@[simp] theorem State.modItem_cores (n i : Nat) (g : Item → Item) : (s.modItem n i g).cores = s.cores := rfl
@[simp] theorem State.modItem_mtime (n i : Nat) (g : Item → Item) : (s.modItem n i g).mtime = s.mtime := rfl
@[simp] theorem State.modItem_pending (n i : Nat) (g : Item → Item) : (s.modItem n i g).pending = s.pending := rfl
@[simp] theorem State.modItem_free (n i : Nat) (g : Item → Item) : (s.modItem n i g).free = s.free := rfl
@[simp] theorem State.modItem_nextPkt (n i : Nat) (g : Item → Item) : (s.modItem n i g).nextPkt = s.nextPkt := rfl
@[simp] theorem State.modItem_nextSeq (n i : Nat) (g : Item → Item) : (s.modItem n i g).nextSeq = s.nextSeq := rfl
@[simp] theorem State.modItem_queues (n i : Nat) (g : Item → Item) : (s.modItem n i g).queues = s.queues := rfl
@[simp] theorem State.modItem_rings (n i : Nat) (g : Item → Item) : (s.modItem n i g).rings = s.rings := rfl
@[simp] theorem State.modItem_fns (n i : Nat) (g : Item → Item) : (s.modItem n i g).fns = s.fns := rfl
@[simp] theorem State.modItem_reply (n i : Nat) (g : Item → Item) : (s.modItem n i g).reply = s.reply := rfl
@[simp] theorem State.modItem_msix (n i : Nat) (g : Item → Item) : (s.modItem n i g).msix = s.msix := rfl
@[simp] theorem State.modItem_parts (n i : Nat) (g : Item → Item) : (s.modItem n i g).parts = s.parts := rfl
@[simp] theorem State.modItem_regions (n i : Nat) (g : Item → Item) : (s.modItem n i g).regions = s.regions := rfl
@[simp] theorem State.modItem_ctxs (n i : Nat) (g : Item → Item) : (s.modItem n i g).ctxs = s.ctxs := rfl
@[simp] theorem State.modItem_clients (n i : Nat) (g : Item → Item) : (s.modItem n i g).clients = s.clients := rfl
@[simp] theorem State.modItem_engines (n i : Nat) (g : Item → Item) : (s.modItem n i g).engines = s.engines := rfl
@[simp] theorem State.modItem_units (n i : Nat) (g : Item → Item) : (s.modItem n i g).units = s.units := rfl
@[simp] theorem State.modItem_moverLast (n i : Nat) (g : Item → Item) : (s.modItem n i g).moverLast = s.moverLast := rfl
@[simp] theorem State.modItem_unitLast (n i : Nat) (g : Item → Item) : (s.modItem n i g).unitLast = s.unitLast := rfl
@[simp] theorem State.modItem_mem (n i : Nat) (g : Item → Item) : (s.modItem n i g).mem = s.mem := rfl
@[simp] theorem State.modItem_sp (n i : Nat) (g : Item → Item) : (s.modItem n i g).sp = s.sp := rfl
@[simp] theorem State.modItem_spLost (n i : Nat) (g : Item → Item) : (s.modItem n i g).spLost = s.spLost := rfl
@[simp] theorem State.modItem_host (n i : Nat) (g : Item → Item) : (s.modItem n i g).host = s.host := rfl
@[simp] theorem State.modItem_noAtomics (n i : Nat) (g : Item → Item) : (s.modItem n i g).noAtomics = s.noAtomics := rfl
@[simp] theorem State.modItem_held (n i : Nat) (g : Item → Item) : (s.modItem n i g).held = s.held := rfl
@[simp] theorem State.modItem_owed (n i : Nat) (g : Item → Item) : (s.modItem n i g).owed = s.owed := rfl
@[simp] theorem State.modItem_copies (n i : Nat) (g : Item → Item) : (s.modItem n i g).copies = s.copies := rfl
@[simp] theorem State.modItem_stackCk (n i : Nat) (g : Item → Item) : (s.modItem n i g).stackCk = s.stackCk := rfl
@[simp] theorem State.modItem_late (n i : Nat) (g : Item → Item) : (s.modItem n i g).late = s.late := rfl
@[simp] theorem State.modItem_locks (n i : Nat) (g : Item → Item) : (s.modItem n i g).locks = s.locks := rfl
@[simp] theorem State.modItem_caches (n i : Nat) (g : Item → Item) : (s.modItem n i g).caches = s.caches := rfl
@[simp] theorem State.modItem_ecc (n i : Nat) (g : Item → Item) : (s.modItem n i g).ecc = s.ecc := rfl
@[simp] theorem State.modItem_memRing (n i : Nat) (g : Item → Item) : (s.modItem n i g).memRing = s.memRing := rfl
@[simp] theorem State.modItem_lcShare (n i : Nat) (g : Item → Item) : (s.modItem n i g).lcShare = s.lcShare := rfl
@[simp] theorem State.modItem_chans (n i : Nat) (g : Item → Item) : (s.modItem n i g).chans = s.chans := rfl
@[simp] theorem State.modItem_stackTbl (n i : Nat) (g : Item → Item) : (s.modItem n i g).stackTbl = s.stackTbl := rfl
@[simp] theorem State.modItem_groups (n i : Nat) (g : Item → Item) : (s.modItem n i g).groups = s.groups := rfl
@[simp] theorem State.modItem_fab (n i : Nat) (g : Item → Item) : (s.modItem n i g).fab = s.fab := rfl
@[simp] theorem State.modItem_feeds (n i : Nat) (g : Item → Item) : (s.modItem n i g).feeds = s.feeds := rfl
@[simp] theorem State.modItem_toks (n i : Nat) (g : Item → Item) : (s.modItem n i g).toks = s.toks := rfl
@[simp] theorem State.modItem_sessions (n i : Nat) (g : Item → Item) : (s.modItem n i g).sessions = s.sessions := rfl
@[simp] theorem State.modItem_media (n i : Nat) (g : Item → Item) : (s.modItem n i g).media = s.media := rfl
@[simp] theorem State.modItem_ctrl (n i : Nat) (g : Item → Item) : (s.modItem n i g).ctrl = s.ctrl := rfl
@[simp] theorem State.modItem_power (n i : Nat) (g : Item → Item) : (s.modItem n i g).power = s.power := rfl

/-! State.drew -/
@[simp] theorem State.drew_order : s.drew.order = s.order := rfl
@[simp] theorem State.drew_cores : s.drew.cores = s.cores := rfl
@[simp] theorem State.drew_mtime : s.drew.mtime = s.mtime := rfl
@[simp] theorem State.drew_pending : s.drew.pending = s.pending := rfl
@[simp] theorem State.drew_nextPkt : s.drew.nextPkt = s.nextPkt := rfl
@[simp] theorem State.drew_nextSeq : s.drew.nextSeq = s.nextSeq := rfl
@[simp] theorem State.drew_queues : s.drew.queues = s.queues := rfl
@[simp] theorem State.drew_rings : s.drew.rings = s.rings := rfl
@[simp] theorem State.drew_fns : s.drew.fns = s.fns := rfl
@[simp] theorem State.drew_reply : s.drew.reply = s.reply := rfl
@[simp] theorem State.drew_msix : s.drew.msix = s.msix := rfl
@[simp] theorem State.drew_parts : s.drew.parts = s.parts := rfl
@[simp] theorem State.drew_regions : s.drew.regions = s.regions := rfl
@[simp] theorem State.drew_ctxs : s.drew.ctxs = s.ctxs := rfl
@[simp] theorem State.drew_clients : s.drew.clients = s.clients := rfl
@[simp] theorem State.drew_engines : s.drew.engines = s.engines := rfl
@[simp] theorem State.drew_units : s.drew.units = s.units := rfl
@[simp] theorem State.drew_moverLast : s.drew.moverLast = s.moverLast := rfl
@[simp] theorem State.drew_unitLast : s.drew.unitLast = s.unitLast := rfl
@[simp] theorem State.drew_items : s.drew.items = s.items := rfl
@[simp] theorem State.drew_mem : s.drew.mem = s.mem := rfl
@[simp] theorem State.drew_sp : s.drew.sp = s.sp := rfl
@[simp] theorem State.drew_spLost : s.drew.spLost = s.spLost := rfl
@[simp] theorem State.drew_host : s.drew.host = s.host := rfl
@[simp] theorem State.drew_noAtomics : s.drew.noAtomics = s.noAtomics := rfl
@[simp] theorem State.drew_held : s.drew.held = s.held := rfl
@[simp] theorem State.drew_owed : s.drew.owed = s.owed := rfl
@[simp] theorem State.drew_copies : s.drew.copies = s.copies := rfl
@[simp] theorem State.drew_stackCk : s.drew.stackCk = s.stackCk := rfl
@[simp] theorem State.drew_late : s.drew.late = s.late := rfl
@[simp] theorem State.drew_locks : s.drew.locks = s.locks := rfl
@[simp] theorem State.drew_caches : s.drew.caches = s.caches := rfl
@[simp] theorem State.drew_ecc : s.drew.ecc = s.ecc := rfl
@[simp] theorem State.drew_memRing : s.drew.memRing = s.memRing := rfl
@[simp] theorem State.drew_lcShare : s.drew.lcShare = s.lcShare := rfl
@[simp] theorem State.drew_chans : s.drew.chans = s.chans := rfl
@[simp] theorem State.drew_stackTbl : s.drew.stackTbl = s.stackTbl := rfl
@[simp] theorem State.drew_groups : s.drew.groups = s.groups := rfl
@[simp] theorem State.drew_fab : s.drew.fab = s.fab := rfl
@[simp] theorem State.drew_feeds : s.drew.feeds = s.feeds := rfl
@[simp] theorem State.drew_toks : s.drew.toks = s.toks := rfl
@[simp] theorem State.drew_sessions : s.drew.sessions = s.sessions := rfl
@[simp] theorem State.drew_media : s.drew.media = s.media := rfl
@[simp] theorem State.drew_ctrl : s.drew.ctrl = s.ctrl := rfl
@[simp] theorem State.drew_power : s.drew.power = s.power := rfl

/-! State.dropLanded -/
@[simp] theorem State.dropLanded_order (n : Nat) : (s.dropLanded n).order = s.order := rfl
@[simp] theorem State.dropLanded_cores (n : Nat) : (s.dropLanded n).cores = s.cores := rfl
@[simp] theorem State.dropLanded_mtime (n : Nat) : (s.dropLanded n).mtime = s.mtime := rfl
@[simp] theorem State.dropLanded_pending (n : Nat) : (s.dropLanded n).pending = s.pending := rfl
@[simp] theorem State.dropLanded_free (n : Nat) : (s.dropLanded n).free = s.free := rfl
@[simp] theorem State.dropLanded_nextPkt (n : Nat) : (s.dropLanded n).nextPkt = s.nextPkt := rfl
@[simp] theorem State.dropLanded_nextSeq (n : Nat) : (s.dropLanded n).nextSeq = s.nextSeq := rfl
@[simp] theorem State.dropLanded_queues (n : Nat) : (s.dropLanded n).queues = s.queues := rfl
@[simp] theorem State.dropLanded_rings (n : Nat) : (s.dropLanded n).rings = s.rings := rfl
@[simp] theorem State.dropLanded_fns (n : Nat) : (s.dropLanded n).fns = s.fns := rfl
@[simp] theorem State.dropLanded_reply (n : Nat) : (s.dropLanded n).reply = s.reply := rfl
@[simp] theorem State.dropLanded_msix (n : Nat) : (s.dropLanded n).msix = s.msix := rfl
@[simp] theorem State.dropLanded_parts (n : Nat) : (s.dropLanded n).parts = s.parts := rfl
@[simp] theorem State.dropLanded_regions (n : Nat) : (s.dropLanded n).regions = s.regions := rfl
@[simp] theorem State.dropLanded_ctxs (n : Nat) : (s.dropLanded n).ctxs = s.ctxs := rfl
@[simp] theorem State.dropLanded_clients (n : Nat) : (s.dropLanded n).clients = s.clients := rfl
@[simp] theorem State.dropLanded_engines (n : Nat) : (s.dropLanded n).engines = s.engines := rfl
@[simp] theorem State.dropLanded_units (n : Nat) : (s.dropLanded n).units = s.units := rfl
@[simp] theorem State.dropLanded_moverLast (n : Nat) : (s.dropLanded n).moverLast = s.moverLast := rfl
@[simp] theorem State.dropLanded_unitLast (n : Nat) : (s.dropLanded n).unitLast = s.unitLast := rfl
@[simp] theorem State.dropLanded_items (n : Nat) : (s.dropLanded n).items = s.items := rfl
@[simp] theorem State.dropLanded_mem (n : Nat) : (s.dropLanded n).mem = s.mem := rfl
@[simp] theorem State.dropLanded_sp (n : Nat) : (s.dropLanded n).sp = s.sp := rfl
@[simp] theorem State.dropLanded_spLost (n : Nat) : (s.dropLanded n).spLost = s.spLost := rfl
@[simp] theorem State.dropLanded_host (n : Nat) : (s.dropLanded n).host = s.host := rfl
@[simp] theorem State.dropLanded_noAtomics (n : Nat) : (s.dropLanded n).noAtomics = s.noAtomics := rfl
@[simp] theorem State.dropLanded_held (n : Nat) : (s.dropLanded n).held = s.held := rfl
@[simp] theorem State.dropLanded_owed (n : Nat) : (s.dropLanded n).owed = s.owed := rfl
@[simp] theorem State.dropLanded_copies (n : Nat) : (s.dropLanded n).copies = s.copies := rfl
@[simp] theorem State.dropLanded_stackCk (n : Nat) : (s.dropLanded n).stackCk = s.stackCk := rfl
@[simp] theorem State.dropLanded_late (n : Nat) : (s.dropLanded n).late = s.late := rfl
@[simp] theorem State.dropLanded_locks (n : Nat) : (s.dropLanded n).locks = s.locks := rfl
@[simp] theorem State.dropLanded_caches (n : Nat) : (s.dropLanded n).caches = s.caches := rfl
@[simp] theorem State.dropLanded_ecc (n : Nat) : (s.dropLanded n).ecc = s.ecc := rfl
@[simp] theorem State.dropLanded_memRing (n : Nat) : (s.dropLanded n).memRing = s.memRing := rfl
@[simp] theorem State.dropLanded_lcShare (n : Nat) : (s.dropLanded n).lcShare = s.lcShare := rfl
@[simp] theorem State.dropLanded_chans (n : Nat) : (s.dropLanded n).chans = s.chans := rfl
@[simp] theorem State.dropLanded_stackTbl (n : Nat) : (s.dropLanded n).stackTbl = s.stackTbl := rfl
@[simp] theorem State.dropLanded_groups (n : Nat) : (s.dropLanded n).groups = s.groups := rfl
@[simp] theorem State.dropLanded_feeds (n : Nat) : (s.dropLanded n).feeds = s.feeds := rfl
@[simp] theorem State.dropLanded_toks (n : Nat) : (s.dropLanded n).toks = s.toks := rfl
@[simp] theorem State.dropLanded_sessions (n : Nat) : (s.dropLanded n).sessions = s.sessions := rfl
@[simp] theorem State.dropLanded_media (n : Nat) : (s.dropLanded n).media = s.media := rfl
@[simp] theorem State.dropLanded_ctrl (n : Nat) : (s.dropLanded n).ctrl = s.ctrl := rfl
@[simp] theorem State.dropLanded_power (n : Nat) : (s.dropLanded n).power = s.power := rfl

/-! State.haltQueue -/
@[simp] theorem State.haltQueue_order (n : Nat) : (s.haltQueue n).order = s.order := rfl
@[simp] theorem State.haltQueue_cores (n : Nat) : (s.haltQueue n).cores = s.cores := rfl
@[simp] theorem State.haltQueue_mtime (n : Nat) : (s.haltQueue n).mtime = s.mtime := rfl
@[simp] theorem State.haltQueue_pending (n : Nat) : (s.haltQueue n).pending = s.pending := rfl
@[simp] theorem State.haltQueue_free (n : Nat) : (s.haltQueue n).free = s.free := rfl
@[simp] theorem State.haltQueue_nextPkt (n : Nat) : (s.haltQueue n).nextPkt = s.nextPkt := rfl
@[simp] theorem State.haltQueue_nextSeq (n : Nat) : (s.haltQueue n).nextSeq = s.nextSeq := rfl
@[simp] theorem State.haltQueue_rings (n : Nat) : (s.haltQueue n).rings = s.rings := rfl
@[simp] theorem State.haltQueue_fns (n : Nat) : (s.haltQueue n).fns = s.fns := rfl
@[simp] theorem State.haltQueue_reply (n : Nat) : (s.haltQueue n).reply = s.reply := rfl
@[simp] theorem State.haltQueue_msix (n : Nat) : (s.haltQueue n).msix = s.msix := rfl
@[simp] theorem State.haltQueue_parts (n : Nat) : (s.haltQueue n).parts = s.parts := rfl
@[simp] theorem State.haltQueue_regions (n : Nat) : (s.haltQueue n).regions = s.regions := rfl
@[simp] theorem State.haltQueue_ctxs (n : Nat) : (s.haltQueue n).ctxs = s.ctxs := rfl
@[simp] theorem State.haltQueue_clients (n : Nat) : (s.haltQueue n).clients = s.clients := rfl
@[simp] theorem State.haltQueue_engines (n : Nat) : (s.haltQueue n).engines = s.engines := rfl
@[simp] theorem State.haltQueue_units (n : Nat) : (s.haltQueue n).units = s.units := rfl
@[simp] theorem State.haltQueue_moverLast (n : Nat) : (s.haltQueue n).moverLast = s.moverLast := rfl
@[simp] theorem State.haltQueue_unitLast (n : Nat) : (s.haltQueue n).unitLast = s.unitLast := rfl
@[simp] theorem State.haltQueue_items (n : Nat) : (s.haltQueue n).items = s.items := rfl
@[simp] theorem State.haltQueue_mem (n : Nat) : (s.haltQueue n).mem = s.mem := rfl
@[simp] theorem State.haltQueue_sp (n : Nat) : (s.haltQueue n).sp = s.sp := rfl
@[simp] theorem State.haltQueue_spLost (n : Nat) : (s.haltQueue n).spLost = s.spLost := rfl
@[simp] theorem State.haltQueue_host (n : Nat) : (s.haltQueue n).host = s.host := rfl
@[simp] theorem State.haltQueue_noAtomics (n : Nat) : (s.haltQueue n).noAtomics = s.noAtomics := rfl
@[simp] theorem State.haltQueue_held (n : Nat) : (s.haltQueue n).held = s.held := rfl
@[simp] theorem State.haltQueue_owed (n : Nat) : (s.haltQueue n).owed = s.owed := rfl
@[simp] theorem State.haltQueue_copies (n : Nat) : (s.haltQueue n).copies = s.copies := rfl
@[simp] theorem State.haltQueue_stackCk (n : Nat) : (s.haltQueue n).stackCk = s.stackCk := rfl
@[simp] theorem State.haltQueue_late (n : Nat) : (s.haltQueue n).late = s.late := rfl
@[simp] theorem State.haltQueue_locks (n : Nat) : (s.haltQueue n).locks = s.locks := rfl
@[simp] theorem State.haltQueue_caches (n : Nat) : (s.haltQueue n).caches = s.caches := rfl
@[simp] theorem State.haltQueue_ecc (n : Nat) : (s.haltQueue n).ecc = s.ecc := rfl
@[simp] theorem State.haltQueue_memRing (n : Nat) : (s.haltQueue n).memRing = s.memRing := rfl
@[simp] theorem State.haltQueue_lcShare (n : Nat) : (s.haltQueue n).lcShare = s.lcShare := rfl
@[simp] theorem State.haltQueue_chans (n : Nat) : (s.haltQueue n).chans = s.chans := rfl
@[simp] theorem State.haltQueue_stackTbl (n : Nat) : (s.haltQueue n).stackTbl = s.stackTbl := rfl
@[simp] theorem State.haltQueue_groups (n : Nat) : (s.haltQueue n).groups = s.groups := rfl
@[simp] theorem State.haltQueue_fab (n : Nat) : (s.haltQueue n).fab = s.fab := rfl
@[simp] theorem State.haltQueue_feeds (n : Nat) : (s.haltQueue n).feeds = s.feeds := rfl
@[simp] theorem State.haltQueue_toks (n : Nat) : (s.haltQueue n).toks = s.toks := rfl
@[simp] theorem State.haltQueue_sessions (n : Nat) : (s.haltQueue n).sessions = s.sessions := rfl
@[simp] theorem State.haltQueue_media (n : Nat) : (s.haltQueue n).media = s.media := rfl
@[simp] theorem State.haltQueue_ctrl (n : Nat) : (s.haltQueue n).ctrl = s.ctrl := rfl
@[simp] theorem State.haltQueue_power (n : Nat) : (s.haltQueue n).power = s.power := rfl

/-! State.resumeQueue -/
@[simp] theorem State.resumeQueue_order (n : Nat) : (s.resumeQueue n).order = s.order := rfl
@[simp] theorem State.resumeQueue_cores (n : Nat) : (s.resumeQueue n).cores = s.cores := rfl
@[simp] theorem State.resumeQueue_mtime (n : Nat) : (s.resumeQueue n).mtime = s.mtime := rfl
@[simp] theorem State.resumeQueue_pending (n : Nat) : (s.resumeQueue n).pending = s.pending := rfl
@[simp] theorem State.resumeQueue_free (n : Nat) : (s.resumeQueue n).free = s.free := rfl
@[simp] theorem State.resumeQueue_nextPkt (n : Nat) : (s.resumeQueue n).nextPkt = s.nextPkt := rfl
@[simp] theorem State.resumeQueue_nextSeq (n : Nat) : (s.resumeQueue n).nextSeq = s.nextSeq := rfl
@[simp] theorem State.resumeQueue_rings (n : Nat) : (s.resumeQueue n).rings = s.rings := rfl
@[simp] theorem State.resumeQueue_fns (n : Nat) : (s.resumeQueue n).fns = s.fns := rfl
@[simp] theorem State.resumeQueue_reply (n : Nat) : (s.resumeQueue n).reply = s.reply := rfl
@[simp] theorem State.resumeQueue_msix (n : Nat) : (s.resumeQueue n).msix = s.msix := rfl
@[simp] theorem State.resumeQueue_parts (n : Nat) : (s.resumeQueue n).parts = s.parts := rfl
@[simp] theorem State.resumeQueue_regions (n : Nat) : (s.resumeQueue n).regions = s.regions := rfl
@[simp] theorem State.resumeQueue_ctxs (n : Nat) : (s.resumeQueue n).ctxs = s.ctxs := rfl
@[simp] theorem State.resumeQueue_clients (n : Nat) : (s.resumeQueue n).clients = s.clients := rfl
@[simp] theorem State.resumeQueue_engines (n : Nat) : (s.resumeQueue n).engines = s.engines := rfl
@[simp] theorem State.resumeQueue_units (n : Nat) : (s.resumeQueue n).units = s.units := rfl
@[simp] theorem State.resumeQueue_moverLast (n : Nat) : (s.resumeQueue n).moverLast = s.moverLast := rfl
@[simp] theorem State.resumeQueue_unitLast (n : Nat) : (s.resumeQueue n).unitLast = s.unitLast := rfl
@[simp] theorem State.resumeQueue_items (n : Nat) : (s.resumeQueue n).items = s.items := rfl
@[simp] theorem State.resumeQueue_mem (n : Nat) : (s.resumeQueue n).mem = s.mem := rfl
@[simp] theorem State.resumeQueue_sp (n : Nat) : (s.resumeQueue n).sp = s.sp := rfl
@[simp] theorem State.resumeQueue_spLost (n : Nat) : (s.resumeQueue n).spLost = s.spLost := rfl
@[simp] theorem State.resumeQueue_host (n : Nat) : (s.resumeQueue n).host = s.host := rfl
@[simp] theorem State.resumeQueue_noAtomics (n : Nat) : (s.resumeQueue n).noAtomics = s.noAtomics := rfl
@[simp] theorem State.resumeQueue_held (n : Nat) : (s.resumeQueue n).held = s.held := rfl
@[simp] theorem State.resumeQueue_owed (n : Nat) : (s.resumeQueue n).owed = s.owed := rfl
@[simp] theorem State.resumeQueue_copies (n : Nat) : (s.resumeQueue n).copies = s.copies := rfl
@[simp] theorem State.resumeQueue_stackCk (n : Nat) : (s.resumeQueue n).stackCk = s.stackCk := rfl
@[simp] theorem State.resumeQueue_late (n : Nat) : (s.resumeQueue n).late = s.late := rfl
@[simp] theorem State.resumeQueue_locks (n : Nat) : (s.resumeQueue n).locks = s.locks := rfl
@[simp] theorem State.resumeQueue_caches (n : Nat) : (s.resumeQueue n).caches = s.caches := rfl
@[simp] theorem State.resumeQueue_ecc (n : Nat) : (s.resumeQueue n).ecc = s.ecc := rfl
@[simp] theorem State.resumeQueue_memRing (n : Nat) : (s.resumeQueue n).memRing = s.memRing := rfl
@[simp] theorem State.resumeQueue_lcShare (n : Nat) : (s.resumeQueue n).lcShare = s.lcShare := rfl
@[simp] theorem State.resumeQueue_chans (n : Nat) : (s.resumeQueue n).chans = s.chans := rfl
@[simp] theorem State.resumeQueue_stackTbl (n : Nat) : (s.resumeQueue n).stackTbl = s.stackTbl := rfl
@[simp] theorem State.resumeQueue_groups (n : Nat) : (s.resumeQueue n).groups = s.groups := rfl
@[simp] theorem State.resumeQueue_fab (n : Nat) : (s.resumeQueue n).fab = s.fab := rfl
@[simp] theorem State.resumeQueue_feeds (n : Nat) : (s.resumeQueue n).feeds = s.feeds := rfl
@[simp] theorem State.resumeQueue_toks (n : Nat) : (s.resumeQueue n).toks = s.toks := rfl
@[simp] theorem State.resumeQueue_sessions (n : Nat) : (s.resumeQueue n).sessions = s.sessions := rfl
@[simp] theorem State.resumeQueue_media (n : Nat) : (s.resumeQueue n).media = s.media := rfl
@[simp] theorem State.resumeQueue_ctrl (n : Nat) : (s.resumeQueue n).ctrl = s.ctrl := rfl
@[simp] theorem State.resumeQueue_power (n : Nat) : (s.resumeQueue n).power = s.power := rfl

/-! State.setLink -/
@[simp] theorem State.setLink_order (n : Nat) (b : Bool) : (s.setLink n b).order = s.order := rfl
@[simp] theorem State.setLink_cores (n : Nat) (b : Bool) : (s.setLink n b).cores = s.cores := rfl
@[simp] theorem State.setLink_mtime (n : Nat) (b : Bool) : (s.setLink n b).mtime = s.mtime := rfl
@[simp] theorem State.setLink_pending (n : Nat) (b : Bool) : (s.setLink n b).pending = s.pending := rfl
@[simp] theorem State.setLink_free (n : Nat) (b : Bool) : (s.setLink n b).free = s.free := rfl
@[simp] theorem State.setLink_nextPkt (n : Nat) (b : Bool) : (s.setLink n b).nextPkt = s.nextPkt := rfl
@[simp] theorem State.setLink_nextSeq (n : Nat) (b : Bool) : (s.setLink n b).nextSeq = s.nextSeq := rfl
@[simp] theorem State.setLink_queues (n : Nat) (b : Bool) : (s.setLink n b).queues = s.queues := rfl
@[simp] theorem State.setLink_rings (n : Nat) (b : Bool) : (s.setLink n b).rings = s.rings := rfl
@[simp] theorem State.setLink_fns (n : Nat) (b : Bool) : (s.setLink n b).fns = s.fns := rfl
@[simp] theorem State.setLink_reply (n : Nat) (b : Bool) : (s.setLink n b).reply = s.reply := rfl
@[simp] theorem State.setLink_msix (n : Nat) (b : Bool) : (s.setLink n b).msix = s.msix := rfl
@[simp] theorem State.setLink_parts (n : Nat) (b : Bool) : (s.setLink n b).parts = s.parts := rfl
@[simp] theorem State.setLink_regions (n : Nat) (b : Bool) : (s.setLink n b).regions = s.regions := rfl
@[simp] theorem State.setLink_ctxs (n : Nat) (b : Bool) : (s.setLink n b).ctxs = s.ctxs := rfl
@[simp] theorem State.setLink_clients (n : Nat) (b : Bool) : (s.setLink n b).clients = s.clients := rfl
@[simp] theorem State.setLink_engines (n : Nat) (b : Bool) : (s.setLink n b).engines = s.engines := rfl
@[simp] theorem State.setLink_units (n : Nat) (b : Bool) : (s.setLink n b).units = s.units := rfl
@[simp] theorem State.setLink_moverLast (n : Nat) (b : Bool) : (s.setLink n b).moverLast = s.moverLast := rfl
@[simp] theorem State.setLink_unitLast (n : Nat) (b : Bool) : (s.setLink n b).unitLast = s.unitLast := rfl
@[simp] theorem State.setLink_items (n : Nat) (b : Bool) : (s.setLink n b).items = s.items := rfl
@[simp] theorem State.setLink_mem (n : Nat) (b : Bool) : (s.setLink n b).mem = s.mem := rfl
@[simp] theorem State.setLink_sp (n : Nat) (b : Bool) : (s.setLink n b).sp = s.sp := rfl
@[simp] theorem State.setLink_spLost (n : Nat) (b : Bool) : (s.setLink n b).spLost = s.spLost := rfl
@[simp] theorem State.setLink_host (n : Nat) (b : Bool) : (s.setLink n b).host = s.host := rfl
@[simp] theorem State.setLink_noAtomics (n : Nat) (b : Bool) : (s.setLink n b).noAtomics = s.noAtomics := rfl
@[simp] theorem State.setLink_held (n : Nat) (b : Bool) : (s.setLink n b).held = s.held := rfl
@[simp] theorem State.setLink_owed (n : Nat) (b : Bool) : (s.setLink n b).owed = s.owed := rfl
@[simp] theorem State.setLink_copies (n : Nat) (b : Bool) : (s.setLink n b).copies = s.copies := rfl
@[simp] theorem State.setLink_stackCk (n : Nat) (b : Bool) : (s.setLink n b).stackCk = s.stackCk := rfl
@[simp] theorem State.setLink_late (n : Nat) (b : Bool) : (s.setLink n b).late = s.late := rfl
@[simp] theorem State.setLink_locks (n : Nat) (b : Bool) : (s.setLink n b).locks = s.locks := rfl
@[simp] theorem State.setLink_caches (n : Nat) (b : Bool) : (s.setLink n b).caches = s.caches := rfl
@[simp] theorem State.setLink_ecc (n : Nat) (b : Bool) : (s.setLink n b).ecc = s.ecc := rfl
@[simp] theorem State.setLink_memRing (n : Nat) (b : Bool) : (s.setLink n b).memRing = s.memRing := rfl
@[simp] theorem State.setLink_lcShare (n : Nat) (b : Bool) : (s.setLink n b).lcShare = s.lcShare := rfl
@[simp] theorem State.setLink_chans (n : Nat) (b : Bool) : (s.setLink n b).chans = s.chans := rfl
@[simp] theorem State.setLink_stackTbl (n : Nat) (b : Bool) : (s.setLink n b).stackTbl = s.stackTbl := rfl
@[simp] theorem State.setLink_groups (n : Nat) (b : Bool) : (s.setLink n b).groups = s.groups := rfl
@[simp] theorem State.setLink_fab (n : Nat) (b : Bool) : (s.setLink n b).fab = s.fab := rfl
@[simp] theorem State.setLink_feeds (n : Nat) (b : Bool) : (s.setLink n b).feeds = s.feeds := rfl
@[simp] theorem State.setLink_toks (n : Nat) (b : Bool) : (s.setLink n b).toks = s.toks := rfl
@[simp] theorem State.setLink_sessions (n : Nat) (b : Bool) : (s.setLink n b).sessions = s.sessions := rfl
@[simp] theorem State.setLink_media (n : Nat) (b : Bool) : (s.setLink n b).media = s.media := rfl
@[simp] theorem State.setLink_power (n : Nat) (b : Bool) : (s.setLink n b).power = s.power := rfl

/-! State.addPkt -/
@[simp] theorem State.addPkt_order (n : Nat) (k : Packet) : (s.addPkt n k).order = s.order := rfl
@[simp] theorem State.addPkt_cores (n : Nat) (k : Packet) : (s.addPkt n k).cores = s.cores := rfl
@[simp] theorem State.addPkt_mtime (n : Nat) (k : Packet) : (s.addPkt n k).mtime = s.mtime := rfl
@[simp] theorem State.addPkt_pending (n : Nat) (k : Packet) : (s.addPkt n k).pending = s.pending := rfl
@[simp] theorem State.addPkt_free (n : Nat) (k : Packet) : (s.addPkt n k).free = s.free := rfl
@[simp] theorem State.addPkt_nextSeq (n : Nat) (k : Packet) : (s.addPkt n k).nextSeq = s.nextSeq := rfl
@[simp] theorem State.addPkt_rings (n : Nat) (k : Packet) : (s.addPkt n k).rings = s.rings := rfl
@[simp] theorem State.addPkt_fns (n : Nat) (k : Packet) : (s.addPkt n k).fns = s.fns := rfl
@[simp] theorem State.addPkt_reply (n : Nat) (k : Packet) : (s.addPkt n k).reply = s.reply := rfl
@[simp] theorem State.addPkt_msix (n : Nat) (k : Packet) : (s.addPkt n k).msix = s.msix := rfl
@[simp] theorem State.addPkt_parts (n : Nat) (k : Packet) : (s.addPkt n k).parts = s.parts := rfl
@[simp] theorem State.addPkt_regions (n : Nat) (k : Packet) : (s.addPkt n k).regions = s.regions := rfl
@[simp] theorem State.addPkt_ctxs (n : Nat) (k : Packet) : (s.addPkt n k).ctxs = s.ctxs := rfl
@[simp] theorem State.addPkt_clients (n : Nat) (k : Packet) : (s.addPkt n k).clients = s.clients := rfl
@[simp] theorem State.addPkt_engines (n : Nat) (k : Packet) : (s.addPkt n k).engines = s.engines := rfl
@[simp] theorem State.addPkt_units (n : Nat) (k : Packet) : (s.addPkt n k).units = s.units := rfl
@[simp] theorem State.addPkt_moverLast (n : Nat) (k : Packet) : (s.addPkt n k).moverLast = s.moverLast := rfl
@[simp] theorem State.addPkt_unitLast (n : Nat) (k : Packet) : (s.addPkt n k).unitLast = s.unitLast := rfl
@[simp] theorem State.addPkt_items (n : Nat) (k : Packet) : (s.addPkt n k).items = s.items := rfl
@[simp] theorem State.addPkt_mem (n : Nat) (k : Packet) : (s.addPkt n k).mem = s.mem := rfl
@[simp] theorem State.addPkt_sp (n : Nat) (k : Packet) : (s.addPkt n k).sp = s.sp := rfl
@[simp] theorem State.addPkt_spLost (n : Nat) (k : Packet) : (s.addPkt n k).spLost = s.spLost := rfl
@[simp] theorem State.addPkt_host (n : Nat) (k : Packet) : (s.addPkt n k).host = s.host := rfl
@[simp] theorem State.addPkt_noAtomics (n : Nat) (k : Packet) : (s.addPkt n k).noAtomics = s.noAtomics := rfl
@[simp] theorem State.addPkt_held (n : Nat) (k : Packet) : (s.addPkt n k).held = s.held := rfl
@[simp] theorem State.addPkt_owed (n : Nat) (k : Packet) : (s.addPkt n k).owed = s.owed := rfl
@[simp] theorem State.addPkt_copies (n : Nat) (k : Packet) : (s.addPkt n k).copies = s.copies := rfl
@[simp] theorem State.addPkt_stackCk (n : Nat) (k : Packet) : (s.addPkt n k).stackCk = s.stackCk := rfl
@[simp] theorem State.addPkt_late (n : Nat) (k : Packet) : (s.addPkt n k).late = s.late := rfl
@[simp] theorem State.addPkt_locks (n : Nat) (k : Packet) : (s.addPkt n k).locks = s.locks := rfl
@[simp] theorem State.addPkt_caches (n : Nat) (k : Packet) : (s.addPkt n k).caches = s.caches := rfl
@[simp] theorem State.addPkt_ecc (n : Nat) (k : Packet) : (s.addPkt n k).ecc = s.ecc := rfl
@[simp] theorem State.addPkt_memRing (n : Nat) (k : Packet) : (s.addPkt n k).memRing = s.memRing := rfl
@[simp] theorem State.addPkt_lcShare (n : Nat) (k : Packet) : (s.addPkt n k).lcShare = s.lcShare := rfl
@[simp] theorem State.addPkt_chans (n : Nat) (k : Packet) : (s.addPkt n k).chans = s.chans := rfl
@[simp] theorem State.addPkt_stackTbl (n : Nat) (k : Packet) : (s.addPkt n k).stackTbl = s.stackTbl := rfl
@[simp] theorem State.addPkt_groups (n : Nat) (k : Packet) : (s.addPkt n k).groups = s.groups := rfl
@[simp] theorem State.addPkt_fab (n : Nat) (k : Packet) : (s.addPkt n k).fab = s.fab := rfl
@[simp] theorem State.addPkt_feeds (n : Nat) (k : Packet) : (s.addPkt n k).feeds = s.feeds := rfl
@[simp] theorem State.addPkt_toks (n : Nat) (k : Packet) : (s.addPkt n k).toks = s.toks := rfl
@[simp] theorem State.addPkt_sessions (n : Nat) (k : Packet) : (s.addPkt n k).sessions = s.sessions := rfl
@[simp] theorem State.addPkt_media (n : Nat) (k : Packet) : (s.addPkt n k).media = s.media := rfl
@[simp] theorem State.addPkt_ctrl (n : Nat) (k : Packet) : (s.addPkt n k).ctrl = s.ctrl := rfl
@[simp] theorem State.addPkt_power (n : Nat) (k : Packet) : (s.addPkt n k).power = s.power := rfl

/-! State.submit -/
@[simp] theorem State.submit_order (n : Nat) : (s.submit n).order = s.order := rfl
@[simp] theorem State.submit_cores (n : Nat) : (s.submit n).cores = s.cores := rfl
@[simp] theorem State.submit_mtime (n : Nat) : (s.submit n).mtime = s.mtime := rfl
@[simp] theorem State.submit_pending (n : Nat) : (s.submit n).pending = s.pending := rfl
@[simp] theorem State.submit_free (n : Nat) : (s.submit n).free = s.free := rfl
@[simp] theorem State.submit_nextPkt (n : Nat) : (s.submit n).nextPkt = s.nextPkt := rfl
@[simp] theorem State.submit_nextSeq (n : Nat) : (s.submit n).nextSeq = s.nextSeq := rfl
@[simp] theorem State.submit_queues (n : Nat) : (s.submit n).queues = s.queues := rfl
@[simp] theorem State.submit_rings (n : Nat) : (s.submit n).rings = s.rings := rfl
@[simp] theorem State.submit_fns (n : Nat) : (s.submit n).fns = s.fns := rfl
@[simp] theorem State.submit_reply (n : Nat) : (s.submit n).reply = s.reply := rfl
@[simp] theorem State.submit_msix (n : Nat) : (s.submit n).msix = s.msix := rfl
@[simp] theorem State.submit_parts (n : Nat) : (s.submit n).parts = s.parts := rfl
@[simp] theorem State.submit_regions (n : Nat) : (s.submit n).regions = s.regions := rfl
@[simp] theorem State.submit_ctxs (n : Nat) : (s.submit n).ctxs = s.ctxs := rfl
@[simp] theorem State.submit_engines (n : Nat) : (s.submit n).engines = s.engines := rfl
@[simp] theorem State.submit_units (n : Nat) : (s.submit n).units = s.units := rfl
@[simp] theorem State.submit_moverLast (n : Nat) : (s.submit n).moverLast = s.moverLast := rfl
@[simp] theorem State.submit_unitLast (n : Nat) : (s.submit n).unitLast = s.unitLast := rfl
@[simp] theorem State.submit_items (n : Nat) : (s.submit n).items = s.items := rfl
@[simp] theorem State.submit_mem (n : Nat) : (s.submit n).mem = s.mem := rfl
@[simp] theorem State.submit_sp (n : Nat) : (s.submit n).sp = s.sp := rfl
@[simp] theorem State.submit_spLost (n : Nat) : (s.submit n).spLost = s.spLost := rfl
@[simp] theorem State.submit_host (n : Nat) : (s.submit n).host = s.host := rfl
@[simp] theorem State.submit_noAtomics (n : Nat) : (s.submit n).noAtomics = s.noAtomics := rfl
@[simp] theorem State.submit_held (n : Nat) : (s.submit n).held = s.held := rfl
@[simp] theorem State.submit_owed (n : Nat) : (s.submit n).owed = s.owed := rfl
@[simp] theorem State.submit_copies (n : Nat) : (s.submit n).copies = s.copies := rfl
@[simp] theorem State.submit_stackCk (n : Nat) : (s.submit n).stackCk = s.stackCk := rfl
@[simp] theorem State.submit_late (n : Nat) : (s.submit n).late = s.late := rfl
@[simp] theorem State.submit_locks (n : Nat) : (s.submit n).locks = s.locks := rfl
@[simp] theorem State.submit_caches (n : Nat) : (s.submit n).caches = s.caches := rfl
@[simp] theorem State.submit_ecc (n : Nat) : (s.submit n).ecc = s.ecc := rfl
@[simp] theorem State.submit_memRing (n : Nat) : (s.submit n).memRing = s.memRing := rfl
@[simp] theorem State.submit_lcShare (n : Nat) : (s.submit n).lcShare = s.lcShare := rfl
@[simp] theorem State.submit_chans (n : Nat) : (s.submit n).chans = s.chans := rfl
@[simp] theorem State.submit_stackTbl (n : Nat) : (s.submit n).stackTbl = s.stackTbl := rfl
@[simp] theorem State.submit_groups (n : Nat) : (s.submit n).groups = s.groups := rfl
@[simp] theorem State.submit_fab (n : Nat) : (s.submit n).fab = s.fab := rfl
@[simp] theorem State.submit_feeds (n : Nat) : (s.submit n).feeds = s.feeds := rfl
@[simp] theorem State.submit_toks (n : Nat) : (s.submit n).toks = s.toks := rfl
@[simp] theorem State.submit_sessions (n : Nat) : (s.submit n).sessions = s.sessions := rfl
@[simp] theorem State.submit_media (n : Nat) : (s.submit n).media = s.media := rfl
@[simp] theorem State.submit_ctrl (n : Nat) : (s.submit n).ctrl = s.ctrl := rfl
@[simp] theorem State.submit_power (n : Nat) : (s.submit n).power = s.power := rfl

/-! State.wait -/
@[simp] theorem State.wait_order (n : Nat) : (s.wait n).order = s.order := rfl
@[simp] theorem State.wait_cores (n : Nat) : (s.wait n).cores = s.cores := rfl
@[simp] theorem State.wait_mtime (n : Nat) : (s.wait n).mtime = s.mtime := rfl
@[simp] theorem State.wait_pending (n : Nat) : (s.wait n).pending = s.pending := rfl
@[simp] theorem State.wait_free (n : Nat) : (s.wait n).free = s.free := rfl
@[simp] theorem State.wait_nextPkt (n : Nat) : (s.wait n).nextPkt = s.nextPkt := rfl
@[simp] theorem State.wait_nextSeq (n : Nat) : (s.wait n).nextSeq = s.nextSeq := rfl
@[simp] theorem State.wait_rings (n : Nat) : (s.wait n).rings = s.rings := rfl
@[simp] theorem State.wait_fns (n : Nat) : (s.wait n).fns = s.fns := rfl
@[simp] theorem State.wait_reply (n : Nat) : (s.wait n).reply = s.reply := rfl
@[simp] theorem State.wait_msix (n : Nat) : (s.wait n).msix = s.msix := rfl
@[simp] theorem State.wait_parts (n : Nat) : (s.wait n).parts = s.parts := rfl
@[simp] theorem State.wait_regions (n : Nat) : (s.wait n).regions = s.regions := rfl
@[simp] theorem State.wait_ctxs (n : Nat) : (s.wait n).ctxs = s.ctxs := rfl
@[simp] theorem State.wait_clients (n : Nat) : (s.wait n).clients = s.clients := rfl
@[simp] theorem State.wait_engines (n : Nat) : (s.wait n).engines = s.engines := rfl
@[simp] theorem State.wait_units (n : Nat) : (s.wait n).units = s.units := rfl
@[simp] theorem State.wait_moverLast (n : Nat) : (s.wait n).moverLast = s.moverLast := rfl
@[simp] theorem State.wait_unitLast (n : Nat) : (s.wait n).unitLast = s.unitLast := rfl
@[simp] theorem State.wait_items (n : Nat) : (s.wait n).items = s.items := rfl
@[simp] theorem State.wait_mem (n : Nat) : (s.wait n).mem = s.mem := rfl
@[simp] theorem State.wait_sp (n : Nat) : (s.wait n).sp = s.sp := rfl
@[simp] theorem State.wait_spLost (n : Nat) : (s.wait n).spLost = s.spLost := rfl
@[simp] theorem State.wait_host (n : Nat) : (s.wait n).host = s.host := rfl
@[simp] theorem State.wait_noAtomics (n : Nat) : (s.wait n).noAtomics = s.noAtomics := rfl
@[simp] theorem State.wait_held (n : Nat) : (s.wait n).held = s.held := rfl
@[simp] theorem State.wait_owed (n : Nat) : (s.wait n).owed = s.owed := rfl
@[simp] theorem State.wait_copies (n : Nat) : (s.wait n).copies = s.copies := rfl
@[simp] theorem State.wait_stackCk (n : Nat) : (s.wait n).stackCk = s.stackCk := rfl
@[simp] theorem State.wait_late (n : Nat) : (s.wait n).late = s.late := rfl
@[simp] theorem State.wait_locks (n : Nat) : (s.wait n).locks = s.locks := rfl
@[simp] theorem State.wait_caches (n : Nat) : (s.wait n).caches = s.caches := rfl
@[simp] theorem State.wait_ecc (n : Nat) : (s.wait n).ecc = s.ecc := rfl
@[simp] theorem State.wait_memRing (n : Nat) : (s.wait n).memRing = s.memRing := rfl
@[simp] theorem State.wait_lcShare (n : Nat) : (s.wait n).lcShare = s.lcShare := rfl
@[simp] theorem State.wait_chans (n : Nat) : (s.wait n).chans = s.chans := rfl
@[simp] theorem State.wait_stackTbl (n : Nat) : (s.wait n).stackTbl = s.stackTbl := rfl
@[simp] theorem State.wait_groups (n : Nat) : (s.wait n).groups = s.groups := rfl
@[simp] theorem State.wait_fab (n : Nat) : (s.wait n).fab = s.fab := rfl
@[simp] theorem State.wait_feeds (n : Nat) : (s.wait n).feeds = s.feeds := rfl
@[simp] theorem State.wait_toks (n : Nat) : (s.wait n).toks = s.toks := rfl
@[simp] theorem State.wait_sessions (n : Nat) : (s.wait n).sessions = s.sessions := rfl
@[simp] theorem State.wait_media (n : Nat) : (s.wait n).media = s.media := rfl
@[simp] theorem State.wait_ctrl (n : Nat) : (s.wait n).ctrl = s.ctrl := rfl
@[simp] theorem State.wait_power (n : Nat) : (s.wait n).power = s.power := rfl

/-! State.finish -/
@[simp] theorem State.finish_order (n st : Nat) (d : Option Nat) (c : Counts) : (s.finish n st d c).order = s.order := rfl
@[simp] theorem State.finish_cores (n st : Nat) (d : Option Nat) (c : Counts) : (s.finish n st d c).cores = s.cores := rfl
@[simp] theorem State.finish_mtime (n st : Nat) (d : Option Nat) (c : Counts) : (s.finish n st d c).mtime = s.mtime := rfl
@[simp] theorem State.finish_pending (n st : Nat) (d : Option Nat) (c : Counts) : (s.finish n st d c).pending = s.pending := rfl
@[simp] theorem State.finish_free (n st : Nat) (d : Option Nat) (c : Counts) : (s.finish n st d c).free = s.free := rfl
@[simp] theorem State.finish_nextPkt (n st : Nat) (d : Option Nat) (c : Counts) : (s.finish n st d c).nextPkt = s.nextPkt := rfl
@[simp] theorem State.finish_nextSeq (n st : Nat) (d : Option Nat) (c : Counts) : (s.finish n st d c).nextSeq = s.nextSeq := rfl
@[simp] theorem State.finish_rings (n st : Nat) (d : Option Nat) (c : Counts) : (s.finish n st d c).rings = s.rings := rfl
@[simp] theorem State.finish_fns (n st : Nat) (d : Option Nat) (c : Counts) : (s.finish n st d c).fns = s.fns := rfl
@[simp] theorem State.finish_reply (n st : Nat) (d : Option Nat) (c : Counts) : (s.finish n st d c).reply = s.reply := rfl
@[simp] theorem State.finish_msix (n st : Nat) (d : Option Nat) (c : Counts) : (s.finish n st d c).msix = s.msix := rfl
@[simp] theorem State.finish_parts (n st : Nat) (d : Option Nat) (c : Counts) : (s.finish n st d c).parts = s.parts := rfl
@[simp] theorem State.finish_regions (n st : Nat) (d : Option Nat) (c : Counts) : (s.finish n st d c).regions = s.regions := rfl
@[simp] theorem State.finish_ctxs (n st : Nat) (d : Option Nat) (c : Counts) : (s.finish n st d c).ctxs = s.ctxs := rfl
@[simp] theorem State.finish_clients (n st : Nat) (d : Option Nat) (c : Counts) : (s.finish n st d c).clients = s.clients := rfl
@[simp] theorem State.finish_engines (n st : Nat) (d : Option Nat) (c : Counts) : (s.finish n st d c).engines = s.engines := rfl
@[simp] theorem State.finish_units (n st : Nat) (d : Option Nat) (c : Counts) : (s.finish n st d c).units = s.units := rfl
@[simp] theorem State.finish_moverLast (n st : Nat) (d : Option Nat) (c : Counts) : (s.finish n st d c).moverLast = s.moverLast := rfl
@[simp] theorem State.finish_unitLast (n st : Nat) (d : Option Nat) (c : Counts) : (s.finish n st d c).unitLast = s.unitLast := rfl
@[simp] theorem State.finish_items (n st : Nat) (d : Option Nat) (c : Counts) : (s.finish n st d c).items = s.items := rfl
@[simp] theorem State.finish_mem (n st : Nat) (d : Option Nat) (c : Counts) : (s.finish n st d c).mem = s.mem := rfl
@[simp] theorem State.finish_sp (n st : Nat) (d : Option Nat) (c : Counts) : (s.finish n st d c).sp = s.sp := rfl
@[simp] theorem State.finish_spLost (n st : Nat) (d : Option Nat) (c : Counts) : (s.finish n st d c).spLost = s.spLost := rfl
@[simp] theorem State.finish_host (n st : Nat) (d : Option Nat) (c : Counts) : (s.finish n st d c).host = s.host := rfl
@[simp] theorem State.finish_noAtomics (n st : Nat) (d : Option Nat) (c : Counts) : (s.finish n st d c).noAtomics = s.noAtomics := rfl
@[simp] theorem State.finish_held (n st : Nat) (d : Option Nat) (c : Counts) : (s.finish n st d c).held = s.held := rfl
@[simp] theorem State.finish_owed (n st : Nat) (d : Option Nat) (c : Counts) : (s.finish n st d c).owed = s.owed := rfl
@[simp] theorem State.finish_copies (n st : Nat) (d : Option Nat) (c : Counts) : (s.finish n st d c).copies = s.copies := rfl
@[simp] theorem State.finish_stackCk (n st : Nat) (d : Option Nat) (c : Counts) : (s.finish n st d c).stackCk = s.stackCk := rfl
@[simp] theorem State.finish_late (n st : Nat) (d : Option Nat) (c : Counts) : (s.finish n st d c).late = s.late := rfl
@[simp] theorem State.finish_locks (n st : Nat) (d : Option Nat) (c : Counts) : (s.finish n st d c).locks = s.locks := rfl
@[simp] theorem State.finish_caches (n st : Nat) (d : Option Nat) (c : Counts) : (s.finish n st d c).caches = s.caches := rfl
@[simp] theorem State.finish_ecc (n st : Nat) (d : Option Nat) (c : Counts) : (s.finish n st d c).ecc = s.ecc := rfl
@[simp] theorem State.finish_memRing (n st : Nat) (d : Option Nat) (c : Counts) : (s.finish n st d c).memRing = s.memRing := rfl
@[simp] theorem State.finish_lcShare (n st : Nat) (d : Option Nat) (c : Counts) : (s.finish n st d c).lcShare = s.lcShare := rfl
@[simp] theorem State.finish_chans (n st : Nat) (d : Option Nat) (c : Counts) : (s.finish n st d c).chans = s.chans := rfl
@[simp] theorem State.finish_stackTbl (n st : Nat) (d : Option Nat) (c : Counts) : (s.finish n st d c).stackTbl = s.stackTbl := rfl
@[simp] theorem State.finish_groups (n st : Nat) (d : Option Nat) (c : Counts) : (s.finish n st d c).groups = s.groups := rfl
@[simp] theorem State.finish_fab (n st : Nat) (d : Option Nat) (c : Counts) : (s.finish n st d c).fab = s.fab := rfl
@[simp] theorem State.finish_feeds (n st : Nat) (d : Option Nat) (c : Counts) : (s.finish n st d c).feeds = s.feeds := rfl
@[simp] theorem State.finish_toks (n st : Nat) (d : Option Nat) (c : Counts) : (s.finish n st d c).toks = s.toks := rfl
@[simp] theorem State.finish_sessions (n st : Nat) (d : Option Nat) (c : Counts) : (s.finish n st d c).sessions = s.sessions := rfl
@[simp] theorem State.finish_media (n st : Nat) (d : Option Nat) (c : Counts) : (s.finish n st d c).media = s.media := rfl
@[simp] theorem State.finish_ctrl (n st : Nat) (d : Option Nat) (c : Counts) : (s.finish n st d c).ctrl = s.ctrl := rfl
@[simp] theorem State.finish_power (n st : Nat) (d : Option Nat) (c : Counts) : (s.finish n st d c).power = s.power := rfl

end Sys2Proof.Machine
end

