-- ==== Sys2Proof/Laws/Table.lean ====
section
/-! SUPPORT. The laws of the sparse table: reading after writing, and the canonical form. -/

namespace Sys2Proof

variable {α : Type} [DecidableEq α]

theorem Tbl.wfFrom_mono {d : α} {lo lo' : Nat} {t : Tbl α} (h : lo' ≤ lo) (w : Tbl.wfFrom d lo t = true) :
    Tbl.wfFrom d lo' t = true := by
  cases t with
  | nil => rfl
  | cons e r =>
    simp only [Tbl.wfFrom, Bool.and_eq_true, decide_eq_true_eq] at w ⊢
    exact ⟨⟨by omega, w.1.2⟩, w.2⟩

/-- Writing keeps the canonical form. -/
theorem Tbl.set_wfFrom {d : α} {n : Nat} {v : α} {t : Tbl α} : ∀ {lo : Nat}, lo ≤ n → Tbl.wfFrom d lo t = true →
    Tbl.wfFrom d lo (Tbl.set d t n v) = true := by
  induction t with
  | nil =>
    intro lo h w
    by_cases hv : v = d <;> simp [Tbl.set, Tbl.wfFrom, hv, h]
  | cons e r ih =>
    intro lo h w
    obtain ⟨k, x⟩ := e
    simp only [Tbl.wfFrom, Bool.and_eq_true, decide_eq_true_eq] at w
    obtain ⟨⟨h1, h2⟩, h3⟩ := w
    by_cases hlt : n < k
    · by_cases hv : v = d
      · simp [Tbl.set, hlt, hv, Tbl.wfFrom, h1, h2, h3]
      · have : n + 1 ≤ k := by omega
        simp [Tbl.set, hlt, hv, Tbl.wfFrom, h, h2, h3, this]
    · by_cases heq : n = k
      · subst heq
        by_cases hv : v = d
        · simp only [Tbl.set, hlt, hv, if_true, if_false]
          exact Tbl.wfFrom_mono (by omega) h3
        · simp [Tbl.set, hv, Tbl.wfFrom, h1, h3]
      · have := ih (lo := k + 1) (by omega) h3
        simp [Tbl.set, hlt, heq, Tbl.wfFrom, h1, h2, this]

theorem Tbl.set_wf {d : α} {t : Tbl α} (n : Nat) (v : α) (w : Tbl.wf d t = true) : Tbl.wf d (Tbl.set d t n v) = true :=
  Tbl.set_wfFrom (Nat.zero_le n) w

theorem Tbl.get_below {d : α} {t : Tbl α} : ∀ {lo n : Nat}, Tbl.wfFrom d lo t = true → n < lo → Tbl.get d t n = d := by
  induction t with
  | nil => intros; rfl
  | cons e r ih =>
    intro lo n w h
    obtain ⟨k, x⟩ := e
    simp only [Tbl.wfFrom, Bool.and_eq_true, decide_eq_true_eq] at w
    have : n ≠ k := by omega
    have hr : Tbl.get d r n = d := ih w.2 (show n < k + 1 by omega)
    simp [Tbl.get, this, hr]

/-- Reading what was written elsewhere. -/
theorem Tbl.get_set_other {d : α} {n m : Nat} {v : α} (h : m ≠ n) : ∀ t : Tbl α, Tbl.get d (Tbl.set d t n v) m = Tbl.get d t m := by
  intro t
  induction t with
  | nil => by_cases hv : v = d <;> simp [Tbl.set, Tbl.get, hv, h]
  | cons e r ih =>
    obtain ⟨k, x⟩ := e
    by_cases hlt : n < k
    · by_cases hv : v = d <;> simp [Tbl.set, hlt, hv, Tbl.get, h]
    · by_cases heq : n = k
      · subst heq
        by_cases hv : v = d <;> simp [Tbl.set, hv, Tbl.get, h]
      · simp [Tbl.set, hlt, heq, Tbl.get, ih]

/-- Reading what was written. -/
theorem Tbl.get_set_same {d : α} {n : Nat} {v : α} {t : Tbl α} : ∀ {lo : Nat}, Tbl.wfFrom d lo t = true →
    Tbl.get d (Tbl.set d t n v) n = v := by
  induction t with
  | nil => intro lo w; by_cases hv : v = d <;> simp [Tbl.set, Tbl.get, hv]
  | cons e r ih =>
    intro lo w
    obtain ⟨k, x⟩ := e
    simp only [Tbl.wfFrom, Bool.and_eq_true, decide_eq_true_eq] at w
    by_cases hlt : n < k
    · by_cases hv : v = d
      · have h1 : n ≠ k := by omega
        simp [Tbl.set, hlt, hv, Tbl.get, h1, Tbl.get_below w.2 (show n < k + 1 by omega)]
      · simp [Tbl.set, hlt, hv, Tbl.get]
    · by_cases heq : n = k
      · subst heq
        by_cases hv : v = d
        · simp [Tbl.set, hv, Tbl.get_below w.2 (show n < n + 1 by omega)]
        · simp [Tbl.set, hv, Tbl.get]
      · simp [Tbl.set, hlt, heq, Tbl.get, ih w.2]

/-- Dropping entries by their numbers keeps the canonical form. -/
theorem Tbl.filter_wfFrom {d : α} {f : Nat × α → Bool} {t : Tbl α} : ∀ {lo : Nat}, Tbl.wfFrom d lo t = true →
    Tbl.wfFrom d lo (t.filter f) = true := by
  induction t with
  | nil => intros; rfl
  | cons e r ih =>
    intro lo w
    obtain ⟨k, x⟩ := e
    simp only [Tbl.wfFrom, Bool.and_eq_true, decide_eq_true_eq] at w
    by_cases hf : f (k, x)
    · simp [hf, Tbl.wfFrom, w.1.1, w.1.2, ih w.2]
    · simp only [List.filter_cons, hf]
      exact Tbl.wfFrom_mono (by omega) (ih w.2)

theorem Tbl.filter_wf {d : α} {f : Nat × α → Bool} {t : Tbl α} (w : Tbl.wf d t = true) : Tbl.wf d (t.filter f) = true :=
  Tbl.filter_wfFrom w

omit [DecidableEq α] in
/-- Reading after entries are dropped by their numbers. -/
theorem Tbl.get_filter {d : α} (f : Nat → Bool) (n : Nat) : ∀ t : Tbl α,
    Tbl.get d (t.filter (fun c => f c.1)) n = if f n then Tbl.get d t n else d := by
  intro t
  induction t with
  | nil => simp [Tbl.get]
  | cons e r ih =>
    obtain ⟨k, x⟩ := e
    by_cases hk : f k
    · by_cases hn : n = k
      · subst hn; simp [hk, Tbl.get]
      · simp [hk, Tbl.get, hn, ih]
    · by_cases hn : n = k
      · subst hn; simp [hk, ih]
      · simp [hk, Tbl.get, hn, ih]

end Sys2Proof
end

