-- ==== Sys2Proof/Machine/Wire.lean ====
section
/-! DEFINITION. A received packet's bytes read as the packet they spell and, where it is a memory operation or a reply, as the command
it is (R342 to R344). -/

namespace Sys2Proof.Machine

/-- R342, R344: the packet that the bytes of its flits spell, and its LSEQ. Of BULK that is one packet of an operation. -/
def readPacket (b : List Byte) : TxPkt × Nat :=
  let n (o k : Nat) : Nat := le ((b.drop o).take k)
  let flags := n 1 1
  ({ typ := n 0 1, vc := flags % 4, lc := flags.testBit 2, last := flags.testBit 3, shadow := flags.testBit 4, part := flags / 32 % 8,
     dest := n 4 2, src := n 6 2, hdr := readOut (typeSizes (n 0 1)) ((b.drop 10).take 22), data := (b.drop 32).take (n 2 2) }, n 8 2 % 4096)

/-- R343: the command that a packet received on port `port` is, where it names memory or answers a request. -/
def TxPkt.command (k : TxPkt) (port : Nat) (via : Via) : Option Instr :=
  let f (i : Nat) : Nat := k.hdr.getD i 0
  let h : MemHdr := { port, part := k.part, src := k.src, tag := f 0, addr := f 1, lc := k.lc, via }
  match k.typ with
  | 0x01 => some (.read h (f 2))
  | 0x02 => some (.write h k.data)
  | 0x03 => some (.atomic h (f 3 % 256) (f 3 / 256 % 256) (f 2))
  | 0x04 => some (.pull h (f 2) (f 3 + 1))
  | 0x0C => some (.bulk h k.last (f 2) k.data)
  | 0x10 =>
    let h : MemHdr := { h with addr := 0 }
    match f 2 with
    | 3 => some (.bulkDone h (f 1) (f 4))
    | 4 => some (.msgAck h)
    | _ => some (.resp h (f 1) (f 2) (f 3) (f 4) k.data)
  | _ => none

end Sys2Proof.Machine
end

