-- ==== Sys2Proof/Tests/Slice0.lean ====
section
/-! SUPPORT. Tests: commands that no row spells, worked examples of the spec, and, for each statement, states and operands that meet
the hypotheses of each of its clauses (test_meets_...). -/

set_option Elab.async false

namespace Sys2Proof.Tests

open Sys2Proof.Machine

/-! ### Small states -/

/-- The module right after reset. -/
def z : State := State.reset

/-- A started packet with these parameters, in context 0. -/
def act (op : Nat) (params : List Byte) : Packet :=
  { opcode := op, params, plen := params.length, phase := .started, startSeq := 1 }

/-- The module with these packets in queue 0, in a partition. -/
def withPkts (ks : List Packet) (s : State := z) (part : Nat := 0) : State :=
  { s with queues := [(0, { enable := true, pkts := ks, part })], nextPkt := 9, nextSeq := 9 }

/-- The module with host memory holding bytes from bus address `a` on. -/
def withHost (a : Nat) (bs : List Byte) (s : State := z) : State := s.setHost a bs

/-- Host memory at a bus address. -/
def hostAt (a : Nat) : Nat := 0xFFFF * 2 ^ 48 + a

/-- Bytes of fields: value and size. -/
def block (l : List (Nat × Nat)) : List Byte := l.flatMap (fun x => toLe x.2 x.1)

def canonical (s : State) : Bool :=
  s.mem.wf && s.sp.wf && Tbl.wf 0#8 s.host && Tbl.wf {} s.queues && Tbl.wf {} s.rings && Tbl.wf {} s.fns && Tbl.wf {} s.parts
    && Tbl.wf {} s.regions && Tbl.wf {} s.ctxs && Tbl.wf (0, 0) s.clients && Tbl.wf {} s.engines && Tbl.wf {} s.units && Tbl.wf 0 s.moverLast && Tbl.wf 0 s.unitLast && Tbl.wf [] s.caches && Tbl.wf {} s.chans
    && Tbl.wf {} s.stackTbl && Tbl.wf {} s.fab.ports && Tbl.wf {} s.feeds && Tbl.wf {} s.toks && Tbl.wf {} s.sessions

theorem canon {s : State} (h : canonical s = true) : s.Canonical := by
  simp only [canonical, Bool.and_eq_true] at h
  obtain ⟨⟨⟨⟨⟨⟨⟨⟨⟨⟨⟨⟨⟨⟨⟨⟨⟨⟨⟨⟨a, b⟩, c⟩, d⟩, e⟩, f⟩, g⟩, i⟩, j⟩, k⟩, l⟩, m⟩, n⟩, o⟩, p⟩, q⟩, r⟩, t⟩, u⟩, v⟩, w⟩ := h
  exact ⟨a, b, c, d, e, f, g, i, j, k, l, m, n, o, p, q, r, t, u, v, w⟩

theorem laid {s : State} (h : s.regions = []) : s.Laid := ⟨by simp [h], by simp [h]⟩

/-- Nothing but data in memory, as far as a finite look can tell. -/
def plainB (s : State) : Bool :=
  !s.ecc.armed && s.mem.ck.isEmpty && s.sp.ck.isEmpty && s.locks.isEmpty && s.groups.isEmpty && s.chans.isEmpty && (s.copies.isEmpty && s.stackCk.isEmpty) && s.power.st == .active

theorem plain {s : State} (h : plainB s = true) : s.Plain := by
  simp only [plainB, Bool.and_eq_true, Bool.not_eq_true', List.isEmpty_iff, beq_iff_eq] at h
  obtain ⟨⟨⟨⟨⟨⟨⟨a, b⟩, c⟩, d⟩, e⟩, f⟩, i⟩, g⟩ := h
  refine ⟨a, fun w => ?_, d, e, fun c => ?_, i, g⟩
  · simp only [Mem.ckAt, b, c, Tbl.get]; decide
  · simp [State.chan, f, Tbl.get]

/-- A finite look at what State.Calm says. -/
def calmB (s : State) : Bool := s.ecc.heldCe.isEmpty && s.fab.hold == 0 && s.fab.slew == 0 && s.fab.ports.all (fun p => p.2.swaps.isEmpty)

theorem calm {s : State} (h : calmB s = true) : s.Calm := by
  simp only [calmB, Bool.and_eq_true, List.isEmpty_iff, beq_iff_eq, List.all_eq_true] at h
  exact ⟨h.1.1.1, h.1.1.2, h.1.2, h.2⟩

theorem noTransfers {s : State} (h : s.ctxs.all (fun c => c.2.spillQ.isEmpty && c.2.fetchQ.isEmpty) = true) : s.NoTransfers := by
  intro c
  simp only [State.ctx]
  generalize s.ctxs = l at h
  induction l with
  | nil => exact ⟨rfl, rfl⟩
  | cons x l ih =>
    simp only [List.all_cons, Bool.and_eq_true, List.isEmpty_iff] at h
    simp only [Tbl.get]
    split
    · exact h.1
    · exact ih h.2

theorem quiet {s : State} (h : (!s.ecc.armed && !s.ecc.ring.enable && !s.memRing.enable && !s.ctrl.ring.enable) = true) : s.Quiet := by
  simp only [Bool.and_eq_true, Bool.not_eq_true'] at h
  exact ⟨h.1.1.1, h.1.1.2, h.1.2, h.2⟩

/-- Whether a read answers this value. -/
def answers {α : Type} [DecidableEq α] (x : Except Err α) (v : α) : Bool := match x with
  | .ok y => decide (y = v)
  | .error _ => false

theorem answered {α : Type} [DecidableEq α] {x : Except Err α} {v : α} (h : answers x v = true) : x = .ok v := by
  cases x with
  | ok y => simp [answers] at h; rw [h]
  | error e => simp [answers] at h

/-! ### Commands that no row spells -/

/-- An ill-formed command for each check of Instr.wf. -/
def illFormed : List Instr :=
  [.nop 4096, .taskComplete 0 0 (2 ^ 64), .cmdTail 34 0 0, .cmdTail 0 4096 0, .cmdTail 0 0 (2 ^ 32), .cplHead 34 0 0, .packetFetch 4096,
   .packetStart 4096, .mtimeNotBefore 4096, .waitSemaphoreReread 4096, .packetCompletion 0 (2 ^ 64), .mgtQcfg 34 0, .mgtQbase 0 true (2 ^ 32),
   .resume 34, .flush 34, .mgtCcfg 0 3 0, .memRattr 34 0, .memRetire 0 (2 ^ 32), .channelRetirementDone 512, .eccFlipmaskArm 34 0,
   .flipmaskWithdraw 34 0, .fabPortEnable 34 0, .retrain 34, .fabModuleId 34 0, .rstCoreRetire 34 0, .pwrCapW 34 0, .mgtVfmap 34 0,
   .elogRingConfig 0 3 0 0, .elogRingConfig 0 0 5 0, .readClears 0 (2 ^ 24), .loReadLatch 34 0, .registerWrite 0 0 (2 ^ 32),
   .bar4Read 0 (2 ^ 41) 1, .bar4Read 0 0 0, .bar4Read 0 0 4097, .bar4Write 0 0 [], .atomicopRequest 0 6 0, .perstnN 2,
   .pcieLinkDown 2, .pcieLinkUp 2, .engineWatchdog 80, .unitHang 2, .resetTimerExpiry 0 80, .resetTimerExpiry 1 8, .resetTimerExpiry 2 8,
   .resetTimerExpiry 3 2, .resetTimerExpiry 4 1, .resetTimerExpiry 5 0, .resetDone 0 0 ⟨2 ^ 64, []⟩, .resetDone 0 0 ⟨0, [512]⟩, .replayPass 80 0, .rstReplayMs 80,
   .replayFault 0 256 0, .contextLoad 0 (2 ^ 20), .sliceGrant 80 0, .sliceExpiry 80]

def illFormed2 : List Instr :=
  let m : GroupMsg := ⟨0, 0, 0, 0, 0, 0, 0, 0, {}⟩
  let h : MemHdr := ⟨0, 0, 0, 0, 0, false, {}⟩
  let r : ReduceHdr := ⟨0, 0, false, 0, 0, 0, 0, 0, 0, 0, true, 0, 0, 0, {}⟩
  let b : BcastHdr := ⟨0, 0, 0, 0, 0, 0, false, 0, 0, 0, {}⟩
  let f : LinkFlit := ⟨false, false, 0, 0, 0, 0, 0, 0, 0, 0⟩
  [.fwdDone (2 ^ 20) 0, .spillDone 0 0 256 0, .fetchDone 0 0 0 (2 ^ 64), .bucketSend (2 ^ 16) 0, .bucketSend 0 (2 ^ 16),
   .reduce { r with port := 8 } [], .reduce { r with shardOff := 2 ^ 32 } [], .slotTableSum (2 ^ 16) 0 false false false,
   .retry { m with port := 8 }, .retryResend 0 0 (2 ^ 16), .resend { m with src := 2 ^ 16 }, .bucketDeadline 0 (2 ^ 16) false,
   .shardPublish (2 ^ 16) 0 false, .bcast { b with owner := 2 ^ 16 } [], .bcast { b with addr := 2 ^ 40 } [],
   .normUp { m with gid := 2 ^ 16 } [], .normDown m (2 ^ 64) 0 0, .normDown m 0 (2 ^ 32) 0, .normDown m 0 0 256, .ready { m with step := 2 ^ 32 },
   .commit { m with attempt := 2 ^ 8 }, .abortReq { m with mseq := 2 ^ 32 }, .abort { m with srcRank := 2 ^ 16 },
   .decisionQuery { m with arg := 2 ^ 64 }, .decision { m with port := 8 }, .rejoin { m with port := 8 }, .rejoinAns { m with port := 8 },
   .read { h with port := 8 } 0, .read h (2 ^ 64), .read { h with via := { lseq := some 4096 } } 0, .write { h with part := 8 } [], .atomic h 256 0 0, .atomic h 0 256 0, .atomic h 0 0 (2 ^ 64),
   .pull h (2 ^ 48) 1, .pull h 0 0, .bulk h false (2 ^ 32) [], .resp h 256 0 0 0 [], .resp h 0 3 0 0 [], .bulkDone h 256 0, .msgAck { h with tag := 2 ^ 32 },
   .messageRepeat (2 ^ 16) 0, .timeSync ⟨8, {}⟩ 0 0 0 0 0 0, .timeSync ⟨0, {}⟩ 0 256 0 0 0 0, .timeSyncExchange 8,
   .portState ⟨8, {}⟩ 0 true, .portState ⟨0, {}⟩ (2 ^ 16) true, .departing ⟨0, {}⟩ 0 (2 ^ 32), .link 8 f, .link 0 { f with ackSeq := 4096 },
   .link 0 { f with swapOut := 128 }, .link 0 { f with swapAfter := 2 ^ 18 }, .remoteTimeout (2 ^ 32),
   .portTrainingDone 0 true 8, .laneSpare 0 100, .laneRetrained 8 0 true, .discardedPacket ⟨0, {}⟩ 256 ⟨0, 0⟩, .discardedPacket ⟨0, {}⟩ 1 ⟨4, 0⟩, .discardedPacket ⟨0, {}⟩ 1 ⟨0, 16353⟩, .patrolScrub 16,
   .stackThermalSample 0 256, .quadrantThermalSample 32 0, .powerCapSample (2 ^ 13) 0, .channelLost 512, .stackSelfRefresh 16,
   .sampleDecodeStart (2 ^ 16), .sampleReady 0 0 (2 ^ 64), .softLate (2 ^ 16) 0, .hardLate (2 ^ 16) 0, .reorderRelease (2 ^ 16),
   .outputRecord (2 ^ 16), .outConsReread (2 ^ 16), .dieLocalChangeDone 64]

theorem test_illFormed_refused : illFormed.all (fun c => !c.wf) = true ∧ illFormed2.all (fun c => !c.wf) = true := by decide

/-! ### Worked examples of the spec -/

/-- R491's worked example (memory system): where partition-local offset 0x00_1234_5600 lives under the default hash. -/
theorem test_place_default : z.place 0 0x12345600 = 328 * 2 ^ 31 + 2330 * 256 ∧
    cacheKey (z.place 0 0x12345600) = 5 * 32768 + 0xD10 := by decide +kernel

/-- The same offset inside a die-local window with base 0 and SIZE_LOG2 33. -/
theorem test_place_dieLocal :
    let s : State := { z with regions := [(0, { valid := true, dieLocal := true, size := 33 })] }
    s.place 0 0x12345600 = 32 * 2 ^ 31 + 18641 * 256 ∧ cacheKey (s.place 0 0x12345600) = 0x68C0 := by decide +kernel

/-! ### The hypotheses of the statements are met: the machine and the command protocol -/

theorem test_meets_EmptyQueueLetsTimePass : z.pending = [] ∧ z.power.st ≠ .sleep ∧ z.power.st ≠ .off ∧ z.fab.hold = 0 ∧ z.fab.slew = 0 ∧
    z.Calm ∧
    ({ z with power := { z.power with st := .sleep } } : State).pending = [] :=
  ⟨by decide +kernel, by decide +kernel, by decide +kernel, by decide +kernel, by decide +kernel, calm (by decide +kernel), by decide +kernel⟩

theorem test_meets_EveryCommandAnswers : (Instr.cmdTail 33 4095 (2 ^ 32 - 1)).wf = true ∧ (Instr.cmdTail 34 4095 0).wf = false := by decide

/-- A state, and the next one, for the invariants that every step keeps. -/
theorem test_meets_StepKeepsCanonical : ∃ t, z.Canonical ∧ step z = .next t := ⟨_, canon (by decide +kernel), rfl⟩

theorem test_meets_CommandsKeepQueueAndFuses : ∃ t, exec .hbCount z = .next t := ⟨_, rfl⟩

theorem test_meets_StepKeepsNumbers : ∃ t, (withPkts [act 0x0802 []]).Canonical ∧ (withPkts [act 0x0802 []]).Numbered ∧
    step (withPkts [act 0x0802 []]) = .next t := ⟨_, canon (by decide +kernel), by unfold State.Numbered; decide +kernel, rfl⟩

/-- The module with one region of 1 MiB in force. -/
def regioned : State := { z with regions := [(0, { valid := true, size := 20 })] }

theorem test_meets_RegionsStayLaid : ∃ t, regioned.Canonical ∧ regioned.Laid ∧ step regioned = .next t :=
  ⟨_, canon (by decide +kernel), ⟨by decide +kernel, by decide +kernel⟩, rfl⟩

/-- A packet with every field at its largest value, and its parameters inline. -/
def widest : Packet :=
  { opcode := 0xFFFF, flags := 0xF7, fence := 0xFF, ctx := 0xFFFFF, prio := 3, cls := 7, tag := 0xFFFFFFFF, plen := 5,
    notBefore := 2 ^ 64 - 1, waitAddr := 2 ^ 64 - 1, waitVal := 2 ^ 64 - 1, sigAddr := 2 ^ 64 - 1, params := List.replicate 5 0xFF#8 }

theorem test_meets_PacketReadsAsWritten : widest.spells = true ∧
    ({ widest with flags := 0xFF, params := [], indirect := some (2 ^ 64 - 1) } : Packet).spells = true := by decide +kernel

/-- Queue 4095 with 10 slots filled. -/
def filledQ : State := { z with queues := [(4095, { head := 50, tail := 60 })] }

theorem test_meets_DoorbellsMoveIndices :
    (isFn 33 = true ∧ isQueue 4095 = true ∧ (filledQ.fnUp 33 && filledQ.fnSees 33 0) = false) ∧
    (isFn 17 = true ∧ (filledQ.fnUp 17 && filledQ.fnSees 17 0) = true ∧ 2 ^ (filledQ.queue 4095).log2 ≤ 2 ^ 32 - 1) ∧
    (49 < 2 ^ (filledQ.queue 4095).log2 ∧ (filledQ.queue 4095).filled + (49 + 64 - 60) % 64 < 64) ∧
    (50 < 2 ^ (filledQ.queue 4095).log2 ∧ 64 ≤ (filledQ.queue 4095).filled + (50 + 64 - 60) % 64) ∧
    (z.Canonical ∧ isQueue 4095 = true ∧ 63 < 2 ^ (z.ring 4095).log2 ∧ (z.ring 4095).log2 ≤ 16 ∧ z.fnUp 17 = true ∧
      z.fnSees 17 (z.partOf 4095) = true ∧ (z.ring 4095).waiting = []) :=
  ⟨by decide +kernel, by decide +kernel, by decide +kernel, by decide +kernel, canon (by decide +kernel), by decide +kernel⟩

/-- A packet as it stands in a ring, and the module whose queue 0, in host memory, holds it. -/
def policyPkt : Packet := { opcode := 0x0802, plen := 16, params := List.replicate 16 0#8 }
def ringed (k : Packet) : State :=
  withHost 0x1000 (encodePacket k) { z with queues := [(0, { base := hostAt 0x1000, enable := true, tail := (encodePacket k).length / 64 })] }

theorem test_meets_FetchTakesPacket :
    ((ringed policyPkt).Canonical ∧ (ringed policyPkt).fetches 0 = true ∧ ((ringed policyPkt).queue 0).flushing = false ∧
      ((ringed policyPkt).queue 0).overrun = 0 ∧ isHost ((ringed policyPkt).queue 0).base = true ∧
      ((ringed policyPkt).queue 0).base + 64 * ((ringed policyPkt).queue 0).slots ≤ 2 ^ 64 ∧ policyPkt.spells = true ∧ policyPkt.id = (ringed policyPkt).nextPkt ∧
      (ringed policyPkt).RingHolds 0 (encodePacket policyPkt) ∧
      (ringed policyPkt).fetchCheck 0 policyPkt.written (encodePacket policyPkt) = none) ∧
    ((ringed {}).Canonical ∧ (ringed {}).fetches 0 = true ∧ ({} : Packet).spells = true ∧ (ringed {}).RingHolds 0 (encodePacket {})) ∧
    z.fetches 4095 = false ∧ (z.queue 4095).flushing = false :=
  ⟨⟨canon (by decide +kernel), by decide +kernel, by decide +kernel, by decide +kernel, by decide +kernel, by decide +kernel, by decide +kernel,
    by decide +kernel, by unfold State.RingHolds; refine ⟨answered ?_, answered ?_, ?_, ?_, ?_, ?_⟩ <;> decide +kernel,
    by decide +kernel⟩, ⟨canon (by decide +kernel), by decide +kernel, by decide +kernel, by unfold State.RingHolds; refine ⟨answered ?_, answered ?_, ?_, ?_, ?_, ?_⟩ <;> decide +kernel⟩, by decide +kernel⟩

/-- A fetched packet at the front, behind one that has started. -/
def waitingPkt : Packet := { policyPkt with id := 1, fence := 2, notBefore := 0 }
def frontB (fence nb : Nat) : State := withPkts [act 0x0802 [], { policyPkt with id := 1, fence, notBefore := nb }]

theorem test_meets_PacketStartsWhenMet :
    ((frontB 2 0).MayStart 0 [act 0x0802 []] waitingPkt ∧ (frontB 2 0).pkt 1 = some (0, waitingPkt) ∧
      (frontB 2 0).startCheck 0 waitingPkt = none) ∧
    ((frontB 1 0).front 0 = some ([act 0x0802 []], { waitingPkt with fence := 1 }) ∧ fenceMet [act 0x0802 []] { waitingPkt with fence := 1 } = false) ∧
    ((frontB 2 1).front 0 = some ([act 0x0802 []], { waitingPkt with notBefore := 1 }) ∧ (frontB 2 1).mtime < 1) :=
  ⟨⟨by unfold State.MayStart; decide +kernel, by decide +kernel, by decide +kernel⟩, by decide +kernel, by decide +kernel⟩

/-- A packet that waits for a semaphore in host memory. -/
def semPkt : Packet := { policyPkt with flags := 1, waitAddr := hostAt 0x2000, waitVal := 1 }

/-- A finished packet, and the module whose completion ring 0, in host memory, is at its last record. -/
def donePkt (fl : Nat) : Packet :=
  { act 0x0802 [] with phase := .finished, flags := fl, sigAddr := hostAt 0x2000, counts := { sat := 70000 } }
def doneB (fl : Nat) : State := { withPkts [donePkt fl] with rings := [(0, { base := hostAt 0x1000, enable := true, tail := 63, head := 1 })] }

theorem ends (fl : Nat) (h : fl < 4) : (doneB fl).MayEnd 0 0 (donePkt fl) := by
  have : fl = 0 ∨ fl = 1 ∨ fl = 2 ∨ fl = 3 := by omega
  rcases this with rfl | rfl | rfl | rfl <;>
    exact ⟨by decide +kernel, rfl, rfl, rfl, by decide, by decide +kernel, by decide +kernel, by decide +kernel, by decide +kernel, by decide +kernel,
      calm (by decide +kernel), noTransfers (by decide +kernel)⟩

theorem test_meets_SemaphoresWaitAndCount :
    ((withPkts [semPkt]).front 0 = some ([], semPkt) ∧ semPkt.flags.testBit 0 = true ∧ isHost semPkt.waitAddr = true ∧ semPkt.waitAddr % 8 = 0 ∧
      (withPkts [semPkt]).hostPath 0 = true) ∧
    ((doneB 2).Canonical ∧ (doneB 2).Numbered ∧ (doneB 2).MayEnd 0 0 (donePkt 2) ∧ (donePkt 2).flags.testBit 1 = true ∧
      (donePkt 2).signalled = false ∧ isCheck (donePkt 2).status = false ∧ ((doneB 2).ctx 0).stepState.isOpen = false ∧ isHost (donePkt 2).sigAddr = true ∧
      (doneB 2).noAtomics.contains ((donePkt 2).sigAddr % 2 ^ 48 / 8) = false ∧ (0x1000 + 32 * 63) + 32 ≤ (donePkt 2).sigAddr % 2 ^ 48) :=
  ⟨by decide +kernel, canon (by decide +kernel), by unfold State.Numbered; decide +kernel, ends 2 (by decide), by decide +kernel⟩

/-- The same while context 0 has a step open. -/
def lateB : State := { doneB 0 with ctxs := [(0, { state := .active, stepState := .fill })] }

theorem test_meets_CompletionWritesRecord :
    ((doneB 0).Canonical ∧ (doneB 0).Numbered ∧ (doneB 0).MayEnd 0 0 (donePkt 0) ∧ (donePkt 0).flags.testBit 1 = false ∧
      (donePkt 0).opcode = 0x0802 ∧ (donePkt 0).status = stOk ∧ (donePkt 0).counts.none = false ∧ ((doneB 0).ctx 0).state ≠ .free ∧
      ((doneB 0).ctx 0).stepState.isOpen = false ∧ (donePkt 0).run.wrote = []) ∧
    (lateB.Canonical ∧ lateB.Numbered ∧ lateB.MayEnd 0 0 (donePkt 0) ∧ (donePkt 0).opcode = 0x0802 ∧ (donePkt 0).status = stOk ∧
      (lateB.ctx 0).stepState.isOpen = true) :=
  ⟨⟨canon (by decide +kernel), by unfold State.Numbered; decide +kernel, ends 0 (by decide), by decide +kernel⟩,
   ⟨canon (by decide +kernel), by unfold State.Numbered; decide +kernel,
    ⟨by decide +kernel, rfl, rfl, rfl, by decide, by decide +kernel, by decide +kernel, by decide +kernel, by decide +kernel, by decide +kernel,
      calm (by decide +kernel), noTransfers (by decide +kernel)⟩, by decide +kernel⟩⟩

/-! ### Registers -/

theorem test_meets_RegisterReadsWhatWasWritten :
    (isFn 17 = true ∧ ((0x03001C, 16) ∈ plainRegisters) ∧ z.Canonical ∧ z.fnUp 17 = true ∧ z.canWrite 17 0x03001C = true) ∧
    (isFn 33 = true ∧ isReg 0xFFFFFC = true ∧ (z.fnUp 33 && z.canWrite 33 0x060018) = false) :=
  ⟨⟨by decide, by decide, canon (by decide +kernel), by decide +kernel, by decide +kernel⟩, by decide +kernel⟩

theorem test_meets_ReadsClearOrLatch :
    (isFn 17 = true ∧ isPf 17 = true ∧ z.fnUp 17 = true ∧ z.order.media = true) ∧
    (latches 0x001008 = true ∧ z.canRead 0 0x001008 = true ∧ z.canRead 0 0x00100C = true ∧ (z.fn 0).latch 0x00100C = none) ∧
    (let s : State := { z with fns := [(0, { latchMt := some 5 })] }
     s.fnUp 0 = true ∧ s.canRead 0 0x00100C = true ∧ (s.fn 0).latch 0x00100C = some 5) := by decide +kernel

theorem test_meets_QueuesAndRingsConfigured :
    (z.Canonical ∧ isFn 17 = true ∧ isPf 17 = true ∧ z.fnUp 17 = true ∧ (z.queue (z.fn 17).qsel).quiescent = true ∧ 6 ≤ fld 0x26 0 5 ∧
      fld 0x30 0 5 ≤ 16 ∧ (z.ring (z.queue (z.fn 17).qsel).ring).waiting = [] ∧ (z.ring (fld 0x30 9 12)).waiting = [] ∧ (z.ring (z.fn 17).csel).enable = false ∧ (z.ring (z.fn 17).csel).waiting = []) ∧
    (let s : State := { z with queues := [(0, { enable := true })], rings := [(0, { enable := true })] }
     s.fnUp 17 = true ∧ (s.ring (s.fn 17).csel).enable = true ∧ (s.ring (s.fn 17).csel).waiting = [] ∧ (s.queue 0).enable = true ∧ fld 0x26 0 5 = (s.queue 0).log2 ∧ (s.queue 0).quiescent = false) :=
  ⟨⟨canon (by decide +kernel), by decide +kernel⟩, by decide +kernel⟩

theorem test_meets_ResumeAndFlush :
    let s : State := { z with queues := [(0, { halted := true, pkts := [policyPkt], head := 2, tail := 2 })], nextPkt := 1 }
    s.Canonical ∧ s.Numbered ∧ isFn 17 = true ∧ isPf 17 = true ∧ s.fnUp 17 = true ∧ (s.queue 0).halted = true ∧ (s.queue 0).filled = 0 ∧ (s.queue 0).flushing = false ∧ (s.queue 0).flushed = false ∧ (z.queue 0).halted = false :=
  ⟨canon (by decide +kernel), by unfold State.Numbered; decide +kernel, by decide +kernel⟩

/-- A die-local window written and not yet applied. -/
def windowed (base : Nat) : State := { z with regions := [(0, { newBase := base })] }

theorem test_meets_RegionEntryApplied :
    let dl := 1 + 2 + 33 * 4096
    (isFn 17 = true ∧ isPf 17 = true ∧ z.fnUp 17 = true ∧ fld (1 + 19 * 4096) 12 6 < 20) ∧
    ((windowed 0).fnUp 0 = true ∧ (20 ≤ fld (1 + 40 * 4096) 12 6 ∧ fld (1 + 40 * 4096) 12 6 ≤ 40 ∧ 0 + 2 ^ 40 ≤ (windowed 0).memBytes 0 ∧
      ((windowed 0).region 0).window = none)) ∧
    ((windowed 0).memBytes 0 = 2 ^ 40 ∧ fld dl 12 6 = 33 ∧ ((windowed 0).region 0).window = none ∧ splitOk ((windowed 0).part 0).chans = true ∧
      Region.window { valid := true, dieLocal := true, size := 33 } = some (0, 0, 33)) ∧
    ((z.region 63).busy = false ∧ (({ z with regions := [(63, { busy := true })] } : State).region 63).busy = true) := by decide +kernel

theorem test_meets_ChannelsRetire :
    (isFn 17 = true ∧ z.fnUp 17 = true ∧ z.memRing.enable = false ∧ (511 + 2 ^ 9).testBit 9 = true ∧ fld (511 + 2 ^ 9) 0 9 = 511 ∧
      511 < z.order.chans ∧ (z.chan 511).retire = 0 ∧ (z.stack (511 / 32)).retired = false) ∧
    (let s : State := { z with stackTbl := [(15, { retired := true })], chans := [(511, { retire := 1 })] }
     (s.chan 511).retire = 1 ∧ (s.stack 15).protect = false ∧ s.ctrl.resets = [] ∧ (s.chan 510).retire = 0 ∧ (s.stack (510 / 32)).retired = true) :=
  by decide +kernel

theorem test_meets_MasksCoresAndCaps :
    (isFn 17 = true ∧ isPf 17 = true ∧ z.fnUp 17 = true ∧ fld (511 * 16) 4 14 < eccUnits z.order (fld (511 * 16) 1 3) ∧
      eccUnits z.order (fld (512 * 16) 1 3) ≤ fld (512 * 16) 4 14) ∧
    ((10239 + 2 ^ 14).testBit 14 = true ∧ fld (10239 + 2 ^ 14) 0 14 = 10239 ∧ 10239 < 128 * z.order.engines ∧ (z.core 10239).kind ≠ .enabled) ∧
    (let s : State := { z with items := [{ eng := 79, site := .core 0 }] }
     (s.core 10112).kind = .enabled ∧ (∃ i ∈ s.items, i.eng = 10112 / 128 ∧ i.site = .core (10112 % 128)) ∧ (z.core 10112).kind = .enabled ∧
      z.items = []) ∧
    (z.order.minWatts ≤ fld 6000 0 13 ∧ fld 6000 0 13 ≤ z.order.maxWatts ∧ z.order.maxWatts < fld 6001 0 13) ∧
    (let s : State := { z with parts := [(0, Partition.whole .azg7208), (7, { enabled := true })] }
     vfTarget 1 = some 1 ∧ (s.fn 1).busMaster = false ∧ (s.part (fld 15 0 3)).enabled = true ∧ (s.part (fld 14 0 3)).enabled = false) :=
  by decide +kernel

theorem test_meets_FabricPortsControlled :
    let down : State := { z with fab := { z.fab with moduleId := 0xFFEF } }
    let live : State := { z with fab := { z.fab with ports := [(0, { st := .up, enable := true })] } }
    (isFn 17 = true ∧ z.fnUp 17 = true ∧ (∀ p ∈ z.fab.ports, p.2.st = .down ∧ p.2.enable = false) ∧ (∃ p ∈ live.fab.ports, p.2.st ≠ .down)) ∧
    (down.Canonical ∧ down.ctrl.resets = [] ∧ (down.port (down.fn 17).psel).enable = false ∧ (down.port 0).st = .down ∧ down.fab.moduleId < 0xFFF0) ∧
    (z.Canonical ∧ (z.port 0).st = .down ∧ 0xFFF0 ≤ z.fab.moduleId) ∧ (live.Canonical ∧ live.ctrl.resets = [] ∧ (live.port 0).live = true) ∧
    (let s : State := { z with fab := { z.fab with ports := [(0, { st := .failed })] } }
     (s.port 0).st = .failed ∧ (1).testBit 1 = false) ∧
    (let s : State := { z with fab := { z.fab with ports := [(0, { outLanes := List.range 80 })] } }
     s.order.lanes ≤ ((List.range (z.order.lanes + 4)).filter (fun l => !(z.port 0).settleSwaps.outLanes.contains l)).length ∧
       ((List.range (s.order.lanes + 4)).filter (fun l => !(s.port 0).settleSwaps.outLanes.contains l)).length < 24) :=
  ⟨by decide +kernel, ⟨canon (by decide +kernel), by decide +kernel⟩, ⟨canon (by decide +kernel), by decide +kernel⟩,
   ⟨canon (by decide +kernel), by decide +kernel⟩, by decide +kernel, by decide +kernel⟩

theorem test_meets_EventRingsConfigured :
    let on : EvRing := { enable := true, tail := 62 }
    let off : EvRing := {}
    (isFn 17 = true ∧ isPf 17 = true ∧ z.fnUp 17 = true) ∧ (on.enable = true ∧ fld 7 0 5 ≠ on.log2) ∧
    (off.enable = false ∧ 6 ≤ fld 16 0 5 ∧ fld 16 0 5 ≤ 16 ∧ fld 16 0 5 ≠ off.log2) ∧ (fld 0x26 0 5 = on.log2) ∧
    ((on.tail + 1) % 2 ^ on.log2 ≠ on.head % 2 ^ on.log2) ∧
    (let full : EvRing := { on with tail := 63 }
     (full.tail + 1) % 2 ^ full.log2 = full.head % 2 ^ full.log2) := by decide

theorem test_meets_Bar4ReadsWhatWasWritten :
    (z.Canonical ∧ z.Disarmed ∧ (∀ w, verdict (z.mem.ckAt w) = .clean)) ∧
    (isFn 17 = true ∧ isPf 17 = true ∧ z.fnUp 17 = true ∧ (2 ^ 40 - 1) % 128 + [7#8].length ≤ 128 ∧ 2 ^ 40 - 1 + [7#8].length ≤ z.memBytes 0 ∧
      z.power.st = .active ∧ z.locks = [] ∧ z.groups = [] ∧ z.heldAt 0 (2 ^ 40 - 1) (z.place 0 (2 ^ 40 - 1)) = false ∧
      (z.chan (chanOf (z.place 0 (2 ^ 40 - 1)))).retire = 0 ∧
      (z.chan (chanOf (z.place 0 (2 ^ 40 - 1)))).empty = [] ∧ z.copies = [] ∧ z.stackCk = [] ∧ z.held = []) ∧
    (let s : State := { z with order := .azg7204, parts := [(0, Partition.whole .azg7204)] }
     s.fnUp 17 = true ∧ s.memBytes 0 ≤ 2 ^ 39) ∧
    (isFn 33 = true ∧ z.fnUp 33 = true) :=
  ⟨⟨canon (by decide +kernel), rfl, fun w => ((plain (by decide +kernel)).clean w).1⟩, by decide +kernel, by decide +kernel, by decide +kernel⟩

/-! ### Power, input and host links -/

/-- A POWER_STATE packet for a target, in the module in a power state. -/
def powerPkt (tgt : Nat) : Packet := act 0x0704 (block [(tgt, 1), (1, 1), (0, 14)])
def powered (st : PState) (target : Option (PState × Option Nat)) (s : State := z) : State :=
  { s with power := { s.power with st, target } }

theorem test_meets_PowerStateBegins :
    ((withPkts [powerPkt 3] z 7).managed 0 0x0704 = some (0, powerPkt 3) ∧ (withPkts [powerPkt 3] z 7).partOf 0 ≠ 0) ∧
    (let s := powered .active (some (.idle, none)) (withPkts [powerPkt 3])
     s.managed 0 0x0704 = some (0, powerPkt 3) ∧ s.partOf 0 = 0 ∧ s.power.target ≠ none) ∧
    (let s := withPkts [powerPkt 0]
     s.managed 0 0x0704 = some (0, powerPkt 0) ∧ s.ctrl.resets = [] ∧ s.power.target = none ∧ pstateOf (field (powerPkt 0).params 0 1) = s.power.st) ∧
    (let s : State := { withPkts [powerPkt 3] with feeds := [(0, { st := .opened })] }
     s.managed 0 0x0704 = some (0, powerPkt 3) ∧ pstateOf (field (powerPkt 3).params 0 1) = .sleep ∧ s.powerBusy 0 = true) ∧
    ((withPkts [powerPkt 2]).managed 0 0x0704 = some (0, powerPkt 2) ∧ pstateOf (field (powerPkt 2).params 0 1) = .doze ∧
      (withPkts [powerPkt 2]).powerBusy 0 = false) := by decide +kernel

theorem test_meets_PowerTransitionEnds :
    (let s : State := { powered .active (some (.idle, some 0)) (withPkts [powerPkt 1]) with items := [{}] }
     s.power.target = some (.idle, some 0) ∧ s.items ≠ []) ∧
    (let s := powered .active (some (.idle, some 0)) (withPkts [powerPkt 1])
     s.power.target = some (.idle, some 0) ∧ s.items = [] ∧ (∀ r ∈ s.allPkts, isMover r.2.opcode = true → r.2.phase ≠ .started)) ∧
    ((powered .active (some (.doze, some 0)) (withPkts [powerPkt 2])).Canonical ∧
      (powered .active (some (.doze, some 0)) (withPkts [powerPkt 2])).Quiet ∧
      (powered .active (some (.doze, some 0)) (withPkts [powerPkt 2])).power.target = some (.doze, some 0)) ∧
    (powered .doze (some (.active, none))).power.target = some (.active, none) ∧
    (let s := powered .active (some (.sleep, some 0)) (withPkts [powerPkt 3])
     s.power.target = some (.sleep, some 0) ∧ s.power.orderly = false ∧ s.power.wakeHeld = false ∧ ((s.finish 0 stOk none).complete 0).pkt 0 ≠ none) ∧
    (let s : State := { powered .active (some (.sleep, some 0)) (withPkts [powerPkt 3]) with
                        rings := [(0, { base := hostAt 0x1000, enable := true })] }
     s.power.target = some (.sleep, some 0) ∧ ((s.finish 0 stOk none).complete 0).pkt 0 = none) ∧
    (isStack 15 = true ∧ (powered .doze none).power.st = .doze ∧ ((powered .doze none).stack 15).refresh = false ∧
      15 < (powered .doze none).order.stackCount ∧ z.power.st ≠ .doze) :=
  ⟨by decide +kernel, by decide +kernel, ⟨canon (by decide +kernel), ⟨rfl, rfl, rfl, rfl⟩, by decide +kernel⟩, by decide +kernel, by decide +kernel,
   by decide +kernel, by decide +kernel⟩

theorem test_meets_InputAndWake :
    (let off := powered .off none
     off.power.st = .off ∧ off.ctrl.alert = false ∧ ({ off with ctrl := { off.ctrl with alert := true } } : State).ctrl.alert = true) ∧
    (let s := powered .sleep none
     1000 ≤ 1000 ∧ s.power.target = none ∧ s.power.st = .sleep ∧ s.ctrl.alert = false) ∧ (499 < 500 ∧ z.power.target = none ∧ z.power.st ≠ .sleep) := by
  decide +kernel

theorem test_meets_HostLinksComeAndGo :
    let s : State := { z with fns := [(33, { bound := true, part := 1, pendingVec := [5] })], ctrl := { z.ctrl with link1 := false } }
    isHub 1 = true ∧ s.Canonical ∧ s.power.st = .active ∧ s.ctrl.resets = [] ∧ (∀ r ∈ s.rings, r.2.waiting = []) ∧ 33 / 17 = 1 ∧ 5 ∈ (s.fn 33).pendingVec :=
  ⟨by decide, canon (by decide +kernel), by decide +kernel⟩

theorem test_meets_TemperatureAndPowerCap :
    (z.Canonical ∧ isStack 15 = true ∧ 15 < z.order.stackCount ∧ z.power.st = .active ∧ z.memRing.enable = false ∧ (z.stack 15).protect = false ∧
      (z.stack 15).steps < 8 ∧ (z.stack 15).stepAt = 0) ∧
    (let s : State := { z with mtime := 10000000, stackTbl := [(15, { steps := 1, stepAt := 1 })] }
     s.Canonical ∧ (s.stack 15).protect = false ∧ 0 < (s.stack 15).steps ∧ (s.stack 15).stepAt - 1 + 10000000 ≤ s.mtime) ∧
    (31 < 4 * z.order.dies ∧ z.awake = true ∧ (Tbl.get ({} : Quad) z.power.quads 31).steps < 8) ∧
    ((8191 :: z.power.window).take 10 = [8191] ∧ z.power.cap * 1 < 8191) ∧
    (6000 ≤ z.power.cap * 1 ∧ 98 * z.power.cap * 1 ≤ 100 * 6000) ∧
    (let s : State := { z with mtime := 1000000 }
     s.awake = true ∧ 5879 ≤ s.power.cap * 1 ∧ 100 * 5879 < 98 * s.power.cap * 1 ∧ s.power.vcapAt + 1000000 ≤ s.mtime) :=
  ⟨⟨canon (by decide +kernel), by decide +kernel⟩, ⟨canon (by decide +kernel), by decide +kernel⟩, by decide +kernel, by decide +kernel,
   by decide +kernel, by decide +kernel⟩

/-! ### Controllers, resets and replay -/

theorem test_meets_ControllersReport :
    (let p := act 0x0705 (block [(7, 32), (0xFFF0 * 2 ^ 48 + 0x1000, 8), (0, 24)])
     (withPkts [p]).managed 0 0x0705 = some (0, p) ∧
       ((withPkts [p]).canStore { (withPkts [p]).accOf 0 p with host := true } (field p.params 32 8) 128) = none) ∧
    (let s : State := { z with ctrl := { z.ctrl with hbEnable := true, hbLo := 0xFFFFFFC0, hbHi := 0xFFFFFFFF, standby := true } }
     s.Canonical ∧ s.awake = true ∧ s.ctrl.hbEnable = true ∧ s.ctrl.alert = false ∧ s.ctrl.resets = [] ∧ s.hostUp 0 = true ∧
       isHost (s.ctrl.hbLo + s.ctrl.hbHi * 2 ^ 32) = true ∧ s.ctrl.hbLo + s.ctrl.hbHi * 2 ^ 32 + 64 ≤ 2 ^ 64 ∧ s.ctrl.standby = true) ∧
    (let s : State := { powered .active (some (.sleep, some 0)) (withPkts [powerPkt 3]) with ctrl := { z.ctrl with standby := true } }
     s.Canonical ∧ s.awake = true ∧ s.ctrl.alert = false ∧ s.ctrl.resets = [] ∧ s.ctrl.standby = true ∧ s.power.target = some (.sleep, some 0)) ∧
    (z.awake = true ∧ z.ctrl.alert = false ∧ z.ctrl.resets = [] ∧ z.ctrl.standby = false ∧ z.power.target = none) :=
  ⟨by decide +kernel, ⟨canon (by decide +kernel), by decide +kernel⟩, ⟨canon (by decide +kernel), by decide +kernel⟩, by decide +kernel⟩

def resetPkt (dom idx : Nat) : Packet := act 0x0703 (block [(dom, 1), (0, 1), (idx, 2), (0, 12)])

theorem test_meets_ResetsBegin :
    ((withPkts [resetPkt 0 79] z 1).managed 0 0x0703 = some (0, resetPkt 0 79) ∧ (resetPkt 0 79).waiting = false ∧
      field (resetPkt 0 79).params 0 1 = 0 ∧ (withPkts [resetPkt 0 79] z 1).partOf 0 ≠ 0 ∧ ((withPkts [resetPkt 0 79] z 1).part 1).engines.testBit 79 = false) ∧
    ((withPkts [resetPkt 0 79]).managed 0 0x0703 = some (0, resetPkt 0 79) ∧ (withPkts [resetPkt 0 79]).partOf 0 = 0 ∧
      field (resetPkt 0 79).params 2 2 < 80 ∧ (withPkts [resetPkt 0 79]).ctrl.resets = [] ∧ (withPkts [resetPkt 0 79]).ctrl.recent = []) ∧
    (let s : State := { z with items := [{ eng := 79 }] }
     isEngine 79 = true ∧ (s.engine 79).mode = .service ∧ s.items.any (fun i => i.eng == 79) = true ∧ s.paused 79 = false ∧
       z.items.any (fun i => i.eng == 79) = false) ∧
    (let s : State := { z with feeds := [(1, { st := .opened, samples := [{ idx := 0, src := 0, len := 1, phase := .decoding }] })] }
     isHub 1 = true ∧ s.unitItems 1 ≠ [] ∧ s.ctrl.resets = [] ∧ s.ctrl.activeHub ≠ 1 ∧ z.unitItems 1 = []) := by decide +kernel

theorem test_meets_ResetsEnd :
    (let s : State := { z with ctrl := { z.ctrl with resets := [{ dom := 4, idx := 0, cause := byPowerUp, start := 0 }] } }
     s.ctrl.resets = [{ dom := 4, idx := 0, cause := byPowerUp, start := 0 }] ∧ s.ctrl.alert = false ∧ max s.mtime (10 ^ 10) ≤ 0 + 10 ^ 10) ∧
    (let r : ResetOp := { dom := 0, idx := 79, cause := byCommand, start := 0, pkts := [(0, stOk)] }
     let s : State := { z with ctrl := { z.ctrl with resets := [r] } }
     isEngine 79 = true ∧ s.ctrl.resets = [r] ∧ r.pkts = [(0, stOk)]) ∧
    (let r : ResetOp := { dom := 1, idx := 7, cause := byCommand, start := 0, pkts := [(0, stOk)] }
     let s : State := { withPkts [{ resetPkt 1 7 with waiting := true }] with ctrl := { z.ctrl with resets := [r] } }
     isPort 7 = true ∧ s.ctrl.resets = [r] ∧ s.pkt 0 = some (0, { resetPkt 1 7 with waiting := true }) ∧
       max s.mtime (2 * 10 ^ 9) ≤ r.start + 2 * 10 ^ 9 ∧ r.start + 2 * 10 ^ 9 < max s.mtime (2 * 10 ^ 9 + 1)) := by decide +kernel

/-- Engine 79 in replay, testing context 1, and what its interrupted list would read. -/
def replaying (cut : List Nat) (ks : List Packet) : State :=
  { withPkts ks with engines := [(79, { mode := .replay, suspects := [1], cut })],
                     ctxs := [(0, Ctx.management .azg7208), (1, { state := .active, engines := 2 ^ 79, memLimit := 2 ^ 20 })] }
def cutPkt : Packet := { act opTasklist [] with ctx := 1, run := { addr := 0xFFF0 * 2 ^ 48 + 2 ^ 40, count := 1 } }

theorem test_meets_ReplayJudgesSuspects :
    (isEngine 79 = true ∧ (replaying [] []).Canonical ∧ ((replaying [] []).engine 79).mode = .replay ∧ ((replaying [] []).engine 79).suspects = [1] ∧
      (replaying [] []).replayOf 79 1 = .clean ∧ ((replaying [] []).ctx 1).state = .active ∧ (replaying [] []).ctrl.resets = [] ∧
      (replaying [] []).ctrl.recent = [] ∧ (replaying [] []).replayOf 79 1 ≠ .unknown ∧ (replaying [] []).dieStopped 7 = false) ∧
    ((replaying [0] [cutPkt]).Canonical ∧ ((replaying [0] [cutPkt]).engine 79).suspects = [1] ∧
      (replaying [0] [cutPkt]).replayOf 79 1 = .fault stMemBounds (0xFFF0 * 2 ^ 48 + 2 ^ 40) ∧ ((replaying [0] [cutPkt]).ctx 1).state = .active) :=
  ⟨⟨by decide, canon (by decide +kernel), by decide +kernel⟩, canon (by decide +kernel), by decide +kernel⟩

/-! ### Contexts, partitions, scheduling -/

def createPkt : Packet := { act 0x0701 (block [(0, 1), (0, 1), (3, 1), (0, 1), (0, 4), (1, 16), (0, 8), (4096, 8), (0, 216)]) with ctx := 0xFFFFF }
def destroyPkt : Packet := { act 0x0702 [] with ctx := 0xFFFFF }
def alive (ks : List Packet) : State :=
  { withPkts ks with ctxs := [(0, Ctx.management .azg7208), (0xFFFFF, { state := .active })] }

theorem test_meets_ContextsCreatedAndDestroyed :
    ((withPkts [createPkt]).managed 0 0x0701 = some (0, createPkt) ∧ ((withPkts [createPkt]).ctx 0xFFFFF).state = .free) ∧
    ((alive [createPkt]).managed 0 0x0701 = some (0, createPkt) ∧ ((alive [createPkt]).ctx 0xFFFFF).state ≠ .free) ∧
    ((alive [destroyPkt]).managed 0 0x0702 = some (0, destroyPkt) ∧ (alive [destroyPkt]).Canonical ∧ (alive [destroyPkt]).Numbered ∧
      (alive [destroyPkt]).Workless ∧ (alive [destroyPkt]).locks = [] ∧
      (∀ r ∈ (alive [destroyPkt]).allPkts, r.2.ctx = destroyPkt.ctx → r.2.id = destroyPkt.id)) :=
  ⟨by decide +kernel, by decide +kernel, by decide +kernel, canon (by decide +kernel), by unfold State.Numbered; decide +kernel,
   ⟨by decide +kernel, by decide +kernel, by decide +kernel⟩, by decide +kernel, by decide +kernel⟩

/-- PARTITION_SET that disables a partition; with a feed range, one that partition 0 owns. -/
def partPkt (n first engines : Nat) : Packet :=
  act 0x0304 (block [(n, 1), (0, 1), (0, 1), (0, 5), (engines, 16), (0, 16), (first, 2), (0, 2), (1, 2), (0, 2), (0, 64), (0, 16)])

theorem test_meets_PartitionIsSet :
    (let s := withPkts [partPkt 7 1 0] z 1
     s.started 0 0x0304 = some (0, partPkt 7 1 0) ∧ s.partOf 0 ≠ 0) ∧
    (let s := withPkts [partPkt 7 0 0]
     s.started 0 0x0304 = some (0, partPkt 7 0 0) ∧ s.partOf 0 = 0 ∧ s.partConflict 7 (partOfBlock (partPkt 7 0 0).params) = true) ∧
    (let s : State := { withPkts [partPkt 0 1 0] with engines := [(79, { used := [0] })] }
     s.partConflict 0 (partOfBlock (partPkt 0 1 0).params) = false ∧ s.partBusy 0 (partOfBlock (partPkt 0 1 0).params) = true) ∧
    (let s := withPkts [partPkt 0 1 0]
     s.Canonical ∧ s.started 0 0x0304 = some (0, partPkt 0 1 0) ∧ s.Disarmed ∧ s.partConflict 0 (partOfBlock (partPkt 0 1 0).params) = false ∧
       s.partBusy 0 (partOfBlock (partPkt 0 1 0).params) = false ∧ s.locks = []) :=
  ⟨by decide +kernel, by decide +kernel, by decide +kernel, canon (by decide +kernel), by decide +kernel, rfl, by decide +kernel⟩

def countersPkt (clear : Nat) : Packet := act 0x0801 (block [(0xFFF0 * 2 ^ 48 + 0x1000, 8), (clear, 1), (0, 7)])

theorem test_meets_CountersAndPolicy :
    ((withPkts [countersPkt 0]).started 0 0x0801 = some (0, countersPkt 0) ∧
      isHost (field (countersPkt 0).params 0 8) = false ∧
      ((withPkts [countersPkt 0]).store { (withPkts [countersPkt 0]).accOf 0 (countersPkt 0) with host := true } (0xFFF0 * 2 ^ 48 + 0x1000) (toLe 48 0)).2 = none ∧
      (field (countersPkt 0).params 8 1).testBit 0 = false ∧ (field (countersPkt 1).params 8 1).testBit 0 = true ∧
      (withPkts [countersPkt 0]).stepServes 0 = true ∧ (withPkts [countersPkt 0]).stepEngine 0 = some 0) ∧
    (let k := act 0x0801 (block [(hostAt 0x1000, 8), (0, 8)])
     let s : State := { withPkts [k] with ctrl := { z.ctrl with link0 := false } }
     s.started 0 0x0801 = some (0, k) ∧ s.stepServes 0 = true ∧ isHost (field k.params 0 8) = true ∧ s.hostPath 0 = false ∧
       (withPkts [k]).hostPath 0 = true) ∧
    (let s : State := { withPkts [countersPkt 0] with engines := [(0, { mode := .replay })] }
     s.started 0 0x0801 = some (0, countersPkt 0) ∧ s.stepEngine 0 = some 0 ∧ s.engineReset 0 = false ∧ (s.engine 0).mode ≠ .service) ∧
    (let s : State := { withPkts [countersPkt 0] with engines := [(0, { mode := .resetting })],
                                                      ctrl := { z.ctrl with resets := [{ dom := 0, idx := 0, cause := byCommand, start := 0 }] } }
     s.started 0 0x0801 = some (0, countersPkt 0) ∧ s.stepEngine 0 = some 0 ∧ s.engineReset 0 = true) ∧
    ((withPkts [act 0x0802 (toLe 16 1)]).started 0 0x0802 = some (0, act 0x0802 (toLe 16 1)) ∧
      ((withPkts [act 0x0802 (toLe 16 1)]).ctx 0).stepState.isOpen = false) ∧
    (let s : State := { withPkts [act 0x0802 (toLe 16 1)] with ctxs := [(0, { state := .active, stepState := .fill })] }
     s.started 0 0x0802 = some (0, act 0x0802 (toLe 16 1)) ∧ (s.ctx 0).stepState.isOpen = true) := by decide +kernel

/-- A descriptor of operation `op` with no dependency, in module memory at offset 0x1000. -/
def emptyDesc (op : Nat) : List Byte := [BitVec.ofNat 8 op] ++ List.replicate 9 0#8 ++ [0xFF#8, 0xFF#8] ++ List.replicate 116 0#8
def listAddr : Nat := 0xFFF0 * 2 ^ 48 + 0x1000
def listRun (next : Nat) (begun : Bool) : Packet :=
  { act opTasklist (block [(listAddr, 8), (1, 4), (0, 20)]) with run := { addr := listAddr, count := 1, next, begun } }
def listed (op : Nat) (next : Nat) (begun : Bool) (d : List Byte := emptyDesc op) : State := (withPkts [listRun next begun]).pokeMem 0 0x1000 d

/-- Engine 79, its context resident in slot 31. -/
def resident : State := { listed 0 0 true with engines := [(79, { slots := [(31, { ctx := 0 }), ], used := [31] })] }

theorem resident_sound : resident.ListsSound := by
  intro r hr ho i h1 h2
  have hr' : r = (0, listRun 0 true) := by
    have : resident.allPkts = [(0, listRun 0 true)] := by decide +kernel
    rw [this] at hr; simpa using hr
  subst hr'
  have h3 : i = 0 := by simp only [listRun] at h2; omega
  subst h3
  exact ⟨emptyDesc 0, answered (by decide +kernel), by decide +kernel⟩

theorem test_meets_ListsScheduled :
    ((listed 0 0 false).started 0 opTasklist = some (0, listRun 0 false) ∧ (listed 0 0 false).Canonical ∧ (listed 0 0 false).Numbered ∧
      (listed 0 0 false).Workless ∧ (∀ r ∈ (listed 0 0 false).allPkts, r.2.openList = false) ∧ 79 < (listed 0 0 false).order.engines ∧
      ((listed 0 0 false).ctx 0).engines.testBit 79 = true ∧ ((listed 0 0 false).ctx 0).state = .active ∧
      field (listRun 0 false).params 8 4 = 1 ∧
      (∃ d, (listed 0 0 false).descriptor 0 { listRun 0 false with run := { addr := listAddr, count := 1, begun := true } } 0 = .ok d ∧
        kindOf d = .core ∧ badNext ((listed 0 0 false).ctx 0).engines ((listed 0 0 false).ctx 0).policy { listRun 0 false with run := { addr := listAddr, count := 1, begun := true } } d = false)) ∧
    (let s : State := { z with engines := [(79, { waiters := [(0xFFFFF, 5)] })], ctxs := [(0xFFFFF, { state := .active })] }
     isEngine 79 = true ∧ isCtx 0xFFFFF = true ∧ s.ListsSound ∧ s.engineUp 79 = true ∧ (s.ctx 0xFFFFF).state = .active ∧
       (s.engine 79).waiters = [(0xFFFFF, 5)] ∧ (s.engine 79).used = [] ∧ (s.engine 79).holder = none) ∧
    (resident.Canonical ∧ resident.Numbered ∧ resident.ListsSound ∧ resident.Calm ∧ (resident.engine 79).used = [31] ∧ ((resident.engine 79).slot 31).ctx = 0 ∧
      ((resident.engine 79).slot 31).debt = 0 ∧ resident.runnable 79 0 = true ∧ (∀ f, (resident.engine f).holder = none) ∧
      (∃ r ∈ resident.listsOf 0, (resident.siteFor 79 r.1 r.2).isSome = true)) ∧
    (let s : State := { z with engines := [(79, { holder := some 31, used := [31] })] }
     (s.engine 79).holder = some 31) := by
  refine ⟨⟨by decide +kernel, canon (by decide +kernel), by unfold State.Numbered; decide +kernel, ⟨by decide +kernel, by decide +kernel, by decide +kernel⟩,
    by decide +kernel, by decide +kernel, by decide +kernel, by decide +kernel, by decide +kernel, emptyDesc 0, answered (by decide +kernel), by decide +kernel⟩,
    ⟨by decide, by decide, fun r hr => by simp [State.allPkts, z, State.reset] at hr, by decide +kernel⟩,
    ⟨canon (by decide +kernel), by unfold State.Numbered; decide +kernel, resident_sound, calm (by decide +kernel), by decide +kernel, by decide +kernel, by decide +kernel,
      by decide +kernel, fun f => ?_, ⟨(0, listRun 0 true), by decide +kernel, by decide +kernel⟩⟩, by decide +kernel⟩
  simp only [State.engine, resident, Tbl.get]
  split <;> rfl

/-! ### Tasks -/

/-- One running task of a list whose descriptor is `d`. -/
def tasked (d : List Byte) (it : Item := { eng := 79, desc := d }) : State := { listed 0 1 true d with items := [it] }

/-- VCHAIN of one FP32 element in the scratchpad: the smaller of it and +0, to offset 64. -/
def minDesc : List Byte :=
  block [(0x20, 1), (0, 1), (1, 1), (0, 5), (0, 1), (79, 1), (0xFFFF, 2), (1, 2), (1, 2), (0, 28), (64, 4), (0, 16), (0x7004, 8), (0, 56)]

/-- The error a read ends in, or the value it answers. -/
def endsWith {α : Type} (x : Except Err α) (good : α → Bool) (bad : Err → Bool) : Bool := match x with
  | .ok y => good y
  | .error e => bad e

theorem ok_of {α : Type} {x : Except Err α} {P : α → Bool} (h : endsWith x P (fun _ => false) = true) : ∃ y, x = .ok y ∧ P y = true := by
  cases x with
  | ok y => exact ⟨y, rfl, h⟩
  | error e => simp [endsWith] at h

theorem some_of {α : Type} {x : Option α} {P : α → Bool} (h : x.any P = true) : ∃ y, x = some y ∧ P y = true := by
  cases x with
  | some y => exact ⟨y, rfl, by simpa using h⟩
  | none => simp at h

/-- The accesses of the packet of a tasked state. -/
def taskAcc (d : List Byte) : Acc := (tasked d).taskAcc 0 (listRun 1 true) 0

theorem test_meets_TasksDoTheirWork :
    (∃ r, taskOut (tasked minDesc) 0 (listRun 1 true) 0 0 minDesc = some r ∧ endsWith ((tasked minDesc).reading (taskAcc minDesc) r).1
      (fun o => decide (o.adds = [] ∧ o.maxes = [] ∧ (((tasked minDesc).reading (taskAcc minDesc) r).2.storeAll (taskAcc minDesc) (joined o.writes)).2 = none))
      (fun _ => false) = true) ∧
    ((.vchain 0 0, 0x20) ∈ taskCommands 0 0 ∧ (tasked minDesc).task 0 0 0x20 = some (0, listRun 1 true, { eng := 79, desc := minDesc }, minDesc) ∧
      (tasked minDesc).ecc.armed = false ∧ (tasked minDesc).rivalsOf (taskAcc minDesc) = []) ∧
    (∃ r, taskOut (tasked (emptyDesc 1)) 0 (listRun 1 true) 0 0 (emptyDesc 1) = some r ∧
      endsWith ((tasked (emptyDesc 1)).reading (taskAcc (emptyDesc 1)) r).1 (fun _ => false) (fun e => match e with
        | .fail st _ => decide (st = stBadDescriptor)
        | _ => false) = true) ∧
    ((.matmul 0 0, 0x01) ∈ taskCommands 0 0 ∧
      (tasked (emptyDesc 1)).task 0 0 1 = some (0, listRun 1 true, { eng := 79, desc := emptyDesc 1 }, emptyDesc 1)) ∧
    (z.task 0 0 0x12 = none ∧ (tasked (emptyDesc 0)).task 0 0 0 ≠ none) :=
  ⟨some_of (by decide +kernel), by decide +kernel, some_of (by decide +kernel), by decide +kernel, by decide +kernel⟩

theorem test_meets_TaskCompletionFreesCore :
    let s := tasked (emptyDesc 0) { eng := 79, done := true, marks := { sat := [1] } }
    s.Numbered ∧ s.Calm ∧ s.item 0 0 = some { eng := 79, done := true, marks := { sat := [1] } } ∧ s.dieStopped 7 = false ∧ (s.engine 79).mode = .service ∧ s.fab.reqs = [] ∧
      s.pkt 0 = some (0, listRun 1 true) ∧ 0 < (listRun 1 true).run.next ∧ s.ListsSound ∧ (tasked (emptyDesc 0)).item 0 0 = some { eng := 79, desc := emptyDesc 0 } :=
  ⟨by unfold State.Numbered; decide +kernel, calm (by decide +kernel), by decide +kernel, by decide +kernel, by decide +kernel, by decide +kernel,
   by decide +kernel, by decide +kernel, fun r hr ho => by
    have : (tasked (emptyDesc 0) { eng := 79, done := true, marks := { sat := [1] } }).allPkts = [(0, listRun 1 true)] := by decide +kernel
    have no : (listRun 1 true).openList = false := by decide +kernel
    rw [this] at hr; simp at hr; subst hr; simp [no] at ho, by decide +kernel⟩


/-! ### Memory -/

theorem reach {s : State} {a : Acc} {g n : Nat} (h : (List.range n).all (fun i => (s.spot a (g + i)).isSome
    && (List.range n).all (fun j => decide (i = j) || s.spot a (g + i) != s.spot a (g + j))) = true) : s.Reaches a g n := by
  simp only [List.all_eq_true, List.mem_range, Bool.and_eq_true] at h
  refine ⟨fun i hi => ?_, fun i j hi hj e => ?_⟩
  · have := (h i hi).1
    intro c
    rw [c] at this
    exact absurd this (by decide)
  · have := (h i hi).2 j hj
    simp [e] at this
    exact this

/-- Module memory at an offset of partition 0. -/
def here (a : Nat) : Nat := 0xFFF0 * 2 ^ 48 + a

/-- Memory at an offset of module 5, which plane 7 alone reaches. -/
def peer (a : Nat) : Nat := 5 * 2 ^ 48 + a
def meshed : State := { z with fab := { z.fab with reach := [(5, 2 ^ 7)], ports := [(7, { st := .up })] } }

theorem test_meets_HashIsOneToOne : (∀ r ∈ z.regions, r.2.part = 0 → r.2.dieLocal = false) ∧ (z.part 0).chans < 2 ^ 512 ∧
    z.chanCount 0 = 2 ^ 9 ∧ z.memBytes 0 - 1 < z.memBytes 0 ∧ 0 < z.memBytes 0 := by decide +kernel

theorem test_meets_OneBadByteIsCorrected :
    (({} : Mem).wf = true ∧ verdict (({} : Mem).ckAt 3) = .clean ∧ (0xFF#8 : Byte) ≠ 0#8 ∧ 17 < 18) ∧ (63 / 16 = 3) ∧
    wholeWord 48 (List.replicate 16 1#8) = true ∧
    ((({} : Mem).mark 3).wf = true ∧ wholeWord 63 [1#8] = false ∧ 63 % 16 + 1 ≤ 16 ∧ verdict ((({} : Mem).mark 3).ckAt (63 / 16)) = .bad) := by
  decide +kernel

def copyPkt (src dst n : Nat) : Packet := act 0x0101 (block [(src, 8), (dst, 8), (n, 8), (0, 8)])
def fillPkt (dst n : Nat) : Packet := act 0x0102 (block [(dst, 8), (n, 8), (0x0807060504030201, 8), (0, 8)])

theorem test_meets_CopyAndFill :
    (let k := copyPkt (hostAt 0x1000) (here 0x20FC) 8
     let s := withPkts [k]
     s.started 0 0x0101 = some (0, k) ∧ s.Canonical ∧ s.Laid ∧ s.Plain ∧ s.Quiet ∧ s.takeMover k = some 0 ∧ s.hostUp 0 = true ∧ s.NoTransfers ∧
       s.Reaches (s.moverAcc 0 k false) (hostAt 0x1000) 8 ∧ s.Reaches (s.moverAcc 0 k false) (here 0x20FC) 8) ∧
    (let k := copyPkt (here 0x20FC) (peer 0x1000) 8
     let s := withPkts [k] meshed
     s.started 0 0x0101 = some (0, k) ∧ s.Canonical ∧ s.Laid ∧ s.Plain ∧ s.Quiet ∧ s.takeMover k = some 0 ∧
       isHost (here 0x20FC) = false ∧ isHost (peer 0x1000) = false ∧
       s.Reaches (s.moverAcc 0 k false) (here 0x20FC) 8 ∧ s.isPeer (peer 0x1000) = true ∧ s.reaches (peer 0x1000 >>> 48) 7 = true) ∧
    (let k := copyPkt (peer 0x1000) (here 0x20FC) 8
     let s := withPkts [k] meshed
     s.started 0 0x0101 = some (0, k) ∧ s.takeMover k = some 0 ∧ s.isPeer (peer 0x1000) = true ∧ here 0x20FC >>> 48 = s.fab.moduleId ∧
       s.canStore (s.moverAcc 0 k false) (here 0x20FC) 8 = none ∧ peer 0x1000 ≠ here 0x20FC ∧ s.reaches (peer 0x1000 >>> 48) 7 = true ∧
       s.fab.reqs.length < 4096) ∧
    (let k := fillPkt (here 0x20F8) 16
     let s := withPkts [k]
     s.started 0 0x0102 = some (0, k) ∧ s.Canonical ∧ s.Laid ∧ s.Plain ∧ s.Quiet ∧ s.takeMover k = some 0 ∧ fillCheck k.params = none ∧
       k.params.length = 32 ∧ s.NoTransfers ∧ s.Reaches (s.moverAcc 0 k false) (here 0x20F8) 16) ∧
    (let k := { copyPkt 0 8 8 with ctx := 1 }
     (withPkts [k]).takeMover k = none ∧ (withPkts [k]).started 0 0x0101 = some (0, k)) := by
  refine ⟨⟨?_, canon (by decide +kernel), laid rfl, plain (by decide +kernel), ⟨rfl, rfl, rfl, rfl⟩, ?_, ?_, noTransfers ?_, reach ?_, reach ?_⟩,
    ⟨?_, canon (by decide +kernel), laid rfl, plain (by decide +kernel), ⟨rfl, rfl, rfl, rfl⟩, ?_, ?_, ?_, reach ?_, ?_, ?_⟩, ?_,
    ⟨?_, canon (by decide +kernel), laid rfl, plain (by decide +kernel), ⟨rfl, rfl, rfl, rfl⟩, ?_, ?_, ?_, noTransfers ?_, reach ?_⟩, ?_⟩ <;> decide +kernel

def atomicPkt (g v r op ty e : Nat) : Packet := act 0x0301 (block [(g, 8), (v, 8), (r, 8), (op, 1), (ty, 1), (e, 1), (0, 5)])

/-- The word at offset 0x2000 locked by engine 79 in context 0, with these waiters. -/
def locked (ks : List Packet) (w : List (Nat × Nat × Nat)) : State :=
  { withPkts ks with locks := [{ addr := (z.place 0 0x2000), holder := some (79, 0), waiters := w }] }

/-- UNLOCK, LOCK of that word. -/
def unlockPkt (e : Nat) : Packet := atomicPkt (here 0x2000) 0 0 6 1 e
def lockPkt (e : Nat) : Packet := atomicPkt (here 0x2000) 0 0 4 1 e

theorem test_meets_AtomicsAndLocks :
    (let k := atomicPkt (here 0x2004) 7 (here 0x3000) 3 0 0xFF
     let s := withPkts [k]
     s.started 0 0x0301 = some (0, k) ∧ s.Canonical ∧ s.Laid ∧ s.Plain ∧ s.Quiet ∧ atomicCheck s k = none ∧
       s.Reaches (s.accOf 0 k) (here 0x3000) 8 ∧ answers (s.resolve (s.accOf 0 k) (here 0x2004)) (.mem (z.place 0 0x2004) false) = true) ∧
    (let k := lockPkt 79
     let s := withPkts [k]
     atomicCheck s k = none ∧ atomicCheck s (unlockPkt 79) = none ∧ atomicCheck s (atomicPkt (here 0x2000) 0 0 5 1 79) = none ∧
       answers (s.resolve (s.accOf 0 k) (here 0x2000)) (.mem (z.place 0 0x2000) false) = true) ∧
    (let k := atomicPkt (peer 0x2000) 7 0 0 0 0xFF
     let s := withPkts [k] meshed
     s.started 0 0x0301 = some (0, k) ∧ atomicCheck s k = none ∧ answers (s.resolve (s.accOf 0 k) (peer 0x2000)) .peer = true ∧
       s.reaches (peer 0x2000 >>> 48) 7 = true) ∧
    (let k := lockPkt 78
     let s := locked [k] []
     let l : Lock := { addr := z.place 0 0x2000, holder := some (79, 0) }
     s.started 0 0x0301 = some (0, k) ∧ answers (s.resolve (s.accOf 0 k) (here 0x2000)) (.mem (z.place 0 0x2000) false) = true ∧ s.groups = [] ∧
       (s.ctx 0).destroying = none ∧ (({ s with ctxs := [(0, { s.ctx 0 with destroying := some 1 })] } : State).ctx 0).destroying.isSome = true ∧
       s.chanLost (z.place 0 0x2000) = false ∧
       s.lockAt (z.place 0 0x2000) = some l ∧ (∀ x ∈ s.locks, x.addr / 8 = z.place 0 0x2000 / 8 → x = l)) ∧
    (let k := unlockPkt 79
     let s := locked [k, { lockPkt 78 with id := 1 }] [(1, 78, 0)]
     s.started 0 0x0301 = some (0, k) ∧ s.pkt 1 = some (0, { lockPkt 78 with id := 1 })) ∧
    (locked [lockPkt 78] []).Canonical := by
  refine ⟨⟨?_, canon (by decide +kernel), laid rfl, plain (by decide +kernel), ⟨rfl, rfl, rfl, rfl⟩, ?_, reach ?_, ?_⟩, ?_, ?_, ?_, ?_,
    canon (by decide +kernel)⟩ <;> decide +kernel

def scrubPkt (act' period pages off : Nat) : Packet := act 0x0302 (block [(act', 1), (0, 1), (period, 2), (pages, 4), (off, 8)])
def maskPkt (cls idx : Nat) : Packet := act 0x0303 (block [(1, 16), (0, 2), (cls, 1), (0, 1), (idx, 2), (0, 10)])

/-- The last word of partition 0's first page, written, and now uncorrectable. -/
def spoilt (ks : List Packet) : State :=
  { withPkts ks with mem := { touched := [(unitOf (z.place 0 0xFF0), true)], ck := [(z.place 0 0xFF0 / 16, (({} : Mem).mark 0).ckAt 0)] } }

theorem test_meets_ScrubsAndMasks :
    (let k := scrubPkt 1 720 0 0
     (withPkts [k] z 1).started 0 0x0302 = some (0, k) ∧ field k.params 0 1 ≠ 0 ∧ (withPkts [k] z 1).partOf 0 ≠ 0 ∧
       (withPkts [k]).partOf 0 = 0) ∧
    (let k := scrubPkt 0 0 2 (z.memBytes 0 - 4096)
     (withPkts [k]).started 0 0x0302 = some (0, k) ∧ (withPkts [k]).memBytes 0 < field k.params 8 8 + field k.params 4 4 * 4096) ∧
    (let k := scrubPkt 0 0 1 0
     let s := spoilt [k]
     s.started 0 0x0302 = some (0, k) ∧ s.Canonical ∧ s.Quiet ∧
       ((s.dirtyWords 0 0 4096).filter (fun w => decide (verdict w.2.2 = .bad))).map Prod.fst = [0xFF0] ∧
       s.lostRuns 0 0 4096 = []) ∧
    (let k := maskPkt 3 0
     (withPkts [k] z 1).started 0 0x0303 = some (0, k) ∧ (withPkts [k] z 1).partOf 0 ≠ 0) ∧
    (let k := maskPkt 0 511
     (withPkts [k] z 1).started 0 0x0303 = some (0, k) ∧ (((withPkts [k] z 1).part 1).chans.testBit 511 = false) ∧
       (withPkts [k]).started 0 0x0303 = some (0, k) ∧ ((withPkts [k]).part 0).chans.testBit 511 = true) ∧
    (isStack 15 = true ∧ ({ z with ecc := { z.ecc with pause := true } } : State).ecc.pause = true ∧ (spoilt []).ecc.pause = false ∧
      15 < (spoilt []).order.stackCount ∧ Tbl.get 0 (spoilt []).ecc.passAt 15 = 0 ∧
      (let s : State := { z with ecc := { z.ecc with passAt := [(15, 1)] } }
       Tbl.get 0 s.ecc.passAt 15 ≠ 0 ∧ (1 - 1) / s.ecc.periodNs = s.mtime / s.ecc.periodNs)) := by
  refine ⟨?_, ?_, ⟨?_, canon (by decide +kernel), ⟨rfl, rfl, rfl, rfl⟩, ?_⟩, ?_, ?_, ?_⟩ <;> decide +kernel

/-! ### Steps and residency -/

/-- A range that stands in one piece is reached. -/
theorem reach1 {s : State} {a : Acc} {g n : Nat} (b : Bool) (p : Nat)
    (h : (List.range n).all (fun i => s.spot a (g + i) == some (b, p + i)) = true) : s.Reaches a g n := by
  simp only [List.all_eq_true, List.mem_range, beq_iff_eq] at h
  refine ⟨fun i hi => by rw [h i hi]; simp, fun i j hi hj e => ?_⟩
  rw [h i hi, h j hj] at e
  simp at e
  exact e

/-- An activation block of one entry of spill class 1, AUTO or not, and the module holding it, with FWD of micro-batch 0 at 1. -/
def actBlock (auto : Nat) : List Byte := block [(1, 4), (auto, 1), (0, 3), (here 0x5000, 8), (here 0x6000, 8), (0, 40)]
def entry : List Byte := block [(here 0x10000, 8), (hostAt 0x10000, 8), (256, 4), (0, 2), (1, 1), (0, 9)]
def theAct (auto : Nat) : Act := actOf (here 0x4000) (actBlock auto)
def actIn (auto : Nat) (c : Nat) (x : Ctx) (ks : List Packet := []) : State :=
  ((({ withPkts ks with ctxs := (if c = 0 then [] else [(0, Ctx.management .azg7208)]) ++
      [(c, { x with act := some (theAct auto), ents := [entOf entry], nmb := 1, engines := 1, memLimit := 2 ^ 20 })] } : State).pokeMem 0 0x4000
        (actBlock auto)).pokeMem 0 0x5000 entry).pokeMem 0 0x6000 [1#8]

def beginPkt (step a norm : Nat) : Packet :=
  act 0x0202 (block [(9, 8), (step, 4), (1, 2), (1, 1), (1, 1), (a, 8), (norm, 8)])
def commitPkt (gid step : Nat) : Packet := act 0x0203 (block [(gid, 2), (0, 2), (step, 4)])

/-- Context 0 in group 7, as the second member of two, in an open step. -/
def pair (st : StepState) (ks : List Packet) : State :=
  { withPkts ks with groups := [{ gid := 7, members := [5, 0xFFF0], rank := 1, keyState := 1, step := 3,
                                  buckets := [{ id := 65535, size := 512, mine := { step := 3 },
                                                regions := [{ kind := 0, base0 := 0x20000, base1 := 0x30000, pbytes := 512, psh := 256 }] }] }],
                     ctxs := [(0, { Ctx.management .azg7208 with stepState := st, step := 3 })] }

/-- Context 0 without a step, its step sequencer's engine in this mode. -/
def served (k : Packet) (m : EngMode) (rs : List ResetOp) : State :=
  { withPkts [k] with engines := [(0, { mode := m })], ctrl := { z.ctrl with resets := rs } }

theorem test_meets_StepsBeginAndCommit :
    (let k := beginPkt 3 0 0
     let s := pair .fill [k]
     s.started 0 0x0202 = some (0, k) ∧ s.Canonical ∧ s.stepServes 0 = true ∧ stepRefused (s.ctx 0) 3 = some 0x4C) ∧
    (let k := beginPkt 3 0 0
     let s := served k .replay []
     s.started 0 0x0202 = some (0, k) ∧ s.Canonical ∧ s.stepEngine 0 = some 0 ∧ s.engineReset 0 = false ∧ (s.engine 0).mode ≠ .service) ∧
    (let k := beginPkt 3 0 0
     let s := served k .resetting [{ dom := 0, idx := 0, cause := byCommand, start := 0 }]
     s.started 0 0x0202 = some (0, k) ∧ s.Canonical ∧ s.stepEngine 0 = some 0 ∧ s.engineReset 0 = true) ∧
    (let k := beginPkt 0 (here 0x4000) 0
     let s := (actIn 1 0 (Ctx.management .azg7208) [k]).pokeMem 0 0x5016 [4#8]
     let r := s.reading (s.accOf 0 k) (actBegin s (s.accOf 0 k) (here 0x4000) 1)
     s.started 0 0x0202 = some (0, k) ∧ s.Canonical ∧ s.stepServes 0 = true ∧ s.turned 0 k = s ∧ endsWith r.1 (fun _ => false) (· == .fail stBadDescriptor 0) = true) ∧
    (let k := beginPkt 0 (here 0x4000) (here 0x7000)
     let s := actIn 1 0 (Ctx.management .azg7208) [k]
     let r := s.reading (s.accOf 0 k) (actBegin s (s.accOf 0 k) (here 0x4000) 1)
     s.started 0 0x0202 = some (0, k) ∧ s.Canonical ∧ s.stepServes 0 = true ∧ s.turned 0 k = s ∧ s.groupOf 0 = none ∧ stepRefused (s.ctx 0) 0 = none ∧
       ∃ v, r.1 = .ok v ∧ (v.1 ++ normBegin (here 0x7000) 0).all (fun w => r.2.canStore (s.accOf 0 k) w.1 w.2.length == none) = true) ∧
    (let k := commitPkt 0xFFFF 3
     let s : State := { pair .exchange [k] with groups := [] }
     s.started 0 0x0203 = some (0, k) ∧ s.Canonical ∧ s.stepServes 0 = true ∧ s.groupOf 0 = none ∧ (s.ctx 0).stepState = .exchange ∧ (s.ctx 0).step = 3 ∧
       (s.ctx 0).act = none) ∧
    (let k := commitPkt 7 3
     let s := pair .exchange [k]
     s.started 0 0x0203 = some (0, k) ∧ s.stepServes 0 = true ∧ (s.groupOf 0).map (·.gid) = some 7 ∧
       s.groups.any (fun g => g.rank == 1 && s.group 7 == some g && !(g.allPublished && g.allLanded && g.mirrorLanded)) = true) ∧
    (let s := pair .fill [commitPkt 7 3]
     s.started 0 0x0203 = some (0, commitPkt 7 3) ∧ (s.ctx 0).stepState.isOpen = true ∧ (s.ctx 0).step = 3) ∧
    (let s := pair .fill [commitPkt 0xFFFF 3]
     s.started 0 0x0203 = some (0, commitPkt 0xFFFF 3) ∧ ((s.groupOf 0).map (·.gid)).getD 0xFFFF = 7) ∧
    (let s := pair .committed [commitPkt 7 3]
     s.started 0 0x0203 = some (0, commitPkt 7 3) ∧ (s.ctx 0).stepState.isOpen = false) := by
  refine ⟨⟨?_, canon ?_, ?_⟩, ⟨?_, canon ?_, ?_⟩, ⟨?_, canon ?_, ?_⟩, ⟨?_, canon ?_, ?_⟩, ⟨?_, canon ?_, ?_, ?_, ?_, ?_, ok_of ?_⟩, ⟨?_, canon ?_, ?_⟩, ?_⟩ <;>
    decide +kernel

def inFill : Ctx := { state := .active, stepState := .fill }

theorem test_meets_ResidencyTransfers :
    (let s := actIn 1 0xFFFFF inFill
     isCtx 0xFFFFF = true ∧ s.act 0xFFFFF = some (theAct 1) ∧ s.Canonical ∧ (s.ctx 0xFFFFF).stepState = .fill ∧ 0 < (s.ctx 0xFFFFF).nmb ∧
       0 ∉ (s.ctx 0xFFFFF).fwdSeen ∧ s.stepServes 0xFFFFF = true ∧ answers (s.readNat (s.ctxAcc 0xFFFFF) ((theAct 1).mbA + 32 * 0) 8).1 1 = true ∧
       (theAct 1).auto = true ∧ 0 + (s.ctx 0xFFFFF).kStart < 1 ∧ (s.ctx 0xFFFFF).fetchQ = [] ∧ s.entsOf 0xFFFFF (theAct 1) 0 = [0] ∧
       (s.ent 0xFFFFF 0).cls = 1) ∧
    (let s := actIn 1 0xFFFFF inFill
     s.Laid ∧ s.Plain ∧ s.Quiet ∧ (s.ctx 0xFFFFF).xfer ≠ some (0, true) ∧ (s.ctx 0xFFFFF).nmb ≤ 1 ∧
       ({ s with engines := [(0, { mode := .replay })] } : State).stepServes 0xFFFFF = false) ∧
    (∀ fetch, let s := actIn 1 0xFFFFF { inFill with xfer := some (0, fetch) }
     let v := s.ent 0xFFFFF 0
     s.act 0xFFFFF = some (theAct 1) ∧ s.Canonical ∧ s.Laid ∧ s.Plain ∧ s.Quiet ∧ (s.ctx 0xFFFFF).xfer = some (0, fetch) ∧
       (s.ctx 0xFFFFF).xferPlanes = [] ∧ s.fab.reqs = [] ∧ (s.ctx 0xFFFFF).spillQ = [] ∧ (s.ctx 0xFFFFF).fetchQ = [] ∧
       (s.ctx 0xFFFFF).stepState = .fill ∧ 0 < (theAct 1).nent ∧ v.cls = 1 ∧ (s.ctx 0xFFFFF).xferFail = none ∧
       s.Reaches (s.ctxAcc 0xFFFFF) v.home v.bytes ∧ s.Reaches (s.ctxAcc 0xFFFFF) v.spill v.bytes ∧ s.hostUp v.port = true ∧
       (s.ctx 0xFFFFF).state = .active ∧ s.Workless) ∧
    (let s : State := { actIn 1 0xFFFFF { inFill with xfer := some (0, true) } with ctrl := { z.ctrl with link0 := false } }
     s.hostUp (s.ent 0xFFFFF 0).port = false ∧ s.act 0xFFFFF = some (theAct 1)) := by
  refine ⟨⟨?_, ?_, canon ?_, ?_⟩, ⟨laid ?_, plain ?_, quiet ?_, ?_⟩, fun fetch => ?_, ?_⟩
  rotate_right 2
  · cases fetch <;>
      refine ⟨?_, canon ?_, laid ?_, plain ?_, quiet ?_, ?_, ?_, ?_, ?_, ?_, ?_, ?_, ?_, ?_, reach1 false (z.place 0 0x10000) ?_,
        reach1 true 0x10000 ?_, ?_, ?_, ⟨?_, ?_, ?_⟩⟩ <;> decide +kernel
  all_goals decide +kernel

def spillPkt (e : Nat) : Packet := act 0x0103 (block [(here 0x10000, 8), (hostAt 0x10000, 8), (256, 4), (0, 1), (0, 3), (e, 4), (0, 4)])

theorem test_meets_HostTransfers :
    (let k := spillPkt 0xFFFFFFFF
     let s := withPkts [k]
     s.started 0 0x0103 = some (0, k) ∧ s.Canonical ∧ s.Laid ∧ s.Plain ∧ s.Quiet ∧ s.takeMover k = some 0 ∧ s.hostUp 0 = true ∧
       s.NoTransfers ∧ s.Reaches { s.accOf 0 k with host := true } (here 0x10000) 256 ∧
       s.Reaches { s.accOf 0 k with host := true } (hostAt 0x10000) 256 ∧ s.namedEnt 0 0xFFFFFFFF (here 0x10000) (hostAt 0x10000) 256 true = none) ∧
    (let k := spillPkt 0
     (withPkts [k]).namedEnt 0 0 (here 0x10000) (hostAt 0x10000) 256 true = none) ∧
    (let k := spillPkt 0
     let s := actIn 0 0 (Ctx.management .azg7208) [k]
     s.started 0 0x0103 = some (0, k) ∧ s.Canonical ∧ s.Laid ∧ s.Plain ∧ s.Quiet ∧ s.takeMover k = some 0 ∧ s.hostUp 0 = true ∧
       s.NoTransfers ∧ s.Reaches { s.accOf 0 k with host := true } (here 0x10000) 256 ∧
       s.Reaches { s.accOf 0 k with host := true } (hostAt 0x10000) 256 ∧ (s.namedEnt 0 0 (here 0x10000) (hostAt 0x10000) 256 true).isSome = true) ∧
    (let k : Packet := { spillPkt 0 with ctx := 1 }
     (withPkts [k]).started 0 0x0103 = some (0, k) ∧ (withPkts [k]).takeMover k = none) := by
  refine ⟨⟨?_, canon ?_, laid ?_, plain ?_, quiet ?_, ?_, ?_, noTransfers ?_, reach1 false (z.place 0 0x10000) ?_, reach1 true 0x10000 ?_, ?_⟩, ?_,
    ⟨?_, canon ?_, laid ?_, plain ?_, quiet ?_, ?_, ?_, noTransfers ?_, reach1 false (z.place 0 0x10000) ?_, reach1 true 0x10000 ?_, ?_⟩, ?_⟩ <;>
    decide +kernel

/-! ### Groups -/

/-- A module in no group, with plane 7 to module 5, and context 0 whose step is in this state. -/
def near (ks : List Packet) (st : StepState := .none) : State :=
  { withPkts ks meshed with ctxs := [(0, { Ctx.management .azg7208 with stepState := st, step := 3 })] }

def joinPkt (flags slot : Nat) : Packet :=
  act 0x0401 (block [(7, 2), (2, 2), (flags, 1), (1, 1), (0xFFFF, 2), (2 ^ 22, 4), (0, 4), (0, 4), (flags / 4 * 3, 4), (0x100000, 8),
    (slot, 8), (here 0x8000, 8), (0, 16), (5, 2), (0xFFF0, 2), (0, 4)])
def slotSpace : Nat := 2 * (2 ^ 21 + 32)

/-- A bucket of 512 bytes in two shards, one parameter region; and the group of module 5 and this one, in these ranks. -/
def bkt : Bucket :=
  { id := 65535, size := 512, target := 2, gradOff := 0x40000, sumOff := 0x50000, recOff := 0x9000, crc := 77,
    regions := [{ kind := 0, base0 := 0x20000, base1 := 0x30000, pbytes := 512, psh := 256 }] }
def grp (rank : Nat) : Group :=
  { gid := 7, members := if rank = 0 then [0xFFF0, 5] else [5, 0xFFF0], rank, step := 3, keyState := 1, bmax := 2 ^ 22, maxShadow := 1,
    inflight := 1, slotOff := 0x100000, slotBytes := slotSpace, grec := here 0x8000, buckets := [bkt] }

/-- The module in that group. -/
def joined (g : Group) (st : StepState := .drain) (ks : List Packet := []) : State := { near ks st with groups := [g] }

def definePkt (size nreg : Nat) : Packet :=
  act 0x0402 (block [(7, 2), (9, 2), (0, 1), (nreg, 1), (0, 2), (size, 4), (1, 4), (0x40000, 8), (0x50000, 8), (0x60000, 8), (0x9040, 8), (0, 16)])
def mapPkt (np : Nat) : Packet := act 0x0404 (block ([(7, 2), (np, 2), (0, 12)] ++ List.replicate np (0, 8)))
def abortPkt (step : Nat) : Packet := act 0x0403 (block [(7, 2), (0, 2), (step, 4)])

theorem workless {s : State} (h1 : s.allPkts.all (fun r => r.2.opcode != opTasklist) = true) (h2 : s.items = []) (h3 : s.engines = []) : s.Workless := by
  refine ⟨fun r hr ho => ?_, h2, by simp [h3]⟩
  have := List.all_eq_true.mp h1 r hr
  simp [ho] at this

theorem test_meets_GroupsFormed :
    (let k := joinPkt 0 slotSpace
     (joined (grp 1) .committed [k]).started 0 0x0401 = some (0, k) ∧ ((joined (grp 1) .committed [k]).groupOf 0).isSome = true) ∧
    (let k := joinPkt 0 (slotSpace - 1)
     let g := groupOfBlock k 0 0xFFF0
     (near [k]).started 0 0x0401 = some (0, k) ∧ g.shadowOf = 0xFFFF ∧ g.members.count 0xFFF0 = 1 ∧ g.slotBytes < g.slotNeed) ∧
    (∀ rejoin : Bool, let k := joinPkt (if rejoin then 4 else 0) slotSpace
     let s := near [k] .committed
     let g := groupOfBlock k 0 0xFFF0
     s.started 0 0x0401 = some (0, k) ∧ s.Canonical ∧ s.Laid ∧ s.fab.moduleId = 0xFFF0 ∧ s.groups = [] ∧ (s.ctx 0).stepState.isOpen = false ∧
       s.Quiet ∧ (s.ctx 0).memBase ≤ g.slotOff ∧ g.slotOff + g.slotBytes ≤ (s.ctx 0).memLimit ∧
       g.shadowOf = 0xFFFF ∧ g.members = [5, 0xFFF0] ∧ g.slotNeed = g.slotBytes ∧ g.slotOff + g.slotBytes ≤ s.memBytes g.part ∧
       s.canStore (s.accOf 0 k) g.grec 128 = none ∧ s.reaches 5 7 = true) ∧
    (let k := definePkt (2 ^ 22) 1
     let s := joined (grp 1) .committed [k]
     let e := block [(0, 8), (0x20000, 8), (0x30000, 8), (512, 4), (256, 4)]
     let s' := s.pokeMem 0 0x60000 e
     s'.Canonical ∧ s'.started 0 0x0402 = some (0, k) ∧ s'.groupOf 0 = some (grp 1) ∧ (s'.ctx 0).stepState.isOpen = false ∧
       answers (s'.reading (s'.accOf 0 k) ((List.range 1).mapM (fun i => load s' (s'.accOf 0 k) (s'.global (0x60000 + 32 * i)) 32))).1 [e] = true ∧
       bregOk 2 e = true ∧ s'.canStore (s'.accOf 0 k) (s'.global 0x9040) 64 = none ∧
       (joined (grp 1) .fill [k]).started 0 0x0402 = some (0, k) ∧ (grp 1).bmax < field (definePkt (2 ^ 22 + 256) 0).params 8 4) ∧
    (let s := joined (grp 1) .committed [mapPkt 1]
     s.Canonical ∧ s.started 0 0x0404 = some (0, mapPkt 1) ∧ s.groupOf 0 = some (grp 1) ∧ (s.ctx 0).stepState.isOpen = false ∧
       field (mapPkt 1).params 2 2 = (grp 1).maxShadow ∧ (joined (grp 1) .fill [mapPkt 2]).started 0 0x0404 = some (0, mapPkt 2)) ∧
    (let s := joined (grp 0) .fill [abortPkt 3]
     s.Canonical ∧ s.started 0 0x0403 = some (0, abortPkt 3) ∧ s.groupOf 0 = some (grp 0) ∧ (grp 0).keyState = 1 ∧ (grp 0).step = 3 ∧
       (grp 0).rank = (grp 0).root ∧ (grp 0).asked = [] ∧ 0 ∉ (grp 0).commitPkts ∧ s.Workless ∧ (s.ctx 0).stepState ≠ .aborted) ∧
    (let s := joined (grp 1) .aborted [abortPkt 4]
     s.Canonical ∧ s.started 0 0x0403 = some (0, abortPkt 4) ∧ s.groupOf 0 = some (grp 1) ∧ (grp 1).rank ≠ (grp 1).root ∧
       (grp 1).members.getD (grp 1).root 0xFFFF ≠ s.fab.moduleId ∧ (s.ctx 0).stepState = .aborted) := by
  refine ⟨?_, ?_, fun rejoin => ?_, ⟨canon ?_, ?_⟩, ⟨canon ?_, ?_⟩, ⟨canon ?_, ?_, ?_, ?_, ?_, ?_, ?_, ?_, workless ?_ ?_ ?_, ?_⟩, ⟨canon ?_, ?_⟩⟩
  rotate_left 2
  · cases rejoin <;> refine ⟨?_, canon ?_, laid ?_, ?_, ?_, ?_, quiet ?_, ?_⟩ <;> decide +kernel
  all_goals decide +kernel

/-- A contribution of rank 0 to the 8 bytes of shard 1, with its CRC-64, and the group as it waits for it. -/
def data1 : List Byte := List.replicate 8 0x11#8
def sent1 : List Byte := data1 ++ toLe 8 (crc64 data1)
def rh : ReduceHdr :=
  { port := 7, src := 5, shadow := false, gid := 7, bucket := 65535, step := 3, attempt := 0, srcRank := 0, shard := 1, defCrc := 77,
    firstMt := 5, lastMt := 6 }
def bkt264 : Bucket := { bkt with size := 264 }
def holding (own : Own) (other : Nat := 0) : Group :=
  { grp 1 with buckets := [{ bkt264 with mine := own }, { bkt264 with id := 65534, mine := { step := 3 } }], sets := if other = 0 then [] else [(0, other)] }

/-- A port that carries traffic takes what comes without a fault. -/
theorem accepts {s : State} {n : Nat} (h : ((s.port n).live && !s.ecc.armed) = true) : s.Accepts n {} := by
  simp only [Bool.and_eq_true, Bool.not_eq_true'] at h
  exact ⟨h.1, rfl, by simp, by simp [State.burstMarks, h.2]⟩

theorem test_meets_ContributionsCollected :
    ((joined (grp 1)).group 7 = some (grp 1) ∧ (grp 1).bucket 65535 = some bkt ∧ bkt.send = 0 ∧ ((joined (grp 1)).ctx 0).stepState = .drain ∧
      answers ((joined (grp 1)).readNat ((joined (grp 1)).groupAcc (grp 1)) ((joined (grp 1)).global (bkt.recOff + 8)) 8).1 0 = true ∧ 0 < bkt.target ∧
      (let s := (joined (grp 1)).pokeMem 0 (bkt.recOff + 8) [2#8]
       s.group 7 = some (grp 1) ∧ (s.ctx 0).stepState = .drain ∧ answers (s.readNat (s.groupAcc (grp 1)) (s.global (bkt.recOff + 8)) 8).1 2 = true) ∧
      ((joined (grp 1) .exchange).ctx 0).stepState = .exchange) ∧
    (let s := joined (grp 1)
     (Instr.reduce rh sent1).wf = true ∧ (Instr.reduce { rh with last := false } data1).wf = true ∧ s.Accepts 7 {} ∧ rh.last = true ∧
       ((s.taken 7 {} 1 (flitsOf sent1.length)).stampFirst { rh with defCrc := 78 }).group 7 = some (grp 1) ∧ (grp 1).abortPol = false ∧ (grp 1).bucket 65535 = some bkt ∧ bkt.crc ≠ ({ rh with defCrc := 78 } : ReduceHdr).defCrc ∧
       (grp 1).keyOk 4 0 = false) ∧
    (let g := holding {}
     let s := joined g
     let f (g : Group) : Group := { g with buckets := g.buckets.map (fun b => if b.id = 65535 then { b with mine := { step := 3, firstMt := some 5 } } else b) }
     let u := (s.taken 7 {} 1 (flitsOf sent1.length)).stampFirst rh
     let v := (u.dropRun rh).at 6
     let r := u.runWith rh (sent1.take (sent1.length - 8))
     s.Accepts 7 {} ∧ s.group 7 = some g ∧ u.group 7 = some (f g) ∧
       (f g).bucket 65535 = some { bkt264 with mine := { step := 3, firstMt := some 5 } } ∧ bkt264.mine.step ≠ 3 ∧
       (holding { step := 3 }).bucket 65535 = some { bkt264 with mine := { step := 3 } } ∧ g.bucket 65535 = some bkt264 ∧ bkt264.crc = rh.defCrc ∧ g.keyOk 3 0 = true ∧ g.rank ≠ 0xFFFF ∧
       rh.srcRank < g.n ∧ rh.shard = g.rank ∧ rh.src ≠ 0xFFF0 ∧ v.slotsHeld (f g) { bkt264 with mine := { step := 3, firstMt := some 5 } } false 0 r.bytes.length = false ∧
       g.holder bkt264 false = 0 ∧ crc64 r.bytes = le (sent1.drop (sent1.length - 8)) ∧ r.bytes.length = (bkt264.shard g.n 1).2 ∧
       (g.slotsOf 0) = [0] ∧ 0 ∉ ({} : Own).present ∧
       crc64 ((data1 ++ toLe 8 0).take 8) ≠ le ((data1 ++ toLe 8 0).drop 8) ∧ 0 ∉ ({} : Own).crcFails ∧
       (holding {} 65535).holder bkt264 false = 65535 ∧ (holding {} 65535).bucket 65534 = some { bkt264 with id := 65534, mine := { step := 3 } }) ∧
    (let o : Own := { step := 3, firstMt := some 5, present := [1] }
     let b : Bucket := { bkt264 with mine := o, adopted := o }
     let g : Group := { holding o with buckets := [b] }
     (joined g).group 7 = some g ∧ g.bucket 65535 = some b ∧ (b.table true).firstMt = some 5 ∧ (b.table false).firstMt = some 5 ∧ g.adoptedRank = 0xFFFF ∧
       g.overdue b false (5 + g.dUs * 1000 + 1) = some 0 ∧ g.overdue b true (5 + g.dUs * 1000 + 1) = some 0 ∧ g.abortPol = false ∧
       ({ g with abortPol := true } : Group).overdue b false (5 + g.dUs * 1000 + 1) = some 0 ∧
       g.overdue { b with mine := { o with present := [0, 1] } } false (5 + g.dUs * 1000 + 1) = none) := by
  refine ⟨?_, ⟨?_, ?_, accepts ?_, ?_⟩, ⟨accepts ?_, ?_⟩, ?_⟩ <;> decide +kernel

def gm (srcRank arg : Nat) : GroupMsg :=
  { port := 7, src := 5, gid := 7, step := 3, attempt := 0, mseq := 1, srcRank, arg }

theorem hears {s : State} {m : GroupMsg} {g : Group} (hv : m.via = {})
    (h : (m.wf && ((s.port m.port).live && !s.ecc.armed) && s.msgRoom m.port && !s.fab.seen.contains (m.src, m.mseq) && s.group m.gid == some g) = true) :
    s.Hears m g := by
  rw [Bool.and_eq_true, Bool.and_eq_true, Bool.and_eq_true, Bool.and_eq_true, beq_iff_eq, Bool.not_eq_true'] at h
  exact ⟨h.1.1.1.1, hv ▸ accepts h.1.1.1.2, h.1.1.2, by simpa using h.1.2, h.2⟩

theorem test_meets_ContributionsSentAgain :
    ((joined (grp 1)).Hears (gm 0 65535) (grp 1) ∧ (grp 1).bucket (65535 % 2 ^ 16) = some bkt ∧ (3, 0) = (grp 1).key ∧ (grp 1).home 0 = some 5 ∧
      0 ∉ bkt.resent ∧ 0 ∈ ({ bkt with resent := [0] } : Bucket).resent) ∧
    (let g : Group := { grp 1 with resendAt := [(65535, 0, 10005)] }
     (joined g).group 7 = some g ∧ g.resendAt = [(65535, 0, 10005)] ∧ g.home 0 = some 5) ∧
    (let s := joined (grp 1)
     (grp 1).home 0 = some 5 ∧ 5 ≠ s.fab.moduleId ∧ 0 < (bkt.shard (grp 1).n 0).2 ∧
       answers (s.reading (s.groupAcc (grp 1)) (load s (s.groupAcc (grp 1)) (s.global (bkt.gradOff + (bkt.shard (grp 1).n 0).1)) (bkt.shard (grp 1).n 0).2)).1
         (List.replicate 256 0#8) = true) :=
  ⟨⟨hears rfl (by decide +kernel), by decide +kernel⟩, by decide +kernel, by decide +kernel⟩

/-- Every slot of the bucket filled. -/
def full : Bucket := { bkt with manual := true, mine := { step := 3, present := [0, 1] } }

theorem test_meets_SlotTablesSummed :
    (let g : Group := { grp 1 with buckets := [full] }
     let s := joined g .exchange
     let tk := s.unitTakes memoryUnit s.sumWork 0
     let u := tk.2.2
     let rd := u.reading (u.groupAcc g) ([0, 1].mapM (fun k => slotLoad u g (g.slotAddr full false k) 256))
     s.group 7 = some g ∧ g.bucket 65535 = some full ∧ g.rank ≠ 0xFFFF ∧ g.keyState = 1 ∧ (s.ctx 0).stepState.isOpen = true ∧ full.mine.own = 0 ∧
       (full.shard 2 1).2 = 256 ∧ (∀ r, r < g.n → r ∈ full.mine.ranks 2 []) ∧ (s.ctx 0).state = .active ∧ tk.1 = true ∧
       answers rd.1 [List.replicate 256 0#8, List.replicate 256 0#8] = true ∧
       (rd.2.store { u.groupAcc g with atHome := true } (rd.2.global full.sumOff) (sumSlots [List.replicate 256 0#8, List.replicate 256 0#8])).2 = none ∧ full.manual = true) ∧
    (let g : Group := { grp 1 with buckets := [full] }
     let h : Group := { g with gid := 8, ctx := 1 }
     let s : State := { near [] .exchange with groups := [g, h], ctxs := [(0, { Ctx.management .azg7208 with stepState := .exchange, step := 3 }),
                                                                         (1, { state := .active, level := 1, stepState := .exchange, step := 3 })] }
     s.group 8 = some h ∧ (s.ctx 1).stepState.isOpen = true ∧ (s.ctx 1).state = .active ∧ (s.unitTakes memoryUnit s.sumWork 1).1 = false) ∧
    (¬∀ r, r < 2 → r ∈ bkt.mine.ranks 2 []) ∧
    ([[1#8, 0#8, 0#8, 0#8], [0xFF#8, 0xFF#8, 0x7F#8, 0x7F#8]] ≠ ([] : List (List Byte)) ∧
      ∀ x ∈ [[1#8, 0#8, 0#8, 0#8], [0xFF#8, 0xFF#8, 0x7F#8, (0x7F#8 : Byte)]], x.length = 4 * 1) := by decide +kernel

def bh (mirror : Bool) : BcastHdr :=
  { port := 7, src := 5, gid := 7, bucket := 65535, step := 3, attempt := 0, mirror, owner := 0, addr := z.memBytes 0 - 256, defCrc := 77 }

theorem test_meets_ShardsAndNorms :
    (let g : Group := { grp 1 with buckets := [{ bkt with mine := { own := 1, step := 3 } }] }
     let s := (joined g .exchange).pokeMem 0 (bkt.recOff + 24) [1#8]
     s.group 7 = some g ∧ g.rank ≠ 0xFFFF ∧ answers (s.readNat (s.groupAcc g) (s.global (bkt.recOff + 24)) 8).1 1 = true ∧
       answers ((joined g .exchange).readNat ((joined g .exchange).groupAcc g) ((joined g .exchange).global (bkt.recOff + 24)) 8).1 0 = true ∧
       (bkt.regions.map (fun r => (r.kind, (r.shard 1).2))) = [(0, 256)] ∧
       answers (s.reading (s.groupAcc g) (load s (s.groupAcc g) (s.global (0x30000 + 256)) 256)).1 (List.replicate 256 0#8) = true ∧
       (((List.range g.n).filter (fun k => k != 1 && g.live k)).map (fun k => g.members.getD k 0xFFFF)).eraseDups.filter (· != 0xFFF0) = [5]) ∧
    (let g : Group := { grp 1 with buckets := [{ bkt with mine := { own := 1, step := 3 }, regions := [] }] }
     ((joined g .exchange).pokeMem 0 (bkt.recOff + 24) [1#8]).group 7 = some g) ∧
    (let s := joined (grp 1)
     let u := s.taken 7 {} 3 (flitsOf 256)
     s.Accepts 7 {} ∧ (Instr.bcast (bh true) (List.replicate 256 0#8)).wf = true ∧ (Instr.bcast (bh false) (List.replicate 256 0#8)).wf = true ∧
       s.group 7 = some (grp 1) ∧ (grp 1).rejoining = false ∧ (grp 1).bucket 65535 = some bkt ∧ bkt.crc = (bh false).defCrc ∧
       (grp 1).keyOk 3 0 = true ∧ (bh false).addr + 256 ≤ u.memBytes 0 ∧ u.landHeld (grp 1) (bh false).addr 256 = false ∧ u.behind (.bcast (bh false) (List.replicate 256 0#8)) = false ∧
       ({ u with held := [.bcast (bh false) (List.replicate 256 0#8)] } : State).behind (.bcast (bh false) (List.replicate 256 0#8)) = true ∧ (grp 1).keyOk 3 1 = false) ∧
    ((joined (grp 1)).Hears (gm 0 0) (grp 1) ∧ (∀ e ∈ (grp 1).normKids, e.1 ≠ 0) ∧ ((joined (grp 1)).ctx 0).readyDone = false ∧
      (∃ e ∈ ({ grp 1 with normKids := [(0, [])] } : Group).normKids, e.1 = 0) ∧ (grp 1).keyState = 1 ∧ (grp 1).keyOk 3 0 = true ∧
      (Instr.normUp (gm 0 0) (List.replicate 96 0#8)).wf = true) ∧
    (({} : Red).nan || ({} : Red).pinf || ({} : Red).ninf) = false ∧ f32 0x3F800000 = .num 1 ∧ ({} : Red).sum ≤ 1 * 1 :=
  ⟨by decide +kernel, by decide +kernel, ⟨accepts (by decide +kernel), by decide +kernel⟩, ⟨hears rfl (by decide +kernel), by decide +kernel⟩,
    by decide +kernel⟩

/-- Nothing left to publish, to land or to wait for: the group whose one bucket is published, with a started STEP_COMMIT. -/
def ready (rank : Nat) (g : Group := grp rank) : Group :=
  { g with commitPkts := [0], buckets := [{ bkt with mine := { own := 2, step := 3 }, landed := [(1 - rank, 0x30000, 256)] }] }

theorem test_meets_GroupsDecide :
    ((joined (grp 1)).Hears (gm 0 0) (grp 1) ∧ (joined (grp 1)).Canonical ∧ (joined (grp 1)).Workless ∧ (grp 1).keyState = 1 ∧ (3, 0) = (grp 1).key ∧
      0 ∉ (grp 1).readyKids ∧ (grp 1).commitPkts = [] ∧ (grp 1).rank ≠ 0xFFFF ∧ (grp 1).rank ≠ (grp 1).root ∧ (3, 0) ≠ ({ grp 1 with attempt := 1 } : Group).key) ∧
    (let g : Group := { grp 1 with keyState := 0 }
     (joined g).Hears (gm 0 0) g ∧ (joined g).Canonical ∧ (joined g).Workless ∧ g.keyOk 3 0 = true ∧ g.keyState ≠ 1 ∧ 0 ∉ g.readyKids ∧ g.rank ≠ 0xFFFF) ∧
    (let g := ready 0
     let s := joined g .exchange [commitPkt 7 3]
     s.Hears (gm 1 0) g ∧ s.Canonical ∧ s.Workless ∧ g.keyState = 1 ∧ g.rank = 0 ∧ g.adoptedRank = 0xFFFF ∧ g.asked = [] ∧ g.commitPkts ≠ [] ∧
       g.allPublished = true ∧ g.allLanded = true ∧ g.mirrorLanded = true ∧ (∀ c ∈ g.kids 0, c ∈ g.readyKids ∨ c = 1) ∧ g.rank = g.root) ∧
    (let g : Group := { ready 1 with rank := 0xFFFF, shadowOf := 1, members := [5, 6] }
     let h : Group := { g with buckets := [{ bkt with landed := [(0, 0x30000, 256), (1, 0x30100, 256)] }] }
     (joined g .exchange).Hears (gm 0 0) g ∧ (joined g .exchange).Workless ∧ g.allLanded = false ∧ (joined h .exchange).Hears (gm 0 0) h ∧
       h.allLanded = true) ∧
    (let g : Group := { ready 1 with rank := 0xFFFF, shadowOf := 1, members := [5, 6], keyState := 0 }
     (joined g .committed).Hears (gm 0 0) g ∧ (joined g .committed).Canonical ∧ (joined g .committed).Workless ∧ g.keyOk 3 0 = true ∧ g.keyState ≠ 1) ∧
    (let g : Group := { ready 0 with asked := [1], departed := [] }
     (joined g .exchange).Hears (gm 1 3) g ∧ 1 ∈ g.asked ∧ 2 % 4 = 2 ∧ 3 % 4 = 3) ∧
    (let g : Group := { grp 1 with rejoining := true, rejoinPkt := some 0, rejoinAwait := [5] }
     let s := joined g .committed [{ joinPkt 4 slotSpace with waiting := true }]
     s.Hears (gm 0 1) g ∧ s.Canonical ∧ s.Workless ∧ (∀ x ∈ g.rejoinAwait, x = 5) ∧ s.pkt 0 = some (0, { joinPkt 4 slotSpace with waiting := true }) ∧
       g.rejoinNo = false ∧ (∃ x ∈ ({ g with rejoinAwait := [5, 6] } : Group).rejoinAwait, x ≠ 5)) := by
  refine ⟨⟨hears rfl ?_, canon ?_, workless ?_ ?_ ?_, ?_⟩, ⟨hears rfl ?_, canon ?_, workless ?_ ?_ ?_, ?_⟩,
    ⟨hears rfl ?_, canon ?_, workless ?_ ?_ ?_, ?_⟩, ⟨hears rfl ?_, workless ?_ ?_ ?_, ?_, hears rfl ?_, ?_⟩,
    ⟨hears rfl ?_, canon ?_, workless ?_ ?_ ?_, ?_⟩, ⟨hears rfl ?_, ?_⟩,
    ⟨hears rfl ?_, canon ?_, workless ?_ ?_ ?_, ?_⟩⟩ <;> decide +kernel

/-! ### The fabric -/

/-- The module with plane 7 to module 5 and the last 1 MiB of partition 0 open to peers. -/
def opened : State :=
  { meshed with regions := [(0, { valid := true, remote := true, size := 20, base := meshed.memBytes 0 - 2 ^ 20 })] }
def lastWord : Nat := meshed.memBytes 0 - 8
def mh (addr : Nat) : MemHdr := { port := 7, part := 0, src := 5, tag := 2 ^ 32 - 1, addr }

theorem opened_laid : opened.Laid := by
  refine ⟨?_, ?_⟩ <;> decide +kernel

theorem test_meets_RemoteRequestsServed :
    ((mh lastWord).wf = true ∧ opened.Accepts 7 {} ∧ opened.Canonical ∧ opened.Laid ∧ opened.Plain ∧ opened.Quiet ∧ opened.held = []) ∧
    (opened.remoteOk 0 (lastWord + 1) 8 = false ∧ opened.remoteOk 0 (lastWord - 2 ^ 20) 8 = false ∧
      opened.fab.reqs = [] ∧ opened.fab.released = [] ∧
      (let s : State := { opened with fab := { opened.fab with released := [(5, 2 ^ 32 - 1, lastWord, 8)] } }
       s.Canonical ∧ (∃ e ∈ s.fab.released, e.1 = 5 ∧ e.2.1 = 2 ^ 32 - 1 ∧ e.2.2.1 ≤ lastWord ∧ lastWord < e.2.2.1 + e.2.2.2)) ∧
      (∃ r ∈ ({ opened with fab := { opened.fab with reqs := [{ tag := 2 ^ 32 - 1, port := 7, dest := 5, kind := 3, addr := 0, len := 8, pkt := 0 }] } } : State).fab.reqs,
        r.kind = 3 ∧ r.tag = 2 ^ 32 - 1 ∧ r.dest = 5)) ∧
    (opened.remoteOk 0 lastWord 8 = true ∧ opened.Reaches { part := 0 } (opened.global lastWord) 8 ∧ opened.reaches 5 7 = true) ∧
    (atomicAllowed 3 1 0 = true ∧ lastWord % atypeBytes 1 = 0 ∧ opened.remoteOk 0 lastWord (atypeBytes 1) = true ∧
      answers (opened.resolve { part := 0 } (opened.global lastWord)) (.mem (opened.place 0 lastWord) false) = true) := by
  refine ⟨⟨?_, accepts ?_, canon ?_, opened_laid, plain ?_, quiet ?_, ?_⟩, ⟨?_, ?_, ?_, ?_, ⟨canon ?_, ?_⟩, ?_⟩, ⟨?_, reach ?_, ?_⟩, ?_⟩ <;> decide +kernel

/-- A packet that waits for answers of module 5, and the request it has made. -/
def request (kind len : Nat) : Req :=
  { tag := 2 ^ 32 - 1, port := 7, dest := 5, kind, addr := 0x2000, len, pkt := 0, sent := 1, land := here 0x2000, total := len }
def asking (kind op : Nat) (len : Nat := 8) : State :=
  { withPkts [{ act op (block [(peer 0x2000, 8), (7, 8), (0, 8), (0, 1), (1, 1), (0xFF, 1), (0, 5)]) with waiting := true }] meshed with
    fab := { meshed.fab with reqs := [request kind len] } }
def asker : Packet := { act 0x0301 (block [(peer 0x2000, 8), (7, 8), (0, 8), (0, 1), (1, 1), (0xFF, 1), (0, 5)]) with waiting := true }

/-- A COPY to a peer whose planes have yet to report. -/
def pushing (planes : List Nat) : Packet := { copyPkt (here 0) (peer 0) 8 with tag := 2 ^ 32 - 1, waiting := true, planes }
def pushed (planes : List Nat) : State := withPkts [pushing planes] meshed

/-- A message not yet acknowledged. -/
def unheard : Unacked := { dest := 5, mseq := 2 ^ 32 - 1, pkt := { typ := 6, vc := 2, dest := 5 }, sent := 3 }

theorem test_meets_RemoteAnswersTaken :
    ((mh 0).wf = true ∧ (asking 2 0x0301).Accepts 7 {} ∧ z.fab.reqs = [] ∧ (request 0 8).dest = (mh 0).src ∧ (request 0 8).queued = none ∧ (request 0 8).pkt < 2 ^ 60 ∧ (request 0 8).drift = none ∧ asker.opcode ≠ opTasklist ∧
      (∀ kind, kind < 3 → (asking kind 0x0301).fab.reqs = [request kind 8]) ∧ (request 0 8).tag = (mh 0).tag ∧
      (asking 2 0x0301).pkt 0 = some (0, asker) ∧ succeeded stOk = true ∧ succeeded stMemBounds = false ∧ stMemBounds ≠ stMemUncorrectable) ∧
    (∀ planes, planes = [7] ∨ planes = [7, 3] → (pushed planes).Accepts 7 {} ∧ (pushed planes).pkt 0 = some (0, pushing planes) ∧
      (pushing planes).phase = .started ∧ (pushing planes).bulkDest = (mh 0).src ∧
      (∀ r ∈ (pushed planes).allPkts, r.2.tag = (mh 0).tag → r = (0, pushing planes))) ∧
    (∀ len, len = 8 ∨ len = 16 → let s : State := asking 3 0x0101 len
     s.Accepts 7 {} ∧ s.Canonical ∧ s.Laid ∧ s.Plain ∧ s.Quiet ∧ s.held = [] ∧ (∃ k, s.pkt 0 = some (0, k) ∧
       (k.phase == .started && decide ((here 0x2000) >>> 48 = s.fab.moduleId ∧ (here 0x2000) % 2 ^ 48 ≤ 0x2000 ∧
         0x2000 + 8 ≤ (here 0x2000) % 2 ^ 48 + len ∧ s.fab.released = [] ∧ s.fab.bulkIn = [])) = true) ∧
       s.Reaches (s.moverAcc 0 (pushing []) false) (s.global 0x2000) 8) ∧
    (let s : State := { meshed with fab := { meshed.fab with unacked := [unheard] } }
     s.Accepts 7 {} ∧ s.present 5 = true ∧ s.planeFor 0 5 0 = some 7 ∧ ({ s with fab := { s.fab with reach := [] } } : State).present 5 = false ∧
       (∀ x ∈ s.fab.unacked, ¬(x.dest = 4 ∧ x.mseq = 2 ^ 32 - 1))) ∧
    (asking 2 0x0301).allPkts.length = 1 := by
  refine ⟨⟨?_, accepts ?_, ?_⟩, ?_, fun len h => ?_, ⟨accepts ?_, ?_⟩, ?_⟩
  rotate_left 3
  · rintro planes (rfl | rfl) <;> exact ⟨accepts (by decide +kernel), by decide +kernel⟩
  · rcases h with rfl | rfl <;>
      exact ⟨accepts (by decide +kernel), canon (by decide +kernel), laid rfl, plain (by decide +kernel), quiet (by decide +kernel), by decide +kernel,
        ⟨_, rfl, by decide +kernel⟩, reach (by decide +kernel)⟩
  all_goals decide +kernel

def withPort (p : Port) : State := { meshed with fab := { meshed.fab with ports := [(7, p)] } }
def tx : TxPkt := { typ := 6, vc := 2, dest := 5 }
def flit (nak : Bool) (ackSeq : Nat) : LinkFlit := ⟨nak, false, ackSeq, 0, 0, 0, 0, 0, 0, 0⟩
def lane99 (spares : List Nat) (width : Nat) : Port := { st := .up, width, lanes := List.range 96, spares, outLanes := [99] }

theorem test_meets_PortsAndLanes :
    ((withPort { st := .training }).Canonical ∧ ¬(withPort { st := .training }).Accepts 7 {} ∧ ¬(withPort { st := .training }).burstMarks 1 ∧ (Instr.portState ⟨7, {}⟩ 5 false).wf = true) ∧
    (let s := joined (grp 1)
     s.Accepts 7 {} ∧ s.msgRoom 7 = true ∧ s.group 7 = some (grp 1) ∧ 5 ∈ (grp 1).members ∧ 5 ∉ (grp 1).departed ∧ 5 ≠ s.fab.moduleId ∧ 5 ∉ s.fab.gone ∧
       Tbl.wf 0 s.fab.reach = true ∧ s.reaches 5 7 = true ∧ (∀ j, j < 8 → j ≠ 7 → s.reaches 5 j = false) ∧ (5, 2 ^ 32 - 1) ∉ s.fab.seen ∧
       s.present 5 = true ∧ (5, 1) ∈ ({ s with fab := { s.fab with seen := [(5, 1)] } } : State).fab.seen ∧
       (Instr.departing ⟨7, {}⟩ 5 (2 ^ 32 - 1)).wf = true) ∧
    ((withPort { st := .training, fails := 1 }).Canonical ∧ (withPort { st := .training, fails := 2 }).Canonical ∧
      ((withPort { st := .training, fails := 2 }).port 7).st = .training ∧ ((withPort { st := .up }).port 7).st ≠ .training ∧
      (withPort { st := .training, fails := 2 }).groups = [] ∧ ((withPort { st := .training, fails := 2 }).port 7).replay = [] ∧
      ((withPort { st := .training, fails := 2 }).port 7).txq = [] ∧ (withPort { st := .training, fails := 2 }).fab.reqs = []) ∧
    (let p := lane99 [96, 98] 96
     (withPort p).Canonical ∧ ((withPort p).port 7).live = true ∧ 99 ∈ p.outLanes ∧ 98 ∉ p.outLanes ∧ 98 ∈ p.spares ∧ 97 ∉ p.lanes ∧ 97 ∉ p.spares ∧
       95 ∈ p.lanes ∧ 95 ∉ p.spares ∧ p.swaps = [] ∧ (∃ w ∈ ({ p with swaps := [(true, 95, 96, 1)] } : Port).swaps, w.2.1 = 95) ∧ (∀ x ∈ p.spares, 96 ≤ x)) ∧
    (∀ w, w = 48 ∨ w = 47 → (withPort (lane99 [] w)).Canonical ∧ ((withPort (lane99 [] w)).port 7).live = true ∧
      ((withPort (lane99 [] w)).port 7).width = w ∧ ((withPort (lane99 [] w)).port 7).spares = [] ∧ 0 ∈ (lane99 [] w).lanes ∧ (lane99 [] w).swaps = [] ∧
      w / 2 ≤ ((List.range ((withPort (lane99 [] w)).order.lanes + 4)).filter (fun l => decide (l ∉ (lane99 [] w).outLanes ∧ l ≠ 0))).length) ∧
    ((flit true 0).wf = true ∧ ((withPort {}).port 7).live = false ∧
      ({ flit false 0 with laneCmd := true, swapOut := 95, swapIn := 96, swapAfter := 1 } : LinkFlit).wf = true ∧
      95 ∈ (lane99 [96, 98] 96).lanes ∧ 96 ∈ (lane99 [96, 98] 96).spares ∧ (lane99 [96, 98] 96).swaps = [] ∧ (lane99 [96, 98] 96).txq = [] ∧
      95 ∈ ({ lane99 [98] 96 with swaps := [(true, 95, 96, 2)] } : Port).lanes ∧ 1 < 2) ∧
    (∀ row, row = 6 ∨ row = 7 → let p : Port := { st := .up, replay := [(9, tx), (10, tx)], nextSeq := 11, nakRow := row }
     (withPort p).Canonical ∧ ((withPort p).port 7).live = true ∧ p.txq = [] ∧ p.acked 9 = p.replay ∧ p.acked 9 ≠ [] ∧ (flit true 9).wf = true) ∧
    (typeVc 0 = none ∧ (∃ t, t < 64 ∧ t ≠ 0 ∧ typeVc t ≠ some 3) ∧ (∃ t v, t < 64 ∧ v < 4 ∧ typeVc t = some v) ∧
      (Instr.discardedPacket ⟨7, {}⟩ 255 ⟨3, 16352⟩).wf = true) := by
  refine ⟨⟨canon ?_, fun h => ?_, fun h => ?_, ?_⟩, ⟨accepts ?_, ?_⟩, ⟨canon ?_, canon ?_, ?_⟩, ⟨canon ?_, ?_⟩, fun w h => ?_, ?_, fun row h => ?_, ?_, ⟨63, ?_⟩,
    ⟨1, 2, ?_⟩, ?_⟩
  rotate_left 1
  · exact absurd h.1 (by decide +kernel)
  · exact absurd h.1 (by decide +kernel)
  rotate_left 8
  · rcases h with rfl | rfl <;> exact ⟨canon (by decide +kernel), by decide +kernel⟩
  rotate_left 1
  · rcases h with rfl | rfl <;> exact ⟨canon (by decide +kernel), by decide +kernel⟩
  all_goals decide +kernel

def following (out : List (Nat × Nat)) (best : Option (Int × Int)) : State :=
  { meshed with mtime := 1000, fab := { meshed.fab with timeMaster := 5, syncOut := out, syncBest := best } }

theorem test_meets_TimeIsKept :
    (isPort 7 = true ∧ (Instr.timeSync ⟨7, {}⟩ 5 1 9 100 200 1200).wf = true ∧ (following [(7, 900)] none).Accepts 7 {} ∧ (following [(7, 900)] none).msgRoom 7 = true ∧ z.follows = false ∧
      (following [(7, 900)] none).follows = true ∧ (∀ e ∈ (following [(7, 900)] none).fab.syncOut, e.1 ≠ 6) ∧
      (5, 9) ∉ (following [(7, 900)] none).fab.seen ∧ (5, 9) ∈ ({ meshed with fab := { meshed.fab with seen := [(5, 9)] } } : State).fab.seen) ∧
    ((following [(7, 900), (3, 901)] (some (1, 0))).fab.syncOut = (7, 900) :: (3, 901) :: [] ∧
      (∀ e ∈ [(3, 901)], (e : Nat × Nat).1 ≠ 7) ∧ (∀ x, (following [(7, 900), (3, 901)] (some (1, 0))).fab.syncBest = some x → x.1 ≤ 2) ∧
      (following [(7, 900), (3, 901)] (some (1, 0))).fab.syncBest ≠ none) ∧
    (following [(7, 900)] (some (5, 0))).fab.syncOut = [(7, 900)] ∧
    ((following [] none).reaches (following [] none).fab.timeMaster 7 = true ∧ z.reaches z.fab.timeMaster 7 = false) ∧
    (z.fab.masterGone = none ∧ ({ z with fab := { z.fab with masterGone := some 5 } } : State).fab.masterGone = some 5) := by
  refine ⟨⟨?_, ?_, accepts ?_, ?_⟩, ⟨by decide +kernel, by decide, ?_, by decide⟩, by decide +kernel, by decide +kernel, by decide +kernel⟩
  rotate_right 1
  · simp [following]
  all_goals decide +kernel

/-! ### Input and video -/

/-- FEED_OPEN of the last feed, with no field, one sample a micro-batch. -/
def feedPkt (mask : Nat := 0) : Packet :=
  { act 0x0501 (block [(0xFFFF, 2), (mask, 1), (0, 1), (0, 1), (0xFF, 1), (0, 2), (1, 2), (2, 2), (0, 84)]) with ctx := 1 }
/-- Context 1 of a kind, and feed 65535 in a state. -/
def feeding (ks : List Packet) (f : Feed := {}) (kind : Nat := 1) : State :=
  { withPkts ks with ctxs := [(0, Ctx.management .azg7208), (1, { state := .active, kind, memLimit := 2 ^ 20 })],
                     feeds := if f = {} then [] else [(0xFFFF, f)] }

def submitPkt (first : Nat) : Packet :=
  { act 0x0502 (block [(0xFFFF, 2), (1, 2), (0, 4), (first, 8), (0, 16), (here 0x5000, 8), (20, 5), (0, 3)]) with ctx := 1 }
def closePkt (now : Nat) : Packet := { act 0x0503 (block [(0xFFFF, 2), (now, 1), (0, 5)]) with ctx := 1 }
def tokPkt : Packet :=
  act 0x0504 (block [(15, 1), (0, 3), (256, 4), (1, 4), (4, 2), (0, 2), (here 0x200000, 8), (here 0x800000, 8), (here 0xA00000, 8),
    (here 0xB00000, 8), (here 0xC00000, 8), (0, 4), (1, 4)])

/-- A feed whose one field is tokens as they stand, with these samples. -/
def runningFeed (samples : List Sample) (skip : Bool := false) (mean : Nat := 0) (next : Nat := 1) : Feed :=
  { st := .opened, ctx := 1, fields := [{ kind := 4 }], tokSlot := 0xFF, rows := 1, seqLen := 4, out := here 0x20000, mbBytes := 4096,
    sem := here 0x6000, samples, skip, mean, next }
def smp (phase : SamplePhase) (src : Nat := here 0x5000) (len : Nat := 24) : Sample := { idx := 0, src, len, phase }

/-- The error a read ends in. -/
theorem err_of {α : Type} {x : Except Err α} {e : Err} (h : endsWith x (fun _ => false) (fun y => decide (y = e)) = true) : x = .error e := by
  cases x with
  | ok y => simp [endsWith] at h
  | error y => simp [endsWith] at h; rw [h]

/-- R372: one record, one token: 4 bytes of payload, type 0x31, LAST, CRC-32C. -/
def record : List Byte := block [(4, 5), (0x31, 1), (1, 1), (0, 1), (crc32c [7#8, 0#8, 0#8, 0#8], 4), (0, 4), (7, 8)]

theorem test_meets_FeedsRun :
    ((feeding [feedPkt]).started 0 0x0501 = some (0, feedPkt) ∧ ((feeding [feedPkt]).ctx 1).kind = 1 ∧ ((feeding [feedPkt]).feed 0xFFFF).st = .closed ∧
      answers ((feeding [feedPkt]).reading ((feeding [feedPkt]).accOf 0 feedPkt) (do
        let xs ← readXforms (feeding [feedPkt]) ((feeding [feedPkt]).accOf 0 feedPkt) (feedOf 1 0 feedPkt.params)
        let log ← readReplay (feeding [feedPkt]) ((feeding [feedPkt]).accOf 0 feedPkt) (feedOf 1 0 feedPkt.params)
        pure (xs, log))).1 ([], []) = true ∧ (feeding [feedPkt]).poolUsed = 0 ∧ (feeding [feedPkt]).feedStalled 0xFFFF = false ∧
      (feeding [feedPkt] { st := .stalled }).feedStalled 0xFFFF = true ∧
      ((feeding [feedPkt] {} 0).ctx 1).kind ≠ 1 ∧ ((feeding [feedPkt] { st := .opened }).feed 0xFFFF).st ≠ .closed) ∧
    (let s : State := { feeding [feedPkt] with sessions := [(0, { opened := true, nfb := 4097 })] }
     4096 < s.poolUsed) ∧
    (let f := runningFeed []
     (feeding [submitPkt 1] f).started 0 0x0502 = some (0, submitPkt 1) ∧ field (submitPkt 1).params 8 8 = f.next ∧ f.samples.length + 1 ≤ 65536 ∧
       field (submitPkt 2).params 8 8 ≠ f.next ∧ (feeding [submitPkt 1] { f with st := .stalled }).feedStalled 0xFFFF = true ∧ (feeding [submitPkt 1] f).feedStalled 0xFFFF = false ∧
       (feeding [submitPkt 1]).started 0 0x0502 = some (0, submitPkt 1)) ∧
    ((feeding [closePkt 0] (runningFeed [])).Canonical ∧ (feeding [closePkt 0] (runningFeed [])).started 0 0x0503 = some (0, closePkt 0) ∧
      (feeding [closePkt 0] (runningFeed [])).feedStalled 0xFFFF = false ∧ (feeding [closePkt 0] { runningFeed [] with st := .stalled }).feedStalled 0xFFFF = true ∧
      (field (closePkt 0).params 2 1).testBit 0 = false ∧ (field (closePkt 1).params 2 1).testBit 0 = true ∧ (runningFeed [smp .waiting]).samples ≠ []) ∧
    ((feeding [tokPkt]).started 0 0x0504 = some (0, tokPkt) ∧ (∀ x ∈ (feeding [tokPkt]).feeds, x.2.st = .closed) ∧
      (∃ x ∈ (feeding [tokPkt] { runningFeed [] with fields := [{ kind := 3 }], tokSlot := 15 }).feeds, x.2.st ≠ .closed ∧ x.2.tokSlot = 15 ∧
        ∃ e ∈ x.2.fields, e.kind = 3)) ∧
    (let s := feeding [] (runningFeed [smp .waiting])
     let tk := s.unitTakes (feedUnit 1) (s.feedWork 1) 1
     s.feedRuns 0xFFFF = true ∧ 0 < (runningFeed [smp .waiting]).oldest + 8192 ∧ tk.1 = true ∧ (runningFeed [smp .waiting]).imposed 0 = none ∧
       (let r := { runningFeed [smp .waiting] with log := [(0, 0x10, 0)] }
        let s := feeding [] r
        let tk := s.unitTakes (feedUnit 1) (s.feedWork 1) 1
        s.feedRuns 0xFFFF = true ∧ tk.1 = true ∧ r.imposed 0 = some (0x10, 0))) ∧
    (let f := runningFeed [smp .waiting]
     let s : State := { feeding [] f with ctxs := [(0, Ctx.management .azg7208), (1, { state := .active, kind := 1, memLimit := 2 ^ 20 }),
                                                  (2, { state := .active, kind := 1, level := 1, memLimit := 2 ^ 20 })],
                                          feeds := [(0xFFFD, { f with ctx := 2 }), (0xFFFF, f)] }
     s.feedRuns 0xFFFF = true ∧ (s.unitTakes (feedUnit 1) (s.feedWork 1) 1).1 = false) ∧
    (let f := runningFeed [smp .decoding]
     let s := (feeding [] f).pokeMem 0 0x5000 record
     s.Canonical ∧ f.samples.find? (fun y => y.idx == 0) = some (smp .decoding) ∧ s.feedRuns 0xFFFF = true ∧ f.mean = 0 ∧ f.skip = false ∧ s.hostUp 0 = true ∧ (smp .decoding).tomb = none ∧
       (let g := runningFeed [smp .decoding] true 400000
        g.skip = true ∧ g.replayed 0 = false ∧ (smp .decoding).startMt + g.hardNs ≤ max s.mtime (2 ^ 64 - 1) ∧ (feeding [] g).feedRuns 0xFFFF = true ∧ g.st ≠ .closed) ∧
       (let a : Acc := { s.ctxAcc f.ctx with pkt := 2 ^ 61 + 0xFFFF * 2 ^ 32 }
        (∃ d, (s.reading a (decodeSample s f a (smp .decoding))).1 = .ok d ∧ decide (d.tomb = none) = true) ∧
        (∃ d, ((feeding [] f).reading a (decodeSample (feeding [] f) f a (smp .decoding))).1 = .ok d ∧ d.tomb.isSome = true) ∧
        (let far := smp .decoding (here (2 ^ 20)) 24
         ∃ e, (s.reading a (decodeSample s f a far)).1 = .error (.fail stMemBounds e) ∧ true = true)) ∧
       (runningFeed [smp .decoding] true 400000).mean ≠ 0 ∧ (runningFeed [smp .decoding] true).replayed 0 = false ∧
       ({ runningFeed [smp .decoding] true with log := [(0, 0x10, 0)] } : Feed).replayed 0 = true) ∧
    (let f := runningFeed [{ smp .ready with tomb := some (1, 0, 0) }]
     (feeding [] f).Canonical ∧ f.samples.find? (fun y => y.idx == f.oldest) = some { smp .ready with tomb := some (1, 0, 0) } ∧
       (feeding [] f).feedRuns 0xFFFF = true ∧ f.st = .opened ∧ 0 % f.mbSamples = 0 ∧ 0 < 0 + f.mbSlots ∧ ((feeding [] f).ctx 1).state = .active ∧
       (let a : Acc := { (feeding [] f).ctxAcc f.ctx with pkt := freeRead 0xFFFF }
        answers ((feeding [] f).reading a (loadNat (feeding [] f) a (f.sem + 8) 8)).1 0 = true) ∧
       (let g := { f with oldest := 4, samples := [{ smp .ready with idx := 4 }] }
        let a : Acc := { (feeding [] g).ctxAcc g.ctx with pkt := freeRead 0xFFFF }
        (feeding [] g).feedRuns 0xFFFF = true ∧ 4 % g.mbSamples = 0 ∧ 0 + g.mbSlots ≤ 4 / g.mbSamples ∧
          answers ((feeding [] g).reading a (loadNat (feeding [] g) a (g.sem + 8) 8)).1 0 = true)) := by
  refine ⟨?_, ?_, ?_, ⟨canon ?_, ?_⟩, ?_, ?_, ?_, ⟨canon ?_, ?_, ?_, ?_, ?_, ?_, ?_, ?_, ⟨ok_of ?_, ok_of ?_, ⟨here (2 ^ 20), err_of ?_, rfl⟩⟩, ?_⟩, ⟨canon ?_, ?_⟩⟩
  all_goals decide +kernel

/-- The module with the tokenizer's tables in memory: the last byte token is `top`. -/
def tabled (top : Nat) : State := (feeding [tokPkt]).pokeMem 0 (0xA00000 + 1020) (toLe 4 top)

theorem tabled_loads (s : State) (a : Acc) (off n : Nat) (h : off + n ≤ 2 ^ 30) (hs : s.regions = [] ∧ s.groups = [] ∧
    s.chans = [] ∧ s.mem.ck = [] ∧ s.ctrl.resets = [] ∧ s.stackTbl = [] ∧ s.fab.moduleId = 0xFFF0 ∧ a.lo = 0 ∧ 2 ^ 30 ≤ a.hi ∧
    2 ^ 30 ≤ s.memBytes a.part) : ∃ bs, ((load s a (here off) n).run.run []).1 = .ok bs := by
  obtain ⟨h1, h2, h3, h4, h5, h6, h7, h8, h9, h10⟩ := hs
  have := load_fresh (s := s) (a := a) (off := off) (n := n) h1 h2 (memByte_clean h3 h4) h5 h6 (by omega) (by omega) (by omega) (by omega) (by omega)
  rw [h7] at this
  exact this []

/-- A byte token outside the vocabulary of 256, and one inside it. -/
theorem test_meets_FeedsRun_tokenizer (top : Nat) (ht : top = 256 ∨ top = 255) :
    let s := tabled top
    let v := tokOf 0 tokPkt.params
    let rd : Nat → Nat → Except Err (List Byte) := fun g m => ((load s (s.accOf 0 tokPkt) g m).run.run []).1
    s.started 0 0x0504 = some (0, tokPkt) ∧ (∃ b1, rd v.norm (4 * 1114112) = .ok b1) ∧ (∃ b2, rd v.cls 1114112 = .ok b2) ∧
      (let bs := List.replicate 1020 0#8 ++ toLe 4 top
       answers (rd v.byteTok 1024) bs = true ∧ (v.vocab ≤ field bs (4 * 255) 4 ↔ top = 256) ∧ ∀ i, i < 255 → field bs (4 * i) 4 < v.vocab) ∧
      answers (rd v.merge (16 * v.merges)) (List.replicate 16 0#8) = true ∧ answers (rd v.join 32) (List.replicate 32 0#8) = true ∧
      (let ms := mergesOf (List.replicate 16 0#8) v.merges
       (∀ m ∈ ms, m.1 < v.vocab ∧ m.2.1 < v.vocab ∧ m.2.2.1 < v.vocab) ∧ risingMerges ms = true ∧
         sortBy (fun x y => decide (x ≤ y)) (ms.map (fun m => m.2.2.2)) = List.range v.merges) := by
  rcases ht with rfl | rfl <;>
  · refine ⟨by decide +kernel, ?_, ?_, by decide +kernel⟩
    · rw [show (tokOf 0 tokPkt.params).norm = here 0x200000 from by decide +kernel]
      exact tabled_loads _ _ _ _ (by decide) (by decide +kernel)
    · rw [show (tokOf 0 tokPkt.params).cls = here 0x800000 from by decide +kernel]
      exact tabled_loads _ _ _ _ (by decide) (by decide +kernel)

def openPkt (enc nfb : Nat) : Packet :=
  { act 0x0601 (block [(0xFFFF, 2), (enc, 1), (0, 1), (8, 1), (1, 1), (nfb, 2), (16, 2), (16, 2), (0x10000, 4), (here 0x10000, 8), (here 0x20000, 8),
      (0, 4), (0, 2), (0, 2), (0, 8), (hostAt 0x1000, 8), (6, 1), (0, 7), (0, 8), (1, 2), (0, 3), (0, 3), (0, 8), (hostAt 0x2000, 8), (0, 32)]) with
    ctx := 1 }
def decodePkt (len flags : Nat) : Packet := { act 0x0602 (block [(hostAt 0x3000, 8), (len, 5), (flags, 1), (0, 50)]) with ctx := 1 }
/-- A picture of no sample, of which no byte is stored: only what the row says of itself is then left to write. -/
def encodePkt : Packet :=
  { act 0x0603 (block [(here 0x5000, 8), (0, 4), (0, 2), (0, 2), (0, 2), (8, 1), (0, 1), (0, 4), (0, 4), (0, 4), (here 0x6000, 8), (here 0x7000, 8),
      (0, 80)]) with ctx := 1 }
/-- Context 1 with this session, at the last number. -/
def medial (ks : List Packet) (x : Session) : State := { feeding ks {} 2 with sessions := if x = {} then [] else [(0xFFFF, x)] }
def decoder : Session := { opened := true, ctx := 1, outAddr := hostAt 0x1000, consAddr := hostAt 0x2000 }

theorem test_meets_MediaRuns :
    (let s := medial [openPkt 0 64] {}
     s.started 0 0x0601 = some (0, openPkt 0 64) ∧ (s.ctx 1).kind = 2 ∧ (s.sessionOf 1).isSome = false ∧ (s.session 0xFFFF).opened = false ∧
       s.poolUsed + 64 ≤ 4096 ∧ (s.store { s.accOf 0 (openPkt 0 64) with host := true } (hostAt 0x2000) (toLe 8 0)).2 = none ∧
       (sessionOf 1 (openPkt 0 64).params).encode = false ∧ (sessionOf 1 (openPkt 1 64).params).encode = true ∧
       ((medial [openPkt 0 64] decoder).sessionOf 1).isSome = true ∧
       4096 < ({ s with sessions := [(0, { opened := true, nfb := 4033 })] } : State).poolUsed + 64) ∧
    (let s := medial [decodePkt 4 2] decoder
     s.mediaPkt 0 0x0602 = some (0, decodePkt 4 2) ∧ s.Canonical ∧ s.sessionOf 1 = some (0xFFFF, decoder) ∧ s.sessRuns 0xFFFF = true ∧
       s.mediaEarlier (decodePkt 4 2) decoder = false ∧ badRelease decoder (decodePkt 4 2).params = none ∧ s.hostUp 0 = true ∧
       answers ((load s (s.sessAcc decoder 0 true) (hostAt 0x3000) 4).run.run []).1 (List.replicate 4 0#8) = true ∧
       (medial [decodePkt 0 0] decoder).mediaPkt 0 0x0602 = some (0, decodePkt 0 0) ∧
       ((s.acceptDecode 0xFFFF (decodePkt 4 2)).codecTurn 0xFFFF).1 = true ∧
       (medial [decodePkt 0 0] {}).sessionOf 1 = none ∧ ((medial [decodePkt 0 0] {}).ctx 1).state = .active) ∧
    (let x : Session := { decoder with encode := true }
     let s := medial [encodePkt] x
     let tk := s.codecTurn 0xFFFF
     let u := tk.2
     let a := u.sessAcc x 0
     tk.1 = true ∧ s.mediaPkt 0 0x0603 = some (0, encodePkt) ∧ s.Canonical ∧ s.sessionOf 1 = some (0xFFFF, x) ∧ s.sessRuns 0xFFFF = true ∧
       s.mediaEarlier encodePkt x = false ∧ answers (u.reading a (loadSource u a encodePkt.params)).1 [] = true) ∧
    (let x : Session := { decoder with outQ := [1], records := 63 }
     let s := medial [] x
     let p := x.running.getD 0
     s.sessRuns 0xFFFF = true ∧ x.records < x.cons + 2 ^ x.outLog2 ∧ (s.storeAll (s.sessAcc x p) []).2 = none ∧
       (s.storeAll (s.sessAcc x p true) [(x.outAddr + 32 * 63, x.outRec 1)]).2 = none ∧ x.cons + 2 ^ x.outLog2 ≤ ({ x with records := 64 } : Session).records) ∧
    (let s := (medial [] { decoder with cons := 1, records := 1 }).setHost 0x2000 [2#8]
     s.Canonical ∧ s.sessRuns 0xFFFF = true ∧
       answers (s.reading (s.sessAcc decoder 0 true) (loadNat s (s.sessAcc decoder 0 true) (hostAt 0x2000) 8)).1 2 = true) := by
  refine ⟨?_, ⟨?_, canon ?_, ?_⟩, ⟨?_, ?_, canon ?_, ?_⟩, ?_, ⟨canon ?_, ?_⟩⟩ <;> decide +kernel

theorem test_meets_MediaRuns_encode :
    let x : Session := { decoder with encode := true }
    let u := (medial [encodePkt] x).codecTurn 0xFFFF |>.2
    let a := u.sessAcc x 0
    let r := u.reading a (loadSource u a encodePkt.params)
    (r.2.storeAll a (x.encode1 encodePkt.params []).1).2 = none := by decide +kernel

/-- The codec engine's slice is another context's, at a higher LEVEL, whose session has a picture to code. -/
theorem test_meets_MediaRuns_slice :
    let x : Session := { decoder with encode := true }
    let k : Packet := { encodePkt with id := 1, ctx := 2 }
    let s : State := { medial [encodePkt, k] x with ctxs := [(0, Ctx.management .azg7208), (1, { state := .active, kind := 2, memLimit := 2 ^ 20 }),
                                                            (2, { state := .active, kind := 2, level := 2, memLimit := 2 ^ 20 })],
                                                    sessions := [(0xFFEF, { x with ctx := 2 }), (0xFFFF, x)] }
    s.mediaPkt 0 0x0603 = some (0, encodePkt) ∧ s.sessRuns 0xFFFF = true ∧ (s.codecTurn 0xFFFF).1 = false := by decide +kernel

/-! ### More worked examples of the spec -/

/-- R350's worked example (Hedgerow): the planes of three 64 KiB units for module 0x0010. -/
theorem test_planes : [0x4001, 0x4002, 0x4003].map (fun u => planeHash 0x10 (u * 65536)) = [4, 7, 6] := by decide +kernel

/-- Conversion to E4M3 (number formats), and 449 and 464 of R87. -/
theorem test_convert_e4m3 : [0x43FA0000, 0xFF800000, 0x3A800000, 0x3AC00000, 0x7FC00000, 0x43E08000, 0x43E80000].map (fun v => Flt.e4m3.convert .rne (f32 v)) =
    [⟨0x7E, true, false, false⟩, ⟨0xFE, true, false, false⟩, ⟨0, false, true, false⟩, ⟨1, false, false, false⟩, ⟨0x7F, false, false, true⟩,
     ⟨0x7E, false, false, false⟩, ⟨0x7E, false, false, false⟩] := by decide +kernel

/-- The four-term E4M3 dot product (number formats), into BF16 and FP32. -/
theorem test_dot_e4m3 :
    let el := fun l : List Nat => l.map Flt.e4m3.decode
    let sum := ((el [0x4C, 0xB9, 0x02, 0x78]).zip (el [0x3A, 0x44, 0x30, 0x01])).foldl (fun s p => s.add (p.1.mul p.2)) (.zero false)
    (Flt.bf16.convert .rne (ea48 sum)).bits = 0x4094 ∧ (Flt.fp32.convert .rne (ea48 sum)).bits = 0x40941000 := by decide +kernel

/-- One correction, one detection (data integrity): the checks of the word, and the syndromes of its two flips. -/
theorem test_boxwood :
    checks ([1#8, 0x80#8] ++ List.replicate 14 0#8) = 0xA425#16 ∧
    (let f := ({} : Mem).flip 0 (0x10 * 256 ^ 5) 0
     verdict (f.ckAt 0) = .fix 7 0x10#8 ∧ syndWord (f.ckAt 0) = 0xE810) ∧
    (let f := ({} : Mem).flip 0 (0x10 * 256 ^ 5 + 0x10 * 256 ^ 6) 0
     verdict (f.ckAt 0) = .bad ∧ syndWord (f.ckAt 0) = 0x2500) := by decide +kernel

/-- One PF4 block (four-bit formats): its bytes and its sidecar word. -/
theorem test_pf4 :
    let v := (List.range 64).map (fun i => f32 ([0x40400000, 0xBFC00000, 0x3F200000, 0x3E800000, 0, 0, 0, 0, 0, 0x42400000, 0, 0, 0, 0, 0, 0, 0,
      0, 0, 0, 0x3F400000].getD i 0))
    let e := encodePf4 ⟨0, 0, 0xA, false, false, 2, 2, 64, 0x0CCD, 0, 6, 0, 0, 0, 0, 0, 0, 0⟩ none 5 v
    e.bytes = [0x7E#8, 0x20#8, 0#8, 0xD7#8, 0x12#8] ++ List.replicate 8 0#8 ++ [0x07#8] ++ List.replicate 21 0#8 ∧ e.word = 0x1B09 := by decide +kernel

/-- R342's worked example (Hedgerow): the header of the first packet of unit 0, and of its fifth, which read back as what they are. -/
theorem test_bulk_packets :
    let k : TxPkt := { typ := 0x0C, vc := 3, dest := 0x10, src := 3, hdr := [0x71, 0x40010000, 0], data := List.replicate 16352 0#8 }
    let l : TxPkt := { k with last := true, hdr := [0x71, 0x4001FF80, 5], data := List.replicate 128 0#8 }
    (k.header 0).take 24 = [0x0C#8, 0x03#8, 0xE0#8, 0x3F#8, 0x10#8, 0#8, 0x03#8, 0#8, 0#8, 0#8, 0x71#8, 0#8, 0#8, 0#8, 0#8, 0#8, 0x01#8, 0x40#8, 0#8, 0#8,
      0#8, 0#8, 0#8, 0#8] ∧
    l.hflags = 0x0B ∧ (l.header 0).length = 32 ∧ readPacket (l.bytes 4095) = (l, 4095) ∧
    ((readPacket (l.bytes 4095)).1.command 4 {} ==
      some (.bulk { port := 4, part := 0, src := 3, tag := 0x71, addr := 0x4001FF80 } true 5 (List.replicate 128 0#8))) = true := by decide +kernel
end Sys2Proof.Tests
end

section
/-! What no command touches: the commands that wait behind it, and the order code. Every operation of the model that answers a state is
shown here, once, to leave both as they were; a caller's lemma cites those of what it calls, so that each unfolds one definition. What
the lemmas have in common: an update of a record names fields other than these two, a branch answers a state that one of the calls has
left, and a fold leaves what each of its steps leaves. -/

namespace Sys2Proof.Machine

/-- What no command touches: the waiting commands, and the order code, which is fused (R1, R3). -/
def State.untouched (s : State) : List Instr × Order := (s.pending, s.order)

/-! ### How `untouched` reads records, branches and folds -/

-- Not by a bare `rfl`: used as a definitional unfolding, it has the kernel compare whole states.
@[simp] theorem State.mk_untouched (order cores mtime pending free nextPkt nextSeq queues rings fns reply msix parts regions ctxs clients
    engines units moverLast unitLast items mem sp spLost host noAtomics held late owed locks caches copies stackCk ecc memRing lcShare chans
    stackTbl groups fab feeds toks sessions media ctrl power) :
    (State.mk order cores mtime pending free nextPkt nextSeq queues rings fns reply msix parts regions ctxs clients engines units moverLast
      unitLast items mem sp spLost host noAtomics held late owed locks caches copies stackCk ecc memRing lcShare chans stackTbl groups fab
      feeds toks sessions media ctrl power).untouched = (pending, order) := (rfl)

@[simp] theorem State.pending_order (s : State) : (s.pending, s.order) = s.untouched := (rfl)

theorem State.untouched_eq_iff {s t : State} : t.untouched = s.untouched ↔ t.pending = s.pending ∧ t.order = s.order :=
  Prod.mk.injEq .. ▸ Iff.rfl

@[simp] theorem State.ite_untouched (c : Prop) [Decidable c] (s t : State) :
    (if c then s else t).untouched = if c then s.untouched else t.untouched := apply_ite ..

/-- What every step of a fold leaves as it was, the fold does. -/
theorem foldl_keeps {α β γ : Type} (g : β → γ) (f : β → α → β) (h : ∀ b a, g (f b a) = g b) (l : List α) (b : β) :
    g (l.foldl f b) = g b := by
  induction l generalizing b with
  | nil => rfl
  | cons a l ih => rw [List.foldl_cons, ih, h]

@[simp] theorem foldl_untouched {α : Type} (f : State → α → State) (l : List α) (s : State)
    (h : ∀ s a, (f s a).untouched = s.untouched) : (l.foldl f s).untouched = s.untouched := foldl_keeps _ _ h _ _

@[simp] theorem foldl_untouched_fst {α β : Type} (f : State × β → α → State × β) (l : List α) (r : State × β)
    (h : ∀ r a, (f r a).1.untouched = r.1.untouched) : (l.foldl f r).1.untouched = r.1.untouched :=
  foldl_keeps (fun r : State × β => r.1.untouched) _ h _ _

theorem fst_untouched {β : Type} {r : State × β} {t : State} {x : β} (h : r = (t, x)) : t.untouched = r.1.untouched := by rw [h]

theorem snd_untouched {α : Type} {r : α × State} {t : State} {x : α} (h : r = (x, t)) : t.untouched = r.2.untouched := by rw [h]

/-- A way of putting event records that touches nothing of this; every operation over event records takes one. -/
def Log.Keeps (w : Log) : Prop := ∀ s g bs v, (w s g bs v).untouched = s.untouched

/-! ### Ops -/

@[simp] theorem State.setCore_untouched (s : State) (n c) : (s.setCore n c).untouched = s.untouched := by simp [State.setCore]
@[simp] theorem State.setQueue_untouched (s : State) (q v) : (s.setQueue q v).untouched = s.untouched := by simp [State.setQueue]
@[simp] theorem State.setRing_untouched (s : State) (c v) : (s.setRing c v).untouched = s.untouched := by simp [State.setRing]
@[simp] theorem State.setFn_untouched (s : State) (f v) : (s.setFn f v).untouched = s.untouched := by simp [State.setFn]
@[simp] theorem State.setPart_untouched (s : State) (p v) : (s.setPart p v).untouched = s.untouched := by simp [State.setPart]
@[simp] theorem State.setRegion_untouched (s : State) (r v) : (s.setRegion r v).untouched = s.untouched := by simp [State.setRegion]
@[simp] theorem State.setCtx_untouched (s : State) (c v) : (s.setCtx c v).untouched = s.untouched := by simp [State.setCtx]
@[simp] theorem State.setClient_untouched (s : State) (k v) : (s.setClient k v).untouched = s.untouched := by simp [State.setClient]
@[simp] theorem State.setEngine_untouched (s : State) (e v) : (s.setEngine e v).untouched = s.untouched := by simp [State.setEngine]
@[simp] theorem State.setChan_untouched (s : State) (c v) : (s.setChan c v).untouched = s.untouched := by simp [State.setChan]
@[simp] theorem State.setStack_untouched (s : State) (k v) : (s.setStack k v).untouched = s.untouched := by simp [State.setStack]
@[simp] theorem State.setPort_untouched (s : State) (n v) : (s.setPort n v).untouched = s.untouched := by simp [State.setPort]
@[simp] theorem State.setFeed_untouched (s : State) (f v) : (s.setFeed f v).untouched = s.untouched := by simp [State.setFeed]
@[simp] theorem State.setTok_untouched (s : State) (k v) : (s.setTok k v).untouched = s.untouched := by simp [State.setTok]
@[simp] theorem State.setSession_untouched (s : State) (k v) : (s.setSession k v).untouched = s.untouched := by simp [State.setSession]
@[simp] theorem State.pass_untouched (s : State) (d) : (s.pass d).untouched = s.untouched := by simp [State.pass]
@[simp] theorem State.drew_untouched (s : State) : s.drew.untouched = s.untouched := by simp [State.drew]
@[simp] theorem State.modPkt_untouched (s : State) (p f) : (s.modPkt p f).untouched = s.untouched := by simp [State.modPkt]
@[simp] theorem State.modRun_untouched (s : State) (p f) : (s.modRun p f).untouched = s.untouched := by simp [State.modRun]
@[simp] theorem State.dropLanded_untouched (s : State) (p) : (s.dropLanded p).untouched = s.untouched := by simp [State.dropLanded]

@[simp] theorem State.dropTaskData_untouched (s : State) (p i) : (s.dropTaskData p i).untouched = s.untouched := by
  simp [State.dropTaskData]

@[simp] theorem State.finish_untouched (s : State) (p status detail c) : (s.finish p status detail c).untouched = s.untouched := by
  simp [State.finish]

@[simp] theorem State.touchUnit_untouched (s : State) (p) : (s.touchUnit p).untouched = s.untouched := by simp [State.touchUnit]

@[simp] theorem State.formSp_untouched (s : State) (w) : (s.formSp w).untouched = s.untouched := by
  unfold State.formSp
  split <;> simp

@[simp] theorem State.irq_untouched (s : State) (fn vec) : (s.irq fn vec).untouched = s.untouched := by simp [State.irq]

@[simp] theorem State.setHost_untouched (s : State) (a bs) : (s.setHost a bs).untouched = s.untouched := by
  induction bs generalizing s a with
  | nil => rfl
  | cons b r ih => simp [State.setHost, ih]

@[simp] theorem State.unexempt_untouched (s : State) (w) : (s.unexempt w).untouched = s.untouched := by simp [State.unexempt]
@[simp] theorem State.putWord_untouched (s : State) (p bs) : (s.putWord p bs).untouched = s.untouched := by simp [State.putWord]
@[simp] theorem State.modLine_untouched (s : State) (p f) : (s.modLine p f).untouched = s.untouched := by simp [State.modLine]
@[simp] theorem State.dropCopies_untouched (s : State) (line) : (s.dropCopies line).untouched = s.untouched := by simp [State.dropCopies]

@[simp] theorem State.keepCopy_untouched (s t : State) (w) : (s.keepCopy t w).untouched = t.untouched := by
  unfold State.keepCopy
  split <;> simp

@[simp] theorem State.stackUsed_untouched (s : State) (p) : (s.stackUsed p).untouched = s.untouched := by simp [State.stackUsed]
@[simp] theorem State.owe_untouched (s : State) (o) : (s.owe o).untouched = s.untouched := by simp [State.owe]

section EventLogs
variable {w : Log} (hw : w.Keeps)
include hw

@[simp] theorem Log.put_untouched (s : State) (r rec) : (w.put s r rec).untouched = s.untouched := hw _ _ _ _

@[simp] theorem Log.memEvent_untouched (s : State) (kind stack chan eflags row spares) :
    (w.memEvent s kind stack chan eflags row spares).untouched = s.untouched := by simp [Log.memEvent, hw]

@[simp] theorem Log.eccEvent_untouched (s : State) (kind cls eflags index synd addr ctx count) :
    (w.eccEvent s kind cls eflags index synd addr ctx count).untouched = s.untouched := by simp [Log.eccEvent, hw]

@[simp] theorem Log.releaseCe_untouched (s : State) (key) : (w.releaseCe s key).untouched = s.untouched := by
  unfold Log.releaseCe
  split <;> simp [hw]

@[simp] theorem Log.corrected_untouched (s : State) (cls eflags index synd addr ctx) :
    (w.corrected s cls eflags index synd addr ctx).untouched = s.untouched := by simp [Log.corrected, hw]

@[simp] theorem Log.uncorrectable_untouched (s : State) (cls eflags index synd addr ctx) :
    (w.uncorrectable s cls eflags index synd addr ctx).untouched = s.untouched := by simp [Log.uncorrectable, hw]

@[simp] theorem Log.startRetire_untouched (s : State) (ch) : (w.startRetire s ch).untouched = s.untouched := by simp [Log.startRetire, hw]
@[simp] theorem Log.spareRow_untouched (s : State) (p) : (w.spareRow s p).untouched = s.untouched := by simp [Log.spareRow, hw]

@[simp] theorem Log.listCorrected_untouched (s : State) (p) : (w.listCorrected s p).untouched = s.untouched := by
  simp [Log.listCorrected, hw]

@[simp] theorem Log.fired_untouched (s : State) (word addr ctx ck) : (w.fired s word addr ctx ck).untouched = s.untouched := by
  simp [Log.fired, hw]

@[simp] theorem Log.inject_untouched (s : State) (cls index word addr ctx sp) :
    (w.inject s cls index word addr ctx sp).untouched = s.untouched := by simp [Log.inject, hw]

@[simp] theorem Log.arrayWrite_untouched (s : State) (word ctx) : (w.arrayWrite s word ctx).untouched = s.untouched := by
  simp [Log.arrayWrite, hw]

@[simp] theorem Log.outWord_untouched (s : State) (word) : (w.outWord s word).untouched = s.untouched := by
  unfold Log.outWord
  split <;> simp [hw]

@[simp] theorem Log.writeBack_untouched (s : State) (line) : (w.writeBack s line).untouched = s.untouched := by simp [Log.writeBack, hw]

@[simp] theorem Log.cacheLine_untouched (s : State) (part p alloc) : (w.cacheLine s part p alloc).2.untouched = s.untouched := by
  unfold Log.cacheLine
  dsimp only
  (repeat' split) <;> simp [hw]

@[simp] theorem Log.injectCache_untouched (s : State) (p ctx dirty) : (w.injectCache s p ctx dirty).untouched = s.untouched := by
  simp [Log.injectCache, hw]

@[simp] theorem Log.wordRead_untouched (s : State) (word ctx eflags) : (w.wordRead s word ctx eflags).untouched = s.untouched := by
  unfold Log.wordRead
  split <;> simp [hw]

@[simp] theorem Log.stackRead_untouched (s : State) (word eflags) : (w.stackRead s word eflags).untouched = s.untouched := by
  unfold Log.stackRead
  (repeat' split) <;> simp [hw]

@[simp] theorem Log.fillLine_untouched (s : State) (p ctx) : (w.fillLine s p ctx).untouched = s.untouched := by simp [Log.fillLine, hw]

@[simp] theorem Log.dropBad_untouched (s : State) (p n ctx) : (w.dropBad s p n ctx).untouched = s.untouched := by
  unfold Log.dropBad
  (repeat' split) <;> simp [hw]

@[simp] theorem Log.wordWrite_untouched (s : State) (p ctx bs) : (w.wordWrite s p ctx bs).untouched = s.untouched := by
  unfold Log.wordWrite
  dsimp only
  (repeat' split) <;> simp [hw]

@[simp] theorem Log.soilLine_untouched (s : State) (p n ctx) : (w.soilLine s p n ctx).untouched = s.untouched := by simp [Log.soilLine, hw]

@[simp] theorem Log.lineWrite_untouched (s : State) (part ctx p nc bs) : (w.lineWrite s part ctx p nc bs).untouched = s.untouched := by
  simp [Log.lineWrite, hw]

@[simp] theorem Log.poke_untouched (s : State) (a g bs) : (w.poke s a g bs).untouched = s.untouched := by simp [Log.poke, hw]

end EventLogs

@[simp] theorem State.pokeMem_untouched (s : State) (part off bs) : (s.pokeMem part off bs).untouched = s.untouched := by
  simp [State.pokeMem]

theorem logAt_keeps : ∀ n, (logAt n).Keeps
  | 0 => by intro s g bs v; simp [logAt]
  | n + 1 => by
    intro s g bs v
    have := logAt_keeps n
    simp [logAt, this]

@[simp] theorem records_keeps : records.Keeps := logAt_keeps 3

@[simp] theorem State.memEvent_untouched (s : State) (kind stack chan eflags row spares) :
    (s.memEvent kind stack chan eflags row spares).untouched = s.untouched := by simp [State.memEvent]

@[simp] theorem State.eccEvent_untouched (s : State) (kind cls eflags index synd addr ctx count) :
    (s.eccEvent kind cls eflags index synd addr ctx count).untouched = s.untouched := by simp [State.eccEvent]

@[simp] theorem State.corrected_untouched (s : State) (cls eflags index synd addr ctx) :
    (s.corrected cls eflags index synd addr ctx).untouched = s.untouched := by simp [State.corrected]

@[simp] theorem State.uncorrectable_untouched (s : State) (cls eflags index synd addr ctx) :
    (s.uncorrectable cls eflags index synd addr ctx).untouched = s.untouched := by simp [State.uncorrectable]

@[simp] theorem State.startRetire_untouched (s : State) (ch) : (s.startRetire ch).untouched = s.untouched := by simp [State.startRetire]
@[simp] theorem State.writeBack_untouched (s : State) (line) : (s.writeBack line).untouched = s.untouched := by simp [State.writeBack]

@[simp] theorem State.wordRead_untouched (s : State) (w ctx eflags) : (s.wordRead w ctx eflags).untouched = s.untouched := by
  simp [State.wordRead]

@[simp] theorem State.stackRead_untouched (s : State) (w eflags) : (s.stackRead w eflags).untouched = s.untouched := by
  simp [State.stackRead]

@[simp] theorem State.lineWrite_untouched (s : State) (part ctx p nc bs) : (s.lineWrite part ctx p nc bs).untouched = s.untouched := by
  simp [State.lineWrite]

@[simp] theorem State.poke_untouched (s : State) (part g bs) : (s.poke part g bs).untouched = s.untouched := by simp [State.poke]
@[simp] theorem State.releaseAll_untouched (s : State) : s.releaseAll.untouched = s.untouched := by simp [State.releaseAll]
@[simp] theorem State.at_untouched (s : State) (mt) : (s.at mt).untouched = s.untouched := by simp [State.at]

@[simp] theorem State.spWordRead_untouched (s : State) (w ctx) : (s.spWordRead w ctx).untouched = s.untouched := by
  unfold State.spWordRead
  split <;> simp

@[simp] theorem State.noteRead_untouched (s : State) (part ctx r) : (s.noteRead part ctx r).untouched = s.untouched := by
  unfold State.noteRead
  grind [State.drew_untouched, State.spWordRead_untouched, Log.cacheLine_untouched, State.stackUsed_untouched, Log.injectCache_untouched,
    Log.fillLine_untouched, Log.dropBad_untouched, State.wordRead_untouched, records_keeps, foldl_untouched]

@[simp] theorem State.noteReads_untouched (s : State) (a l) :
    (s.noteReads a l).untouched = s.untouched := foldl_untouched _ _ _ fun t r => t.noteRead_untouched a.part a.ctx r

@[simp] theorem State.reading_untouched {α : Type} (s : State) (a) (r : Rd α) : (s.reading a r).2.untouched = s.untouched :=
  s.noteReads_untouched a _

@[simp] theorem State.homeRead_untouched {α : Type} (s : State) (a) (r : Rd α) : (s.homeRead a r).2.untouched = s.untouched :=
  s.noteReads_untouched a _

@[simp] theorem State.pumpPort_untouched (s : State) (n) : (s.pumpPort n).untouched = s.untouched := by simp [State.pumpPort]

@[simp] theorem State.burst_untouched (s : State) (n) : (s.burst n).2.untouched = s.untouched := by
  unfold State.burst
  dsimp only
  (repeat' split) <;> simp

@[simp] theorem State.transmit_untouched (s : State) (n k) : (s.transmit n k).untouched = s.untouched := by simp [State.transmit]

theorem State.request_untouched (s : State) (kind pkt part g len tag hdr data task drift land sem) (t : State) :
    s.request kind pkt part g len tag hdr data task drift land sem = .ok t → t.untouched = s.untouched := by
  unfold State.request
  grind [State.transmit_untouched, State.mk_untouched, State.pending_order]

@[simp] theorem State.issueNext_untouched (s : State) (n) : (s.issueNext n).untouched = s.untouched := by
  unfold State.issueNext
  (repeat' split) <;> simp

@[simp] theorem State.dropReqs_untouched (s : State) (sel) : (s.dropReqs sel).untouched = s.untouched := by simp [State.dropReqs]

theorem State.askRead_untouched (s : State) (part pkt g n task sem) (t : State) :
    s.askRead part pkt g n task sem = .ok t → t.untouched = s.untouched := by
  unfold State.askRead
  grind [State.request_untouched]

theorem State.sendWrite_untouched (s : State) (part pkt g bs task) (t : State) :
    s.sendWrite part pkt g bs task = .ok t → t.untouched = s.untouched := by
  unfold State.sendWrite
  grind [State.request_untouched]

theorem State.storePiece_untouched (s : State) (a g bs) (t : State) : s.storePiece a g bs = .ok t → t.untouched = s.untouched := by
  unfold State.storePiece
  grind [State.setHost_untouched, State.sendWrite_untouched, State.lineWrite_untouched]

@[simp] theorem State.store_untouched (s : State) (a g bs) :
    (s.store a g bs).1.untouched = s.untouched := foldl_untouched_fst _ _ _ fun r c => by grind [State.storePiece_untouched]

@[simp] theorem State.spWrite_untouched (s : State) (p ctx bs) : (s.spWrite p ctx bs).untouched = s.untouched := by simp [State.spWrite]

@[simp] theorem State.storeAt_untouched (s : State) (a g bs) : (s.storeAt a g bs).1.untouched = s.untouched := by
  unfold State.storeAt
  split <;> simp

@[simp] theorem State.storeAll_untouched (s : State) (a l) :
    (s.storeAll a l).1.untouched = s.untouched := foldl_untouched_fst _ _ _ fun r c => by split <;> simp

theorem State.addAt_untouched (s : State) (a g v drift) (t : State) : s.addAt a g v drift = .ok t → t.untouched = s.untouched := by
  unfold State.addAt
  grind [State.setHost_untouched, State.request_untouched, State.lineWrite_untouched, State.noteRead_untouched]

theorem State.signal_untouched (s : State) (a g) (t : State) : s.signal a g = .ok t → t.untouched = s.untouched := by
  unfold State.signal
  grind [State.addAt_untouched]

@[simp] theorem State.addTrace_untouched (s : State) (a g n) : (s.addTrace a g n).untouched = s.untouched := by
  unfold State.addTrace
  split <;> simp

@[simp] theorem State.signalQuiet_untouched (s : State) (a g) : (s.signalQuiet a g).untouched = s.untouched := by
  unfold State.signalQuiet
  grind [State.signal_untouched, State.owe_untouched, State.addTrace_untouched]

@[simp] theorem State.pay_untouched (s : State) (o) : (s.pay o).untouched = s.untouched := by
  unfold State.pay
  grind [State.addAt_untouched, State.owe_untouched, State.addTrace_untouched, State.irq_untouched, Log.poke_untouched, records_keeps]

@[simp] theorem State.payOwed_untouched (s : State) : s.payOwed.untouched = s.untouched := by simp [State.payOwed]

@[simp] theorem State.message_untouched (s : State) (typ dest hdr data mseqAt) :
    (s.message typ dest hdr data mseqAt).untouched = s.untouched := by
  unfold State.message
  dsimp only
  (repeat' split) <;> simp

@[simp] theorem State.groupMsg_untouched (s : State) (dest sub gid step attempt rank arg data) :
    (s.groupMsg dest sub gid step attempt rank arg data).untouched = s.untouched := by simp [State.groupMsg]

@[simp] theorem State.respond_untouched (s : State) (port dest tag status rkind value detail data part) :
    (s.respond port dest tag status rkind value detail data part).untouched = s.untouched := by
  unfold State.respond
  dsimp only
  (repeat' split) <;> simp

@[simp] theorem State.report_untouched (s : State) (n again) : (s.report n again).untouched = s.untouched := by simp [State.report]

@[simp] theorem State.arrive_untouched (s : State) (n via v flits) : (s.arrive n via v flits).2.untouched = s.untouched := by
  unfold State.arrive
  dsimp only
  (repeat' split) <;> simp

@[simp] theorem State.received_untouched (s : State) (n via v flits act) (hact : ∀ t, (act t).untouched = t.untouched) :
    (s.received n via v flits act).untouched = s.untouched := by
  unfold State.received
  grind [State.arrive_untouched, State.report_untouched]

@[simp] theorem State.noteMsg_untouched (s : State) (n) : (s.noteMsg n).untouched = s.untouched := by simp [State.noteMsg]

@[simp] theorem State.queued_untouched (s : State) (n act) (hact : ∀ t, (act t).untouched = t.untouched) :
    (s.queued n act).untouched = s.untouched := by
  unfold State.queued
  grind [State.noteMsg_untouched, State.drew_untouched, State.mk_untouched, State.pending_order]

@[simp] theorem State.hold_untouched (s : State) (i) : (s.hold i).untouched = s.untouched := by simp [State.hold]

/-! ### Contexts -/

@[simp] theorem State.otherWrite_untouched (s : State) (g n) : (s.otherWrite g n).untouched = s.untouched := by simp [State.otherWrite]

@[simp] theorem State.rstEvent_untouched (s : State) (kind dom cause index ctx dur detail) :
    (s.rstEvent kind dom cause index ctx dur detail).untouched = s.untouched := by simp [State.rstEvent]

@[simp] theorem State.retireCore_untouched (s : State) (n) : (s.retireCore n).untouched = s.untouched := by
  unfold State.retireCore
  dsimp only
  (repeat' split) <;> simp

@[simp] theorem State.turned_untouched (s : State) (q k) : (s.turned q k).untouched = s.untouched := by simp [State.turned]
@[simp] theorem State.waitHeld_untouched (s : State) (p) : (s.waitHeld p).untouched = s.untouched := by simp [State.waitHeld]
@[simp] theorem State.wait_untouched (s : State) (p) : (s.wait p).untouched = s.untouched := by simp [State.wait]

@[simp] theorem State.onErr_untouched (s : State) (q k e) : (s.onErr q k e).untouched = s.untouched := by
  unfold State.onErr
  grind [State.finish_untouched, State.waitHeld_untouched, State.askRead_untouched]

@[simp] theorem State.tidyLocks_untouched (s : State) : s.tidyLocks.untouched = s.untouched := by simp [State.tidyLocks]

@[simp] theorem State.passLock_untouched (s : State) (addr) : (s.passLock addr).untouched = s.untouched := by
  unfold State.passLock
  (repeat' split) <;> simp

@[simp] theorem State.revoke_untouched (s : State) (party) : (s.revoke party).untouched = s.untouched := by simp [State.revoke]
@[simp] theorem State.modItem_untouched (s : State) (p i f) : (s.modItem p i f).untouched = s.untouched := by simp [State.modItem]

@[simp] theorem State.descriptorRead_untouched (s : State) (q k i) : (s.descriptorRead q k i).untouched = s.untouched := by
  simp [State.descriptorRead]

@[simp] theorem State.refreshEngine_untouched (s : State) (e) : (s.refreshEngine e).untouched = s.untouched := by simp [State.refreshEngine]
@[simp] theorem State.refresh_untouched (s : State) : s.refresh.untouched = s.untouched := by simp [State.refresh]

theorem State.dispatchOn_untouched (s : State) (e) (t : State) (h : s.dispatchOn e = some t) : t.untouched = s.untouched := by
  simp only [State.dispatchOn] at h
  split at h
  · cases h
  · split at h
    · cases h
    · obtain ⟨r, -, hr⟩ := List.exists_of_findSome?_eq_some h
      obtain ⟨site, -, rfl⟩ := Option.map_eq_some_iff.mp hr
      simp

@[simp] theorem State.dispatchFuel_untouched (f) (s : State) : (State.dispatchFuel f s).untouched = s.untouched := by
  induction f generalizing s with
  | zero => rfl
  | succ f ih =>
    unfold State.dispatchFuel
    split
    next t h =>
      obtain ⟨e, -, he⟩ := List.exists_of_findSome?_eq_some h
      rw [ih, State.dispatchOn_untouched _ _ _ he]
    · rfl

@[simp] theorem State.dispatch_untouched (s : State) : s.dispatch.untouched = s.untouched := by simp [State.dispatch]

@[simp] theorem State.stopLists_untouched (s : State) (sel st d) : (s.stopLists sel st d).untouched = s.untouched := by
  simp [State.stopLists]

@[simp] theorem State.dropFeeds_untouched (s : State) (c) : (s.dropFeeds c).untouched = s.untouched := by
  unfold State.dropFeeds
  grind [State.finish_untouched, foldl_untouched, State.mk_untouched, State.pending_order]

@[simp] theorem State.faultCtx_untouched (s : State) (c how st d) : (s.faultCtx c how st d).untouched = s.untouched := by
  simp [State.faultCtx]

@[simp] theorem State.faultData_untouched (s : State) (c d) : (s.faultData c d).untouched = s.untouched := by simp [State.faultData]

@[simp] theorem State.driftSignals_untouched (s : State) (q k) : (s.driftSignals q k).untouched = s.untouched := by
  simp [State.driftSignals]

@[simp] theorem State.endLists_untouched (s : State) : s.endLists.untouched = s.untouched := by
  unfold State.endLists
  grind [State.finish_untouched, State.driftSignals_untouched, foldl_untouched]

@[simp] theorem State.failNext_untouched (s : State) : s.failNext.untouched = s.untouched := by
  unfold State.failNext
  grind [State.modRun_untouched, State.descriptorRead_untouched, State.faultData_untouched, State.askRead_untouched, foldl_untouched]

@[simp] theorem State.settle_untouched (s : State) : s.settle.untouched = s.untouched := by simp [State.settle]

/-! ### Movers -/

@[simp] theorem State.giveMover_untouched (s : State) (q k e) : (s.giveMover q k e).untouched = s.untouched := by simp [State.giveMover]

@[simp] theorem State.moverProgress_untouched (s : State) (e n) : (s.moverProgress e n).untouched = s.untouched := by
  simp [State.moverProgress]

theorem State.sendBulk_untouched (s : State) (part tag g bs) (t : State) (l) (h : s.sendBulk part tag g bs = .ok (t, l)) :
    t.untouched = s.untouched := by
  simp only [State.sendBulk] at h
  split at h
  · cases h
  · cases h
    refine foldl_untouched _ _ _ fun t i => ?_
    split <;> simp

@[simp] theorem State.readNat_untouched (s : State) (a g n) : (s.readNat a g n).2.untouched = s.untouched := by simp [State.readNat]
@[simp] theorem State.bump_untouched (s : State) (a g) : (s.bump a g).untouched = s.untouched := by simp [State.bump]
@[simp] theorem State.setEnt_untouched (s : State) (c a e st) : (s.setEnt c a e st).untouched = s.untouched := by simp [State.setEnt]
@[simp] theorem State.setAct_untouched (s : State) (c a off n v) : (s.setAct c a off n v).untouched = s.untouched := by simp [State.setAct]
@[simp] theorem State.mbAdds_untouched (s : State) (c a j) : (s.mbAdds c a j).untouched = s.untouched := by simp [State.mbAdds]

@[simp] theorem State.softAdd_untouched (s : State) (c a j fetch) : (s.softAdd c a j fetch).untouched = s.untouched := by
  simp [State.softAdd]

@[simp] theorem State.spillFailed_untouched (s : State) (c a e) : (s.spillFailed c a e).untouched = s.untouched := by
  simp [State.spillFailed]

@[simp] theorem State.fetchFailed_untouched (s : State) (c a v st) : (s.fetchFailed c a v st).untouched = s.untouched := by
  simp [State.fetchFailed]

@[simp] theorem State.beginXfer_untouched (s : State) (c a e fetch) : (s.beginXfer c a e fetch).untouched = s.untouched := by
  unfold State.beginXfer
  grind [State.setEnt_untouched, State.setCtx_untouched, State.request_untouched, State.reading_untouched, State.sendBulk_untouched,
    State.mk_untouched, State.pending_order]

@[simp] theorem State.startXfer_untouched (s : State) (c) : (s.startXfer c).untouched = s.untouched := by
  unfold State.startXfer
  (repeat' split) <;> simp

@[simp] theorem State.startXfers_untouched (s : State) (e) : (s.startXfers e).untouched = s.untouched := by simp [State.startXfers]
@[simp] theorem State.startAllXfers_untouched (s : State) : s.startAllXfers.untouched = s.untouched := by simp [State.startAllXfers]
@[simp] theorem State.moverTaken_untouched (s : State) (q k e) : (s.moverTaken q k e).untouched = s.untouched := by simp [State.moverTaken]

@[simp] theorem State.moverFree_untouched (s : State) (k) : (s.moverFree k).untouched = s.untouched := by
  unfold State.moverFree
  split <;> simp

@[simp] theorem State.moverMoved_untouched (s : State) (k) : (s.moverMoved k).untouched = s.untouched := by
  unfold State.moverMoved
  split <;> simp

@[simp] theorem State.moverDone_untouched (s : State) (k) : (s.moverDone k).untouched = s.untouched := by simp [State.moverDone]

@[simp] theorem State.moverErr_untouched (s : State) (q k e) : (s.moverErr q k e).untouched = s.untouched := by
  unfold State.moverErr
  split <;> simp

/-! ### Memory -/

@[simp] theorem State.deliver_untouched (s : State) (q k a dst bs rest) : (s.deliver q k a dst bs rest).untouched = s.untouched := by
  unfold State.deliver
  grind [State.moverErr_untouched, State.sendBulk_untouched, State.modPkt_untouched, State.store_untouched, State.otherWrite_untouched,
    State.moverDone_untouched]

@[simp] theorem copyRun_untouched (s : State) (q k) : (copyRun s q k).untouched = s.untouched := by
  unfold copyRun
  grind [State.moverTaken_untouched, State.moverFree_untouched, State.finish_untouched, State.moverErr_untouched, State.request_untouched,
    State.modPkt_untouched, State.reading_untouched, State.waitHeld_untouched, State.onErr_untouched, State.drew_untouched,
    State.deliver_untouched]

@[simp] theorem fillRun_untouched (s : State) (q k) : (fillRun s q k).untouched = s.untouched := by
  unfold fillRun
  split <;> simp

@[simp] theorem State.atomicEnd_untouched (s : State) (q k old st c) : (s.atomicEnd q k old st c).untouched = s.untouched := by
  unfold State.atomicEnd
  grind [State.finish_untouched, State.store_untouched, State.owe_untouched, State.onErr_untouched]

@[simp] theorem lockOp_untouched (s : State) (q k p) : (lockOp s q k p).untouched = s.untouched := by
  unfold lockOp
  dsimp only
  (repeat' split) <;> simp

@[simp] theorem memAtomicRun_untouched (s : State) (q k) : (memAtomicRun s q k).untouched = s.untouched := by
  unfold memAtomicRun
  grind [State.onErr_untouched, State.request_untouched, State.wait_untouched, State.finish_untouched, State.addTrace_untouched,
    lockOp_untouched, State.homeRead_untouched, State.atomicEnd_untouched, State.lineWrite_untouched]

@[simp] theorem State.runRead_untouched (s : State) (eflags r) : (s.runRead eflags r).untouched = s.untouched := by simp [State.runRead]

@[simp] theorem scrubRun_untouched (s : State) (q k) : (scrubRun s q k).untouched = s.untouched := by
  unfold scrubRun
  dsimp only
  (repeat' split) <;> simp

@[simp] theorem flipRun_untouched (s : State) (q k) : (flipRun s q k).untouched = s.untouched := by simp [flipRun]
@[simp] theorem patrolRun_untouched (s : State) (stack) : (patrolRun s stack).untouched = s.untouched := by simp [patrolRun]
@[simp] theorem retirementDone_untouched (s : State) (ch) : (retirementDone s ch).untouched = s.untouched := by simp [retirementDone]

@[simp] theorem State.emptyChan_untouched (s : State) (ch from_) : (s.emptyChan ch from_).untouched = s.untouched := by
  simp [State.emptyChan]

@[simp] theorem channelLost_untouched (s : State) (ch) : (channelLost s ch).untouched = s.untouched := by simp [channelLost]
@[simp] theorem stackSample_untouched (s : State) (stack temp) : (stackSample s stack temp).untouched = s.untouched := by simp [stackSample]

/-! ### Scheduling -/

@[simp] theorem createRun_untouched (s : State) (q k) : (createRun s q k).untouched = s.untouched := by simp [createRun]

@[simp] theorem State.beginDestroy_untouched (s : State) (c p) : (s.beginDestroy c p).untouched = s.untouched := by
  simp [State.beginDestroy]

@[simp] theorem State.freeCtx_untouched (s : State) (c) : (s.freeCtx c).untouched = s.untouched := by simp [State.freeCtx]
@[simp] theorem destroyRun_untouched (s : State) (q k) : (destroyRun s q k).untouched = s.untouched := by simp [destroyRun]
@[simp] theorem State.forgetChans_untouched (s : State) (mask) : (s.forgetChans mask).untouched = s.untouched := by simp [State.forgetChans]
@[simp] theorem State.flushWays_untouched (s : State) (mask) : (s.flushWays mask).untouched = s.untouched := by simp [State.flushWays]
@[simp] theorem partitionRun_untouched (s : State) (q k) : (partitionRun s q k).untouched = s.untouched := by simp [partitionRun]

@[simp] theorem countersRun_untouched (s : State) (q k) : (countersRun s q k).untouched = s.untouched := by
  unfold countersRun
  grind [State.finish_untouched, State.store_untouched, State.onErr_untouched, State.setCtx_untouched]

@[simp] theorem policyRun_untouched (s : State) (q k) : (policyRun s q k).untouched = s.untouched := by simp [policyRun]
@[simp] theorem tasklistRun_untouched (s : State) (k) : (tasklistRun s k).untouched = s.untouched := by simp [tasklistRun]

@[simp] theorem State.workDone_untouched (s : State) (p i m drift drifts wrote) :
    (s.workDone p i m drift drifts wrote).untouched = s.untouched := by simp [State.workDone]

@[simp] theorem State.workFailed_untouched (s : State) (p i st d m wrote) : (s.workFailed p i st d m wrote).untouched = s.untouched := by
  simp [State.workFailed]

@[simp] theorem taskComplete_untouched (s : State) (p i mt) : (taskComplete s p i mt).untouched = s.untouched := by
  unfold taskComplete
  (repeat' split) <;> simp

@[simp] theorem contextLoad_untouched (s : State) (e c) : (contextLoad s e c).untouched = s.untouched := by
  unfold contextLoad
  dsimp only
  (repeat' split) <;> simp

@[simp] theorem sliceGrant_untouched (s : State) (e mt) : (sliceGrant s e mt).untouched = s.untouched := by
  unfold sliceGrant
  dsimp only
  (repeat' split) <;> simp

@[simp] theorem sliceExpiry_untouched (s : State) (e) : (sliceExpiry s e).untouched = s.untouched := by
  unfold sliceExpiry
  dsimp only
  (repeat' split) <;> simp

/-! ### Operands -/

/-- The state that an add leaves, whether or not it is made. -/
def stateLeft : Except (State × Err) State → State
  | .ok t => t
  | .error (t, _) => t

theorem State.headerAdd_untouched (s : State) (a e) :
    (∀ t x b, s.headerAdd a e = .ok (t, x, b) → t.untouched = s.untouched) ∧
    ∀ t x, s.headerAdd a e = .error (t, x) → t.untouched = s.untouched := by
  unfold State.headerAdd
  split
  next h acc n den =>
    extract_lets +onlyGivenNames more
    have hmore (r off v d) : (stateLeft (more r off v d)).untouched = (stateLeft r).untouched := by
      grind [stateLeft, State.addAt_untouched, State.addTrace_untouched]
    clear_value more
    grind [stateLeft, State.store_untouched]

@[simp] theorem State.headerAdds_untouched (s : State) (a l) : (s.headerAdds a l).1.untouched = s.untouched := by
  refine foldl_untouched_fst _ _ _ fun r c => ?_
  split
  · split
    next h => exact (State.headerAdd_untouched _ _ _).1 _ _ _ h
    next h => exact (State.headerAdd_untouched _ _ _).2 _ _ h
  · rfl

@[simp] theorem State.maxAt_untouched (s : State) (a g v) : (s.maxAt a g v).1.untouched = s.untouched := by
  unfold State.maxAt
  grind [State.request_untouched, State.homeRead_untouched, State.store_untouched]

@[simp] theorem State.maxAll_untouched (s : State) (a l) :
    (s.maxAll a l).1.untouched = s.untouched := foldl_untouched_fst _ _ _ fun r c => by split <;> simp

@[simp] theorem State.masked_untouched (s : State) (part g) : (s.masked part g).untouched = s.untouched := by
  unfold State.masked
  split <;> simp

@[simp] theorem State.stageInject_untouched (s : State) (it part g) : (s.stageInject it part g).untouched = s.untouched := by
  simp [State.stageInject]

@[simp] theorem State.staged_untouched (s : State) (a it r) : (s.staged a it r).2.untouched = s.untouched := by
  unfold State.staged
  (repeat' split) <;> simp

@[simp] theorem State.putUnits_untouched (s : State) (a l) : (s.putUnits a l).1.untouched = s.untouched := by
  unfold State.putUnits
  split
  next h => simpa [h] using s.storeAll_untouched a (joined (l.flatMap Prod.fst))
  · exact foldl_untouched_fst _ _ _ fun r u => by grind [State.storeAll_untouched]
  · rfl

theorem State.putOut_untouched (s : State) (a p i o) (t : State) : s.putOut a p i o = .ok t → t.untouched = s.untouched := by
  unfold State.putOut
  grind [State.drew_untouched, State.putUnits_untouched, State.workFailed_untouched, State.maxAll_untouched, State.headerAdds_untouched,
    State.workDone_untouched]

@[simp] theorem State.runTask_untouched (s : State) (q k a p i r) : (s.runTask q k a p i r).untouched = s.untouched := by
  unfold State.runTask
  dsimp only
  repeat' split
  all_goals
    grind [State.workFailed_untouched, State.modItem_untouched, State.askRead_untouched, State.staged_untouched, State.putOut_untouched]

/-! ### Training -/

@[simp] theorem State.finishSilent_untouched (s : State) (p st d) : (s.finishSilent p st d).untouched = s.untouched := by
  simp [State.finishSilent]

@[simp] theorem State.newK_untouched (s : State) (c) : (s.newK c).untouched = s.untouched := by
  unfold State.newK
  split <;> simp

@[simp] theorem State.comeDue_untouched (s : State) (c) : (s.comeDue c).untouched = s.untouched := by
  unfold State.comeDue
  split <;> simp

@[simp] theorem State.syncBucket_untouched (s : State) (g b) : (s.syncBucket g b).untouched = s.untouched := by simp [State.syncBucket]
@[simp] theorem bucketBegin_untouched (t : State) (g b) : (bucketBegin t g b).untouched = t.untouched := by simp [bucketBegin]
@[simp] theorem State.syncGroup_untouched (s : State) (g) : (s.syncGroup g).untouched = s.untouched := by simp [State.syncGroup]
@[simp] theorem State.putGroup_untouched (s : State) (g) : (s.putGroup g).untouched = s.untouched := by simp [State.putGroup]

@[simp] theorem State.groupBegin_untouched (s : State) (c step) : (s.groupBegin c step).untouched = s.untouched := by
  unfold State.groupBegin
  split <;> simp

@[simp] theorem State.adoptLookahead_untouched (s : State) (c step) : (s.adoptLookahead c step).untouched = s.untouched := by
  simp [State.adoptLookahead]

@[simp] theorem State.onSequencer_untouched (s : State) (k run) (hrun : ∀ t, (run t).untouched = t.untouched) :
    (s.onSequencer k run).untouched = s.untouched := by
  unfold State.onSequencer
  grind [State.finish_untouched]

@[simp] theorem stepBeginRun_untouched (s : State) (q k) : (stepBeginRun s q k).untouched = s.untouched := by
  unfold stepBeginRun
  grind [State.reading_untouched, State.finishSilent_untouched, State.onErr_untouched, State.finish_untouched, State.storeAll_untouched,
    State.groupBegin_untouched, State.adoptLookahead_untouched, State.setCtx_untouched]

@[simp] theorem State.meetBackward_untouched (s : State) (p c) : (s.meetBackward p c).untouched = s.untouched := by
  simp [State.meetBackward]

@[simp] theorem State.judge_untouched (s : State) (k cls) : (s.judge k cls).1.untouched = s.untouched := by
  unfold State.judge
  dsimp only
  (repeat' split) <;> simp

@[simp] theorem State.abortStep_untouched (s : State) (c) : (s.abortStep c).untouched = s.untouched := by simp [State.abortStep]

@[simp] theorem fwdDone_untouched (s : State) (c j) : (fwdDone s c j).untouched = s.untouched := by
  unfold fwdDone
  grind [State.reading_untouched, State.setEnt_untouched, State.startXfer_untouched, State.mbAdds_untouched, State.setCtx_untouched,
    foldl_untouched]

@[simp] theorem State.moveEnt_untouched (s : State) (c v fetch) : (s.moveEnt c v fetch).1.untouched = s.untouched := by
  unfold State.moveEnt
  grind [State.reading_untouched, State.store_untouched]

@[simp] theorem State.xferOver_untouched (s : State) (c) : (s.xferOver c).untouched = s.untouched := by simp [State.xferOver]

@[simp] theorem State.nextXfer_untouched (s : State) (c) : (s.nextXfer c).untouched = s.untouched := by
  unfold State.nextXfer
  split <;> simp

@[simp] theorem spillDone_untouched (s : State) (c e st mt) : (spillDone s c e st mt).untouched = s.untouched := by
  unfold spillDone
  grind [State.at_untouched, State.moveEnt_untouched, State.nextXfer_untouched, State.comeDue_untouched, State.mbAdds_untouched,
    State.setEnt_untouched, State.xferOver_untouched, State.spillFailed_untouched]

@[simp] theorem fetchDone_untouched (s : State) (c e st mt) : (fetchDone s c e st mt).untouched = s.untouched := by
  unfold fetchDone
  grind [State.at_untouched, State.moveEnt_untouched, State.nextXfer_untouched, State.mbAdds_untouched, State.setAct_untouched,
    State.setEnt_untouched, State.xferOver_untouched, State.dropReqs_untouched, State.fetchFailed_untouched]

@[simp] theorem hostRun_untouched (s : State) (q k spill) : (hostRun s q k spill).untouched = s.untouched := by
  unfold hostRun
  dsimp only
  repeat' split
  all_goals
    grind [State.moverFree_untouched, State.finishSilent_untouched, State.moverTaken_untouched, State.setEnt_untouched,
      State.setCtx_untouched, State.softAdd_untouched, State.spillFailed_untouched, State.fetchFailed_untouched, State.moverErr_untouched,
      State.finish_untouched, State.reading_untouched, State.store_untouched, State.moverMoved_untouched, State.mk_untouched,
      State.pending_order]

/-! ### Units -/

@[simp] theorem State.setUnit_untouched (s : State) (u g) : (s.setUnit u g).untouched = s.untouched := by simp [State.setUnit]
@[simp] theorem State.unitTakes_untouched (s : State) (u w c) : (s.unitTakes u w c).2.2.untouched = s.untouched := by simp [State.unitTakes]

@[simp] theorem State.unitCharge_untouched (s : State) (u c slice w) : (s.unitCharge u c slice w).untouched = s.untouched := by
  simp [State.unitCharge]

/-! ### Groups -/

@[simp] theorem State.putBucket_untouched (s : State) (g b) : (s.putBucket g b).untouched = s.untouched := by simp [State.putBucket]

@[simp] theorem State.groupEvent_untouched (s : State) (g code bucket rank) :
    (s.groupEvent g code bucket rank).untouched = s.untouched := by simp [State.groupEvent]

@[simp] theorem State.stale_untouched (s : State) (g) : (s.stale g).untouched = s.untouched := by simp [State.stale]

@[simp] theorem State.tellAt_untouched (s : State) (g key m sub rank arg data) :
    (s.tellAt g key m sub rank arg data).untouched = s.untouched := by
  unfold State.tellAt
  split <;> simp

@[simp] theorem State.tell_untouched (s : State) (g m sub rank arg data) : (s.tell g m sub rank arg data).untouched = s.untouched := by
  simp [State.tell]

@[simp] theorem State.syncBuckets_untouched (s : State) (g) : (s.syncBuckets g).untouched = s.untouched := by simp [State.syncBuckets]

@[simp] theorem State.applyAbort_untouched (s : State) (g key arg) : (s.applyAbort g key arg).untouched = s.untouched := by
  simp [State.applyAbort]

@[simp] theorem State.rootAbort_untouched (s : State) (g arg) : (s.rootAbort g arg).untouched = s.untouched := by simp [State.rootAbort]

@[simp] theorem State.requestAbortAt_untouched (s : State) (gid key cause bucket rank) :
    (s.requestAbortAt gid key cause bucket rank).untouched = s.untouched := by
  unfold State.requestAbortAt
  split <;> simp

@[simp] theorem State.requestAbort_untouched (s : State) (gid cause bucket rank) :
    (s.requestAbort gid cause bucket rank).untouched = s.untouched := by
  unfold State.requestAbort
  split <;> simp

@[simp] theorem State.normFailed_untouched (s : State) (c e) : (s.normFailed c e).untouched = s.untouched := by
  unfold State.normFailed
  (repeat' split) <;> simp

@[simp] theorem State.normReady_untouched (s : State) (c v) : (s.normReady c v).untouched = s.untouched := by
  unfold State.normReady
  grind [State.setCtx_untouched, State.store_untouched, State.normFailed_untouched, State.signal_untouched]

@[simp] theorem State.normDown_untouched (s : State) (g v) : (s.normDown g v).untouched = s.untouched := by simp [State.normDown]

@[simp] theorem State.normNode_untouched (s : State) (gid k) : (s.normNode gid k).untouched = s.untouched := by
  unfold State.normNode
  split
  · rfl
  extract_lets +onlyGivenNames x ready
  split
  · rfl
  extract_lets +onlyGivenNames a kids own
  clear_value a own
  split
  next h => simp [snd_untouched h]
  next b t h =>
    have ht : t.untouched = s.untouched := by simp [snd_untouched h]
    clear h
    extract_lets +onlyGivenNames img
    split
    next u bad hbad =>
      have hu : u.untouched = s.untouched := by
        rw [fst_untouched hbad, ← ht]
        split <;> simp
      clear hbad
      split
      · simp [hu]
      · extract_lets +onlyGivenNames g'
        split
        · extract_lets +onlyGivenNames v
          have hv : v.untouched = s.untouched := by simp [v, hu]
          clear_value v
          split
          next h => simp [snd_untouched h, hv]
          next h => simp [snd_untouched h, hv]
        · dsimp only
          split <;> simp [hu]

@[simp] theorem State.normStep_untouched (s : State) (gid) : (s.normStep gid).untouched = s.untouched := by
  unfold State.normStep
  grind [State.store_untouched, State.setCtx_untouched, State.normFailed_untouched, State.normNode_untouched, foldl_untouched]

@[simp] theorem State.normAlone_untouched (s : State) (c) : (s.normAlone c).untouched = s.untouched := by
  unfold State.normAlone
  grind [State.store_untouched, State.normFailed_untouched, State.setCtx_untouched, State.reading_untouched, State.normReady_untouched]

@[simp] theorem State.answerRejoin_untouched (s : State) (g m step) : (s.answerRejoin g m step).untouched = s.untouched := by
  unfold State.answerRejoin
  grind [State.transmit_untouched, State.reading_untouched, State.putGroup_untouched, State.groupMsg_untouched, State.groupEvent_untouched,
    foldl_untouched]

@[simp] theorem State.serveRejoins_untouched (s : State) (gid) : (s.serveRejoins gid).untouched = s.untouched := by
  unfold State.serveRejoins
  split
  · rfl
  · refine foldl_untouched _ _ _ fun t r => ?_
    (repeat' split) <;> simp

@[simp] theorem State.applyCommit_untouched (s : State) (g) : (s.applyCommit g).untouched = s.untouched := by simp [State.applyCommit]
@[simp] theorem State.commitHere_untouched (s : State) (g) : (s.commitHere g).untouched = s.untouched := by simp [State.commitHere]

@[simp] theorem State.readyNode_untouched (s : State) (gid k) : (s.readyNode gid k).untouched = s.untouched := by
  unfold State.readyNode
  split <;> simp

@[simp] theorem State.readyStep_untouched (s : State) (gid) : (s.readyStep gid).untouched = s.untouched := by
  unfold State.readyStep
  split <;> simp

@[simp] theorem stepCommitRun_untouched (s : State) (q k) : (stepCommitRun s q k).untouched = s.untouched := by
  unfold stepCommitRun
  dsimp only
  (repeat' split) <;> simp

@[simp] theorem groupAbortRun_untouched (s : State) (q k) : (groupAbortRun s q k).untouched = s.untouched := by
  unfold groupAbortRun
  split <;> simp

@[simp] theorem groupJoinRun_untouched (s : State) (q k) : (groupJoinRun s q k).untouched = s.untouched := by
  unfold groupJoinRun
  dsimp only
  (repeat' split) <;> simp

@[simp] theorem bucketDefineRun_untouched (s : State) (q k) : (bucketDefineRun s q k).untouched = s.untouched := by
  unfold bucketDefineRun
  extract_lets +onlyGivenNames b
  clear_value b
  split
  · simp
  split
  · simp
  split
  · simp
  split
  · simp
  extract_lets +onlyGivenNames a
  clear_value a
  split
  next h => simp [snd_untouched h]
  next t h =>
    have ht : t.untouched = s.untouched := by simp [snd_untouched h]
    split
    · simp [ht]
    · extract_lets +onlyGivenNames v
      split
      · simp [ht]
      · simp [ht]

@[simp] theorem shadowMapRun_untouched (s : State) (q k) : (shadowMapRun s q k).untouched = s.untouched := by
  unfold shadowMapRun
  split <;> simp

@[simp] theorem State.landAt_untouched (s : State) (g off bs slot) : (s.landAt g off bs slot).untouched = s.untouched := by
  simp [State.landAt]

@[simp] theorem State.compareCopy_untouched (s : State) (g b adopted key rank other bs) :
    (s.compareCopy g b adopted key rank other bs).untouched = s.untouched := by
  unfold State.compareCopy
  grind [State.reading_untouched, State.requestAbortAt_untouched]

@[simp] theorem State.takeIn_untouched (s : State) (g b adopted rank slot bs good key first from_) :
    (s.takeIn g b adopted rank slot bs good key first from_).untouched = s.untouched := by
  unfold State.takeIn
  dsimp only
  (repeat' split) <;> simp

@[simp] theorem bucketDeadline_untouched (s : State) (gid bid adopted) : (bucketDeadline s gid bid adopted).untouched = s.untouched := by
  unfold bucketDeadline
  dsimp only
  (repeat' split) <;> simp

@[simp] theorem contributionIn_untouched (s : State) (h first data crc) : (contributionIn s h first data crc).untouched = s.untouched := by
  unfold contributionIn
  dsimp only
  (repeat' split) <;> simp

@[simp] theorem State.dropRun_untouched (s : State) (h) : (s.dropRun h).untouched = s.untouched := by simp [State.dropRun]

@[simp] theorem State.stampFirst_untouched (s : State) (h) : (s.stampFirst h).untouched = s.untouched := by
  unfold State.stampFirst
  (repeat' split) <;> simp

@[simp] theorem reduceIn_untouched (s : State) (h data) : (reduceIn s h data).untouched = s.untouched := by simp [reduceIn]

@[simp] theorem State.sendShard_untouched (s : State) (g b dest bs) : (s.sendShard g b dest bs).untouched = s.untouched := by
  unfold State.sendShard
  (repeat' split) <;> simp

@[simp] theorem State.contribute_untouched (s : State) (gid bid k) : (s.contribute gid bid k).untouched = s.untouched := by
  unfold State.contribute
  grind [State.putGroup_untouched, State.reading_untouched, State.requestAbort_untouched, State.takeIn_untouched, State.sendShard_untouched]

@[simp] theorem State.sentNow_untouched (s : State) (gid bid) : (s.sentNow gid bid).untouched = s.untouched := by
  unfold State.sentNow
  (repeat' split) <;> simp

@[simp] theorem State.nextShard_untouched (s : State) (key gid bid k) : (s.nextShard key gid bid k).untouched = s.untouched := by
  unfold State.nextShard
  split <;> simp

@[simp] theorem State.sendBucket_untouched (s : State) (gid bid) : (s.sendBucket gid bid).untouched = s.untouched := by
  unfold State.sendBucket
  dsimp only
  (repeat' split) <;> simp

@[simp] theorem State.resumeSends_untouched (s : State) (gid) : (s.resumeSends gid).untouched = s.untouched := by
  unfold State.resumeSends
  split <;> simp

@[simp] theorem bucketSend_untouched (s : State) (gid bid) : (bucketSend s gid bid).untouched = s.untouched := by
  unfold bucketSend
  dsimp only
  repeat' split
  all_goals
    grind [State.sendBucket_untouched, State.readNat_untouched, State.requestAbort_untouched]

@[simp] theorem State.enterExchange_untouched (s : State) (c) : (s.enterExchange c).untouched = s.untouched := by
  unfold State.enterExchange
  dsimp only
  (repeat' split) <;> simp

@[simp] theorem State.hear_untouched (s : State) (m act) (hact : ∀ t g, (act t g).untouched = t.untouched) :
    (s.hear m act).untouched = s.untouched := by
  unfold State.hear
  dsimp only
  split
  · simp
  · split <;> simp [hact]

@[simp] theorem State.heardOn_untouched (s : State) (m n act) (hact : ∀ t g, (act t g).untouched = t.untouched) :
    (s.heardOn m n act).untouched = s.untouched :=
  State.received_untouched _ _ _ _ _ _ fun t => State.queued_untouched _ _ _ fun u => u.hear_untouched m act hact

@[simp] theorem retryResend_untouched (s : State) (gid bid dest) : (retryResend s gid bid dest).untouched = s.untouched := by
  unfold retryResend
  (repeat' split) <;> simp

theorem State.addSquares_untouched (s : State) (g adopted bs) (t : State) (g') :
    s.addSquares g adopted bs = .ok (t, g') → t.untouched = s.untouched := by
  grind [State.addSquares, State.reading_untouched, State.store_untouched]

theorem State.addSquares_untouched_error (s : State) (g adopted bs) (t : State) (e) :
    s.addSquares g adopted bs = .error (e, t) → t.untouched = s.untouched := by
  grind [State.addSquares, State.reading_untouched, State.store_untouched]

@[simp] theorem State.slotFailed_untouched (s : State) (gid bid adopted st) :
    (s.slotFailed gid bid adopted st).untouched = s.untouched := by
  unfold State.slotFailed
  (repeat' split) <;> simp

@[simp] theorem slotTableSum_untouched (s : State) (gid bid adopted good1 good2) :
    (slotTableSum s gid bid adopted good1 good2).untouched = s.untouched := by
  unfold slotTableSum
  split
  · rfl
  split
  · rfl
  extract_lets +onlyGivenNames me o len
  clear_value me o len
  split
  next mine _ u hu =>
    have hu : u.untouched = s.untouched := by
      rw [← s.unitTakes_untouched, hu]
    split
    · rfl
    split
    · exact hu
    extract_lets +onlyGivenNames s1 slots rd
    clear_value slots rd
    split
    next h => simp [snd_untouched h, s1, hu]
    · exact hu
    next t0 h =>
      have ht0 : t0.untouched = s.untouched := by simp [snd_untouched h, s1, hu]
      extract_lets +onlyGivenNames sum checked bad1 g1 t g2
      have ht : t.untouched = s.untouched := by
        simp only [t]
        split <;> simp [ht0]
      clear_value t g2 sum checked bad1
      split
      · simp [ht]
      split
      next h => simp [fst_untouched h, ht]
      · exact hu
      next t1 h =>
        have ht1 : t1.untouched = s.untouched := by simp [fst_untouched h, ht]
        split
        · exact hu
        next h => grind [State.addSquares_untouched_error, State.normFailed_untouched]
        next h =>
          simp
          grind [State.addSquares_untouched]

@[simp] theorem State.bcastTo_untouched (s : State) (g b owner mirror addr bs d) :
    (s.bcastTo g b owner mirror addr bs d).untouched = s.untouched := by
  unfold State.bcastTo
  grind [State.transmit_untouched, foldl_untouched]

@[simp] theorem shardPublish_untouched (s : State) (gid bid adopted) : (shardPublish s gid bid adopted).untouched = s.untouched := by
  unfold shardPublish
  split
  · rfl
  split
  · rfl
  extract_lets +onlyGivenNames me o
  clear_value me o
  split
  · rfl
  split
  next h => simp [snd_untouched h]
  · rfl
  next h => simp [snd_untouched h]
  next s' _ hs =>
    have hs' : State.untouched s' = s.untouched := by simp [snd_untouched hs]
    extract_lets +onlyGivenNames hh self all deputy parts
    clear_value hh self all deputy parts
    split
    next h => simp [snd_untouched h, hs']
    · exact hs'
    next h => simp [snd_untouched h, hs']

@[simp] theorem bcastIn_untouched (s : State) (h data) : (bcastIn s h data).untouched = s.untouched := by
  unfold bcastIn
  (repeat' split) <;> simp

@[simp] theorem State.resumeRoot_untouched (s : State) (gid) : (s.resumeRoot gid).untouched = s.untouched := by
  unfold State.resumeRoot
  (repeat' split) <;> simp

@[simp] theorem State.rejoinStep_untouched (s : State) (gid) : (s.rejoinStep gid).untouched = s.untouched := by
  unfold State.rejoinStep
  (repeat' split) <;> simp

@[simp] theorem State.passOn_untouched (s : State) (gid k) : (s.passOn gid k).untouched = s.untouched := by
  unfold State.passOn
  (repeat' split) <;> simp

@[simp] theorem State.departRank_untouched (s : State) (gid k) : (s.departRank gid k).untouched = s.untouched := by
  unfold State.departRank
  split <;> simp

@[simp] theorem State.departures_untouched (s : State) (old : State) : (s.departures old).untouched = s.untouched := by
  unfold State.departures
  grind [State.resumeRoot_untouched, State.departRank_untouched, foldl_untouched, State.mk_untouched, State.pending_order]

@[simp] theorem State.stepBegun_untouched (s : State) (c) : (s.stepBegun c).untouched = s.untouched := by
  unfold State.stepBegun
  split <;> simp

/-! ### Fabric -/

@[simp] theorem readIn_untouched (s : State) (h len) : (readIn s h len).untouched = s.untouched := by
  unfold readIn
  grind [State.respond_untouched, State.hold_untouched, State.reading_untouched]

@[simp] theorem writeIn_untouched (s : State) (h data) : (writeIn s h data).untouched = s.untouched := by
  unfold writeIn
  grind [State.respond_untouched, State.hold_untouched, State.store_untouched, State.otherWrite_untouched]

@[simp] theorem atomicIn_untouched (s : State) (h aop ty operand) : (atomicIn s h aop ty operand).untouched = s.untouched := by
  unfold atomicIn
  extract_lets +onlyGivenNames g a n reply
  have hreply (t st v d) : (reply t st v d).untouched = t.untouched := State.respond_untouched ..
  clear_value reply a g n
  split
  · simp [hreply]
  split
  · simp [hreply]
  split
  · simp
  split
  · split
    · simp [hreply]
    · split
      next h => simp [hreply, snd_untouched h]
      next h => simp [hreply, snd_untouched h]
      · simp
  · simp [hreply]
  · simp

@[simp] theorem pullIn_untouched (s : State) (h raddr len) : (pullIn s h raddr len).untouched = s.untouched := by
  unfold pullIn
  grind [State.respond_untouched, State.hold_untouched, State.reading_untouched, State.sendBulk_untouched]

@[simp] theorem State.failPkt_untouched (s : State) (r st d) : (s.failPkt r st d).untouched = s.untouched := by
  unfold State.failPkt
  (repeat' split) <;> simp

@[simp] theorem State.dropReq_untouched (s : State) (r) : (s.dropReq r).untouched = s.untouched := by simp [State.dropReq]
@[simp] theorem State.failReq_untouched (s : State) (r st d) : (s.failReq r st d).untouched = s.untouched := by simp [State.failReq]

@[simp] theorem State.pullDone_untouched (s : State) (r h) : (s.pullDone r h).untouched = s.untouched := by
  unfold State.pullDone
  dsimp only
  (repeat' split) <;> simp

@[simp] theorem bulkIn_untouched (s : State) (h last planeCount data) : (bulkIn s h last planeCount data).untouched = s.untouched := by
  unfold bulkIn
  extract_lets +onlyGivenNames pulled mine reply
  have hreply (t st d) : (reply t st d).untouched = t.untouched := State.respond_untouched ..
  clear_value reply pulled mine
  split
  · rfl
  extract_lets +onlyGivenNames inside g
  clear_value inside g
  split
  next t e h =>
    have ht : t.untouched = s.untouched := by
      rw [fst_untouched h]
      split
      · simp
      · split <;> simp
    clear h
    split
    · simp [hreply]
    split
    · simp
    split
    · dsimp only
      split <;> simp [hreply, ht]
    · simp
    · extract_lets +onlyGivenNames t1 n others whole fab t2 t3
      have h3 : t3.untouched = s.untouched := by
        simp only [t3]
        split <;> simp [hreply, t2, t1, fab, ht]
      clear_value t3
      split
      · exact h3
      · dsimp only
        split <;> simp [h3]

@[simp] theorem State.driftReply_untouched (s : State) (r old) : (s.driftReply r old).untouched = s.untouched := by
  unfold State.driftReply
  grind [State.modItem_untouched, State.request_untouched]

@[simp] theorem respIn_untouched (s : State) (h status rkind value detail data) :
    (respIn s h status rkind value detail data).untouched = s.untouched := by
  unfold respIn
  dsimp only
  (repeat' split) <;> simp

@[simp] theorem bulkDoneIn_untouched (s : State) (h status detail) : (bulkDoneIn s h status detail).untouched = s.untouched := by
  unfold bulkDoneIn
  dsimp only
  (repeat' split) <;> simp

@[simp] theorem msgAckIn_untouched (s : State) (h) : (msgAckIn s h).untouched = s.untouched := by simp [msgAckIn]

@[simp] theorem messageRepeat_untouched (s : State) (dest mseq) : (messageRepeat s dest mseq).untouched = s.untouched := by
  unfold messageRepeat
  dsimp only
  (repeat' split) <;> simp

@[simp] theorem remoteTimeout_untouched (s : State) (tag) : (remoteTimeout s tag).untouched = s.untouched := by
  unfold remoteTimeout
  split <;> simp

@[simp] theorem State.noteMaster_untouched (s : State) : s.noteMaster.untouched = s.untouched := by simp [State.noteMaster]
@[simp] theorem State.takeOffset_untouched (s : State) (o) : (s.takeOffset o).untouched = s.untouched := by simp [State.takeOffset]

@[simp] theorem State.dropSync_untouched (s : State) : s.dropSync.untouched = s.untouched := by
  unfold State.dropSync
  dsimp only
  (repeat' split) <;> simp

@[simp] theorem State.reachChanged_untouched (s : State) (old : State) : (s.reachChanged old).untouched = s.untouched := by
  simp [State.reachChanged]

@[simp] theorem portStateIn_untouched (s : State) (port mid up) : (portStateIn s port mid up).untouched = s.untouched := by
  simp [portStateIn]

@[simp] theorem departingIn_untouched (s : State) (port src mseq) : (departingIn s port src mseq).untouched = s.untouched := by
  simp [departingIn]

@[simp] theorem State.failBulk_untouched (s : State) (dest tag n st d) : (s.failBulk dest tag n st d).untouched = s.untouched := by
  unfold State.failBulk
  dsimp only
  (repeat' split) <;> simp

@[simp] theorem State.movePlane_untouched (s : State) (dest tag n ms) : (s.movePlane dest tag n ms).untouched = s.untouched := by
  simp [State.movePlane]

@[simp] theorem State.reroute_untouched (s : State) (n k) : (s.reroute n k).untouched = s.untouched := by
  unfold State.reroute
  (repeat' split) <;> simp

@[simp] theorem State.rerouteAll_untouched (s : State) (n l) : (s.rerouteAll n l).untouched = s.untouched := by simp [State.rerouteAll]

@[simp] theorem State.losePort_untouched (s : State) (n st) : (s.losePort n st).untouched = s.untouched := by
  unfold State.losePort
  grind [State.setPort_untouched, State.rerouteAll_untouched, State.issueNext_untouched, State.failReq_untouched, State.failBulk_untouched,
    State.requestAbortAt_untouched, State.reachChanged_untouched, foldl_untouched, State.mk_untouched, State.pending_order]

@[simp] theorem State.tryTrain_untouched (s : State) (n) : (s.tryTrain n).untouched = s.untouched := by simp [State.tryTrain]
@[simp] theorem State.enablePort_untouched (s : State) (n on) : (s.enablePort n on).untouched = s.untouched := by simp [State.enablePort]
@[simp] theorem State.retrainPort_untouched (s : State) (n) : (s.retrainPort n).untouched = s.untouched := by simp [State.retrainPort]

@[simp] theorem trainingDone_untouched (s : State) (n ok plane) : (trainingDone s n ok plane).untouched = s.untouched := by
  simp [trainingDone]

@[simp] theorem laneSpare_untouched (s : State) (n lane) : (laneSpare s n lane).untouched = s.untouched := by
  unfold laneSpare
  dsimp only
  (repeat' split) <;> simp

@[simp] theorem laneRetrained_untouched (s : State) (n lane ok) : (laneRetrained s n lane ok).untouched = s.untouched := by
  simp [laneRetrained]

@[simp] theorem linkIn_untouched (s : State) (n f) : (linkIn s n f).untouched = s.untouched := by simp [linkIn]

@[simp] theorem discardedPacket_untouched (s : State) (typ vc) : (discardedPacket s typ vc).untouched = s.untouched := by
  simp [discardedPacket]

@[simp] theorem State.sendTime_untouched (s : State) (port dest sub arg0 arg1) :
    (s.sendTime port dest sub arg0 arg1).untouched = s.untouched := by simp [State.sendTime]

@[simp] theorem timeSyncIn_untouched (s : State) (port src sub mseq arg0 arg1 mt) :
    (timeSyncIn s port src sub mseq arg0 arg1 mt).untouched = s.untouched := by
  unfold timeSyncIn
  dsimp only
  (repeat' split) <;> simp

@[simp] theorem timeSyncExchange_untouched (s : State) (port) : (timeSyncExchange s port).untouched = s.untouched := by
  simp [timeSyncExchange]

@[simp] theorem timeMasterLost_untouched (s : State) : (timeMasterLost s).untouched = s.untouched := by
  unfold timeMasterLost
  split <;> simp

/-! ### Feeds -/

@[simp] theorem feedOpenRun_untouched (s : State) (q k) : (feedOpenRun s q k).untouched = s.untouched := by
  unfold feedOpenRun
  extract_lets +onlyGivenNames b n f
  clear_value b n f
  split
  · simp
  split
  · simp
  split
  · simp
  extract_lets +onlyGivenNames all
  clear_value all
  split
  next h => simp [snd_untouched h]
  next t h =>
    have ht : t.untouched = s.untouched := by simp [snd_untouched h]
    dsimp only
    (repeat' split) <;> simp [ht]

@[simp] theorem feedSubmitRun_untouched (s : State) (q k) : (feedSubmitRun s q k).untouched = s.untouched := by simp [feedSubmitRun]

@[simp] theorem State.feedStore_untouched (s : State) (f g bs) : (s.feedStore f g bs).untouched = s.untouched := by
  unfold State.feedStore
  grind [State.storePiece_untouched, State.faultCtx_untouched, State.owe_untouched, foldl_untouched]

@[simp] theorem State.modFeed_untouched (s : State) (n g) : (s.modFeed n g).untouched = s.untouched := by simp [State.modFeed]
@[simp] theorem State.feedSem_untouched (s : State) (f o) : (s.feedSem f o).untouched = s.untouched := by simp [State.feedSem]

@[simp] theorem State.closeBatch_untouched (s : State) (n m partly) : (s.closeBatch n m partly).untouched = s.untouched := by
  simp [State.closeBatch]

@[simp] theorem State.drained_untouched (s : State) (n) : (s.drained n).untouched = s.untouched := by
  unfold State.drained
  dsimp only
  (repeat' split) <;> simp

@[simp] theorem feedCloseRun_untouched (s : State) (q k) : (feedCloseRun s q k).untouched = s.untouched := by simp [feedCloseRun]

@[simp] theorem State.logTomb_untouched (s : State) (n idx reason fld detail) :
    (s.logTomb n idx reason fld detail).untouched = s.untouched := by simp [State.logTomb]

@[simp] theorem State.deliverSample_untouched (s : State) (n x) : (s.deliverSample n x).untouched = s.untouched := by
  unfold State.deliverSample
  (repeat' split) <;> simp

@[simp] theorem reorderRelease_untouched (s : State) (n) : (reorderRelease s n).untouched = s.untouched := by
  unfold reorderRelease
  grind [State.deliverSample_untouched, State.closeBatch_untouched, State.settle_untouched, State.drained_untouched,
    State.reading_untouched, State.dropLanded_untouched, State.askRead_untouched, State.faultCtx_untouched]

@[simp] theorem tokenizerRun_untouched (s : State) (q k) : (tokenizerRun s q k).untouched = s.untouched := by
  unfold tokenizerRun
  grind [State.finish_untouched, State.reading_untouched, State.onErr_untouched, State.setTok_untouched]

@[simp] theorem State.modSample_untouched (s : State) (n idx g) : (s.modSample n idx g).untouched = s.untouched := by simp [State.modSample]

@[simp] theorem sampleDecodeStart_untouched (s : State) (n) : (sampleDecodeStart s n).untouched = s.untouched := by
  unfold sampleDecodeStart
  grind [State.unitTakes_untouched, State.modSample_untouched]

@[simp] theorem State.tombstone_untouched (s : State) (n idx reason fld detail) :
    (s.tombstone n idx reason fld detail).untouched = s.untouched := by simp [State.tombstone]

@[simp] theorem State.sourceFailed_untouched (s : State) (n x st d) : (s.sourceFailed n x st d).untouched = s.untouched := by
  simp [State.sourceFailed]

@[simp] theorem softLate_untouched (s : State) (n idx) : (softLate s n idx).untouched = s.untouched := by
  unfold softLate
  dsimp only
  (repeat' split) <;> simp

@[simp] theorem State.softBy_untouched (s : State) (n x mt) : (s.softBy n x mt).untouched = s.untouched := by simp [State.softBy]

@[simp] theorem State.sampleEnds_untouched (s : State) (n idx mt) : (s.sampleEnds n idx mt).untouched = s.untouched := by
  unfold State.sampleEnds
  dsimp only
  repeat' split
  all_goals
    grind [State.tombstone_untouched, State.at_untouched, State.softBy_untouched, State.sourceFailed_untouched, State.reading_untouched,
      State.askRead_untouched, State.dropLanded_untouched, State.modSample_untouched, State.setCtx_untouched, State.feedStore_untouched,
      State.modFeed_untouched, foldl_untouched, State.mk_untouched, State.pending_order]

@[simp] theorem sampleReady_untouched (s : State) (n idx mt) : (sampleReady s n idx mt).untouched = s.untouched := by
  unfold sampleReady
  dsimp only
  (repeat' split) <;> simp

@[simp] theorem hardLate_untouched (s : State) (n idx) : (hardLate s n idx).untouched = s.untouched := by
  unfold hardLate
  dsimp only
  (repeat' split) <;> simp

/-! ### Video -/

@[simp] theorem sessionOpenRun_untouched (s : State) (q k) : (sessionOpenRun s q k).untouched = s.untouched := by
  unfold sessionOpenRun
  grind [State.finish_untouched, State.setSession_untouched, State.store_untouched, State.onErr_untouched]

@[simp] theorem State.mediaEnd_untouched (s : State) (n p st d) : (s.mediaEnd n p st d).untouched = s.untouched := by simp [State.mediaEnd]
@[simp] theorem State.countConcealed_untouched (s : State) : s.countConcealed.untouched = s.untouched := by simp [State.countConcealed]
@[simp] theorem State.countOverflow_untouched (s : State) : s.countOverflow.untouched = s.untouched := by simp [State.countOverflow]

theorem State.pictureIn_untouched (s : State) (n p fullW fullH mono parents f miss need) (t : State) :
    s.pictureIn n p fullW fullH mono parents f miss need = some t → t.untouched = s.untouched := by
  unfold State.pictureIn
  grind [State.setSession_untouched, State.countOverflow_untouched, State.countConcealed_untouched, State.storeAll_untouched]

@[simp] theorem State.play_untouched (s : State) (n p events) : (s.play n p events).untouched = s.untouched := by
  induction events generalizing s with
  | nil => simp [State.play]
  | cons e r ih =>
    unfold State.play
    extract_lets +onlyGivenNames x
    cases e with
    | decoded =>
      dsimp only
      split
      · simp
      next t h =>
        have ht := State.pictureIn_untouched _ _ _ _ _ _ _ _ _ _ _ h
        split
        · exact ht
        · rw [ih, ht]
    | unref => dsimp only; split <;> simp [ih]
    | output =>
      dsimp only
      split
      · split <;> simp [ih]
      · rw [ih]
    | unsupported => simp
    | error => simp [ih]

@[simp] theorem State.decodeDone_untouched (s : State) (n) : (s.decodeDone n).untouched = s.untouched := by
  unfold State.decodeDone
  dsimp only
  (repeat' split) <;> simp

@[simp] theorem State.decodeOn_untouched (s : State) (n) : (s.decodeOn n).untouched = s.untouched := by
  unfold State.decodeOn
  split <;> simp

@[simp] theorem State.codecTurn_untouched (s : State) (n) : (s.codecTurn n).2.untouched = s.untouched := by simp [State.codecTurn]

@[simp] theorem State.decodeTurn_untouched (s : State) (n) : (s.decodeTurn n).untouched = s.untouched := by
  unfold State.decodeTurn
  grind [State.codecTurn_untouched, State.decodeOn_untouched, State.decodeDone_untouched]

@[simp] theorem State.acceptDecode_untouched (s : State) (n k) : (s.acceptDecode n k).untouched = s.untouched := by
  simp [State.acceptDecode]

@[simp] theorem State.beginDecode_untouched (s : State) (q n k) : (s.beginDecode q n k).untouched = s.untouched := by
  unfold State.beginDecode
  grind [State.reading_untouched, State.mediaEnd_untouched, State.onErr_untouched, State.decodeOn_untouched, State.dropLanded_untouched,
    State.setSession_untouched]

@[simp] theorem State.mediaTidy_untouched (s : State) (ctx) : (s.mediaTidy ctx).untouched = s.untouched := by
  unfold State.mediaTidy
  split <;> simp

@[simp] theorem mediaDecodeStep_untouched (s : State) (q k) : (mediaDecodeStep s q k).untouched = s.untouched := by
  unfold mediaDecodeStep
  grind [State.finish_untouched, State.mediaEnd_untouched, State.codecTurn_untouched, State.decodeDone_untouched, State.decodeOn_untouched,
    State.beginDecode_untouched, State.acceptDecode_untouched]

@[simp] theorem mediaDecodeRun_untouched (s : State) (q k) : (mediaDecodeRun s q k).untouched = s.untouched := by simp [mediaDecodeRun]

@[simp] theorem State.writeOutput_untouched (s : State) (n i) : (s.writeOutput n i).untouched = s.untouched := by
  unfold State.writeOutput
  grind [State.storeAll_untouched, State.decodeDone_untouched, State.setSession_untouched, State.decodeTurn_untouched,
    State.signalQuiet_untouched]

@[simp] theorem outputRecord_untouched (s : State) (n) : (outputRecord s n).untouched = s.untouched := by
  unfold outputRecord
  dsimp only
  (repeat' split) <;> simp

@[simp] theorem outConsReread_untouched (s : State) (n) : (outConsReread s n).untouched = s.untouched := by
  unfold outConsReread
  grind [State.reading_untouched, State.setSession_untouched, State.dropLanded_untouched, State.askRead_untouched,
    State.decodeDone_untouched]

@[simp] theorem State.encodeNow_untouched (s : State) (q n k) : (s.encodeNow q n k).untouched = s.untouched := by
  unfold State.encodeNow
  grind [State.reading_untouched, State.mediaEnd_untouched, State.onErr_untouched, State.storeAll_untouched, State.signalQuiet_untouched,
    State.setSession_untouched, State.mk_untouched, State.pending_order]

@[simp] theorem mediaEncodeRun_untouched (s : State) (q k) : (mediaEncodeRun s q k).untouched = s.untouched := by
  unfold mediaEncodeRun
  grind [State.finish_untouched, State.mediaEnd_untouched, State.codecTurn_untouched, State.encodeNow_untouched]

@[simp] theorem State.sessionReset_untouched (s : State) (n) : (s.sessionReset n).untouched = s.untouched := by
  unfold State.sessionReset
  split <;> simp

/-! ### Completion -/

@[simp] theorem State.putRecord_untouched (s : State) (c irq rec) : (s.putRecord c irq rec).untouched = s.untouched := by
  simp [State.putRecord]

@[simp] theorem State.backwardDone_untouched (s : State) (k) : (s.backwardDone k).untouched = s.untouched := by
  unfold State.backwardDone
  dsimp only
  (repeat' split) <;> simp

@[simp] theorem State.haltQueue_untouched (s : State) (q) : (s.haltQueue q).untouched = s.untouched := by simp [State.haltQueue]
@[simp] theorem State.endFlush_untouched (s : State) (q) : (s.endFlush q).untouched = s.untouched := by simp [State.endFlush]

@[simp] theorem State.record_untouched (s : State) (q k) : (s.record q k).untouched = s.untouched := by
  unfold State.record
  (repeat' split) <;> simp

@[simp] theorem State.signalStep_untouched (s : State) (q k) : (s.signalStep q k).1.untouched = s.untouched := by
  unfold State.signalStep
  grind [State.modPkt_untouched, State.signal_untouched, State.addTrace_untouched]

@[simp] theorem State.policyLate_untouched (s : State) (k) : (s.policyLate k).untouched = s.untouched := by simp [State.policyLate]

@[simp] theorem State.complete_untouched (s : State) (p) : (s.complete p).untouched = s.untouched := by
  unfold State.complete
  dsimp only
  repeat' split
  all_goals
    grind [State.modPkt_untouched, State.setRing_untouched, State.policyLate_untouched, State.signalStep_untouched, State.record_untouched]

@[simp] theorem State.drainRing_untouched (s : State) (c) : (s.drainRing c).untouched = s.untouched := by simp [State.drainRing]

/-! ### Resets -/

@[simp] theorem State.superseded_untouched (s : State) (r pkts) : (s.superseded r pkts).untouched = s.untouched := by
  simp [State.superseded]

@[simp] theorem State.pushReset_untouched (s : State) (dom idx cause noReplay pkts) :
    (s.pushReset dom idx cause noReplay pkts).untouched = s.untouched := by simp [State.pushReset]

@[simp] theorem State.cutItem_untouched (s : State) (it) : (s.cutItem it).untouched = s.untouched := by
  unfold State.cutItem
  (repeat' split) <;> simp

@[simp] theorem State.cutList_untouched (s : State) (p) : (s.cutList p).untouched = s.untouched := by simp [State.cutList]
@[simp] theorem State.endSequencer_untouched (s : State) (e) : (s.endSequencer e).untouched = s.untouched := by simp [State.endSequencer]

@[simp] theorem State.engineDown_untouched (s : State) (e watchdog noReplay) :
    (s.engineDown e watchdog noReplay).untouched = s.untouched := by simp [State.engineDown]

@[simp] theorem State.recaught_untouched (s : State) : s.recaught.untouched = s.untouched := by
  unfold State.recaught
  split <;> simp

@[simp] theorem State.takeOver_untouched (s : State) (cause) : (s.takeOver cause).untouched = s.untouched := by simp [State.takeOver]
@[simp] theorem State.sendDeparting_untouched (s : State) : s.sendDeparting.untouched = s.untouched := by simp [State.sendDeparting]
@[simp] theorem State.flushDie_untouched (s : State) (d) : (s.flushDie d).untouched = s.untouched := by simp [State.flushDie]
@[simp] theorem State.flushAll_untouched (s : State) : s.flushAll.untouched = s.untouched := by simp [State.flushAll]
@[simp] theorem State.clearLocks_untouched (s : State) : s.clearLocks.untouched = s.untouched := by simp [State.clearLocks]

@[simp] theorem State.moduleCleared_untouched (s : State) (op) : (s.moduleCleared op).untouched = s.untouched := by
  simp [State.moduleCleared]

@[simp] theorem State.startModule_untouched (s : State) (cause orderly pkts) :
    (s.startModule cause orderly pkts).untouched = s.untouched := by simp [State.startModule]

@[simp] theorem State.hubDown_untouched (s : State) (h) : (s.hubDown h).untouched = s.untouched := by simp [State.hubDown]

@[simp] theorem State.startHub_untouched (s : State) (h cause pkts) : (s.startHub h cause pkts).untouched = s.untouched := by
  unfold State.startHub
  split <;> simp

@[simp] theorem State.startDie_untouched (s : State) (d cause noReplay pkts) :
    (s.startDie d cause noReplay pkts).untouched = s.untouched := by
  unfold State.startDie
  split <;> simp

@[simp] theorem State.startEngine_untouched (s : State) (e cause noReplay pkts) :
    (s.startEngine e cause noReplay pkts).untouched = s.untouched := by
  unfold State.startEngine
  split <;> simp

@[simp] theorem State.startPort_untouched (s : State) (n cause pkts) : (s.startPort n cause pkts).untouched = s.untouched := by
  unfold State.startPort
  split <;> simp

@[simp] theorem resetDomainRun_untouched (s : State) (q k) : (resetDomainRun s q k).untouched = s.untouched := by
  unfold resetDomainRun
  dsimp only
  (repeat' split) <;> simp

@[simp] theorem hbCount_untouched (s : State) : (hbCount s).untouched = s.untouched := by simp [hbCount]
@[simp] theorem heartbeatRecord_untouched (s : State) : (heartbeatRecord s).untouched = s.untouched := by simp [heartbeatRecord]
@[simp] theorem takeover_untouched (s : State) : (takeover s).untouched = s.untouched := by simp [takeover]
@[simp] theorem standbyReady_untouched (s : State) : (standbyReady s).untouched = s.untouched := by simp [standbyReady]
@[simp] theorem State.release_untouched (s : State) (e c) : (s.release e c).untouched = s.untouched := by simp [State.release]
@[simp] theorem State.serveAgain_untouched (s : State) (e) : (s.serveAgain e).untouched = s.untouched := by simp [State.serveAgain]
@[simp] theorem State.nextTest_untouched (s : State) (e) : (s.nextTest e).untouched = s.untouched := by simp [State.nextTest]
@[simp] theorem State.passSuspect_untouched (s : State) (e c) : (s.passSuspect e c).untouched = s.untouched := by simp [State.passSuspect]

@[simp] theorem replayPass_untouched (s : State) (e mt) : (replayPass s e mt).untouched = s.untouched := by
  unfold replayPass
  dsimp only
  (repeat' split) <;> simp

@[simp] theorem rstReplayMs_untouched (s : State) (e) : (rstReplayMs s e).untouched = s.untouched := by
  unfold rstReplayMs
  dsimp only
  (repeat' split) <;> simp

@[simp] theorem State.cutStatus_untouched (s : State) (e c st d) : (s.cutStatus e c st d).untouched = s.untouched := by
  simp [State.cutStatus]

@[simp] theorem replayFault_untouched (s : State) (e st d) : (replayFault s e st d).untouched = s.untouched := by
  unfold replayFault
  dsimp only
  (repeat' split) <;> simp

@[simp] theorem engineWatchdog_untouched (s : State) (e) : (engineWatchdog s e).untouched = s.untouched := by
  unfold engineWatchdog
  dsimp only
  (repeat' split) <;> simp

@[simp] theorem unitHang_untouched (s : State) (h) : (unitHang s h).untouched = s.untouched := by
  unfold unitHang
  split <;> simp

@[simp] theorem resetTimerExpiry_untouched (s : State) (dom idx) : (resetTimerExpiry s dom idx).untouched = s.untouched := by
  unfold resetTimerExpiry
  (repeat' split) <;> simp

@[simp] theorem State.applyHeld_untouched (s : State) (h) : (s.applyHeld h).untouched = s.untouched := by simp [State.applyHeld]

@[simp] theorem State.unitBack_untouched (s : State) (dom idx) : (s.unitBack dom idx).untouched = s.untouched := by
  unfold State.unitBack
  split <;> simp

@[simp] theorem resetDone_untouched (s : State) (dom idx mt degraded) : (resetDone s dom idx mt degraded).untouched = s.untouched := by
  unfold resetDone
  split <;> simp

/-! ### Power -/

@[simp] theorem quadSample_untouched (s : State) (n temp) : (quadSample s n temp).untouched = s.untouched := by simp [quadSample]
@[simp] theorem capSample_untouched (s : State) (watts centiV) : (capSample s watts centiV).untouched = s.untouched := by simp [capSample]
@[simp] theorem powerRun_untouched (s : State) (q k) : (powerRun s q k).untouched = s.untouched := by simp [powerRun]
@[simp] theorem State.powerLost_untouched (s : State) (st) : (s.powerLost st).untouched = s.untouched := by simp [State.powerLost]
@[simp] theorem State.comeUp_untouched (s : State) : s.comeUp.untouched = s.untouched := by simp [State.comeUp]
@[simp] theorem State.unloadAll_untouched (s : State) : s.unloadAll.untouched = s.untouched := by simp [State.unloadAll]
@[simp] theorem State.enterDoze_untouched (s : State) : s.enterDoze.untouched = s.untouched := by simp [State.enterDoze]

@[simp] theorem transitionDone_untouched (s : State) : (transitionDone s).untouched = s.untouched := by
  unfold transitionDone
  (repeat' split) <;> simp

@[simp] theorem selfRefresh_untouched (s : State) (stack) : (selfRefresh s stack).untouched = s.untouched := by simp [selfRefresh]
@[simp] theorem powerUp_untouched (s : State) : (powerUp s).untouched = s.untouched := by simp [powerUp]
@[simp] theorem inputOff_untouched (s : State) (full) : (inputOff s full).untouched = s.untouched := by simp [inputOff]
@[simp] theorem wakeN_untouched (s : State) (us) : (wakeN s us).untouched = s.untouched := by simp [wakeN]
@[simp] theorem State.setLink_untouched (s : State) (port up) : (s.setLink port up).untouched = s.untouched := by simp [State.setLink]
@[simp] theorem perstnN_untouched (s : State) (port) : (perstnN s port).untouched = s.untouched := by simp [perstnN]
@[simp] theorem linkUp_untouched (s : State) (port) : (linkUp s port).untouched = s.untouched := by simp [linkUp]

@[simp] theorem identRun_untouched (s : State) (q k) : (identRun s q k).untouched = s.untouched := by
  unfold identRun
  grind [State.store_untouched, State.onErr_untouched, State.finish_untouched]

/-! ### What runs a command's packet -/

@[simp] theorem cmdTail_untouched (s : State) (fn q v) : (cmdTail s fn q v).untouched = s.untouched := by simp [cmdTail]
@[simp] theorem cplHead_untouched (s : State) (fn c v) : (cplHead s fn c v).untouched = s.untouched := by simp [cplHead]
@[simp] theorem State.addPkt_untouched (s : State) (q k) : (s.addPkt q k).untouched = s.untouched := by simp [State.addPkt]
@[simp] theorem State.submit_untouched (s : State) (v) : (s.submit v).untouched = s.untouched := by simp [State.submit]
@[simp] theorem State.ringRead_untouched (s : State) (q n old) : (s.ringRead q n old).untouched = s.untouched := by simp [State.ringRead]

@[simp] theorem State.fetchSlots_untouched (s : State) (q b) : (s.fetchSlots q b).untouched = s.untouched := by
  unfold State.fetchSlots
  dsimp only
  (repeat' split) <;> simp

@[simp] theorem State.fetchTooLong_untouched (s : State) (q h) : (s.fetchTooLong q h).untouched = s.untouched := by
  simp [State.fetchTooLong]

@[simp] theorem State.fetchBroken_untouched (s : State) (q st d) : (s.fetchBroken q st d).untouched = s.untouched := by
  simp [State.fetchBroken]

@[simp] theorem State.cancelSlots_untouched (s : State) (q b) : (s.cancelSlots q b).untouched = s.untouched := by simp [State.cancelSlots]

@[simp] theorem State.cancelRing_untouched (f) (s : State) (q) : (State.cancelRing f s q).1.untouched = s.untouched := by
  induction f generalizing s with
  | zero => rfl
  | succ f ih =>
    unfold State.cancelRing
    split
    · simp [ih]
    · dsimp only
      split <;> simp
    · simp
    · rfl

@[simp] theorem State.flushRing_untouched (s : State) (q) : (s.flushRing q).untouched = s.untouched := by
  unfold State.flushRing
  grind [State.cancelRing_untouched, State.endFlush_untouched, State.setQueue_untouched]

@[simp] theorem packetFetch_untouched (s : State) (q) : (packetFetch s q).untouched = s.untouched := by
  unfold packetFetch
  dsimp only
  (repeat' split) <;> simp

@[simp] theorem nopRun_untouched (s : State) (q) : (nopRun s q).untouched = s.untouched := by
  unfold nopRun
  (repeat' split) <;> simp

@[simp] theorem State.readSem_untouched (s : State) (q k) : (s.readSem q k).untouched = s.untouched := by
  unfold State.readSem
  grind [State.reading_untouched, State.modPkt_untouched, State.dropLanded_untouched, State.askRead_untouched, State.finishSilent_untouched]

@[simp] theorem semReread_untouched (s : State) (q) : (semReread s q).untouched = s.untouched := by
  unfold semReread
  split <;> simp

@[simp] theorem notBefore_untouched (s : State) (q) : (notBefore s q).untouched = s.untouched := by
  unfold notBefore
  split <;> simp

theorem State.readBlock_untouched (s : State) (q k g) (t : State) : s.readBlock q k g = .ok t → t.untouched = s.untouched := by
  grind [State.readBlock, State.reading_untouched, State.dropLanded_untouched, State.modPkt_untouched]

theorem State.readBlock_untouched_error (s : State) (q k g) (t : State) : s.readBlock q k g = .error t → t.untouched = s.untouched := by
  grind [State.readBlock, State.reading_untouched, State.onErr_untouched]

@[simp] theorem State.startPkt_untouched (s : State) (q k role) : (s.startPkt q k role).untouched = s.untouched := by simp [State.startPkt]
@[simp] theorem State.countCreate_untouched (s : State) (k) : (s.countCreate k).untouched = s.untouched := by simp [State.countCreate]
@[simp] theorem State.autoWake_untouched (s : State) : s.autoWake.untouched = s.untouched := by simp [State.autoWake]

@[simp] theorem State.judgeStart_untouched (s : State) (q k) : (s.judgeStart q k).untouched = s.untouched := by
  unfold State.judgeStart
  grind [State.countCreate_untouched, State.finishSilent_untouched, State.judge_untouched, State.startPkt_untouched,
    State.giveMover_untouched]

@[simp] theorem packetStart_untouched (s : State) (q) : (packetStart s q).untouched = s.untouched := by
  unfold packetStart
  dsimp only
  repeat' split
  all_goals
    grind [State.readSem_untouched, State.autoWake_untouched, State.finishSilent_untouched, State.judgeStart_untouched,
      State.readBlock_untouched, State.readBlock_untouched_error]

@[simp] theorem State.flushQueue_untouched (s : State) (q) : (s.flushQueue q).untouched = s.untouched := by simp [State.flushQueue]
@[simp] theorem State.resumeQueue_untouched (s : State) (q) : (s.resumeQueue q).untouched = s.untouched := by simp [State.resumeQueue]

/-! ### Registers -/

@[simp] theorem State.clearRc_untouched (s : State) (fn off) : (s.clearRc fn off).untouched = s.untouched := by
  unfold State.clearRc
  split <;> simp

@[simp] theorem State.regRead_untouched (s : State) (fn off) : (s.regRead fn off).untouched = s.untouched := by simp [State.regRead]

@[simp] theorem State.moveWaiting_untouched (s : State) (q old new) : (s.moveWaiting q old new).untouched = s.untouched := by
  simp [State.moveWaiting]

@[simp] theorem State.writeQcfg_untouched (s : State) (fn v) : (s.writeQcfg fn v).untouched = s.untouched := by simp [State.writeQcfg]

@[simp] theorem State.writeQbase_untouched (s : State) (fn hi v) : (s.writeQbase fn hi v).untouched = s.untouched := by
  simp [State.writeQbase]

@[simp] theorem State.writeQctl_untouched (s : State) (fn v) : (s.writeQctl fn v).untouched = s.untouched := by simp [State.writeQctl]

@[simp] theorem State.writeRing_untouched (s : State) (fn reg v) : (s.writeRing fn reg v).untouched = s.untouched := by
  unfold State.writeRing
  split <;> simp

@[simp] theorem State.forgetWindow_untouched (s : State) (w) : (s.forgetWindow w).untouched = s.untouched := by simp [State.forgetWindow]

@[simp] theorem State.writeRattr_untouched (s : State) (fn v) : (s.writeRattr fn v).untouched = s.untouched := by
  unfold State.writeRattr
  grind [State.setRegion_untouched, State.forgetWindow_untouched, foldl_untouched]

@[simp] theorem dieLocalChangeDone_untouched (s : State) (e) : (dieLocalChangeDone s e).untouched = s.untouched := by
  simp [dieLocalChangeDone]

@[simp] theorem State.writeRetire_untouched (s : State) (v) : (s.writeRetire v).untouched = s.untouched := by simp [State.writeRetire]
@[simp] theorem State.writeArm_untouched (s : State) (v) : (s.writeArm v).untouched = s.untouched := by simp [State.writeArm]

@[simp] theorem State.writePortCtl_untouched (s : State) (n v) : (s.writePortCtl n v).untouched = s.untouched := by
  simp [State.writePortCtl]

@[simp] theorem State.writeModuleId_untouched (s : State) (v) : (s.writeModuleId v).untouched = s.untouched := by simp [State.writeModuleId]

@[simp] theorem State.writeCoreRetire_untouched (s : State) (v) : (s.writeCoreRetire v).untouched = s.untouched := by
  simp [State.writeCoreRetire]

@[simp] theorem State.writeCap_untouched (s : State) (v) : (s.writeCap v).untouched = s.untouched := by simp [State.writeCap]

@[simp] theorem State.writeVfmap_untouched (s : State) (fn v) : (s.writeVfmap fn v).untouched = s.untouched := by
  unfold State.writeVfmap
  split <;> simp

@[simp] theorem State.writeElog_untouched (s : State) (fn ring reg v) : (s.writeElog fn ring reg v).untouched = s.untouched := by
  unfold State.writeElog
  split <;> simp

@[simp] theorem State.writeSel_untouched (s : State) (fn off v) : (s.writeSel fn off v).untouched = s.untouched := by
  unfold State.writeSel
  split <;> simp

@[simp] theorem State.writePlain_untouched (s : State) (fn off v) : (s.writePlain fn off v).untouched = s.untouched := by
  unfold State.writePlain
  split <;> simp

@[simp] theorem State.regWrite_untouched (s : State) (fn off v) : (s.regWrite fn off v).untouched = s.untouched := by
  unfold State.regWrite
  (repeat' split) <;> simp

@[simp] theorem bar4Read_untouched (s : State) (fn addr len) : (bar4Read s fn addr len).untouched = s.untouched := by
  unfold bar4Read
  grind [State.hold_untouched, State.reading_untouched, State.mk_untouched, State.pending_order]

@[simp] theorem State.barStore_untouched (s : State) (fn addr data) : (s.barStore fn addr data).untouched = s.untouched := by
  unfold State.barStore
  grind [State.hold_untouched, State.otherWrite_untouched, State.lineWrite_untouched, foldl_untouched]

@[simp] theorem bar4Write_untouched (s : State) (fn addr data) : (bar4Write s fn addr data).untouched = s.untouched := by simp [bar4Write]

/-! ### Holds -/

@[simp] theorem State.runHeld_untouched (s : State) (i) : (s.runHeld i).untouched = s.untouched := by
  unfold State.runHeld
  split <;> simp

@[simp] theorem State.retryNorm_untouched (s : State) (c) : (s.retryNorm c).untouched = s.untouched := by
  unfold State.retryNorm
  dsimp only
  (repeat' split) <;> simp

@[simp] theorem State.resumeTests_untouched (s : State) (since now) : (s.resumeTests since now).untouched = s.untouched := by
  simp [State.resumeTests]

@[simp] theorem State.retryGroup_untouched (s : State) (gid) : (s.retryGroup gid).untouched = s.untouched := by simp [State.retryGroup]
@[simp] theorem State.drainRings_untouched (s : State) : s.drainRings.untouched = s.untouched := by simp [State.drainRings]
@[simp] theorem State.reportAll_untouched (s : State) : s.reportAll.untouched = s.untouched := by simp [State.reportAll]
@[simp] theorem State.serveHeld_untouched (s : State) : s.serveHeld.untouched = s.untouched := by simp [State.serveHeld]

/-! ### Every command ends in `answer` -/

theorem answer_of_wf {c : Instr} (h : c.wf = true) (u : State) : answer c u = .next u := if_pos h

theorem answer_of_not_wf {c : Instr} (h : c.wf = false) (u : State) : answer c u = .refused .illFormed := by simp [answer, h]

theorem eq_of_answer_eq_next {c : Instr} {u t : State} (h : answer c u = .next t) : t = u := by
  unfold answer at h
  split at h <;> cases h
  rfl

/-- Every command ends in `answer`, on a state with the same waiting commands and the same order code. -/
theorem exec_eq_answer (c : Instr) (s : State) : ∃ u, exec c s = answer c u ∧ u.untouched = s.untouched := by
  cases c
  case resend | rejoinAns =>
    refine ⟨_, rfl, State.heardOn_untouched _ _ _ _ fun t g => ?_⟩
    (repeat' split) <;> simp
  -- what runs a packet or a task does so where it is there, or else nothing
  case copy | fill | hostSpill | hostFetch | tasklistRun | stepBegin | stepCommit | memAtomic | scrubCtrl | flipmaskArm | partitionSet
      | groupJoin | bucketDefine | groupAbort | shadowMap | feedOpen | feedSubmit | feedClose | tokenizerLoad | mediaSessionOpen
      | mediaDecode | mediaEncode | contextCreate | contextDestroy | resetDomain | powerState | identChallenge | countersRead
      | numericsPolicy | empty | matmul | backward | combine | conv | convBwd | poolBwd | vchain | vfinish | adamw | sgdm
      | packetCompletion | resetDone =>
    exact ⟨_, rfl, by split <;> simp⟩
  all_goals exact ⟨_, rfl, by simp⟩

/-- Settles O3: each command's meaning is `answer` of some state, and `answer` asks only whether a row spells the command. -/
theorem everyCommandAnswers : Obligations.EveryCommandAnswers := by
  intro c s
  obtain ⟨u, hu, -⟩ := exec_eq_answer c s
  exact ⟨fun h => ⟨u, hu.trans (answer_of_wf h u)⟩, fun h => hu.trans (answer_of_not_wf h u)⟩

/-- Settles O7: the state that a command answers is one that the operations above have made. -/
theorem commandsKeepQueueAndFuses : Obligations.CommandsKeepQueueAndFuses := by
  intro c s t ht
  obtain ⟨u, hu, hkeep⟩ := exec_eq_answer c s
  obtain rfl := eq_of_answer_eq_next (hu.symm.trans ht)
  exact State.untouched_eq_iff.mp hkeep

end Sys2Proof.Machine
end

section
/-! The layout of packets as software writes them and the fetcher reads them (R35, R42, R43), and the command protocol's registers: the
doorbells (R37, R38, R54), the queues and the completion rings (R39 to R41). -/

namespace Sys2Proof

/-- Writing what an entry reads as changes nothing. -/
theorem Tbl.set_get {α : Type} [DecidableEq α] {d : α} {n : Nat} : ∀ {lo : Nat} {t : Tbl α}, Tbl.wfFrom d lo t = true →
    Tbl.set d t n (Tbl.get d t n) = t := by
  intro lo t
  induction t generalizing lo with
  | nil => intro _; simp [Tbl.set, Tbl.get]
  | cons e r ih =>
    obtain ⟨k, x⟩ := e
    intro h
    simp only [Tbl.wfFrom, Bool.and_eq_true, decide_eq_true_eq] at h
    obtain ⟨⟨-, hx⟩, hr⟩ := h
    rcases lt_trichotomy n k with hlt | rfl | hgt
    · have : n ≠ k := by omega
      simp [Tbl.get, this, Tbl.get_below hr (show n < k + 1 by omega), Tbl.set, hlt]
    · simp [Tbl.get, Tbl.set, hx]
    · have h1 : ¬ n < k := by omega
      have h2 : n ≠ k := by omega
      simp [Tbl.get, Tbl.set, h1, h2, ih hr]

end Sys2Proof

namespace Sys2Proof.Machine

/-! ### The step -/

/-- Settles O1: with a command at the front, a step is that command's effect by definition. -/
theorem frontCommandRuns : Obligations.FrontCommandRuns := fun _ _ _ => rfl

/-! ### Packets as they are written -/

/-- A field behind a number's own bytes. -/
theorem field_toLe_skip {m v n size : Nat} (b : List Byte) (h : m ≤ n) : field (toLe m v ++ b) n size = field b (n - m) size := by
  rw [field_append_right _ _ _ _ (by simpa using h), toLe_length]

/-- A field behind two bytes. -/
theorem field_pair_skip {x y : Byte} {n size : Nat} (b : List Byte) (h : 2 ≤ n) : field (x :: y :: b) n size = field b (n - 2) size :=
  field_append_right [x, y] b n size h

@[simp] theorem encodeHeader_length (k : Packet) : (encodeHeader k).length = 64 := by simp [encodeHeader]

/-- What stands behind the header is read from offset 64 on. -/
theorem field_body (k : Packet) (b : List Byte) (size : Nat) : field (encodeHeader k ++ b) 64 size = field b 0 size := by
  rw [field_append_right _ _ _ _ (by simp), encodeHeader_length]

/-- R42: the fields of a header, whatever follows it. -/
theorem headerPacket_encodeHeader {k : Packet} (h : k.spells = true) (id : Nat) (b : List Byte) :
    headerPacket id (encodeHeader k ++ b) = { k.written with id, indirect := none, params := [] } := by
  simp only [Packet.spells, Bool.and_eq_true, decide_eq_true_eq] at h
  obtain ⟨⟨⟨hop, hfl, hfe, hctx, hprio, hcls, htag⟩, hplen, hnb, hwa, hwv, hsa⟩, -⟩ := h
  have hw : k.ctx + k.prio * 2 ^ 20 + k.cls * 2 ^ 24 < 256 ^ 4 := by omega
  have hctx' : fld (k.ctx + k.prio * 2 ^ 20 + k.cls * 2 ^ 24) 0 20 = k.ctx := by simp only [fld, Nat.shiftRight_eq_div_pow]; omega
  have hprio' : fld (k.ctx + k.prio * 2 ^ 20 + k.cls * 2 ^ 24) 20 2 = k.prio := by simp only [fld, Nat.shiftRight_eq_div_pow]; omega
  have hcls' : fld (k.ctx + k.prio * 2 ^ 20 + k.cls * 2 ^ 24) 24 3 = k.cls := by simp only [fld, Nat.shiftRight_eq_div_pow]; omega
  simp only [headerPacket, encodeHeader, List.append_assoc, List.cons_append, List.nil_append, Packet.written]
  simp (disch := omega) only [field_toLe_skip, field_pair_skip, Nat.reduceSub, field_toLe, hctx', hprio', hcls']

/-- R43: whether the parameters stand elsewhere is what the flags say. -/
theorem Packet.indirect_isSome_of_spells {k : Packet} (h : k.spells = true) : k.flags.testBit 3 = k.indirect.isSome := by
  simp only [Packet.spells, Bool.and_eq_true] at h
  cases hi : k.indirect <;> simp_all

/-- R35, R43: the header says how many slots the packet takes. -/
theorem headerSlots_encodePacket {k : Packet} (h : k.spells = true) :
    headerSlots (encodePacket k) = if k.indirect.isSome then 2 else cdiv (64 + k.plen) 64 := by
  have hk := headerPacket_encodeHeader h 0 (match k.indirect with
    | some g => toLe 8 g ++ List.replicate 56 0#8
    | none => k.params ++ List.replicate (64 * cdiv (64 + k.params.length) 64 - (64 + k.params.length)) 0#8)
  have hfl : field (encodePacket k) 2 1 = k.flags := congrArg Packet.flags hk
  have hpl : field (encodePacket k) 12 2 = k.plen := congrArg Packet.plen hk
  rw [headerSlots, hfl, hpl, Packet.indirect_isSome_of_spells h]

theorem encodePacket_length {k : Packet} (h : k.spells = true) : (encodePacket k).length = 64 * headerSlots (encodePacket k) := by
  rw [headerSlots_encodePacket h]
  simp only [Packet.spells, Bool.and_eq_true] at h
  cases hi : k.indirect with
  | some g => simp [encodePacket, hi]
  | none =>
    have hlen : k.params.length = k.plen := by simp_all
    simp only [encodePacket, hi, List.length_append, encodeHeader_length, List.length_replicate, hlen, Option.isSome_none, cdiv]
    simp only [Bool.false_eq_true, if_false]
    omega

theorem packetOf_encodePacket {k : Packet} (h : k.spells = true) : packetOf k.id (encodePacket k) = k.written := by
  have hbit := Packet.indirect_isSome_of_spells h
  have hk := headerPacket_encodeHeader h k.id
  simp only [Packet.spells, Bool.and_eq_true] at h
  cases hi : k.indirect with
  | some g =>
    obtain ⟨-, hspell⟩ := h
    simp only [hi, Bool.and_eq_true, decide_eq_true_eq, List.isEmpty_iff] at hspell
    obtain ⟨⟨-, hg⟩, hparams⟩ := hspell
    simp only [packetOf, encodePacket, hi, hk, field_body, field_toLe _ (show g < 256 ^ 8 by omega)]
    simp [Packet.written, hbit, hi, hparams]
  | none =>
    have hlen : k.params.length = k.plen := by simp_all
    simp only [packetOf, encodePacket, hi, hk]
    simp [Packet.written, hbit, hi, ← hlen]

/-- Settles O10: each field is read from the bytes that the header's layout gives it, and the rest from behind the header. -/
theorem packetReadsAsWritten : Obligations.PacketReadsAsWritten :=
  fun _ h => ⟨packetOf_encodePacket h, encodePacket_length h⟩

/-! ### Queues and rings read back -/

theorem State.queue_setQueue_other (s : State) {q x : Nat} (h : x ≠ q) (v : Queue) : (s.setQueue q v).queue x = s.queue x :=
  Tbl.get_set_other h s.queues

theorem State.queue_setQueue {s : State} (h : Tbl.wf {} s.queues = true) (q : Nat) (v : Queue) : (s.setQueue q v).queue q = v :=
  Tbl.get_set_same h

theorem State.ring_setRing {s : State} (h : Tbl.wf {} s.rings = true) (c : Nat) (v : CplRing) : (s.setRing c v).ring c = v :=
  Tbl.get_set_same h

/-- A ring at which no record waits has none to drain. -/
theorem State.drainRing_of_waiting_nil {s : State} {c : Nat} (h : (s.ring c).waiting = []) : s.drainRing c = s := by
  rw [State.drainRing, h, List.foldl_nil]

/-- A ring written with no record waiting has none to drain. -/
theorem State.drainRing_setRing {s : State} (hs : Tbl.wf {} s.rings = true) {c : Nat} {v : CplRing} (h : v.waiting = []) :
    (s.setRing c v).drainRing c = s.setRing c v :=
  State.drainRing_of_waiting_nil (by rw [State.ring_setRing hs, h])

/-! ### Doorbells -/

section Doorbells
variable {s : State} {fn q v : Nat}

theorem cmdTail_unseen (h : (s.fnUp fn && s.fnSees fn (s.queue q).part) = false) : cmdTail s fn q v = s :=
  if_pos (by simpa [Bool.or_eq_true] using Bool.and_eq_false_iff.mp h)

/-- R38: a tail beyond the ring sets BAD_DOORBELL alone. -/
theorem cmdTail_outside (h : (s.fnUp fn && s.fnSees fn (s.queue q).part) = true) (hv : (s.queue q).slots ≤ v) :
    cmdTail s fn q v = s.setQueue q { s.queue q with badBell := true } :=
  (if_neg (by simpa [Bool.and_eq_true] using h)).trans (if_pos hv)

/-- R38: a tail in the ring is taken. -/
theorem cmdTail_inside (h : (s.fnUp fn && s.fnSees fn (s.queue q).part) = true) (hv : v < (s.queue q).slots) :
    cmdTail s fn q v = s.setQueue q { s.queue q with
      tail := v
      overrun := if (s.queue q).filled + (v + (s.queue q).slots - (s.queue q).tail) % (s.queue q).slots < (s.queue q).slots then 0
        else (s.queue q).filled + (v + (s.queue q).slots - (s.queue q).tail) % (s.queue q).slots
      kept := (s.queue q).kept ++ (List.range ((v + (s.queue q).slots - (s.queue q).tail) % (s.queue q).slots)).map
        (fun i => s.slotBytes q ((s.queue q).tail + i)) } :=
  (if_neg (by simpa [Bool.and_eq_true] using h)).trans (if_neg (Nat.not_le.mpr hv))

/-- R54: a head in the ring is taken as it is. -/
theorem cplHead_inside {c : Nat} (hup : s.fnUp fn = true) (hsees : s.fnSees fn (s.partOf c) = true) (hv : v < 2 ^ (s.ring c).log2)
    (hv16 : v < 2 ^ 16) : cplHead s fn c v = (s.setRing c { s.ring c with head := v }).drainRing c := by
  have hmod : v % 2 ^ 16 = v := Nat.mod_eq_of_lt hv16
  simp only [cplHead, hup, hsees, hmod, if_pos hv, Bool.not_true, Bool.or_false, Bool.false_eq_true, if_false]

end Doorbells

/-- Settles O11: the two doorbells, case by case. -/
theorem doorbellsMoveIndices : Obligations.DoorbellsMoveIndices := by
  unfold Obligations.DoorbellsMoveIndices
  constructor
  · intro fn q v s hfn hq hv u d n kept
    have hwf : (Instr.cmdTail fn q v).wf = true := by simpa [Instr.wf, hfn, hq, fits32] using hv
    have hexec : exec (.cmdTail fn q v) s = .next (cmdTail s fn q v) := answer_of_wf hwf _
    refine ⟨fun hunseen => ?_, fun hseen => ⟨fun hout => ?_, fun hin hroom => ?_, fun hin hover => ?_⟩⟩
    · rw [hexec, cmdTail_unseen hunseen]
    · rw [hexec, cmdTail_outside hseen hout]
    · rw [hexec, cmdTail_inside hseen hin]
      exact congrArg (fun o => Host.Outcome.next (s.setQueue q { u with tail := v, overrun := o, kept := kept })) (if_pos hroom)
    · rw [hexec, cmdTail_inside hseen hin]
      exact congrArg (fun o => Host.Outcome.next (s.setQueue q { u with tail := v, overrun := o, kept := kept }))
        (if_neg (Nat.not_lt.mpr hover))
  · intro fn c v s hs hfn hc hv hlog hup hsees hwait
    have hv16 : v < 2 ^ 16 := lt_of_lt_of_le hv (Nat.pow_le_pow_right (by omega) hlog)
    have hwf : (Instr.cplHead fn c v).wf = true := by simp [Instr.wf, hfn, hc, fits32]; omega
    have hexec : exec (.cplHead fn c v) s = .next (cplHead s fn c v) := answer_of_wf hwf _
    rw [hexec, cplHead_inside hup hsees hv hv16]
    exact congrArg Host.Outcome.next (State.drainRing_setRing hs.rings hwait)

/-! ### What a physical function writes -/

section PhysicalFunctions
variable {s : State} {fn off v : Nat} (hpf : isPf fn = true)
include hpf

/-- R464: a physical function is shown every register of the map. -/
theorem State.shown_of_pf (s : State) (off : Nat) : s.shown fn off = true := by
  simp only [State.shown, State.fnSees, hpf, Bool.true_or]
  (repeat' split) <;> rfl

/-- R464: a physical function writes every register of the map. -/
theorem State.canWrite_of_pf (s : State) (h : viewOf off ≠ .gone) : s.canWrite fn off = true := by
  simp only [State.canWrite, State.fnBound, hpf, Bool.true_or, Bool.true_and, State.shown_of_pf hpf]
  cases hview : viewOf off <;> simp_all

/-- Its writes get through where its port is up. -/
theorem State.writes_of_pf (hup : s.fnUp fn = true) (h : viewOf off ≠ .gone) : ¬(!s.fnUp fn || !s.canWrite fn off) = true := by
  simp [hup, State.canWrite_of_pf hpf s h]

variable (hup : s.fnUp fn = true)
include hup

theorem State.regWrite_qcfg : s.regWrite fn 0x00104C v = s.writeQcfg fn v := if_neg (State.writes_of_pf hpf hup (by decide))
theorem State.regWrite_qbase (hi : Bool) : s.regWrite fn (if hi then 0x001048 else 0x001044) v = s.writeQbase fn hi v := by
  cases hi <;> exact if_neg (State.writes_of_pf hpf hup (by decide))
theorem State.regWrite_qctl : s.regWrite fn 0x001058 v = s.writeQctl fn v := if_neg (State.writes_of_pf hpf hup (by decide))
theorem State.regWrite_cbase {reg : Nat} (h : reg < 2) : s.regWrite fn (0x001084 + 4 * reg) v = s.writeRing fn reg v := by
  obtain rfl | rfl : reg = 0 ∨ reg = 1 := by omega
  · exact if_neg (State.writes_of_pf hpf hup (by decide))
  · exact if_neg (State.writes_of_pf hpf hup (by decide))
theorem State.regWrite_ccfg : s.regWrite fn 0x00108C v = s.writeRing fn 2 v := if_neg (State.writes_of_pf hpf hup (by decide))

end PhysicalFunctions

/-! ### Queues configured (R39, R40) -/

theorem Queue.enable_of_quiescent {u : Queue} (h : u.quiescent = true) : u.enable = false := by
  simp only [Queue.quiescent, Bool.and_eq_true, Bool.not_eq_true'] at h
  exact h.1

/-- A queue that is given another ring takes no record along where none waits at either. -/
theorem State.moveWaiting_of_none {s : State} (h : Tbl.wf {} s.rings = true) {q old new : Nat} (hold : (s.ring old).waiting = [])
    (hnew : (s.ring new).waiting = []) : s.moveWaiting q old new = s := by
  have hset (c : Nat) (hc : (s.ring c).waiting = []) : s.setRing c { s.ring c with waiting := [] } = s := by
    rw [← hc]
    exact congrArg (fun r => { s with rings := r }) (Tbl.set_get h)
  simp only [State.moveWaiting, hold, hnew, List.filter_nil, List.append_nil, hset old hold, hset new hnew,
    State.drainRing_of_waiting_nil hold, State.drainRing_of_waiting_nil hnew]

section Qcfg
variable {s : State} {fn v : Nat} (hpf : isPf fn = true)
include hpf

/-- R40: a quiescent queue takes what is written. -/
theorem State.writeQcfg_quiescent (hs : Tbl.wf {} s.rings = true) (hq : (s.queue (s.fn fn).qsel).quiescent = true) (hlo : 6 ≤ fld v 0 5)
    (hhi : fld v 0 5 ≤ 16)
    (hring : fld v 9 12 = (s.queue (s.fn fn).qsel).ring ∨ fld v 0 5 ≠ (s.queue (s.fn fn).qsel).log2 ∨
      ((s.ring (s.queue (s.fn fn).qsel).ring).waiting = [] ∧ (s.ring (fld v 9 12)).waiting = [])) :
    s.writeQcfg fn v = s.setQueue (s.fn fn).qsel
      (if fld v 0 5 = (s.queue (s.fn fn).qsel).log2 then
         { s.queue (s.fn fn).qsel with enable := v.testBit 5, part := fld v 6 3, ring := fld v 9 12 }
       else { s.queue (s.fn fn).qsel with log2 := fld v 0 5, enable := v.testBit 5, part := fld v 6 3, ring := fld v 9 12, head := 0,
                                          tail := 0, overrun := 0, kept := [] }) := by
  have hen := Queue.enable_of_quiescent hq
  have hrange : ¬(fld v 0 5 < 6 ∨ 16 < fld v 0 5 ∨
      (fld v 0 5 ≠ (s.queue (s.fn fn).qsel).log2 ∧ (!(s.queue (s.fn fn).qsel).quiescent) = true)) := by
    rw [hq]
    simp only [Bool.not_true, Bool.false_eq_true, and_false, or_false]
    omega
  simp only [State.writeQcfg, hpf, hen, if_neg hrange, Bool.not_true, Bool.false_and, Bool.false_eq_true, if_false, if_true]
  by_cases hlog : fld v 0 5 = (s.queue (s.fn fn).qsel).log2
  · simp only [hlog, ne_eq, not_true_eq_false, if_false, if_true]
    split
    · rfl
    · next hne =>
      obtain ⟨hold, hnew⟩ := (hring.resolve_left hne).resolve_left (not_not_intro hlog)
      exact State.moveWaiting_of_none (s := s.setQueue _ _) hs hold hnew
  · simp only [ne_eq, hlog, not_false_eq_true, if_true, if_false]

/-- While ENABLE is 1 a write takes ENABLE alone (notes/assumptions/30). -/
theorem State.writeQcfg_enabled (hen : (s.queue (s.fn fn).qsel).enable = true) (hlog : fld v 0 5 = (s.queue (s.fn fn).qsel).log2)
    (hlo : 6 ≤ fld v 0 5) (hhi : fld v 0 5 ≤ 16) :
    s.writeQcfg fn v = s.setQueue (s.fn fn).qsel { s.queue (s.fn fn).qsel with enable := v.testBit 5 } := by
  have hrange : ¬(fld v 0 5 < 6 ∨ 16 < fld v 0 5 ∨
      (fld v 0 5 ≠ (s.queue (s.fn fn).qsel).log2 ∧ (!(s.queue (s.fn fn).qsel).quiescent) = true)) := by omega
  simp only [State.writeQcfg, hpf, hen, if_neg hrange, Bool.not_true, Bool.false_and, Bool.false_eq_true, if_false, if_true]

end Qcfg

/-! ### Completion rings configured (R41) -/

section Ccfg
variable {s : State} {fn v : Nat}

theorem State.writeRing_base {reg : Nat} (hreg : reg < 2) (hen : (s.ring (s.fn fn).csel).enable = false) :
    s.writeRing fn reg v = s.setRing (s.fn fn).csel
      { s.ring (s.fn fn).csel with base := newBase (s.ring (s.fn fn).csel).base (reg == 1) v, head := 0, tail := 0, phase := true } := by
  obtain rfl | rfl : reg = 0 ∨ reg = 1 := by omega
  · exact if_neg (by simp [hen])
  · exact if_neg (by simp [hen])

variable (hs : Tbl.wf {} s.rings = true) (hwait : (s.ring (s.fn fn).csel).waiting = []) (hlo : 6 ≤ fld v 0 5) (hhi : fld v 0 5 ≤ 16)
include hs hwait hlo hhi

theorem State.writeRing_enabled (hen : (s.ring (s.fn fn).csel).enable = true) :
    s.writeRing fn 2 v = s.setRing (s.fn fn).csel
      { s.ring (s.fn fn).csel with enable := v.testBit 5, msix := fld v 6 11, owner := fn } := by
  have hrange : ¬(fld v 0 5 < 6 ∨ 16 < fld v 0 5) := by omega
  simp only [State.writeRing, if_neg hrange, hen, if_true]
  exact State.drainRing_setRing hs hwait

theorem State.writeRing_disabled (hen : (s.ring (s.fn fn).csel).enable = false) :
    s.writeRing fn 2 v = s.setRing (s.fn fn).csel
      (if fld v 0 5 = (s.ring (s.fn fn).csel).log2 then
         { s.ring (s.fn fn).csel with enable := v.testBit 5, msix := fld v 6 11, owner := fn }
       else { s.ring (s.fn fn).csel with log2 := fld v 0 5, enable := v.testBit 5, msix := fld v 6 11, owner := fn, head := 0, tail := 0,
                                         phase := true }) := by
  have hrange : ¬(fld v 0 5 < 6 ∨ 16 < fld v 0 5) := by omega
  simp only [State.writeRing, if_neg hrange, hen, Bool.false_eq_true, if_false]
  split
  · exact State.drainRing_setRing hs hwait
  · exact State.drainRing_setRing hs hwait

end Ccfg

/-- Settles O18: each register's write, as a physical function makes it. -/
theorem queuesAndRingsConfigured : Obligations.QueuesAndRingsConfigured := by
  unfold Obligations.QueuesAndRingsConfigured
  intro fn v s hfn hpf hup hv hs q u c r
  have hqcfg : exec (.mgtQcfg fn v) s = .next (s.writeQcfg fn v) := by
    rw [← State.regWrite_qcfg hpf hup]
    exact answer_of_wf (by simpa [Instr.wf, hfn, fits32] using hv) _
  have hqbase (hi : Bool) : exec (.mgtQbase fn hi v) s = .next (s.writeQbase fn hi v) := by
    rw [← State.regWrite_qbase hpf hup]
    exact answer_of_wf (by simpa [Instr.wf, hfn, fits32] using hv) _
  have hccfg : exec (.mgtCcfg fn 2 v) s = .next (s.writeRing fn 2 v) := by
    rw [← State.regWrite_ccfg hpf hup]
    exact answer_of_wf (by simpa [Instr.wf, hfn, fits32] using hv) _
  refine ⟨fun hquiet hlo hhi hring => ?_, fun hen hlog hlo hhi => ?_, fun hi hquiet => ?_, fun hi hbusy => ?_, fun reg hreg hen => ?_,
    fun hen hwait hlo hhi => ?_, fun hen hwait hlo hhi => ?_⟩
  · rw [hqcfg, State.writeQcfg_quiescent hpf hs.rings hquiet hlo hhi hring]
  · rw [hqcfg, State.writeQcfg_enabled hpf hen hlog (hlog ▸ hlo) (hlog ▸ hhi)]
  · exact (hqbase hi).trans (congrArg Host.Outcome.next (if_neg (by simp [u, q] at hquiet; simp [hquiet])))
  · exact (hqbase hi).trans (congrArg Host.Outcome.next (if_pos (by simp [u, q] at hbusy; simp [hbusy])))
  · have hcbase : exec (.mgtCcfg fn reg v) s = .next (s.writeRing fn reg v) := by
      rw [← State.regWrite_cbase hpf hup hreg]
      exact answer_of_wf (by simp [Instr.wf, hfn, fits32]; omega) _
    rw [hcbase, State.writeRing_base hreg hen]
  · rw [hccfg, State.writeRing_enabled hs.rings hwait hlo hhi hen]
  · rw [hccfg, State.writeRing_disabled hs.rings hwait hlo hhi hen]

end Sys2Proof.Machine
end

section
/-! How a packet that waits at the front of its queue starts (R47, R48, R63, R302). -/

namespace Sys2Proof.Machine

/-! ### The packet at the front of a queue (R47) -/

theorem frontOf_fetched {before before' : List Packet} {k : Packet} {l : List Packet} (h : frontOf before l = some (before', k)) :
    k.phase = .fetched := by
  induction l generalizing before with
  | nil => cases h
  | cons e r ih =>
    simp only [frontOf] at h
    split at h
    · next he => cases h; exact he
    · exact ih h

theorem State.front_fetched {s : State} {q : Nat} {before : List Packet} {k : Packet} (h : s.front q = some (before, k)) :
    k.phase = .fetched := frontOf_fetched h

/-- R47: while a fence or the time holds it back, the packet at the front does not start. -/
theorem packetStart_held {s : State} {q : Nat} {before : List Packet} {k : Packet} (hfront : s.front q = some (before, k))
    (hheld : fenceMet before k = false ∨ s.mtime < k.notBefore) : packetStart s q = s := by
  have hbar (c d : Prop) : (!fenceMet before k) = true ∨ s.mtime < k.notBefore ∨ c ∨ d := by
    rcases hheld with h | h
    · exact .inl (by rw [h]; rfl)
    · exact .inr (.inl h)
  simp only [packetStart, hfront]
  split
  · rfl
  · exact if_pos (hbar _ _)

/-- R47, R49, R453: a packet that waits for no semaphore, and whose block is read, is judged as soon as its conditions hold. -/
theorem packetStart_met {s : State} {q : Nat} {before : List Packet} {k : Packet} (h : s.MayStart q before k)
    (hwait : k.flags.testBit 0 = false) (hpkt : s.pkt k.id = some (q, k)) : packetStart s q = s.judgeStart q k := by
  obtain ⟨hfront, halert, hhalt, hfence, htime, hind, hreqs, htarget, hpower⟩ := h
  have hgo : ¬((!fenceMet before k) = true ∨ s.mtime < k.notBefore ∨
      (((k.flags.testBit 0 && isHost k.waitAddr) || k.indirect.any isHost) = true ∧ (!s.hostPath q) = true) ∨
      s.fab.reqs.any (fun r => r.pkt == k.id) = true) := by
    simp only [hfence, hreqs, hwait, hind, Option.any_none, Bool.not_true, Bool.false_eq_true, Bool.false_and, Bool.or_self, false_and,
      false_or, or_false]
    omega
  have hlive : ¬(s.pkt k.id).all (fun r => r.2.phase = .finished ∨ (k.flags.testBit 0 ∧ !r.2.semOk)) = true := by
    simp [hpkt, State.front_fetched hfront, hwait]
  have hnow : ¬(s.power.target.any (fun x => x.1 != .active && powerCovers x.1 k.opcode (s.ctx k.ctx).engines)) = true := by
    rw [htarget]
    exact Bool.false_ne_true
  have hsem : ¬(k.flags.testBit 0 && !(k.semOk && s.isPeer k.waitAddr)) = true := by simp [hwait]
  simp only [packetStart, halert, hhalt, Bool.or_self, Bool.false_eq_true, if_false, hfront]
  rw [if_neg hgo, if_neg hsem, if_neg hlive, if_neg hnow, hpower, hind]
  rfl

/-! ### The start -/

/-- R302: a packet that holds a stream mover is given no other. -/
theorem State.giveMover_of_isSome {s : State} {q : Nat} {k : Packet} (h : k.mover.isSome = true) (e : Nat) : s.giveMover q k e = s := if_pos h

/-- What a packet is once it has started outside any step's part (R63, R118, R216). -/
def State.startedAs (s : State) (q : Nat) (k : Packet) : Packet :=
  { k with phase := .started, startSeq := s.nextSeq + 1, startMt := s.mtime, unit := s.unitOf q k,
           run := { k.run with role := .ordinary, seed := if (s.ctx k.ctx).stepState.isOpen then (s.ctx k.ctx).seed else 0,
                               step := if (s.ctx k.ctx).stepState.isOpen then (s.ctx k.ctx).step else 0 } }

theorem State.startPkt_ordinary_pkt {s : State} {q : Nat} {k : Packet} (hpkt : s.pkt k.id = some (q, k)) (hop : k.opcode ≠ 0x0702) :
    (s.startPkt q k .ordinary).pkt k.id = some (q, s.startedAs q k) := by
  simp only [State.startPkt, if_neg hop]
  rw [State.modPkt_pkt (by intro _ h; exact h)]
  have hpkt' : State.pkt { s with nextSeq := s.nextSeq + 1 } k.id = some (q, k) := hpkt
  rw [hpkt']
  simp [State.startedAs]

/-- A start touches the packets and the count of starts alone. -/
theorem State.startPkt_ordinary_eq (s : State) (q : Nat) {k : Packet} (hop : k.opcode ≠ 0x0702) :
    ∃ qs, s.startPkt q k .ordinary = { s with nextSeq := s.nextSeq + 1, queues := qs } := by
  simp only [State.startPkt, if_neg hop]
  exact ⟨_, rfl⟩

theorem State.giveMover_pkt {s : State} {q e : Nat} {k j : Packet} (hk : k.mover = none) (hpkt : s.pkt k.id = some (q, j)) :
    (s.giveMover q k e).pkt k.id = some (q, { j with mover := some e }) := by
  simp only [State.giveMover, hk, Option.isSome_none, Bool.false_eq_true, if_false]
  rw [State.modPkt_pkt (by intro _ h; exact h)]
  have hkeep (t : State) (n : Tbl Nat) (h : t.queues = s.queues) : State.pkt { t with moverLast := n } k.id = s.pkt k.id :=
    congrArg (fun qs => findPkt qs k.id) h
  rw [hkeep, hpkt]
  · rfl
  · split <;> rfl

/-- A packet that takes a stream mover touches what its engine keeps of it, and itself. -/
theorem State.giveMover_eq (s : State) (q e : Nat) (k : Packet) :
    ∃ qs es ml, s.giveMover q k e = { s with queues := qs, engines := es, moverLast := ml } := by
  simp only [State.giveMover]
  (repeat' split) <;> exact ⟨_, _, _, rfl⟩

/-- R302: the stream mover that a packet holds once it has started. -/
def State.moverAtStart (s : State) (k : Packet) : Option Nat := if isMover k.opcode = true ∧ k.mover = none then s.freeMover k else k.mover

/-- R47, R63, R302: a packet that passes its checks starts, and takes the stream mover that is free for it, if it needs one. -/
theorem State.judgeStart_ordinary {s : State} {q : Nat} {k : Packet} (hcheck : s.startCheck q k = none) (hlist : k.opcode ≠ opTasklist)
    (hcreate : k.opcode ≠ 0x0701) :
    (s.judgeStart q k = s.startPkt q k .ordinary ∧ s.moverAtStart k = k.mover) ∨
      ∃ e, s.judgeStart q k = (s.startPkt q k .ordinary).giveMover q k e ∧ k.mover = none ∧ s.moverAtStart k = some e ∧
        isMover k.opcode = true ∧ s.freeMover k = some e := by
  have hjudge : s.judgeStart q k = (if isMover k.opcode then s.freeMover k else none).elim (s.startPkt q k .ordinary)
      ((s.startPkt q k .ordinary).giveMover q k) := by
    simp only [State.judgeStart, hcreate, false_and, if_false, hcheck, if_neg hlist]
    cases (if isMover k.opcode then s.freeMover k else none) <;> rfl
  by_cases hmover : isMover k.opcode = true
  · cases hfree : s.freeMover k with
    | none => exact .inl ⟨by simp [hjudge, hmover, hfree], by simp +contextual [State.moverAtStart, hfree]⟩
    | some e =>
      cases hk : k.mover with
      | none => exact .inr ⟨e, by simp [hjudge, hmover, hfree], rfl, by simp [State.moverAtStart, hmover, hk, hfree], hmover, rfl⟩
      | some m =>
        have hheld : k.mover.isSome = true := by rw [hk]; rfl
        exact .inl ⟨by simp [hjudge, hmover, hfree, State.giveMover_of_isSome hheld], by simp [State.moverAtStart, hk]⟩
  · exact .inl ⟨by simp [hjudge, hmover], by simp [State.moverAtStart, hmover]⟩

/-- Settles O13: the start of a packet whose conditions hold, what holds one back, and the time it waits for. -/
theorem packetStartsWhenMet : Obligations.PacketStartsWhenMet := by
  unfold Obligations.PacketStartsWhenMet
  refine ⟨fun q before k s hq hstart hwait hpkt hcheck hlist hcreate hdestroy => ?_, fun q before k s hq hfront hheld => ?_,
    fun q before k s hq hfront => ?_⟩
  · have hexec : exec (.packetStart q) s = .next (s.judgeStart q k) := by
      rw [← packetStart_met hstart hwait hpkt]
      exact answer_of_wf (c := .packetStart q) hq _
    have hp := State.startPkt_ordinary_pkt hpkt hdestroy
    obtain ⟨qs, hstarted⟩ := s.startPkt_ordinary_eq q hdestroy
    rcases State.judgeStart_ordinary (q := q) hcheck hlist hcreate with ⟨hjudge, hmover⟩ | ⟨e, hjudge, hk, hmover, hneeds, hfree⟩
    · refine ⟨_, hexec.trans (congrArg _ hjudge), by rw [hstarted], hp.trans ?_, by rw [hstarted], fun _ => by rw [hstarted]; exact ⟨rfl, rfl⟩⟩
      exact congrArg (fun m => some (q, { s.startedAs q k with mover := m })) hmover.symm
    · obtain ⟨qs', es, ml, hgiven⟩ := (s.startPkt q k .ordinary).giveMover_eq q e k
      refine ⟨_, hexec.trans (congrArg _ hjudge), by rw [hgiven, hstarted], (State.giveMover_pkt hk hp).trans ?_, by rw [hgiven, hstarted],
        fun hnone => absurd hnone (by simp [hneeds, hfree])⟩
      exact congrArg (fun m => some (q, { s.startedAs q k with mover := m })) hmover.symm
  · rw [← congrArg Host.Outcome.next (packetStart_held hfront hheld)]
    exact answer_of_wf (c := .packetStart q) hq _
  · have hmoves : Sys2Proof.Machine.notBefore s q = s.at k.notBefore := by rw [Sys2Proof.Machine.notBefore, hfront]
    rw [← hmoves]
    exact answer_of_wf (c := .mtimeNotBefore q) hq _

end Sys2Proof.Machine
end

section
/-! COUNTERS_READ where the record of an error that its store meets is owed to a home that holds the error ring (R21, R312, R335). -/

namespace Sys2Proof.Machine

/-- A started COUNTERS_READ of context 0 whose block goes to offset 0 of the module's memory. -/
def heldRingPacket : Packet :=
  { id := 1, opcode := 0x0801, params := toLe 8 (0xFFF0 * 2 ^ 48) ++ toLe 8 0, plen := 16, phase := .started, startSeq := 1 }

/-- The module after reset with that packet, a mask armed for the cache of die 0 (R335), and the error ring enabled in memory of stack 1,
which is in protective self-refresh (R312): the record of the injected error is owed to that stack (R21). -/
def heldRingState : State :=
  { State.reset with
    queues := [(0, { enable := true, pkts := [heldRingPacket] })], nextPkt := 2, nextSeq := 1
    stackTbl := [(1, { protect := true })]
    ecc := { armed := true, cls := 1, checkMask := 1, ring := { enable := true, base := 0xFFF0 * 2 ^ 48 + 8192 } } }

/-- Refutes O37: a store can leave more than memory and fabric changed, since a record of an error that it meets is owed to the home
that holds the error ring. -/
theorem not_countersAndPolicy : ¬ Obligations.CountersAndPolicy := by
  unfold Obligations.CountersAndPolicy
  rintro ⟨hread, -⟩
  obtain ⟨-, -, -, hstored⟩ := hread 1 0 heldRingPacket heldRingState (by decide +kernel)
  obtain ⟨-, -, hframe⟩ := hstored (by decide +kernel) (fun _ => by decide +kernel) (by decide +kernel)
  exact absurd (congrArg State.owed hframe) (by decide +kernel)

end Sys2Proof.Machine
end

section
/-! PROOFS. What the operations on memory, ports and messages leave unchanged: all that the front office of the module keeps. -/

namespace Sys2Proof.Machine

/-- What accesses leave as it was: the state without its memory system and its fabric, and without what is owed to homes that hold it. -/
def State.office (s : State) : State := { s.besidesIo with owed := [] }

@[simp] theorem State.office_mk (s : State) (free fns msix mem sp host owed caches copies stackCk ecc memRing chans stackTbl fab) :
    (State.mk s.order s.cores s.mtime s.pending free s.nextPkt s.nextSeq s.queues s.rings fns s.reply msix s.parts s.regions s.ctxs s.clients
      s.engines s.units s.moverLast s.unitLast s.items mem sp s.spLost host s.noAtomics s.held s.late owed s.locks caches copies stackCk ecc
      memRing s.lcShare chans stackTbl s.groups fab s.feeds s.toks s.sessions s.media s.ctrl s.power).office = s.office := (rfl)

@[simp] theorem State.ite_office (c : Prop) [Decidable c] (s t : State) :
    (if c then s else t).office = if c then s.office else t.office := apply_ite ..

@[simp] theorem foldl_office {α : Type} (f : State → α → State) (l : List α) (s : State)
    (h : ∀ s a, (f s a).office = s.office) : (l.foldl f s).office = s.office := foldl_keeps _ _ h _ _

@[simp] theorem foldl_office_fst {α β : Type} (f : State × β → α → State × β) (l : List α) (r : State × β)
    (h : ∀ r a, (f r a).1.office = r.1.office) : (l.foldl f r).1.office = r.1.office :=
  foldl_keeps (fun r : State × β => r.1.office) _ h _ _

def Log.KeepsOffice (w : Log) : Prop := ∀ s g bs v, (w s g bs v).office = s.office

/-! ### Ops -/

@[simp] theorem State.setFn_office (s : State) (f v) : (s.setFn f v).office = s.office := by simp [State.setFn]
@[simp] theorem State.setChan_office (s : State) (c v) : (s.setChan c v).office = s.office := by simp [State.setChan]
@[simp] theorem State.setStack_office (s : State) (k v) : (s.setStack k v).office = s.office := by simp [State.setStack]
@[simp] theorem State.setPort_office (s : State) (n v) : (s.setPort n v).office = s.office := by simp [State.setPort]
@[simp] theorem State.drew_office (s : State) : s.drew.office = s.office := by simp [State.drew]
@[simp] theorem State.dropLanded_office (s : State) (p) : (s.dropLanded p).office = s.office := by simp [State.dropLanded]

@[simp] theorem State.dropTaskData_office (s : State) (p i) : (s.dropTaskData p i).office = s.office := by
  simp [State.dropTaskData]


@[simp] theorem State.touchUnit_office (s : State) (p) : (s.touchUnit p).office = s.office := by simp [State.touchUnit]

@[simp] theorem State.formSp_office (s : State) (w) : (s.formSp w).office = s.office := by
  unfold State.formSp
  split <;> simp

@[simp] theorem State.irq_office (s : State) (fn vec) : (s.irq fn vec).office = s.office := by simp [State.irq]

@[simp] theorem State.setHost_office (s : State) (a bs) : (s.setHost a bs).office = s.office := by
  induction bs generalizing s a with
  | nil => rfl
  | cons b r ih => simp [State.setHost, ih]

@[simp] theorem State.unexempt_office (s : State) (w) : (s.unexempt w).office = s.office := by simp [State.unexempt]
@[simp] theorem State.putWord_office (s : State) (p bs) : (s.putWord p bs).office = s.office := by simp [State.putWord]
@[simp] theorem State.modLine_office (s : State) (p f) : (s.modLine p f).office = s.office := by simp [State.modLine]
@[simp] theorem State.dropCopies_office (s : State) (line) : (s.dropCopies line).office = s.office := by simp [State.dropCopies]

@[simp] theorem State.keepCopy_office (s t : State) (w) : (s.keepCopy t w).office = t.office := by
  unfold State.keepCopy
  split <;> simp

@[simp] theorem State.stackUsed_office (s : State) (p) : (s.stackUsed p).office = s.office := by simp [State.stackUsed]
@[simp] theorem State.owe_office (s : State) (o) : (s.owe o).office = s.office := by simp [State.owe]

section EventLogs
variable {w : Log} (hw : w.KeepsOffice)
include hw

@[simp] theorem Log.put_office (s : State) (r rec) : (w.put s r rec).office = s.office := hw _ _ _ _

@[simp] theorem Log.memEvent_office (s : State) (kind stack chan eflags row spares) :
    (w.memEvent s kind stack chan eflags row spares).office = s.office := by simp [Log.memEvent, hw]

@[simp] theorem Log.eccEvent_office (s : State) (kind cls eflags index synd addr ctx count) :
    (w.eccEvent s kind cls eflags index synd addr ctx count).office = s.office := by simp [Log.eccEvent, hw]

@[simp] theorem Log.releaseCe_office (s : State) (key) : (w.releaseCe s key).office = s.office := by
  unfold Log.releaseCe
  split <;> simp [hw]

@[simp] theorem Log.corrected_office (s : State) (cls eflags index synd addr ctx) :
    (w.corrected s cls eflags index synd addr ctx).office = s.office := by simp [Log.corrected, hw]

@[simp] theorem Log.uncorrectable_office (s : State) (cls eflags index synd addr ctx) :
    (w.uncorrectable s cls eflags index synd addr ctx).office = s.office := by simp [Log.uncorrectable, hw]

@[simp] theorem Log.startRetire_office (s : State) (ch) : (w.startRetire s ch).office = s.office := by simp [Log.startRetire, hw]
@[simp] theorem Log.spareRow_office (s : State) (p) : (w.spareRow s p).office = s.office := by simp [Log.spareRow, hw]

@[simp] theorem Log.listCorrected_office (s : State) (p) : (w.listCorrected s p).office = s.office := by
  simp [Log.listCorrected, hw]

@[simp] theorem Log.fired_office (s : State) (word addr ctx ck) : (w.fired s word addr ctx ck).office = s.office := by
  simp [Log.fired, hw]

@[simp] theorem Log.inject_office (s : State) (cls index word addr ctx sp) :
    (w.inject s cls index word addr ctx sp).office = s.office := by simp [Log.inject, hw]

@[simp] theorem Log.arrayWrite_office (s : State) (word ctx) : (w.arrayWrite s word ctx).office = s.office := by
  simp [Log.arrayWrite, hw]

@[simp] theorem Log.outWord_office (s : State) (word) : (w.outWord s word).office = s.office := by
  unfold Log.outWord
  split <;> simp [hw]

@[simp] theorem Log.writeBack_office (s : State) (line) : (w.writeBack s line).office = s.office := by simp [Log.writeBack, hw]

@[simp] theorem Log.cacheLine_office (s : State) (part p alloc) : (w.cacheLine s part p alloc).2.office = s.office := by
  unfold Log.cacheLine
  dsimp only
  (repeat' split) <;> simp [hw]

@[simp] theorem Log.injectCache_office (s : State) (p ctx dirty) : (w.injectCache s p ctx dirty).office = s.office := by
  simp [Log.injectCache, hw]

@[simp] theorem Log.wordRead_office (s : State) (word ctx eflags) : (w.wordRead s word ctx eflags).office = s.office := by
  unfold Log.wordRead
  split <;> simp [hw]

@[simp] theorem Log.stackRead_office (s : State) (word eflags) : (w.stackRead s word eflags).office = s.office := by
  unfold Log.stackRead
  (repeat' split) <;> simp [hw]

@[simp] theorem Log.fillLine_office (s : State) (p ctx) : (w.fillLine s p ctx).office = s.office := by simp [Log.fillLine, hw]

@[simp] theorem Log.dropBad_office (s : State) (p n ctx) : (w.dropBad s p n ctx).office = s.office := by
  unfold Log.dropBad
  (repeat' split) <;> simp [hw]

@[simp] theorem Log.wordWrite_office (s : State) (p ctx bs) : (w.wordWrite s p ctx bs).office = s.office := by
  unfold Log.wordWrite
  dsimp only
  (repeat' split) <;> simp [hw]

@[simp] theorem Log.soilLine_office (s : State) (p n ctx) : (w.soilLine s p n ctx).office = s.office := by simp [Log.soilLine, hw]

@[simp] theorem Log.lineWrite_office (s : State) (part ctx p nc bs) : (w.lineWrite s part ctx p nc bs).office = s.office := by
  simp [Log.lineWrite, hw]

@[simp] theorem Log.poke_office (s : State) (a g bs) : (w.poke s a g bs).office = s.office := by simp [Log.poke, hw]

end EventLogs

@[simp] theorem State.pokeMem_office (s : State) (part off bs) : (s.pokeMem part off bs).office = s.office := by
  simp [State.pokeMem]

theorem logAt_keepsOffice : ∀ n, (logAt n).KeepsOffice
  | 0 => by intro s g bs v; simp [logAt]
  | n + 1 => by
    intro s g bs v
    have := logAt_keepsOffice n
    simp [logAt, this]

@[simp] theorem records_keepsOffice : records.KeepsOffice := logAt_keepsOffice 3

@[simp] theorem State.memEvent_office (s : State) (kind stack chan eflags row spares) :
    (s.memEvent kind stack chan eflags row spares).office = s.office := by simp [State.memEvent]

@[simp] theorem State.eccEvent_office (s : State) (kind cls eflags index synd addr ctx count) :
    (s.eccEvent kind cls eflags index synd addr ctx count).office = s.office := by simp [State.eccEvent]

@[simp] theorem State.corrected_office (s : State) (cls eflags index synd addr ctx) :
    (s.corrected cls eflags index synd addr ctx).office = s.office := by simp [State.corrected]

@[simp] theorem State.uncorrectable_office (s : State) (cls eflags index synd addr ctx) :
    (s.uncorrectable cls eflags index synd addr ctx).office = s.office := by simp [State.uncorrectable]

@[simp] theorem State.startRetire_office (s : State) (ch) : (s.startRetire ch).office = s.office := by simp [State.startRetire]
@[simp] theorem State.writeBack_office (s : State) (line) : (s.writeBack line).office = s.office := by simp [State.writeBack]

@[simp] theorem State.wordRead_office (s : State) (w ctx eflags) : (s.wordRead w ctx eflags).office = s.office := by
  simp [State.wordRead]

@[simp] theorem State.stackRead_office (s : State) (w eflags) : (s.stackRead w eflags).office = s.office := by
  simp [State.stackRead]

@[simp] theorem State.lineWrite_office (s : State) (part ctx p nc bs) : (s.lineWrite part ctx p nc bs).office = s.office := by
  simp [State.lineWrite]

@[simp] theorem State.poke_office (s : State) (part g bs) : (s.poke part g bs).office = s.office := by simp [State.poke]
@[simp] theorem State.releaseAll_office (s : State) : s.releaseAll.office = s.office := by simp [State.releaseAll]

@[simp] theorem State.spWordRead_office (s : State) (w ctx) : (s.spWordRead w ctx).office = s.office := by
  unfold State.spWordRead
  split <;> simp

@[simp] theorem State.noteRead_office (s : State) (part ctx r) : (s.noteRead part ctx r).office = s.office := by
  unfold State.noteRead
  grind [State.drew_office, State.spWordRead_office, Log.cacheLine_office, State.stackUsed_office, Log.injectCache_office,
    Log.fillLine_office, Log.dropBad_office, State.wordRead_office, records_keepsOffice, foldl_office]

@[simp] theorem State.noteReads_office (s : State) (a l) :
    (s.noteReads a l).office = s.office := foldl_office _ _ _ fun t r => t.noteRead_office a.part a.ctx r

@[simp] theorem State.reading_office {α : Type} (s : State) (a) (r : Rd α) : (s.reading a r).2.office = s.office :=
  s.noteReads_office a _

@[simp] theorem State.homeRead_office {α : Type} (s : State) (a) (r : Rd α) : (s.homeRead a r).2.office = s.office :=
  s.noteReads_office a _

@[simp] theorem State.pumpPort_office (s : State) (n) : (s.pumpPort n).office = s.office := by simp [State.pumpPort]

@[simp] theorem State.burst_office (s : State) (n) : (s.burst n).2.office = s.office := by
  unfold State.burst
  dsimp only
  (repeat' split) <;> simp

@[simp] theorem State.transmit_office (s : State) (n k) : (s.transmit n k).office = s.office := by simp [State.transmit]

theorem State.request_office (s : State) (kind pkt part g len tag hdr data task drift land sem) (t : State) :
    s.request kind pkt part g len tag hdr data task drift land sem = .ok t → t.office = s.office := by
  unfold State.request
  grind [State.transmit_office, State.office_mk]

@[simp] theorem State.issueNext_office (s : State) (n) : (s.issueNext n).office = s.office := by
  unfold State.issueNext
  (repeat' split) <;> simp

@[simp] theorem State.dropReqs_office (s : State) (sel) : (s.dropReqs sel).office = s.office := by simp [State.dropReqs]

theorem State.askRead_office (s : State) (part pkt g n task sem) (t : State) :
    s.askRead part pkt g n task sem = .ok t → t.office = s.office := by
  unfold State.askRead
  grind [State.request_office]

theorem State.sendWrite_office (s : State) (part pkt g bs task) (t : State) :
    s.sendWrite part pkt g bs task = .ok t → t.office = s.office := by
  unfold State.sendWrite
  grind [State.request_office]

theorem State.storePiece_office (s : State) (a g bs) (t : State) : s.storePiece a g bs = .ok t → t.office = s.office := by
  unfold State.storePiece
  grind [State.setHost_office, State.sendWrite_office, State.lineWrite_office]

@[simp] theorem State.store_office (s : State) (a g bs) :
    (s.store a g bs).1.office = s.office := foldl_office_fst _ _ _ fun r c => by grind [State.storePiece_office]

@[simp] theorem State.spWrite_office (s : State) (p ctx bs) : (s.spWrite p ctx bs).office = s.office := by simp [State.spWrite]

@[simp] theorem State.storeAt_office (s : State) (a g bs) : (s.storeAt a g bs).1.office = s.office := by
  unfold State.storeAt
  split <;> simp

@[simp] theorem State.storeAll_office (s : State) (a l) :
    (s.storeAll a l).1.office = s.office := foldl_office_fst _ _ _ fun r c => by split <;> simp

theorem State.addAt_office (s : State) (a g v drift) (t : State) : s.addAt a g v drift = .ok t → t.office = s.office := by
  unfold State.addAt
  grind [State.setHost_office, State.request_office, State.lineWrite_office, State.noteRead_office]

theorem State.signal_office (s : State) (a g) (t : State) : s.signal a g = .ok t → t.office = s.office := by
  unfold State.signal
  grind [State.addAt_office]

@[simp] theorem State.addTrace_office (s : State) (a g n) : (s.addTrace a g n).office = s.office := by
  unfold State.addTrace
  split <;> simp

@[simp] theorem State.signalQuiet_office (s : State) (a g) : (s.signalQuiet a g).office = s.office := by
  unfold State.signalQuiet
  grind [State.signal_office, State.owe_office, State.addTrace_office]

@[simp] theorem State.pay_office (s : State) (o) : (s.pay o).office = s.office := by
  unfold State.pay
  grind [State.addAt_office, State.owe_office, State.addTrace_office, State.irq_office, Log.poke_office, records_keepsOffice]

@[simp] theorem State.payOwed_office (s : State) : s.payOwed.office = s.office := by simp [State.payOwed]

@[simp] theorem State.message_office (s : State) (typ dest hdr data mseqAt) :
    (s.message typ dest hdr data mseqAt).office = s.office := by
  unfold State.message
  dsimp only
  (repeat' split) <;> simp

@[simp] theorem State.groupMsg_office (s : State) (dest sub gid step attempt rank arg data) :
    (s.groupMsg dest sub gid step attempt rank arg data).office = s.office := by simp [State.groupMsg]

@[simp] theorem State.respond_office (s : State) (port dest tag status rkind value detail data part) :
    (s.respond port dest tag status rkind value detail data part).office = s.office := by
  unfold State.respond
  dsimp only
  (repeat' split) <;> simp

@[simp] theorem State.report_office (s : State) (n again) : (s.report n again).office = s.office := by simp [State.report]

@[simp] theorem State.arrive_office (s : State) (n via v flits) : (s.arrive n via v flits).2.office = s.office := by
  unfold State.arrive
  dsimp only
  (repeat' split) <;> simp

@[simp] theorem State.noteMsg_office (s : State) (n) : (s.noteMsg n).office = s.office := by simp [State.noteMsg]

end Sys2Proof.Machine
end

section
/-! PROOFS. The order of the queues and of their packets' numbers (R36), and what keeps it. -/

namespace Sys2Proof

theorem Tbl.rising_of_wfFrom {α : Type} [DecidableEq α] {d : α} {t : Tbl α} : ∀ {lo : Nat}, Tbl.wfFrom d lo t = true →
    (∀ k ∈ t.map Prod.fst, lo ≤ k) ∧ (t.map Prod.fst).Pairwise (· < ·) := by
  induction t with
  | nil => exact fun _ => ⟨fun _ h => absurd h List.not_mem_nil, .nil⟩
  | cons e t ih =>
    obtain ⟨k, v⟩ := e
    intro lo h
    simp only [Tbl.wfFrom, Bool.and_eq_true, decide_eq_true_eq] at h
    obtain ⟨⟨hlo, -⟩, ht⟩ := h
    obtain ⟨habove, hrising⟩ := ih ht
    refine ⟨fun n hn => ?_, List.pairwise_cons.mpr ⟨fun n hn => habove n hn, hrising⟩⟩
    rcases List.mem_cons.mp hn with rfl | hn
    · exact hlo
    · have := habove n hn
      omega

theorem Tbl.rising_of_wf {α : Type} [DecidableEq α] {d : α} {t : Tbl α} (h : Tbl.wf d t = true) : (t.map Prod.fst).Pairwise (· < ·) :=
  (Tbl.rising_of_wfFrom h).2

theorem Tbl.get_mem_or {α : Type} (d : α) (t : Tbl α) (n : Nat) : Tbl.get d t n = d ∨ (n, Tbl.get d t n) ∈ t := by
  induction t with
  | nil => exact .inl rfl
  | cons e t ih =>
    obtain ⟨k, w⟩ := e
    by_cases hk : n = k
    · exact .inr (by simp [Tbl.get, hk])
    · simpa [Tbl.get, hk] using ih

theorem Tbl.mem_of_mem_set {α : Type} [DecidableEq α] {d : α} {t : Tbl α} {n : Nat} {v : α} {e : Nat × α} (h : e ∈ Tbl.set d t n v) :
    e = (n, v) ∨ e ∈ t := by
  induction t with
  | nil => simp only [Tbl.set] at h; grind
  | cons x t ih => simp only [Tbl.set] at h; grind

theorem Tbl.set_rising {α : Type} [DecidableEq α] {d : α} {t : Tbl α} (h : (t.map Prod.fst).Pairwise (· < ·)) (n : Nat) (v : α) :
    ((Tbl.set d t n v).map Prod.fst).Pairwise (· < ·) := by
  induction t with
  | nil => simp only [Tbl.set]; split <;> simp
  | cons x t ih =>
    obtain ⟨k, w⟩ := x
    rw [List.map_cons, List.pairwise_cons] at h
    obtain ⟨hk, ht⟩ := h
    have hbelow : n < k → ∀ y ∈ k :: t.map Prod.fst, n < y := fun hn y hy => by
      rcases List.mem_cons.mp hy with rfl | hy
      exacts [hn, hn.trans (hk y hy)]
    simp only [Tbl.set]
    split
    · split
      · exact List.pairwise_cons.mpr ⟨hk, ht⟩
      · exact List.pairwise_cons.mpr ⟨hbelow ‹_›, List.pairwise_cons.mpr ⟨hk, ht⟩⟩
    · split
      · split
        · exact ht
        · exact List.pairwise_cons.mpr ⟨fun y hy => ‹n = k› ▸ hk y hy, ht⟩
      · refine List.pairwise_cons.mpr ⟨fun y hy => ?_, ih ht⟩
        obtain ⟨e, he, rfl⟩ := List.mem_map.mp hy
        rcases Tbl.mem_of_mem_set he with rfl | he
        · show k < n
          omega
        · exact hk _ (List.mem_map_of_mem he)

end Sys2Proof

namespace Sys2Proof.Machine

/-! ### Edits of packets -/

/-- A packet that has not started has done nothing: what it keeps of a run is its part and its step (R228, R233). -/
def Packet.Idle (k : Packet) : Prop := k.phase = .fetched → k.run = { role := k.run.role, step := k.run.step }

/-- What work makes of a packet: it stays the same packet; one that has not started has done nothing still. -/
structure Packet.Becomes (k k' : Packet) : Prop where
  id   : k'.id = k.id
  idle : k.Idle → k'.Idle

theorem Packet.Becomes.refl (k : Packet) : k.Becomes k := ⟨rfl, fun h => h⟩

/-- Every packet edited. -/
def editAll (f : Packet → Packet) (qs : Tbl Queue) : Tbl Queue := qs.map (fun e => (e.1, { e.2 with pkts := e.2.pkts.map f }))

/-- The numbers of the packets of some queues. -/
def idsOf (qs : Tbl Queue) : List Nat := (qs.flatMap (fun e => e.2.pkts)).map (·.id)

/-- Queues stand by rising number, and every packet's number is its own, below `n`. -/
structure Orderly (qs : Tbl Queue) (n : Nat) : Prop where
  rising : (qs.map Prod.fst).Pairwise (· < ·)
  nodup  : (idsOf qs).Nodup
  below  : ∀ i ∈ idsOf qs, i < n
  idle   : ∀ e ∈ qs, ∀ k ∈ e.2.pkts, k.Idle

theorem State.allPkts_map_id (s : State) : s.allPkts.map (fun r => r.2.id) = idsOf s.queues := by
  simp [State.allPkts, idsOf, List.map_flatMap, Function.comp_def]

theorem State.mem_allPkts {s : State} {r : Nat × Packet} : r ∈ s.allPkts ↔ ∃ e ∈ s.queues, r.1 = e.1 ∧ r.2 ∈ e.2.pkts := by
  simp only [State.allPkts, List.mem_flatMap, List.mem_map]
  constructor
  · rintro ⟨e, he, k, hk, rfl⟩
    exact ⟨e, he, rfl, hk⟩
  · rintro ⟨e, he, h1, h2⟩
    exact ⟨e, he, r.2, h2, by rw [← h1]⟩

theorem State.numbered_iff {s : State} (h : (s.queues.map Prod.fst).Pairwise (· < ·)) : s.Numbered ↔ Orderly s.queues s.nextPkt := by
  have hids : (∀ r ∈ s.allPkts, r.2.id < s.nextPkt) ↔ ∀ i ∈ idsOf s.queues, i < s.nextPkt := by
    rw [← s.allPkts_map_id, List.forall_mem_map]
  have hidle : (∀ r ∈ s.allPkts, r.2.phase = .fetched → r.2.run = { role := r.2.run.role, step := r.2.run.step }) ↔
      ∀ e ∈ s.queues, ∀ k ∈ e.2.pkts, k.Idle := by
    constructor
    · intro hr e he k hk
      exact hr (e.1, k) (State.mem_allPkts.mpr ⟨e, he, rfl, hk⟩)
    · intro hk r hr
      obtain ⟨e, he, -, hr⟩ := State.mem_allPkts.mp hr
      exact hk e he r.2 hr
  rw [State.Numbered, s.allPkts_map_id, hids, hidle]
  exact ⟨fun ⟨h1, h2, h3⟩ => ⟨h, h1, h2, h3⟩, fun ⟨_, h1, h2, h3⟩ => ⟨h1, h2, h3⟩⟩

theorem Orderly.nil (n : Nat) : Orderly [] n := ⟨.nil, .nil, fun _ h => absurd h List.not_mem_nil, fun _ h => absurd h List.not_mem_nil⟩

/-! ### Queues of a table -/

theorem idsOf_cons (e : Nat × Queue) (qs : Tbl Queue) : idsOf (e :: qs) = e.2.pkts.map (·.id) ++ idsOf qs := by simp [idsOf]

/-- The numbers in a table of queues are those of one queue and those of the others, whatever the one holds. -/
theorem idsOf_set {qs : Tbl Queue} (h : (qs.map Prod.fst).Pairwise (· < ·)) (q : Nat) : ∃ l : List Nat,
    (idsOf qs).Perm ((Tbl.get {} qs q).pkts.map (·.id) ++ l) ∧ ∀ v, (idsOf (Tbl.set {} qs q v)).Perm (v.pkts.map (·.id) ++ l) := by
  induction qs with
  | nil =>
    refine ⟨[], .refl _, fun v => ?_⟩
    simp only [Tbl.set]
    split
    next hv => simp [hv, idsOf]
    · simp [idsOf]
  | cons e qs ih =>
    obtain ⟨k, w⟩ := e
    rw [List.map_cons, List.pairwise_cons] at h
    obtain ⟨hk, hqs⟩ := h
    rcases lt_trichotomy q k with hlt | rfl | hgt
    · have hget : Tbl.get {} ((k, w) :: qs) q = {} := by
        refine (Tbl.get_mem_or {} ((k, w) :: qs) q).resolve_right fun hmem => ?_
        rcases List.mem_cons.mp hmem with he | he
        · exact absurd (congrArg Prod.fst he) (by simp; omega)
        · have := hk q (List.mem_map_of_mem (f := Prod.fst) he)
          omega
      refine ⟨idsOf ((k, w) :: qs), by rw [hget]; exact .refl _, fun v => ?_⟩
      by_cases hv : v = {}
      · simp [Tbl.set, hlt, hv]
      · simp [Tbl.set, hlt, hv, idsOf_cons]
    · refine ⟨idsOf qs, by simp [Tbl.get, idsOf_cons], fun v => ?_⟩
      by_cases hv : v = {}
      · simp [Tbl.set, hv]
      · simp [Tbl.set, hv, idsOf_cons]
    · obtain ⟨l, hl, hv⟩ := ih hqs
      have hne : q ≠ k := by omega
      have hswap (a b : List Nat) : (a ++ (b ++ l)).Perm (b ++ (a ++ l)) := by
        rw [← List.append_assoc, ← List.append_assoc]
        exact List.perm_append_comm.append_right l
      refine ⟨w.pkts.map (·.id) ++ l, ?_, fun v => ?_⟩
      · rw [idsOf_cons, Tbl.get, if_neg hne]
        exact (hl.append_left _).trans (hswap ..)
      · rw [Tbl.set, if_neg (by omega), if_neg hne, idsOf_cons]
        exact ((hv v).append_left _).trans (hswap ..)

section Queues
variable {qs : Tbl Queue} {n q : Nat} {v : Queue} (h : Orderly qs n)
include h

theorem Orderly.idle_get {k : Packet} (hk : k ∈ (Tbl.get {} qs q).pkts) : k.Idle := by
  rcases Tbl.get_mem_or {} qs q with hget | hget
  · rw [hget] at hk
    cases hk
  · exact h.idle _ hget k hk

/-- A queue that keeps some of its packets. -/
theorem Orderly.set_sublist (hv : v.pkts.Sublist (Tbl.get {} qs q).pkts) : Orderly (Tbl.set {} qs q v) n := by
  obtain ⟨l, hl, hset⟩ := idsOf_set h.rising q
  have hsub : (v.pkts.map (·.id) ++ l).Sublist ((Tbl.get {} qs q).pkts.map (·.id) ++ l) := (hv.map _).append_right l
  refine ⟨Tbl.set_rising h.rising q v, (hset v).nodup_iff.mpr (hsub.nodup (hl.nodup_iff.mp h.nodup)), fun i hi => ?_, fun e he k hk => ?_⟩
  · exact h.below i (hl.mem_iff.mpr (hsub.subset ((hset v).mem_iff.mp hi)))
  · rcases Tbl.mem_of_mem_set he with rfl | he
    · exact h.idle_get (hv.subset hk)
    · exact h.idle e he k hk

/-- A queue that takes in the next packet. -/
theorem Orderly.set_next {k : Packet} (hv : v.pkts = (Tbl.get {} qs q).pkts ++ [k]) (hid : k.id = n) (hidle : k.Idle) :
    Orderly (Tbl.set {} qs q v) (n + 1) := by
  obtain ⟨l, hl, hset⟩ := idsOf_set h.rising q
  have hperm : (idsOf (Tbl.set {} qs q v)).Perm (n :: idsOf qs) := by
    refine (hset v).trans (.trans ?_ (hl.symm.cons n))
    rw [hv, List.map_append, List.map_singleton, hid, List.append_assoc]
    exact List.perm_middle
  refine ⟨Tbl.set_rising h.rising q v, hperm.nodup_iff.mpr ?_, fun i hi => ?_, fun e he p hp => ?_⟩
  · exact List.nodup_cons.mpr ⟨fun hn => absurd (h.below n hn) (lt_irrefl n), h.nodup⟩
  · rcases List.mem_cons.mp (hperm.mem_iff.mp hi) with rfl | hi
    · omega
    · exact (h.below i hi).trans (Nat.lt_succ_self n)
  · rcases Tbl.mem_of_mem_set he with rfl | he
    · rw [hv] at hp
      rcases List.mem_append.mp hp with hp | hp
      · exact h.idle_get hp
      · exact List.mem_singleton.mp hp ▸ hidle
    · exact h.idle e he p hp

end Queues

section Edits
variable {f : Packet → Packet} (hid : ∀ k, (f k).id = k.id)
include hid

theorem idsOf_editAll (qs : Tbl Queue) : idsOf (editAll f qs) = idsOf qs := by
  simp [idsOf, editAll, List.flatMap_map, List.map_flatMap, Function.comp_def, hid]

/-- An edit leaves the queues and the numbers in order. -/
theorem Orderly.edit {qs : Tbl Queue} {n : Nat} (h : Orderly qs n) (hidle : ∀ k, k.Idle → (f k).Idle) : Orderly (editAll f qs) n where
  rising := by simpa [editAll, Function.comp_def] using h.rising
  nodup := (idsOf_editAll hid qs).symm ▸ h.nodup
  below := (idsOf_editAll hid qs).symm ▸ h.below
  idle := by
    simp only [editAll, List.forall_mem_map]
    exact fun e he k hk => hidle k (h.idle e he k hk)

end Edits

/-! ### What follows a state -/

/-- What was in order in `r` is in order with queues `qs` and the next number `n`. -/
structure KeepsOrder (r : State) (qs : Tbl Queue) (n : Nat) : Prop where
  keep : Orderly r.queues r.nextPkt → Orderly qs n

/-- State `t` follows state `r`: what was in order in `r` is in order in `t`. -/
def State.Follows (r t : State) : Prop := KeepsOrder r t.queues t.nextPkt

variable {r s t : State}

@[simp] theorem State.follows_self (r : State) : State.Follows r r.office := ⟨fun h => h⟩

/-- An edit follows what it is made in. -/
theorem KeepsOrder.edit {qs : Tbl Queue} {n : Nat} {f : Packet → Packet} (h : KeepsOrder r qs n) (hf : ∀ k : Packet, k.Becomes (f k)) :
    KeepsOrder r (editAll f qs) n :=
  ⟨fun hr => (h.keep hr).edit (fun k => (hf k).id) fun k => (hf k).idle⟩

@[simp] theorem State.mk_follows (order cores mtime pending free nextPkt nextSeq queues rings fns reply msix parts regions ctxs clients
    engines units moverLast unitLast items mem sp spLost host noAtomics held late owed locks caches copies stackCk ecc memRing lcShare chans
    stackTbl groups fab feeds toks sessions media ctrl power) :
    State.Follows r (State.mk order cores mtime pending free nextPkt nextSeq queues rings fns reply msix parts regions ctxs clients engines
      units moverLast unitLast items mem sp spLost host noAtomics held late owed locks caches copies stackCk ecc memRing lcShare chans
      stackTbl groups fab feeds toks sessions media ctrl power).office = KeepsOrder r queues nextPkt := (rfl)

@[simp] theorem keepsOrder_follows : KeepsOrder r s.queues s.nextPkt = State.Follows r s.office := (rfl)

@[simp] theorem KeepsOrder.map {qs : Tbl Queue} {n : Nat} {f : Packet → Packet} (h : KeepsOrder r qs n)
    (hf : ∀ k : Packet, k.Becomes (f k)) :
    KeepsOrder r (qs.map (fun e => (e.1, { e.2 with pkts := e.2.pkts.map f }))) n := h.edit hf

@[simp] theorem State.ite_follows (c : Prop) [Decidable c] (s t : State) :
    State.Follows r (if c then s else t) = if c then State.Follows r s else State.Follows r t := apply_ite ..

theorem State.Follows.edit {f : Packet → Packet} (h : State.Follows r s.office) (hf : ∀ k : Packet, k.Becomes (f k)) {t : State}
    (hq : t.queues = editAll f s.queues) (hn : t.nextPkt = s.nextPkt) : State.Follows r t.office := by
  show KeepsOrder r t.queues t.nextPkt
  rw [hq, hn]
  exact KeepsOrder.edit h hf

theorem State.Follows.ite {c : Prop} [Decidable c] {t u : State} (ht : State.Follows r t.office) (hu : State.Follows r u.office) :
    State.Follows r (if c then t else u).office := by
  split
  exacts [ht, hu]

/-- A fold follows when each of its steps does. -/
@[simp] theorem foldl_follows {α : Type} {f : State → α → State} {l : List α} (h : State.Follows r s.office)
    (hf : ∀ t a, State.Follows r t.office → State.Follows r (f t a).office) : State.Follows r (l.foldl f s).office := by
  induction l generalizing s with
  | nil => exact h
  | cons a l ih => exact ih (hf s a h)

@[simp] theorem foldl_follows_fst {α β : Type} {f : State × β → α → State × β} {l : List α} {x : State × β} (h : State.Follows r x.1.office)
    (hf : ∀ x a, State.Follows r x.1.office → State.Follows r (f x a).1.office) : State.Follows r (l.foldl f x).1.office := by
  induction l generalizing x with
  | nil => exact h
  | cons a l ih => exact ih (hf x a h)

@[simp] theorem Packet.becomes_iff {k k' : Packet} : k.Becomes k' ↔ k'.id = k.id ∧ (k.Idle → k'.Idle) :=
  ⟨fun ⟨h1, h2⟩ => ⟨h1, h2⟩, fun ⟨h1, h2⟩ => ⟨h1, h2⟩⟩

@[simp] theorem Packet.ite_becomes (c : Prop) [Decidable c] (k k' k'' : Packet) :
    k.Becomes (if c then k' else k'') ↔ if c then k.Becomes k' else k.Becomes k'' := by split <;> rfl

@[simp] theorem Packet.mk_idle (id opcode flags fence ctx prio cls tag plen notBefore waitAddr waitVal sigAddr indirect params phase semOk
    startSeq startMt client status detail counts unit waits visible stalled signalled mover run waiting planes) :
    (Packet.mk id opcode flags fence ctx prio cls tag plen notBefore waitAddr waitVal sigAddr indirect params phase semOk startSeq startMt
      client status detail counts unit waits visible stalled signalled mover run waiting planes).Idle =
      (phase = .fetched → run = { role := run.role, step := run.step }) := rfl

@[simp] theorem Packet.fetched_idle (k : Packet) :
    (k.phase = .fetched → k.run = { role := k.run.role, step := k.run.step }) = k.Idle := rfl

section Basics
variable (hs : State.Follows r s.office)
include hs

/-- One packet changed as work changes packets. -/
@[simp] theorem State.Follows.modPkt {p : Nat} {f : Packet → Packet} (hf : ∀ k : Packet, k.Becomes (f k)) :
    State.Follows r (s.modPkt p f).office :=
  hs.edit (f := fun k => if k.id = p then f k else k) (fun k => by split; exacts [hf k, .refl k]) rfl rfl

@[simp] theorem State.Follows.modRun (p : Nat) (f : ListRun → ListRun) : State.Follows r (s.modRun p f).office := by
  refine State.Follows.modPkt hs fun k => ?_
  split
  · exact .refl k
  · next hp => simp [hp]

@[simp] theorem State.Follows.finish (p status : Nat) (detail : Option Nat) (c : Counts) :
    State.Follows r (s.finish p status detail c).office := by
  refine State.Follows.modPkt hs fun k => ?_
  split
  · exact .refl k
  · simp

@[simp] theorem State.Follows.setCore (n c) : State.Follows r (s.setCore n c).office := by simp [State.setCore, hs]
@[simp] theorem State.Follows.setRing (c v) : State.Follows r (s.setRing c v).office := by simp [State.setRing, hs]
@[simp] theorem State.Follows.setPart (p v) : State.Follows r (s.setPart p v).office := by simp [State.setPart, hs]
@[simp] theorem State.Follows.setRegion (e v) : State.Follows r (s.setRegion e v).office := by simp [State.setRegion, hs]
@[simp] theorem State.Follows.setCtx (c v) : State.Follows r (s.setCtx c v).office := by simp [State.setCtx, hs]
@[simp] theorem State.Follows.setClient (k v) : State.Follows r (s.setClient k v).office := by simp [State.setClient, hs]
@[simp] theorem State.Follows.setEngine (e v) : State.Follows r (s.setEngine e v).office := by simp [State.setEngine, hs]
@[simp] theorem State.Follows.setFeed (f v) : State.Follows r (s.setFeed f v).office := by simp [State.setFeed, hs]
@[simp] theorem State.Follows.setTok (k v) : State.Follows r (s.setTok k v).office := by simp [State.setTok, hs]
@[simp] theorem State.Follows.setSession (k v) : State.Follows r (s.setSession k v).office := by simp [State.setSession, hs]
@[simp] theorem State.Follows.pass (d) : State.Follows r (s.pass d).office := by simp [State.pass, hs]
@[simp] theorem State.Follows.at (mt) : State.Follows r (s.at mt).office := by simp [State.at, hs]
@[simp] theorem State.Follows.hold (i) : State.Follows r (s.hold i).office := by simp [State.hold, hs]

theorem State.Follows.request {kind pkt part g len tag hdr data task drift land sem} {t : State}
    (h : s.request kind pkt part g len tag hdr data task drift land sem = .ok t) : State.Follows r t.office :=
  State.request_office _ _ _ _ _ _ _ _ _ _ _ _ _ t h ▸ hs

theorem State.Follows.askRead {part pkt g n task sem} {t : State} (h : s.askRead part pkt g n task sem = .ok t) :
    State.Follows r t.office := State.askRead_office _ _ _ _ _ _ _ t h ▸ hs

theorem State.Follows.signal {a g} {t : State} (h : s.signal a g = .ok t) : State.Follows r t.office :=
  State.signal_office _ _ _ t h ▸ hs

theorem State.Follows.addAt {a g v drift} {t : State} (h : s.addAt a g v drift = .ok t) : State.Follows r t.office :=
  State.addAt_office _ _ _ _ _ t h ▸ hs

theorem State.Follows.reading {α : Type} {a} {l : Rd α} {x : Except Err α} {t : State} (h : s.reading a l = (x, t)) :
    State.Follows r t.office := by
  obtain rfl : (s.reading a l).2 = t := congrArg Prod.snd h
  simpa using hs

theorem State.Follows.homeRead {α : Type} {a} {l : Rd α} {x : Except Err α} {t : State} (h : s.homeRead a l = (x, t)) :
    State.Follows r t.office := by
  obtain rfl : (s.homeRead a l).2 = t := congrArg Prod.snd h
  simpa using hs

theorem State.Follows.store {a g bs e} {t : State} (h : s.store a g bs = (t, e)) : State.Follows r t.office := by
  obtain rfl : (s.store a g bs).1 = t := congrArg Prod.fst h
  simpa using hs

@[simp] theorem State.Follows.received {n via v flits} {act : State → State} (hact : ∀ t, State.Follows r t.office → State.Follows r (act t).office) :
    State.Follows r (s.received n via v flits act).office := by
  have harrive : State.Follows r (s.arrive n via v flits).2.office := by simpa using hs
  unfold State.received
  split
  next t ht => simpa using hact t (by simpa [ht] using harrive)
  next t ht => simpa [ht] using harrive

@[simp] theorem State.Follows.queued {n} {act : State → State} (hact : ∀ t, State.Follows r t.office → State.Follows r (act t).office) :
    State.Follows r (s.queued n act).office := by
  unfold State.queued
  split
  · exact hact _ (by simpa using hs)
  · split
    · exact hact _ (by simpa using hs)
    · simpa using hs

end Basics

/-- A queue that keeps some of its packets keeps what was in order in order. -/
theorem State.Follows.setQueue (hs : State.Follows r s.office) {q : Nat} {v : Queue} (hv : v.pkts.Sublist (s.queue q).pkts) :
    State.Follows r (s.setQueue q v).office :=
  ⟨fun hr => (hs.keep hr).set_sublist hv⟩

end Sys2Proof.Machine
end

section
/-! PROOFS. Every step keeps the queues and their packets' numbers in order (R36). -/

namespace Sys2Proof.Machine
section
variable {r s : State} (hs : State.Follows r s.office)
include hs

/-! ### Contexts -/

omit hs in
@[simp] theorem State.otherWrite_office (s : State) (g n) : (s.otherWrite g n).office = s.office := by
  unfold State.otherWrite
  split
  · rfl
  · have hitems : (s.items.map (fun x => if x.done then x else { x with rivals := (g, n) :: x.rivals })).map (fun i => { i with rivals := [] })
        = s.items.map (fun i => { i with rivals := [] }) := by
      rw [List.map_map]
      refine List.map_congr_left fun i _ => ?_
      simp only [Function.comp_apply]
      split <;> rfl
    exact congrArg (fun l => { s.office with items := l }) hitems

@[simp] theorem State.Follows.rstEvent (kind dom cause index ctx dur detail) :
    State.Follows r (s.rstEvent kind dom cause index ctx dur detail).office := by
  simp [State.rstEvent, hs]

@[simp] theorem State.Follows.retireCore (n) : State.Follows r (s.retireCore n).office := by
  unfold State.retireCore
  dsimp only
  split
  · exact hs
  · split
    · exact (((hs.setCore ..).rstEvent ..).setCore ..).rstEvent ..
    · exact (hs.setCore ..).rstEvent ..

@[simp] theorem State.Follows.turned (q k) : State.Follows r (s.turned q k).office := by simp [State.turned, hs]

@[simp] theorem State.Follows.waitHeld (p) : State.Follows r (s.waitHeld p).office := by simp [State.waitHeld, hs]

@[simp] theorem State.Follows.wait (p) : State.Follows r (s.wait p).office := by simp [State.wait, hs]

@[simp] theorem State.Follows.onErr (q k e) : State.Follows r (s.onErr q k e).office := by
  unfold State.onErr
  grind [State.Follows.waitHeld, State.Follows.askRead, State.Follows.finish]

@[simp] theorem State.Follows.tidyLocks : State.Follows r s.tidyLocks.office := by simp [State.tidyLocks, hs]

@[simp] theorem State.Follows.passLock (addr) : State.Follows r (s.passLock addr).office := by
  unfold State.passLock
  dsimp only
  (repeat' split) <;> simp [hs]

@[simp] theorem State.Follows.revoke (party) : State.Follows r (s.revoke party).office := by
  unfold State.revoke
  refine State.Follows.tidyLocks (foldl_follows ?_ fun t l ht => ht.passLock l.addr)
  simp +contextual [hs]

@[simp] theorem State.Follows.modItem (p i f) : State.Follows r (s.modItem p i f).office := by simp [State.modItem, hs]

@[simp] theorem State.Follows.descriptorRead (q k i) : State.Follows r (s.descriptorRead q k i).office := by
  simp [State.descriptorRead, hs]

@[simp] theorem State.Follows.refreshEngine (e) : State.Follows r (s.refreshEngine e).office := by simp [State.refreshEngine, hs]

@[simp] theorem State.Follows.refresh : State.Follows r s.refresh.office := by simp +contextual [State.refresh, hs]

theorem State.Follows.dispatchOn {t : State} {e} (hd : s.dispatchOn e = some t) : State.Follows r t.office := by
  simp only [State.dispatchOn] at hd
  split at hd
  · cases hd
  · split at hd
    · cases hd
    · obtain ⟨x, -, hx⟩ := List.exists_of_findSome?_eq_some hd
      obtain ⟨site, -, rfl⟩ := Option.map_eq_some_iff.mp hx
      refine State.Follows.modRun ?_ ..
      split <;> simp [hs]

@[simp] theorem State.Follows.dispatchFuel (f) : State.Follows r (State.dispatchFuel f s).office := by
  induction f generalizing s with
  | zero => exact hs
  | succ f ih =>
    unfold State.dispatchFuel
    split
    next t ht =>
      obtain ⟨e, -, he⟩ := List.exists_of_findSome?_eq_some ht
      exact ih (hs.dispatchOn he)
    · exact hs

@[simp] theorem State.Follows.dispatch : State.Follows r s.dispatch.office := by simp [State.dispatch, hs]

@[simp] theorem State.Follows.stopLists (sel st d) : State.Follows r (s.stopLists sel st d).office :=
  hs.edit (fun k => by split <;> simp_all) rfl rfl

@[simp] theorem State.Follows.dropFeeds (c) : State.Follows r (s.dropFeeds c).office := by
  refine foldl_follows (by simp [hs]) fun t f ht => ?_
  split <;> simp [ht]

@[simp] theorem State.Follows.faultCtx (c how st d) : State.Follows r (s.faultCtx c how st d).office := by
  unfold State.faultCtx
  split
  · exact hs
  · have hleft := ((hs.setCtx c { s.ctx c with state := how, fStatus := st, fDetail := d }).revoke (fun h => h.2 == c)).dropFeeds c
    exact (foldl_follows hleft fun t x ht => ht.finish ..).stopLists ..

@[simp] theorem State.Follows.faultData (c d) : State.Follows r (s.faultData c d).office := by simp [State.faultData, hs]

@[simp] theorem State.Follows.driftSignals (q k) : State.Follows r (s.driftSignals q k).office := by simp [State.driftSignals, hs]

@[simp] theorem State.Follows.endLists : State.Follows r s.endLists.office := by
  unfold State.endLists
  grind [foldl_office, State.Follows.driftSignals, State.Follows.finish, foldl_follows]

@[simp] theorem State.Follows.failNext : State.Follows r s.failNext.office := by
  unfold State.failNext
  grind [foldl_office, State.Follows.descriptorRead, State.Follows.faultData, State.Follows.askRead, State.Follows.modRun, foldl_follows]

@[simp] theorem State.Follows.settle : State.Follows r s.settle.office :=
  hs.failNext.refresh.dispatch.failNext.refresh.endLists

/-! ### Movers -/

@[simp] theorem State.Follows.giveMover (q k e) : State.Follows r (s.giveMover q k e).office := by simp [State.giveMover, hs]

@[simp] theorem State.Follows.moverProgress (e n) : State.Follows r (s.moverProgress e n).office := by simp [State.moverProgress, hs]

theorem State.Follows.sendBulk {part tag g bs} {t : State} {l} (h : s.sendBulk part tag g bs = .ok (t, l)) :
    State.Follows r t.office := by
  simp only [State.sendBulk] at h
  split at h
  · cases h
  · cases h
    refine foldl_follows (by simp [hs]) fun t i ht => ?_
    split <;> simp [ht]

@[simp] theorem State.Follows.readNat (a g n) : State.Follows r (s.readNat a g n).2.office := by simp [State.readNat, hs]

@[simp] theorem State.Follows.bump (a g) : State.Follows r (s.bump a g).office := by simp [State.bump, hs]

@[simp] theorem State.Follows.setEnt (c a e st) : State.Follows r (s.setEnt c a e st).office := by simp [State.setEnt, hs]

@[simp] theorem State.Follows.setAct (c a off n v) : State.Follows r (s.setAct c a off n v).office := by simp [State.setAct, hs]

@[simp] theorem State.Follows.mbAdds (c a j) : State.Follows r (s.mbAdds c a j).office := by simp [State.mbAdds, hs]

@[simp] theorem State.Follows.softAdd (c a j fetch) : State.Follows r (s.softAdd c a j fetch).office := by simp [State.softAdd, hs]

@[simp] theorem State.Follows.spillFailed (c a e) : State.Follows r (s.spillFailed c a e).office := by
  unfold State.spillFailed
  grind [State.Follows.setEnt, State.Follows.setAct, State.Follows.setCtx, State.mk_follows, keepsOrder_follows]

@[simp] theorem State.Follows.fetchFailed (c a v st) : State.Follows r (s.fetchFailed c a v st).office := by
  unfold State.fetchFailed
  grind [State.Follows.faultCtx, State.Follows.bump, State.Follows.settle, State.Follows.setCtx, State.mk_follows, keepsOrder_follows]

@[simp] theorem State.Follows.beginXfer (c a e fetch) : State.Follows r (s.beginXfer c a e fetch).office := by
  unfold State.beginXfer
  have hbegun (x n) : State.Follows r ((s.setCtx c x).setEnt c a e n).office := (hs.setCtx c x).setEnt c a e n
  dsimp only
  split
  · exact hbegun ..
  · split
    · split
      next t ht => exact (hbegun ..).request ht
      · exact (hbegun ..).setCtx ..
      · exact hbegun ..
    · split
      next t ht => exact ((hbegun ..).reading ht).setCtx ..
      · exact hs
      next bs t ht =>
        split
        next u planes hu => simp [((hbegun ..).reading ht).sendBulk hu]
        · exact ((hbegun ..).reading ht).setCtx ..
        · exact hs

@[simp] theorem State.Follows.startXfer (c) : State.Follows r (s.startXfer c).office := by
  unfold State.startXfer
  dsimp only
  (repeat' split) <;> simp [hs]

@[simp] theorem State.Follows.startXfers (e) : State.Follows r (s.startXfers e).office := by simp +contextual [State.startXfers, hs]

@[simp] theorem State.Follows.startAllXfers : State.Follows r s.startAllXfers.office := by simp +contextual [State.startAllXfers, hs]

@[simp] theorem State.Follows.moverTaken (q k e) : State.Follows r (s.moverTaken q k e).office := by simp [State.moverTaken, hs]

@[simp] theorem State.Follows.moverFree (k) : State.Follows r (s.moverFree k).office := by
  unfold State.moverFree
  (repeat' split) <;> simp [hs]

@[simp] theorem State.Follows.moverMoved (k) : State.Follows r (s.moverMoved k).office := by
  unfold State.moverMoved
  (repeat' split) <;> simp [hs]

@[simp] theorem State.Follows.moverDone (k) : State.Follows r (s.moverDone k).office := by simp [State.moverDone, hs]

@[simp] theorem State.Follows.moverErr (q k e) : State.Follows r (s.moverErr q k e).office := by
  unfold State.moverErr
  grind [State.Follows.moverFree, State.Follows.faultData, State.Follows.settle, State.Follows.onErr, State.Follows.finish]

/-! ### Memory -/

@[simp] theorem State.Follows.deliver (q k a dst bs rest) : State.Follows r (s.deliver q k a dst bs rest).office := by
  unfold State.deliver
  grind [State.Follows.moverErr, State.Follows.sendBulk, State.store_office, State.otherWrite_office, State.Follows.moverDone,
    State.Follows.modPkt, Packet.becomes_iff, Packet.mk_idle, Packet.fetched_idle, State.mk_follows, keepsOrder_follows]

@[simp] theorem State.Follows.copyRun (q k) : State.Follows r (copyRun s q k).office := by
  unfold Machine.copyRun
  have htaken (e) : State.Follows r (s.moverTaken q k e).office := hs.moverTaken q k e
  dsimp only
  split
  · exact hs
  next e _ =>
    split
    · exact hs
    · split
      · exact ((htaken e).finish ..).moverFree ..
      · split
        · split
          · exact (htaken e).moverErr ..
          · split
            · exact (htaken e).moverErr ..
            next t ht => simp [(htaken e).request ht]
        · split
          next t ht => exact ((htaken e).reading ht).moverErr ..
          next t ht =>
            have hread := (htaken e).reading ht
            split
            · exact (htaken e).waitHeld ..
            · exact (htaken e).onErr ..
            · split <;> exact .deliver (by simpa using hread) ..

@[simp] theorem State.Follows.fillRun (q k) : State.Follows r (fillRun s q k).office := by
  unfold Machine.fillRun
  dsimp only
  (repeat' split) <;> simp [hs]

@[simp] theorem State.Follows.atomicEnd (q k old st c) : State.Follows r (s.atomicEnd q k old st c).office := by
  unfold State.atomicEnd
  grind [State.store_office, State.owe_office, State.Follows.onErr, State.Follows.finish]

@[simp] theorem State.Follows.lockOp (q k p) : State.Follows r (lockOp s q k p).office := by
  unfold Machine.lockOp
  dsimp only
  repeat' split
  all_goals
    grind [State.noteRead_office, State.Follows.atomicEnd, State.Follows.passLock, State.Follows.tidyLocks, State.Follows.wait,
      State.store_office, State.Follows.finish, State.mk_follows, keepsOrder_follows]

@[simp] theorem State.Follows.memAtomicRun (q k) : State.Follows r (memAtomicRun s q k).office := by
  unfold Machine.memAtomicRun
  grind [State.Follows.onErr, State.Follows.request, State.Follows.wait, State.addTrace_office, State.Follows.lockOp,
    State.homeRead_office, State.lineWrite_office, State.Follows.atomicEnd, State.Follows.finish]

@[simp] theorem State.Follows.runRead (eflags w) : State.Follows r (s.runRead eflags w).office := by simp [State.runRead, hs]

@[simp] theorem State.Follows.scrubRun (q k) : State.Follows r (scrubRun s q k).office := by
  unfold Machine.scrubRun
  dsimp only
  repeat' split
  all_goals
    grind [foldl_office, State.stackRead_office, State.Follows.runRead, State.Follows.finish, foldl_follows, State.mk_follows,
      keepsOrder_follows]

@[simp] theorem State.Follows.flipRun (q k) : State.Follows r (flipRun s q k).office := by simp [Machine.flipRun, hs]

@[simp] theorem State.Follows.patrolRun (stack) : State.Follows r (patrolRun s stack).office := by
  simp +contextual [Machine.patrolRun, hs]

@[simp] theorem State.Follows.retirementDone (ch) : State.Follows r (retirementDone s ch).office := by simp [Machine.retirementDone, hs]

@[simp] theorem State.Follows.emptyChan (ch from_) : State.Follows r (s.emptyChan ch from_).office := by simp [State.emptyChan, hs]

@[simp] theorem State.Follows.channelLost (ch) : State.Follows r (channelLost s ch).office := by simp [Machine.channelLost, hs]

@[simp] theorem State.Follows.stackSample (stack temp) : State.Follows r (stackSample s stack temp).office := by
  simp [Machine.stackSample, hs]

/-! ### Scheduling -/

@[simp] theorem State.Follows.createRun (q k) : State.Follows r (createRun s q k).office := by simp [Machine.createRun, hs]

@[simp] theorem State.Follows.beginDestroy (c p) : State.Follows r (s.beginDestroy c p).office := by
  unfold State.beginDestroy
  refine State.Follows.setCtx (State.Follows.dropFeeds ?_ c) ..
  simp only [State.mk_follows, keepsOrder_follows]
  refine foldl_follows ?_ fun t w ht => ht.finish ..
  rw [State.dropReqs_office]
  exact foldl_follows hs fun t g ht => (ht.finish ..).modPkt (by simp)

@[simp] theorem State.Follows.freeCtx (c) : State.Follows r (s.freeCtx c).office := by simp [State.freeCtx, hs]

@[simp] theorem State.Follows.destroyRun (q k) : State.Follows r (destroyRun s q k).office := by
  unfold Machine.destroyRun
  grind [State.Follows.beginDestroy, State.Follows.freeCtx, State.Follows.settle, State.Follows.finish]

@[simp] theorem State.Follows.forgetChans (mask) : State.Follows r (s.forgetChans mask).office := by
  simp +contextual [State.forgetChans, hs]

@[simp] theorem State.Follows.flushWays (mask) : State.Follows r (s.flushWays mask).office := by simp [State.flushWays, hs]

@[simp] theorem State.Follows.partitionRun (q k) : State.Follows r (partitionRun s q k).office := by
  unfold Machine.partitionRun
  grind [State.Follows.flushWays, State.Follows.forgetChans, State.Follows.finish, State.Follows.setPart, State.Follows.setCtx,
    State.mk_follows, keepsOrder_follows]

@[simp] theorem State.Follows.countersRun (q k) : State.Follows r (countersRun s q k).office := by
  unfold Machine.countersRun
  grind [State.store_office, State.Follows.onErr, State.Follows.finish, State.Follows.setCtx, State.mk_follows, keepsOrder_follows]

@[simp] theorem State.Follows.policyRun (q k) : State.Follows r (policyRun s q k).office := by simp [Machine.policyRun, hs]

@[simp] theorem State.Follows.tasklistRun (k) : State.Follows r (tasklistRun s k).office := by simp [Machine.tasklistRun, hs]

@[simp] theorem State.Follows.workDone (p i a drift drifts wrote) : State.Follows r (s.workDone p i a drift drifts wrote).office := by
  simp [State.workDone, hs]

@[simp] theorem State.Follows.workFailed (p i st d a wrote) : State.Follows r (s.workFailed p i st d a wrote).office := by
  simp [State.workFailed, hs]

@[simp] theorem State.Follows.taskComplete (p i mt) : State.Follows r (taskComplete s p i mt).office := by
  unfold Machine.taskComplete
  split
  · exact hs
  next it _ =>
    dsimp only
    split
    · exact hs
    · have hjoined (e v l f) : State.Follows r (({ (s.at mt).setEngine e v with items := l } : State).modRun p f).office :=
        State.Follows.modRun ((hs.at mt).setEngine e v) p f
      refine State.Follows.settle ?_
      split
      · exact .ite (.retireCore (.ite ((hjoined ..).faultData ..) (hjoined ..)) _) (.ite ((hjoined ..).faultData ..) (hjoined ..))
      · exact .ite ((hjoined ..).faultData ..) (hjoined ..)

@[simp] theorem State.Follows.contextLoad (e c) : State.Follows r (contextLoad s e c).office := by
  unfold Machine.contextLoad
  dsimp only
  (repeat' split) <;> simp [hs]

@[simp] theorem State.Follows.sliceGrant (e mt) : State.Follows r (sliceGrant s e mt).office := by
  unfold Machine.sliceGrant
  grind [foldl_office, State.Follows.settle, State.Follows.setEngine, State.Follows.at, foldl_follows, State.mk_follows,
    keepsOrder_follows]

@[simp] theorem State.Follows.sliceExpiry (e) : State.Follows r (sliceExpiry s e).office := by
  unfold Machine.sliceExpiry
  grind [State.Follows.settle, State.Follows.setEngine, State.Follows.at, State.mk_follows, keepsOrder_follows]

/-! ### Operands -/

omit hs in
theorem State.headerAdd_office (s : State) (a e) :
    (∀ t x b, s.headerAdd a e = .ok (t, x, b) → t.office = s.office) ∧ ∀ t x, s.headerAdd a e = .error (t, x) → t.office = s.office := by
  unfold State.headerAdd
  split
  next h acc n den =>
    extract_lets +onlyGivenNames more
    have hmore (r off v d) : (stateLeft (more r off v d)).office = (stateLeft r).office := by
      grind [stateLeft, State.addAt_office, State.addTrace_office]
    clear_value more
    grind [stateLeft, State.store_office]

omit hs in
@[simp] theorem State.headerAdds_office (s : State) (a l) : (s.headerAdds a l).1.office = s.office := by
  refine foldl_office_fst _ _ _ fun r c => ?_
  split
  · split
    next h => exact (State.headerAdd_office _ _ _).1 _ _ _ h
    next h => exact (State.headerAdd_office _ _ _).2 _ _ h
  · rfl

omit hs in
@[simp] theorem State.maxAt_office (s : State) (a g v) : (s.maxAt a g v).1.office = s.office := by
  unfold State.maxAt
  grind [State.request_office, State.homeRead_office, State.store_office]

omit hs in
@[simp] theorem State.maxAll_office (s : State) (a l) : (s.maxAll a l).1.office = s.office :=
  foldl_office_fst _ _ _ fun r c => by split <;> simp

@[simp] theorem State.Follows.masked (part g) : State.Follows r (s.masked part g).office := by
  unfold State.masked
  (repeat' split) <;> simp [hs]

@[simp] theorem State.Follows.stageInject (it part g) : State.Follows r (s.stageInject it part g).office := by
  simp [State.stageInject, hs]

@[simp] theorem State.Follows.staged (a it w) : State.Follows r (s.staged a it w).2.office := by
  unfold State.staged
  (repeat' split) <;> simp [hs]

omit hs in
@[simp] theorem State.putUnits_office (s : State) (a l) : (s.putUnits a l).1.office = s.office := by
  unfold State.putUnits
  split
  next h => simpa [h] using s.storeAll_office a (joined (l.flatMap Prod.fst))
  · exact foldl_office_fst _ _ _ fun r u => by grind [State.storeAll_office]
  · rfl

theorem State.Follows.putOut {a p i o} {t : State} (h : s.putOut a p i o = .ok t) : State.Follows r t.office := by
  unfold State.putOut at h
  grind [State.drew_office, State.putUnits_office, State.Follows.workFailed, State.maxAll_office, State.headerAdds_office,
    State.Follows.workDone]

@[simp] theorem State.Follows.runTask (q k a p i w) : State.Follows r (s.runTask q k a p i w).office := by
  unfold State.runTask
  have hstaged {x t} (ht : s.staged a (s.item p i) w = (x, t)) : State.Follows r t.office := by
    obtain rfl : (s.staged a (s.item p i) w).2 = t := congrArg Prod.snd ht
    exact hs.staged a (s.item p i) w
  have hbad {t : State} (ht : State.Follows r t.office) (e : Err) : State.Follows r (match e with
      | .fail st d => t.workFailed p i st (if st = stBadDescriptor then i else d) {}
      | .held => s.modItem p i (fun t => { t with waits := true })
      | .remote g n => match s.askRead (s.partOf q) k.id g n a.task with
        | .ok t => t
        | .error (.fail st d) => s.workFailed p i st d {}
        | .error _ => s).office := by
    split
    · exact ht.workFailed ..
    · exact hs.modItem ..
    · split
      next t hask => exact hs.askRead hask
      · exact hs.workFailed ..
      · exact hs
  split
  next e t ht => exact hbad (hstaged ht) e
  next o t ht =>
    split
    next u hu => exact (hstaged ht).putOut hu
    next e _ => exact hbad (hstaged ht) e

/-! ### Training -/

@[simp] theorem State.Follows.finishSilent (p st d) : State.Follows r (s.finishSilent p st d).office := by simp [State.finishSilent, hs]

@[simp] theorem State.Follows.newK (c) : State.Follows r (s.newK c).office := by
  unfold State.newK
  dsimp only
  (repeat' split) <;> simp [hs]

@[simp] theorem State.Follows.comeDue (c) : State.Follows r (s.comeDue c).office := by
  unfold State.comeDue
  grind [foldl_office, State.Follows.mbAdds, State.Follows.startXfer, State.Follows.setCtx, foldl_follows, State.mk_follows,
    keepsOrder_follows]

@[simp] theorem State.Follows.syncBucket (g b) : State.Follows r (s.syncBucket g b).office := by simp [State.syncBucket, hs]

@[simp] theorem State.Follows.bucketBegin (g b) : State.Follows r (bucketBegin s g b).office := by simp [Machine.bucketBegin, hs]

@[simp] theorem State.Follows.syncGroup (g) : State.Follows r (s.syncGroup g).office := by simp [State.syncGroup, hs]

@[simp] theorem State.Follows.putGroup (g) : State.Follows r (s.putGroup g).office := by simp [State.putGroup, hs]

@[simp] theorem State.Follows.groupBegin (c step) : State.Follows r (s.groupBegin c step).office := by
  unfold State.groupBegin
  dsimp only
  (repeat' split) <;> simp +contextual [hs]

@[simp] theorem State.Follows.adoptLookahead (c step) : State.Follows r (s.adoptLookahead c step).office :=
  hs.edit (fun k => by split <;> simp_all) rfl rfl

@[simp] theorem State.Follows.onSequencer (k run) (hrun : ∀ t, State.Follows r t.office → State.Follows r (run t).office) :
    State.Follows r (s.onSequencer k run).office := by
  unfold State.onSequencer
  grind [State.Follows.finish]

@[simp] theorem State.Follows.stepBeginRun (q k) : State.Follows r (stepBeginRun s q k).office := by
  unfold Machine.stepBeginRun
  grind [State.reading_office, State.Follows.finishSilent, State.Follows.onErr, State.storeAll_office, State.Follows.adoptLookahead,
    State.Follows.groupBegin, State.Follows.finish, State.Follows.setCtx]

@[simp] theorem State.Follows.meetBackward (p c) : State.Follows r (s.meetBackward p c).office := by
  unfold State.meetBackward
  grind [State.Follows.newK, State.Follows.comeDue, State.Follows.modPkt, Packet.becomes_iff, Packet.mk_idle, Packet.fetched_idle,
    State.Follows.setCtx, State.mk_follows, keepsOrder_follows]

@[simp] theorem State.Follows.judge (k cls) : State.Follows r (s.judge k cls).1.office := by
  unfold State.judge
  dsimp only
  (repeat' split) <;> simp [hs]

@[simp] theorem State.Follows.abortStep (c) : State.Follows r (s.abortStep c).office := by
  unfold State.abortStep
  have hstopped (l : List Nat) (sel) : State.Follows r ((l.foldl (fun t p => t.finishSilent p stStepAborted none) s).stopLists sel
      stStepAborted none).office := (foldl_follows hs fun t p ht => ht.finishSilent ..).stopLists ..
  refine .settle (.newK (.setCtx ?_ ..) c)
  simp only [State.mk_follows]
  refine KeepsOrder.map (hstopped ..) fun k => ?_
  split
  next hmine =>
    have hphase : k.phase ≠ .fetched := by
      simp only [Bool.and_eq_true, bne_iff_ne] at hmine
      exact hmine.1.2
    simp [hphase]
  · exact .refl k

@[simp] theorem State.Follows.fwdDone (c j) : State.Follows r (fwdDone s c j).office := by
  unfold Machine.fwdDone
  dsimp only
  repeat' split
  all_goals
    grind [State.reading_office, foldl_office, State.Follows.setEnt, State.Follows.mbAdds, State.Follows.startXfer, State.Follows.setCtx,
      foldl_follows, State.mk_follows, keepsOrder_follows]

@[simp] theorem State.Follows.moveEnt (c v fetch) : State.Follows r (s.moveEnt c v fetch).1.office := by
  unfold State.moveEnt
  grind [State.reading_office, State.store_office]

@[simp] theorem State.Follows.xferOver (c) : State.Follows r (s.xferOver c).office := by simp [State.xferOver, hs]

@[simp] theorem State.Follows.nextXfer (c) : State.Follows r (s.nextXfer c).office := by
  unfold State.nextXfer
  (repeat' split) <;> simp [hs]

@[simp] theorem State.Follows.spillDone (c e st mt) : State.Follows r (spillDone s c e st mt).office := by
  unfold Machine.spillDone
  dsimp only
  repeat' split
  all_goals
    grind [State.Follows.moveEnt, State.Follows.xferOver, State.Follows.setEnt, State.Follows.mbAdds, State.Follows.comeDue,
      State.Follows.nextXfer, State.Follows.spillFailed, State.Follows.at]

@[simp] theorem State.Follows.fetchDone (c e st mt) : State.Follows r (fetchDone s c e st mt).office := by
  unfold Machine.fetchDone
  dsimp only
  repeat' split
  all_goals
    grind [State.Follows.moveEnt, State.Follows.xferOver, State.Follows.setEnt, State.Follows.setAct, State.Follows.mbAdds,
      State.Follows.nextXfer, State.dropReqs_office, State.Follows.fetchFailed, State.Follows.at, State.mk_follows, keepsOrder_follows]

@[simp] theorem State.Follows.hostRun (q k spill) : State.Follows r (hostRun s q k spill).office := by
  unfold Machine.hostRun
  dsimp only
  repeat' split
  all_goals
    grind [State.Follows.finishSilent, State.Follows.moverFree, State.Follows.moverTaken, State.Follows.setEnt, State.Follows.softAdd,
      State.Follows.spillFailed, State.Follows.fetchFailed, State.Follows.moverErr, State.reading_office, State.store_office,
      State.Follows.moverMoved, State.Follows.finish, State.Follows.setCtx, State.mk_follows, keepsOrder_follows]

/-! ### Units -/

@[simp] theorem State.Follows.setUnit (u g) : State.Follows r (s.setUnit u g).office := by simp [State.setUnit, hs]

@[simp] theorem State.Follows.unitTakes (u w c) : State.Follows r (s.unitTakes u w c).2.2.office := by simp [State.unitTakes, hs]

@[simp] theorem State.Follows.unitCharge (u c slice w) : State.Follows r (s.unitCharge u c slice w).office := by
  simp [State.unitCharge, hs]

/-! ### Groups -/

@[simp] theorem State.Follows.putBucket (g b) : State.Follows r (s.putBucket g b).office := by simp [State.putBucket, hs]

@[simp] theorem State.Follows.groupEvent (g code bucket rank) : State.Follows r (s.groupEvent g code bucket rank).office := by
  simp [State.groupEvent, hs]

@[simp] theorem State.Follows.stale (g) : State.Follows r (s.stale g).office := by simp [State.stale, hs]

@[simp] theorem State.Follows.tellAt (g key a sub rank arg data) : State.Follows r (s.tellAt g key a sub rank arg data).office := by
  unfold State.tellAt
  (repeat' split) <;> simp [hs]

@[simp] theorem State.Follows.tell (g a sub rank arg data) : State.Follows r (s.tell g a sub rank arg data).office := by
  simp [State.tell, hs]

@[simp] theorem State.Follows.syncBuckets (g) : State.Follows r (s.syncBuckets g).office := by simp +contextual [State.syncBuckets, hs]

@[simp] theorem State.Follows.applyAbort (g key arg) : State.Follows r (s.applyAbort g key arg).office := by
  unfold State.applyAbort
  grind [foldl_office, State.Follows.putGroup, State.Follows.syncBuckets, State.Follows.abortStep, State.Follows.finish,
    State.Follows.setCtx, foldl_follows, State.mk_follows, keepsOrder_follows]

@[simp] theorem State.Follows.rootAbort (g arg) : State.Follows r (s.rootAbort g arg).office := by
  unfold State.rootAbort
  split
  · exact hs.putGroup _
  · exact (foldl_follows hs fun t a ht => ht.tell ..).applyAbort ..

@[simp] theorem State.Follows.requestAbortAt (gid key cause bucket rank) :
    State.Follows r (s.requestAbortAt gid key cause bucket rank).office := by
  unfold State.requestAbortAt
  dsimp only
  (repeat' split) <;> simp [hs]

@[simp] theorem State.Follows.requestAbort (gid cause bucket rank) : State.Follows r (s.requestAbort gid cause bucket rank).office := by
  unfold State.requestAbort
  (repeat' split) <;> simp [hs]

@[simp] theorem State.Follows.normFailed (c e) : State.Follows r (s.normFailed c e).office := by
  unfold State.normFailed
  grind [State.Follows.requestAbort, foldl_office, State.Follows.finishSilent, State.Follows.faultCtx, State.Follows.settle,
    foldl_follows]

@[simp] theorem State.Follows.normReady (c v) : State.Follows r (s.normReady c v).office := by
  unfold State.normReady
  grind [State.store_office, State.Follows.normFailed, State.Follows.signal, State.Follows.setCtx, State.mk_follows,
    keepsOrder_follows]

@[simp] theorem State.Follows.normDown (g v) : State.Follows r (s.normDown g v).office := by simp +contextual [State.normDown, hs]

@[simp] theorem State.Follows.normNode (gid k) : State.Follows r (s.normNode gid k).office := by
  unfold State.normNode
  split
  · exact hs
  · dsimp only
    split
    · exact hs
    · split
      next e t ht => exact (hs.reading ht).normFailed ..
      next b t ht =>
        have hstored (c : Bool) (a g bs) : State.Follows r (if c then t.store a g bs else (t, none)).1.office := by
          cases c
          · exact hs.reading ht
          · simpa using hs.reading ht
        split
        · exact (hstored ..).normFailed ..
        · split
          · split
            next e u hu => exact (State.Follows.reading ((hstored ..).putGroup _) hu).normFailed ..
            next w u hu => exact ((State.Follows.reading ((hstored ..).putGroup _) hu).normDown ..).normReady ..
          · split
            · exact (hstored ..).putGroup _
            · exact ((hstored ..).putGroup _).tell ..

@[simp] theorem State.Follows.normStep (gid) : State.Follows r (s.normStep gid).office := by
  unfold State.normStep
  grind [State.store_office, State.Follows.normFailed, foldl_office, State.Follows.normNode, State.Follows.setCtx, foldl_follows,
    State.mk_follows, keepsOrder_follows]

@[simp] theorem State.Follows.normAlone (c) : State.Follows r (s.normAlone c).office := by
  unfold State.normAlone
  grind [State.store_office, State.Follows.normFailed, State.reading_office, State.Follows.normReady, State.Follows.setCtx,
    State.mk_follows, keepsOrder_follows]

@[simp] theorem State.Follows.answerRejoin (g a step) : State.Follows r (s.answerRejoin g a step).office := by
  unfold State.answerRejoin
  grind [foldl_office, State.transmit_office, State.reading_office, State.groupMsg_office, State.Follows.putGroup,
    State.Follows.groupEvent, foldl_follows, State.mk_follows, keepsOrder_follows]

@[simp] theorem State.Follows.serveRejoins (gid) : State.Follows r (s.serveRejoins gid).office := by
  unfold State.serveRejoins
  split
  · exact hs
  · refine foldl_follows hs fun t x ht => ?_
    (repeat' split) <;> simp [ht]

@[simp] theorem State.Follows.applyCommit (g) : State.Follows r (s.applyCommit g).office := by
  have hended (l l' : List Nat) : State.Follows r
      (l'.foldl (fun t p => t.finish p stStaleStep none) (l.foldl (fun t p => t.finish p stOk none) s)).office :=
    foldl_follows (foldl_follows hs fun t p ht => ht.finish ..) fun t p ht => ht.finish ..
  exact (((((hended ..).putGroup _).syncBuckets _).setCtx ..).newK _).serveRejoins _

@[simp] theorem State.Follows.commitHere (g) : State.Follows r (s.commitHere g).office := by
  unfold State.commitHere
  grind [foldl_office, State.Follows.tell, State.Follows.applyCommit, foldl_follows]

@[simp] theorem State.Follows.readyNode (gid k) : State.Follows r (s.readyNode gid k).office := by
  unfold State.readyNode
  dsimp only
  (repeat' split) <;> simp [hs]

@[simp] theorem State.Follows.readyStep (gid) : State.Follows r (s.readyStep gid).office := by
  unfold State.readyStep
  grind [State.Follows.applyCommit, foldl_office, State.Follows.readyNode, foldl_follows]

@[simp] theorem State.Follows.stepCommitRun (q k) : State.Follows r (stepCommitRun s q k).office := by
  unfold Machine.stepCommitRun
  grind [State.Follows.newK, State.Follows.wait, State.Follows.putGroup, State.Follows.readyStep, State.Follows.finish,
    State.Follows.setCtx, State.mk_follows, keepsOrder_follows]

@[simp] theorem State.Follows.groupAbortRun (q k) : State.Follows r (groupAbortRun s q k).office := by
  unfold Machine.groupAbortRun
  grind [State.Follows.wait, State.Follows.putGroup, State.Follows.requestAbort, State.Follows.finish, State.mk_follows,
    keepsOrder_follows]

@[simp] theorem State.Follows.groupJoinRun (q k) : State.Follows r (groupJoinRun s q k).office := by
  unfold Machine.groupJoinRun
  dsimp only
  repeat' split
  all_goals
    grind [State.Follows.onErr, State.poke_office, State.Follows.syncGroup, State.Follows.putGroup, foldl_office, State.groupMsg_office,
      State.Follows.wait, State.Follows.finish, foldl_follows, State.mk_follows, keepsOrder_follows]

@[simp] theorem State.Follows.bucketDefineRun (q k) : State.Follows r (bucketDefineRun s q k).office := by
  unfold Machine.bucketDefineRun
  extract_lets +onlyGivenNames b
  clear_value b
  split
  · exact hs.finish ..
  split
  · exact hs.finish ..
  split
  · exact hs.finish ..
  split
  · exact hs.finish ..
  extract_lets +onlyGivenNames a
  clear_value a
  split
  next e t ht => exact (hs.reading ht).onErr ..
  next es t ht =>
    have hread := hs.reading ht
    split
    · exact hread.finish ..
    · extract_lets +onlyGivenNames v
      split
      · exact hread.onErr ..
      · refine State.Follows.finish (State.Follows.syncBucket (State.Follows.putGroup ?_ _) ..) ..
        simpa using hread

@[simp] theorem State.Follows.shadowMapRun (q k) : State.Follows r (shadowMapRun s q k).office := by
  unfold Machine.shadowMapRun
  dsimp only
  (repeat' split) <;> simp [hs]

@[simp] theorem State.Follows.landAt (g off bs slot) : State.Follows r (s.landAt g off bs slot).office := by simp [State.landAt, hs]

@[simp] theorem State.Follows.compareCopy (g b adopted key rank other bs) :
    State.Follows r (s.compareCopy g b adopted key rank other bs).office := by
  unfold State.compareCopy
  grind [State.reading_office, State.Follows.requestAbortAt]

@[simp] theorem State.Follows.takeIn (g b adopted rank slot bs good key first from_) :
    State.Follows r (s.takeIn g b adopted rank slot bs good key first from_).office := by
  unfold State.takeIn
  dsimp only
  (repeat' split) <;> simp [hs]

@[simp] theorem State.Follows.bucketDeadline (gid bid adopted) : State.Follows r (bucketDeadline s gid bid adopted).office := by
  unfold Machine.bucketDeadline
  dsimp only
  (repeat' split) <;> simp [hs]

@[simp] theorem State.Follows.contributionIn (h first data crc) : State.Follows r (contributionIn s h first data crc).office := by
  unfold Machine.contributionIn
  dsimp only
  repeat' split
  all_goals
    grind [State.Follows.bucketDeadline, State.Follows.stale, State.Follows.takeIn, State.Follows.at, State.Follows.hold,
      State.mk_follows, keepsOrder_follows]

@[simp] theorem State.Follows.dropRun (h) : State.Follows r (s.dropRun h).office := by simp [State.dropRun, hs]

@[simp] theorem State.Follows.stampFirst (h) : State.Follows r (s.stampFirst h).office := by
  unfold State.stampFirst
  dsimp only
  (repeat' split) <;> simp [hs]

@[simp] theorem State.Follows.reduceIn (h data) : State.Follows r (reduceIn s h data).office := by
  unfold Machine.reduceIn
  grind [State.Follows.stampFirst, State.Follows.dropRun, State.Follows.contributionIn, State.Follows.at, State.mk_follows,
    keepsOrder_follows]

@[simp] theorem State.Follows.sendShard (g b dest bs) : State.Follows r (s.sendShard g b dest bs).office := by
  unfold State.sendShard
  dsimp only
  (repeat' split) <;> simp [hs]

@[simp] theorem State.Follows.contribute (gid bid k) : State.Follows r (s.contribute gid bid k).office := by
  unfold State.contribute
  grind [State.Follows.wait, State.Follows.putGroup, State.reading_office, State.Follows.requestAbort, State.Follows.takeIn,
    State.Follows.sendShard, State.mk_follows, keepsOrder_follows]

@[simp] theorem State.Follows.sentNow (gid bid) : State.Follows r (s.sentNow gid bid).office := by
  unfold State.sentNow
  (repeat' split) <;> simp [hs]

@[simp] theorem State.Follows.nextShard (key gid bid k) : State.Follows r (s.nextShard key gid bid k).office := by
  unfold State.nextShard
  (repeat' split) <;> simp [hs]

@[simp] theorem State.Follows.sendBucket (gid bid) : State.Follows r (s.sendBucket gid bid).office := by
  unfold State.sendBucket
  dsimp only
  repeat' split
  all_goals
    grind [State.Follows.putBucket, foldl_office, State.Follows.nextShard, State.Follows.sentNow, foldl_follows, State.mk_follows,
      keepsOrder_follows]

@[simp] theorem State.Follows.resumeSends (gid) : State.Follows r (s.resumeSends gid).office := by
  unfold State.resumeSends
  grind [foldl_office, State.Follows.nextShard, State.Follows.putGroup, State.Follows.sentNow, foldl_follows, State.mk_follows,
    keepsOrder_follows]

@[simp] theorem State.Follows.bucketSend (gid bid) : State.Follows r (bucketSend s gid bid).office := by
  unfold Machine.bucketSend
  dsimp only
  repeat' split
  all_goals
    grind [State.Follows.sendBucket, State.Follows.readNat, State.Follows.requestAbort]

@[simp] theorem State.Follows.enterExchange (c) : State.Follows r (s.enterExchange c).office := by
  unfold State.enterExchange
  grind [State.Follows.normAlone, foldl_office, State.Follows.sendBucket, State.Follows.normStep, State.Follows.setCtx, foldl_follows,
    State.mk_follows, keepsOrder_follows]

@[simp] theorem State.Follows.hear {a act} (hact : ∀ t g, State.Follows r t.office → State.Follows r (act t g).office) :
    State.Follows r (s.hear a act).office := by
  unfold State.hear
  dsimp only
  split
  · simp [hs]
  · split <;> simp [hs, hact]

@[simp] theorem State.Follows.heardOn {a n act} (hact : ∀ t g, State.Follows r t.office → State.Follows r (act t g).office) :
    State.Follows r (s.heardOn a n act).office :=
   hs.received fun _ ht => ht.queued fun _ hu => hu.hear hact

@[simp] theorem State.Follows.retryResend (gid bid dest) : State.Follows r (retryResend s gid bid dest).office := by
  unfold Machine.retryResend
  grind [State.Follows.putGroup, State.Follows.contribute, State.Follows.at, State.mk_follows, keepsOrder_follows]

omit hs in
theorem State.addSquares_office (s : State) (g adopted bs) (t : State) (g') :
    s.addSquares g adopted bs = .ok (t, g') → t.office = s.office := by
  grind [State.addSquares, State.reading_office, State.store_office]

omit hs in
theorem State.addSquares_office_error (s : State) (g adopted bs) (t : State) (e) :
    s.addSquares g adopted bs = .error (e, t) → t.office = s.office := by
  grind [State.addSquares, State.reading_office, State.store_office]

@[simp] theorem State.Follows.slotFailed (gid bid adopted st) : State.Follows r (s.slotFailed gid bid adopted st).office := by
  unfold State.slotFailed
  dsimp only
  (repeat' split) <;> simp [hs]

@[simp] theorem State.Follows.slotTableSum (gid bid adopted good1 good2) :
    State.Follows r (slotTableSum s gid bid adopted good1 good2).office := by
  unfold Machine.slotTableSum
  split
  · exact hs
  split
  · exact hs
  extract_lets +onlyGivenNames me o len
  clear_value me o len
  split
  next mine _ u hu =>
    have hu : State.Follows r u.office := by
      have htakes := hs.unitTakes memoryUnit s.sumWork
      grind
    split
    · exact hs
    split
    · exact hu
    extract_lets +onlyGivenNames s1 slots rd
    clear_value slots rd
    split
    next t0 h => exact (hu.reading h).slotFailed ..
    · exact hu
    next t0 h =>
      have ht0 := hu.reading h
      extract_lets +onlyGivenNames sum checked bad1 g1 t g2
      have ht : State.Follows r t.office := .ite (ht0.groupEvent ..) ht0
      clear_value t g2 sum checked bad1
      split
      · refine State.Follows.requestAbort (State.Follows.putBucket ?_ ..) ..
        simpa using ht
      split
      next h => exact (ht.store h).requestAbort ..
      · exact hu
      next t1 h =>
        have ht1 := ht.store h
        split
        · exact hu
        next h =>
          refine State.Follows.normFailed ?_ ..
          split at h
          · cases h
          · rwa [State.addSquares_office_error _ _ _ _ _ _ h]
        next t2 g3 h =>
          have ht2 : State.Follows r t2.office := by
            split at h
            · cases h
              exact ht1
            · rwa [State.addSquares_office _ _ _ _ _ _ h]
          exact ((ht2.putBucket ..).bump ..).normStep _

@[simp] theorem State.Follows.bcastTo (g b owner mirror addr bs d) : State.Follows r (s.bcastTo g b owner mirror addr bs d).office := by
  unfold State.bcastTo
  grind [foldl_office, State.transmit_office, foldl_follows]

@[simp] theorem State.Follows.shardPublish (gid bid adopted) : State.Follows r (shardPublish s gid bid adopted).office := by
  unfold Machine.shardPublish
  repeat' split
  all_goals
    grind [State.Follows.readNat, State.Follows.requestAbort, State.reading_office, foldl_office, State.Follows.bcastTo,
      State.Follows.putBucket, State.Follows.readyStep, State.Follows.at, foldl_follows, State.mk_follows, keepsOrder_follows]

@[simp] theorem State.Follows.bcastIn (h data) : State.Follows r (bcastIn s h data).office := by
  unfold Machine.bcastIn
  grind [State.Follows.stale, State.Follows.landAt, State.Follows.putGroup, State.Follows.putBucket, State.Follows.readyStep,
    State.Follows.hold, State.mk_follows, keepsOrder_follows]

@[simp] theorem State.Follows.resumeRoot (gid) : State.Follows r (s.resumeRoot gid).office := by
  unfold State.resumeRoot
  (repeat' split) <;> simp [hs]

@[simp] theorem State.Follows.rejoinStep (gid) : State.Follows r (s.rejoinStep gid).office := by
  unfold State.rejoinStep
  dsimp only
  (repeat' split) <;> simp [hs]

@[simp] theorem State.Follows.passOn (gid k) : State.Follows r (s.passOn gid k).office := by
  unfold State.passOn
  dsimp only
  repeat' split
  all_goals
    grind [foldl_office, State.Follows.tellAt, State.Follows.tell, foldl_follows]

@[simp] theorem State.Follows.departRank (gid k) : State.Follows r (s.departRank gid k).office := by
  unfold State.departRank
  split
  · exact hs
  extract_lets +onlyGivenNames a
  split
  · exact hs
  extract_lets +onlyGivenNames wasRoot d g1 adopts again g2 ask g3 t1 t2 t3 t4 t5 p t6
  clear_value wasRoot d g1 adopts again g2 ask
  have h1 : State.Follows r t1.office := hs.groupEvent ..
  have h2 : State.Follows r t2.office := .ite (h1.passOn ..) h1
  have h3 : State.Follows r t3.office := foldl_follows h2 fun t c ht => ht.tell ..
  have h4 : State.Follows r t4.office := foldl_follows h3 fun t c ht => ht.tell ..
  have h5 : State.Follows r t5.office := .ite (h4.requestAbort ..) (.ite (foldl_follows h4 fun t b ht => ht.nextShard ..) h4)
  have h6 : State.Follows r t6.office := .ite (h5.requestAbort ..) h5
  exact ((h6.normStep gid).readyStep gid).rejoinStep gid

@[simp] theorem State.Follows.departures (old : State) : State.Follows r (s.departures old).office := by
  unfold State.departures
  grind [foldl_office, State.Follows.departRank, State.Follows.resumeRoot, foldl_follows, State.mk_follows, keepsOrder_follows]

@[simp] theorem State.Follows.stepBegun (c) : State.Follows r (s.stepBegun c).office := by
  unfold State.stepBegun
  grind [foldl_office, State.Follows.departRank, State.Follows.resumeRoot, State.Follows.readyStep, foldl_follows]

end

section
variable {r s : State} (hs : State.Follows r s.office)
include hs

/-! ### Fabric -/

@[simp] theorem State.Follows.readIn (h len) : State.Follows r (readIn s h len).office := by
  unfold Machine.readIn
  grind [State.respond_office, State.reading_office, State.Follows.hold]

@[simp] theorem State.Follows.writeIn (h data) : State.Follows r (writeIn s h data).office := by
  unfold Machine.writeIn
  grind [State.respond_office, State.store_office, State.otherWrite_office, State.Follows.hold]

@[simp] theorem State.Follows.atomicIn (h aop ty operand) : State.Follows r (atomicIn s h aop ty operand).office := by
  unfold Machine.atomicIn
  extract_lets +onlyGivenNames g a n reply
  have hreply {t : State} (ht : State.Follows r t.office) (st v d) : State.Follows r (reply t st v d).office := by
    simpa [reply] using ht
  clear_value reply a g n
  split
  · exact hreply hs ..
  split
  · exact hreply hs ..
  split
  · exact hs.hold _
  split
  · split
    · exact hreply hs ..
    · split
      next old t ht => exact hreply (by simpa using hs.homeRead ht) ..
      next t ht => exact hreply (hs.homeRead ht) ..
      · exact hs.hold _
  · exact hreply hs ..
  · exact hs.hold _

@[simp] theorem State.Follows.pullIn (h raddr len) : State.Follows r (pullIn s h raddr len).office := by
  unfold Machine.pullIn
  grind [State.respond_office, State.reading_office, State.Follows.sendBulk, State.Follows.hold]

@[simp] theorem State.Follows.failPkt (c st d) : State.Follows r (s.failPkt c st d).office := by
  unfold State.failPkt
  split
  · exact hs
  split
  · exact .ite (hs.modPkt fun _ => ⟨rfl, fun hk => hk⟩) hs
  split
  · exact .ite (hs.finishSilent ..) (hs.finish ..)
  split
  · split
    · split
      · exact .ite (hs.modItem ..) (hs.workFailed ..)
      · exact hs
    · exact .settle (.ite ((hs.modRun ..).faultData ..) (hs.modRun ..))
  · exact .ite (hs.moverErr ..) (hs.finish ..)

@[simp] theorem State.Follows.dropReq (w) : State.Follows r (s.dropReq w).office := by simp [State.dropReq, hs]

@[simp] theorem State.Follows.failReq (w st d) : State.Follows r (s.failReq w st d).office := by simp [State.failReq, hs]

@[simp] theorem State.Follows.pullDone (w h) : State.Follows r (s.pullDone w h).office := by
  unfold State.pullDone
  dsimp only
  (repeat' split) <;> simp [hs]

@[simp] theorem State.Follows.bulkIn (h last planeCount data) : State.Follows r (bulkIn s h last planeCount data).office := by
  unfold Machine.bulkIn
  extract_lets +onlyGivenNames pulled mine reply
  have hreply {t : State} (ht : State.Follows r t.office) (st d) : State.Follows r (reply t st d).office := by
    simpa [reply] using ht
  clear_value reply pulled mine
  split
  · exact hs
  extract_lets +onlyGivenNames inside g
  clear_value inside g
  split
  next t e h =>
    have ht : State.Follows r t.office := by
      split at h
      · exact hs.store h
      · split at h
        · exact hs.store h
        · cases h
          exact hs
    clear h
    split
    · exact hreply hs ..
    split
    · exact hs.hold _
    split
    · dsimp only
      split
      · exact (hreply ht ..).failReq ..
      · exact hreply ht ..
    · exact hs.hold _
    · extract_lets +onlyGivenNames t0 n others whole fab t1 t2
      have h1 : State.Follows r t1.office := by
        simp only [t1, State.mk_follows, keepsOrder_follows]
        simpa [t0] using ht
      have h2 : State.Follows r t2.office := .ite (hreply h1 ..) h1
      clear_value t2
      split
      · exact h2
      · exact .ite (.pullDone (by simpa using h2) ..) (by simpa using h2)

@[simp] theorem State.Follows.driftReply (c old) : State.Follows r (s.driftReply c old).office := by
  unfold State.driftReply
  split
  · exact hs
  split
  · split
    · exact hs
    · dsimp only
      split
      next t ht => exact (hs.modItem ..).request ht
      · exact hs.modItem ..
  · exact hs

@[simp] theorem State.Follows.respIn (h status rkind value detail data) :
    State.Follows r (respIn s h status rkind value detail data).office := by
  unfold Machine.respIn
  grind [State.Follows.queued, State.Follows.failReq, State.Follows.dropReq, State.Follows.settle, State.Follows.driftReply,
    State.Follows.atomicEnd, State.mk_follows, keepsOrder_follows]

@[simp] theorem State.Follows.bulkDoneIn (h status detail) : State.Follows r (bulkDoneIn s h status detail).office := by
  unfold Machine.bulkDoneIn
  dsimp only
  (repeat' split) <;> simp [hs]

@[simp] theorem State.Follows.msgAckIn (h) : State.Follows r (msgAckIn s h).office := by simp [Machine.msgAckIn, hs]

@[simp] theorem State.Follows.messageRepeat (dest mseq) : State.Follows r (messageRepeat s dest mseq).office := by
  unfold Machine.messageRepeat
  dsimp only
  (repeat' split) <;> simp [hs]

@[simp] theorem State.Follows.remoteTimeout (tag) : State.Follows r (remoteTimeout s tag).office := by
  unfold Machine.remoteTimeout
  (repeat' split) <;> simp [hs]

@[simp] theorem State.Follows.noteMaster : State.Follows r s.noteMaster.office := by simp [State.noteMaster, hs]

@[simp] theorem State.Follows.takeOffset (o) : State.Follows r (s.takeOffset o).office := by simp [State.takeOffset, hs]

@[simp] theorem State.Follows.dropSync : State.Follows r s.dropSync.office := by
  unfold State.dropSync
  dsimp only
  (repeat' split) <;> simp [hs]

@[simp] theorem State.Follows.reachChanged (old : State) : State.Follows r (s.reachChanged old).office := by
  unfold State.reachChanged
  grind [State.Follows.departures, foldl_office, State.Follows.syncGroup, State.Follows.dropSync, State.Follows.noteMaster, foldl_follows]

@[simp] theorem State.Follows.portStateIn (port mid up) : State.Follows r (portStateIn s port mid up).office := by
  simp [Machine.portStateIn, hs]

@[simp] theorem State.Follows.departingIn (port src mseq) : State.Follows r (departingIn s port src mseq).office := by
  simp [Machine.departingIn, hs]

@[simp] theorem State.Follows.failBulk (dest tag n st d) : State.Follows r (s.failBulk dest tag n st d).office := by
  unfold State.failBulk
  dsimp only
  (repeat' split) <;> simp [hs]

@[simp] theorem State.Follows.movePlane (dest tag n ms) : State.Follows r (s.movePlane dest tag n ms).office :=
  hs.edit (fun k => by split <;> simp) rfl rfl

@[simp] theorem State.Follows.reroute (n k) : State.Follows r (s.reroute n k).office := by
  unfold State.reroute
  dsimp only
  (repeat' split) <;> simp [hs]

@[simp] theorem State.Follows.rerouteAll (n l) : State.Follows r (s.rerouteAll n l).office := by
  unfold State.rerouteAll
  grind [foldl_office, State.Follows.movePlane, State.Follows.reroute, foldl_follows, State.mk_follows, keepsOrder_follows]

@[simp] theorem State.Follows.losePort (n st) : State.Follows r (s.losePort n st).office := by
  unfold State.losePort
  extract_lets +onlyGivenNames p lost src t0 t1 t2 nonPosted t3 bulks t4 keys t5
  have h1 : State.Follows r t1.office := State.Follows.rerouteAll (by simpa [t0] using hs) ..
  have h2 : State.Follows r t2.office := foldl_follows h1 fun t c ht => by
    split
    · exact ht
    · split
      · simpa using ht
      · exact ht.failReq ..
  have h3 : State.Follows r t3.office := foldl_follows h2 fun t k ht => by
    split
    · exact ht.failReq ..
    · exact ht
  have h4 : State.Follows r t4.office := foldl_follows h3 fun t b ht => ht.failBulk ..
  have h5 : State.Follows r t5.office := foldl_follows h4 fun t k ht => ht.requestAbortAt ..
  exact h5.reachChanged s

@[simp] theorem State.Follows.tryTrain (n) : State.Follows r (s.tryTrain n).office := by simp [State.tryTrain, hs]

@[simp] theorem State.Follows.enablePort (n on) : State.Follows r (s.enablePort n on).office := by simp [State.enablePort, hs]

@[simp] theorem State.Follows.retrainPort (n) : State.Follows r (s.retrainPort n).office := by simp [State.retrainPort, hs]

@[simp] theorem State.Follows.trainingDone (n ok plane) : State.Follows r (trainingDone s n ok plane).office := by
  simp [Machine.trainingDone, hs]

@[simp] theorem State.Follows.laneSpare (n lane) : State.Follows r (laneSpare s n lane).office := by
  unfold Machine.laneSpare
  dsimp only
  (repeat' split) <;> simp [hs]

@[simp] theorem State.Follows.laneRetrained (n lane ok) : State.Follows r (laneRetrained s n lane ok).office := by
  simp [Machine.laneRetrained, hs]

@[simp] theorem State.Follows.linkIn (n f) : State.Follows r (linkIn s n f).office := by simp [Machine.linkIn, hs]

@[simp] theorem State.Follows.discardedPacket (typ vc) : State.Follows r (discardedPacket s typ vc).office := by
  simp [Machine.discardedPacket, hs]

@[simp] theorem State.Follows.sendTime (port dest sub arg0 arg1) :
    State.Follows r (s.sendTime port dest sub arg0 arg1).office := by
  simp [State.sendTime, hs]

@[simp] theorem State.Follows.timeSyncIn (port src sub mseq arg0 arg1 mt) :
    State.Follows r (timeSyncIn s port src sub mseq arg0 arg1 mt).office := by
  unfold Machine.timeSyncIn
  dsimp only
  (repeat' split) <;> simp [hs]

@[simp] theorem State.Follows.timeSyncExchange (port) : State.Follows r (timeSyncExchange s port).office := by
  simp [Machine.timeSyncExchange, hs]

@[simp] theorem State.Follows.timeMasterLost : State.Follows r (timeMasterLost s).office := by
  unfold Machine.timeMasterLost
  dsimp only
  (repeat' split) <;> simp [hs]

/-! ### Feeds -/

@[simp] theorem State.Follows.feedOpenRun (q k) : State.Follows r (feedOpenRun s q k).office := by
  unfold Machine.feedOpenRun
  dsimp only
  repeat' split
  all_goals
    grind [State.reading_office, State.Follows.onErr, foldl_office, State.Follows.finish, State.Follows.setFeed, foldl_follows,
      State.mk_follows, keepsOrder_follows]

@[simp] theorem State.Follows.feedSubmitRun (q k) : State.Follows r (feedSubmitRun s q k).office := by
  simp [Machine.feedSubmitRun, hs]

@[simp] theorem State.Follows.feedStore (f g bs) : State.Follows r (s.feedStore f g bs).office := by
  unfold State.feedStore
  grind [foldl_office, State.storePiece_office, State.Follows.faultCtx, State.owe_office, foldl_follows]

@[simp] theorem State.Follows.modFeed (n g) : State.Follows r (s.modFeed n g).office := by simp [State.modFeed, hs]

@[simp] theorem State.Follows.feedSem (f o) : State.Follows r (s.feedSem f o).office := by simp [State.feedSem, hs]

@[simp] theorem State.Follows.closeBatch (n a partly) : State.Follows r (s.closeBatch n a partly).office := by
  unfold State.closeBatch
  grind [State.Follows.feedStore, State.Follows.modFeed, State.Follows.feedSem, State.mk_follows, keepsOrder_follows]

@[simp] theorem State.Follows.drained (n) : State.Follows r (s.drained n).office := by
  unfold State.drained
  grind [State.Follows.closeBatch, State.Follows.finish, State.Follows.setFeed]

@[simp] theorem State.Follows.feedCloseRun (q k) : State.Follows r (feedCloseRun s q k).office := by
  unfold Machine.feedCloseRun
  grind [State.Follows.wait, State.Follows.drained, State.Follows.finish, State.Follows.setFeed, State.mk_follows, keepsOrder_follows]

@[simp] theorem State.Follows.logTomb (n idx reason fld detail) : State.Follows r (s.logTomb n idx reason fld detail).office := by
  unfold State.logTomb
  grind [State.Follows.feedStore, State.Follows.modFeed, State.Follows.feedSem, State.mk_follows, keepsOrder_follows]

@[simp] theorem State.Follows.deliverSample (n x) : State.Follows r (s.deliverSample n x).office := by
  unfold State.deliverSample
  extract_lets +onlyGivenNames f a pos buf start toks kept dropped t1 t2 t3
  have h3 : State.Follows r t3.office :=
    foldl_follows ((hs.feedStore ..).feedStore ..) fun t e ht => ht.feedStore ..
  clear_value t3
  dsimp only
  refine State.Follows.modFeed ?_ ..
  split
  · exact (h3.feedStore ..).logTomb ..
  · exact h3.feedStore ..

@[simp] theorem State.Follows.reorderRelease (n) : State.Follows r (reorderRelease s n).office := by
  unfold Machine.reorderRelease
  dsimp only
  repeat' split
  all_goals
    grind [State.Follows.deliverSample, State.Follows.closeBatch, State.Follows.drained, State.Follows.settle, State.reading_office,
      State.dropLanded_office, State.Follows.askRead, State.Follows.faultCtx, State.mk_follows, keepsOrder_follows]

@[simp] theorem State.Follows.tokenizerRun (q k) : State.Follows r (tokenizerRun s q k).office := by
  unfold Machine.tokenizerRun
  grind [State.reading_office, State.Follows.onErr, State.Follows.finish, State.Follows.setTok]

@[simp] theorem State.Follows.modSample (n idx g) : State.Follows r (s.modSample n idx g).office := by simp [State.modSample, hs]

@[simp] theorem State.Follows.sampleDecodeStart (n) : State.Follows r (sampleDecodeStart s n).office := by
  unfold Machine.sampleDecodeStart
  grind [State.Follows.unitTakes, State.Follows.modSample, State.mk_follows, keepsOrder_follows]

@[simp] theorem State.Follows.tombstone (n idx reason fld detail) :
    State.Follows r (s.tombstone n idx reason fld detail).office := by
  simp [State.tombstone, hs]

@[simp] theorem State.Follows.sourceFailed (n x st d) : State.Follows r (s.sourceFailed n x st d).office := by
  simp [State.sourceFailed, hs]

@[simp] theorem State.Follows.softLate (n idx) : State.Follows r (softLate s n idx).office := by
  unfold Machine.softLate
  grind [State.Follows.modSample, State.Follows.feedSem, State.Follows.at, State.mk_follows, keepsOrder_follows]

@[simp] theorem State.Follows.softBy (n x mt) : State.Follows r (s.softBy n x mt).office := by simp [State.softBy, hs]

@[simp] theorem State.Follows.sampleEnds (n idx mt) : State.Follows r (s.sampleEnds n idx mt).office := by
  unfold State.sampleEnds
  extract_lets +onlyGivenNames f
  split
  · exact hs
  next x _ =>
    split
    · exact hs
    split
    · exact ((hs.softBy ..).at _).tombstone ..
    split
    · exact hs
    split
    · exact .ite (((hs.softBy ..).at _).tombstone ..) (((hs.softBy ..).at _).sourceFailed ..)
    · extract_lets +onlyGivenNames src a
      split
      · exact hs
      · split
        next t ht => exact hs.askRead ht
        · exact .ite hs (((hs.softBy ..).at _).sourceFailed ..)
        · exact hs
      next t ht => exact (((hs.reading ht).softBy ..).at _).sourceFailed ..
      next o t ht =>
        extract_lets +onlyGivenNames t1 media t2 c t3 t4
        have h1 : State.Follows r t1.office := by simpa [t1] using ((hs.reading ht).softBy n x mt).at mt
        have h2 : State.Follows r t2.office := by simpa only [t2, State.mk_follows, keepsOrder_follows] using h1
        have h3 : State.Follows r t3.office := .ite h1 ((h2.setCtx ..).modSample ..)
        have h4 : State.Follows r t4.office := foldl_follows h3 fun t e ht => ht.feedStore ..
        split
        · exact h4.tombstone ..
        · exact (h4.modFeed ..).modSample ..

@[simp] theorem State.Follows.sampleReady (n idx mt) : State.Follows r (sampleReady s n idx mt).office := by
  unfold Machine.sampleReady
  dsimp only
  (repeat' split) <;> simp [hs]

@[simp] theorem State.Follows.hardLate (n idx) : State.Follows r (hardLate s n idx).office := by
  unfold Machine.hardLate
  dsimp only
  (repeat' split) <;> simp [hs]

/-! ### Video -/

@[simp] theorem State.Follows.sessionOpenRun (q k) : State.Follows r (sessionOpenRun s q k).office := by
  unfold Machine.sessionOpenRun
  grind [State.store_office, State.Follows.onErr, State.Follows.finish, State.Follows.setSession, State.mk_follows, keepsOrder_follows]

@[simp] theorem State.Follows.mediaEnd (n p st d) : State.Follows r (s.mediaEnd n p st d).office := by simp [State.mediaEnd, hs]

@[simp] theorem State.Follows.countConcealed : State.Follows r s.countConcealed.office := by simp [State.countConcealed, hs]

@[simp] theorem State.Follows.countOverflow : State.Follows r s.countOverflow.office := by simp [State.countOverflow, hs]

theorem State.Follows.pictureIn {n p fullW fullH mono parents f miss need} {t : State}
    (h : s.pictureIn n p fullW fullH mono parents f miss need = some t) : State.Follows r t.office := by
  unfold State.pictureIn at h
  grind [State.Follows.setSession, State.Follows.countOverflow, State.Follows.countConcealed, State.storeAll_office]

@[simp] theorem State.Follows.play (n p events) : State.Follows r (s.play n p events).office := by
  induction events generalizing s with
  | nil => exact hs.setSession ..
  | cons e l ih =>
    unfold State.play
    extract_lets +onlyGivenNames x
    cases e with
    | decoded =>
      dsimp only
      split
      · exact hs.setSession ..
      next t ht => exact .ite (hs.pictureIn ht) (ih (hs.pictureIn ht))
    | unref =>
      dsimp only
      split
      · exact ih (hs.setSession ..)
      · exact ih hs
    | output =>
      dsimp only
      split
      · exact .ite (ih hs) (ih (hs.setSession ..))
      · exact ih hs
    | unsupported => exact hs.setSession ..
    | error => exact ih (hs.setSession ..)

@[simp] theorem State.Follows.decodeDone (n) : State.Follows r (s.decodeDone n).office := by
  unfold State.decodeDone
  dsimp only
  (repeat' split) <;> simp [hs]

@[simp] theorem State.Follows.decodeOn (n) : State.Follows r (s.decodeOn n).office := by
  unfold State.decodeOn
  (repeat' split) <;> simp [hs]

@[simp] theorem State.Follows.codecTurn (n) : State.Follows r (s.codecTurn n).2.office := by simp [State.codecTurn, hs]

@[simp] theorem State.Follows.decodeTurn (n) : State.Follows r (s.decodeTurn n).office := by
  unfold State.decodeTurn
  grind [State.Follows.codecTurn, State.Follows.decodeOn, State.Follows.decodeDone]

@[simp] theorem State.Follows.acceptDecode (n k) : State.Follows r (s.acceptDecode n k).office := by simp [State.acceptDecode, hs]

@[simp] theorem State.Follows.beginDecode (q n k) : State.Follows r (s.beginDecode q n k).office := by
  unfold State.beginDecode
  grind [State.reading_office, State.Follows.mediaEnd, State.Follows.onErr, State.dropLanded_office, State.Follows.decodeOn,
    State.Follows.setSession, State.mk_follows, keepsOrder_follows]

@[simp] theorem State.Follows.mediaTidy (ctx) : State.Follows r (s.mediaTidy ctx).office := by
  unfold State.mediaTidy
  dsimp only
  (repeat' split) <;> simp [hs]

@[simp] theorem State.Follows.mediaDecodeStep (q k) : State.Follows r (mediaDecodeStep s q k).office := by
  unfold Machine.mediaDecodeStep
  dsimp only
  repeat' split
  all_goals
    grind [State.Follows.mediaEnd, State.Follows.codecTurn, State.Follows.decodeDone, State.Follows.decodeOn, State.Follows.beginDecode,
      State.Follows.acceptDecode, State.Follows.finish]

@[simp] theorem State.Follows.mediaDecodeRun (q k) : State.Follows r (mediaDecodeRun s q k).office := by
  simp [Machine.mediaDecodeRun, hs]

@[simp] theorem State.Follows.writeOutput (n i) : State.Follows r (s.writeOutput n i).office := by
  unfold State.writeOutput
  grind [State.storeAll_office, State.Follows.decodeDone, State.signalQuiet_office, State.Follows.decodeTurn, State.Follows.setSession,
    State.mk_follows, keepsOrder_follows]

@[simp] theorem State.Follows.outputRecord (n) : State.Follows r (outputRecord s n).office := by
  unfold Machine.outputRecord
  dsimp only
  (repeat' split) <;> simp [hs]

@[simp] theorem State.Follows.outConsReread (n) : State.Follows r (outConsReread s n).office := by
  unfold Machine.outConsReread
  grind [State.reading_office, State.dropLanded_office, State.Follows.askRead, State.Follows.decodeDone, State.Follows.setSession,
    State.mk_follows, keepsOrder_follows]

@[simp] theorem State.Follows.encodeNow (q n k) : State.Follows r (s.encodeNow q n k).office := by
  unfold State.encodeNow
  grind [State.reading_office, State.Follows.mediaEnd, State.Follows.onErr, State.storeAll_office, State.signalQuiet_office,
    State.Follows.setSession, State.mk_follows, keepsOrder_follows]

@[simp] theorem State.Follows.mediaEncodeRun (q k) : State.Follows r (mediaEncodeRun s q k).office := by
  unfold Machine.mediaEncodeRun
  grind [State.Follows.mediaEnd, State.Follows.codecTurn, State.Follows.encodeNow, State.Follows.finish]

@[simp] theorem State.Follows.sessionReset (n) : State.Follows r (s.sessionReset n).office := by
  unfold State.sessionReset
  dsimp only
  (repeat' split) <;> simp [hs]

/-! ### Completion -/

omit hs in
@[simp] theorem State.Follows.putRecord (hs : State.Follows r s.office) (c irq rec) :
    State.Follows r (s.putRecord c irq rec).office := by simp [State.putRecord, hs]

omit hs in
@[simp] theorem State.Follows.backwardDone (hs : State.Follows r s.office) (k) :
    State.Follows r (s.backwardDone k).office := by
  unfold State.backwardDone
  grind [State.Follows.setAct, State.Follows.enterExchange, State.Follows.setCtx, State.mk_follows, keepsOrder_follows]

@[simp] theorem State.Follows.haltQueue (q) : State.Follows r (s.haltQueue q).office := hs.setQueue (.refl _)

@[simp] theorem State.Follows.endFlush (q) : State.Follows r (s.endFlush q).office := .ite (hs.setQueue (.refl _)) hs

@[simp] theorem State.Follows.record (q k) : State.Follows r (s.record q k).office := by
  unfold State.record
  extract_lets +onlyGivenNames c x t1 src2 t2 src3 t3 t4 t5 src6 t6 src7 t7 t8 t9 t10
  have h1 : State.Follows r t1.office := .ite hs (hs.setCtx ..)
  have h2 : State.Follows r t2.office := .ite (h1.setCtx ..) h1
  have h3 : State.Follows r t3.office := .ite (h2.setCtx ..) h2
  have h4 : State.Follows r t4.office := h3.putRecord ..
  have h5 : State.Follows r t5.office := by
    simp only [t5]
    split
    · exact h4.setClient ..
    · exact h4
  have h6 : State.Follows r t6.office := h5.setRing ..
  have h7 : State.Follows r t7.office := State.Follows.endFlush (h6.setQueue List.filter_sublist) q
  have h8 : State.Follows r t8.office := .ite (h7.haltQueue q) h7
  clear_value t8
  have h9 : State.Follows r t9.office := .ite h8 (h8.edit (fun k => by split <;> simp_all) rfl rfl)
  have h10 : State.Follows r t10.office := State.Follows.backwardDone (by simpa using h9) k
  exact .ite h10.startAllXfers h10

@[simp] theorem State.Follows.signalStep (q k) : State.Follows r (s.signalStep q k).1.office := by
  unfold State.signalStep
  split
  · exact hs
  · dsimp only
    split
    next t ht => exact (hs.signal ht).modPkt (by simp)
    · refine State.Follows.modPkt (State.Follows.modPkt ?_ (by simp)) fun _ => ⟨rfl, fun hk => hk⟩
      simpa using hs
    · exact hs

@[simp] theorem State.Follows.policyLate (k) : State.Follows r (s.policyLate k).office :=
  .ite (hs.modPkt fun _ => ⟨rfl, fun hk => hk⟩) hs

@[simp] theorem State.Follows.complete (p) : State.Follows r (s.complete p).office := by
  unfold State.complete
  split
  · exact hs
  next q k _ =>
    split
    · exact hs
    · extract_lets +onlyGivenNames t c x
      have ht : State.Follows r t.office := .ite (hs.modPkt (by simp)) hs
      clear_value t
      split
      · exact State.Follows.modPkt (.ite ht (ht.setRing ..)) (by simp)
      split
      · exact ht
      · extract_lets +onlyGivenNames u
        have hu : State.Follows r u.office := ht.policyLate k
        split
        · exact hu
        next p e _ =>
          have hsignal := hu.signalStep q e
          split
          next v hv => simpa [hv] using hsignal
          next v hv =>
            rw [hv] at hsignal
            split
            · exact hsignal.record ..
            · exact hsignal

@[simp] theorem State.Follows.drainRing (c) : State.Follows r (s.drainRing c).office := by simp +contextual [State.drainRing, hs]

/-! ### Resets -/

@[simp] theorem State.Follows.superseded (w pkts) : State.Follows r (s.superseded w pkts).office := by simp [State.superseded, hs]

@[simp] theorem State.Follows.pushReset (dom idx cause noReplay pkts) :
    State.Follows r (s.pushReset dom idx cause noReplay pkts).office := by
  simp [State.pushReset, hs]

@[simp] theorem State.Follows.cutItem (it) : State.Follows r (s.cutItem it).office := by
  unfold State.cutItem
  dsimp only
  (repeat' split) <;> simp [hs]

@[simp] theorem State.Follows.cutList (p) : State.Follows r (s.cutList p).office := by simp [State.cutList, hs]

@[simp] theorem State.Follows.endSequencer (e) : State.Follows r (s.endSequencer e).office := by
  simp +contextual [State.endSequencer, hs]

@[simp] theorem State.Follows.engineDown (e watchdog noReplay) : State.Follows r (s.engineDown e watchdog noReplay).office := by
  unfold State.engineDown
  extract_lets +onlyGivenNames g its lists movers held waiting t1 t2 t3 t4 t5 idle t6 t7 clear t8 cores
  have h1 : State.Follows r t1.office := foldl_follows hs fun t i ht => ht.modRun ..
  have h2 : State.Follows r t2.office := foldl_follows h1 fun t i ht => ht.cutItem i
  clear_value t2
  have h3 : State.Follows r t3.office := by simpa only [t3, State.mk_follows, keepsOrder_follows] using h2
  have h4 : State.Follows r t4.office := foldl_follows h3 fun t p ht => ht.cutList p
  have h5 : State.Follows r t5.office := (foldl_follows h4 fun t x ht => ht.finish ..).endSequencer e
  have h7 : State.Follows r t7.office := State.Follows.revoke (by simpa [t6] using h5) _
  clear_value t7
  have h8 : State.Follows r t8.office := by simpa only [t8, State.mk_follows, keepsOrder_follows] using h7
  exact h8.setEngine ..

@[simp] theorem State.Follows.recaught : State.Follows r s.recaught.office := by
  unfold State.recaught
  grind [State.Follows.modPkt, Packet.becomes_iff, Packet.mk_idle, Packet.fetched_idle, State.mk_follows, keepsOrder_follows]

@[simp] theorem State.Follows.takeOver (cause) : State.Follows r (s.takeOver cause).office := by simp [State.takeOver, hs]

@[simp] theorem State.Follows.sendDeparting : State.Follows r s.sendDeparting.office := by simp [State.sendDeparting, hs]

@[simp] theorem State.Follows.flushDie (d) : State.Follows r (s.flushDie d).office := by simp [State.flushDie, hs]

@[simp] theorem State.Follows.flushAll : State.Follows r s.flushAll.office := by
  unfold State.flushAll
  grind [foldl_office, State.Follows.flushDie, State.Follows.pass, foldl_follows]

@[simp] theorem State.Follows.clearLocks : State.Follows r s.clearLocks.office := by simp [State.clearLocks, hs]

omit hs in
@[simp] theorem State.Follows.moduleCleared (op) : State.Follows r (s.moduleCleared op).office := ⟨fun _ => .nil _⟩

@[simp] theorem State.Follows.startModule (cause orderly pkts) : State.Follows r (s.startModule cause orderly pkts).office := by
  unfold State.startModule
  grind [State.Follows.pushReset, foldl_office, State.Follows.complete, State.Follows.sendDeparting, State.Follows.moduleCleared,
    State.Follows.finish, foldl_follows]

@[simp] theorem State.Follows.hubDown (h) : State.Follows r (s.hubDown h).office := by
  unfold State.hubDown
  grind [State.dropReqs_office, foldl_office, State.Follows.losePort, State.setPort_office, State.Follows.sessionReset, foldl_follows,
    State.mk_follows, keepsOrder_follows]

@[simp] theorem State.Follows.startHub (h cause pkts) : State.Follows r (s.startHub h cause pkts).office := by
  unfold State.startHub
  grind [State.Follows.superseded, State.Follows.pushReset, State.Follows.hubDown, State.Follows.takeOver, State.Follows.startModule,
    State.mk_follows, keepsOrder_follows]

@[simp] theorem State.Follows.startDie (d cause noReplay pkts) : State.Follows r (s.startDie d cause noReplay pkts).office := by
  unfold State.startDie
  grind [State.Follows.superseded, State.Follows.flushDie, State.Follows.pushReset, foldl_office, State.Follows.engineDown,
    State.Follows.settle, foldl_follows, State.mk_follows, keepsOrder_follows]

@[simp] theorem State.Follows.startEngine (e cause noReplay pkts) :
    State.Follows r (s.startEngine e cause noReplay pkts).office := by
  unfold State.startEngine
  grind [State.Follows.superseded, State.Follows.startDie, State.Follows.pushReset, State.Follows.engineDown, State.Follows.settle,
    State.mk_follows, keepsOrder_follows]

@[simp] theorem State.Follows.startPort (n cause pkts) : State.Follows r (s.startPort n cause pkts).office := by
  unfold State.startPort
  dsimp only
  (repeat' split) <;> simp [hs]

@[simp] theorem State.Follows.resetDomainRun (q k) : State.Follows r (resetDomainRun s q k).office := by
  unfold Machine.resetDomainRun
  dsimp only
  (repeat' split) <;> simp [hs]

@[simp] theorem State.Follows.hbCount : State.Follows r (hbCount s).office := by simp [Machine.hbCount, hs]

@[simp] theorem State.Follows.heartbeatRecord : State.Follows r (heartbeatRecord s).office := by simp [Machine.heartbeatRecord, hs]

@[simp] theorem State.Follows.takeover : State.Follows r (takeover s).office := by simp [Machine.takeover, hs]

@[simp] theorem State.Follows.standbyReady : State.Follows r (standbyReady s).office := by simp [Machine.standbyReady, hs]

@[simp] theorem State.Follows.release (e c) : State.Follows r (s.release e c).office := by simp [State.release, hs]

@[simp] theorem State.Follows.serveAgain (e) : State.Follows r (s.serveAgain e).office := by
  unfold State.serveAgain
  grind [foldl_office, State.Follows.retireCore, State.Follows.settle, State.Follows.startXfers, State.Follows.setCore,
    State.Follows.setEngine, foldl_follows, State.mk_follows, keepsOrder_follows]

@[simp] theorem State.Follows.nextTest (e) : State.Follows r (s.nextTest e).office := by simp [State.nextTest, hs]

@[simp] theorem State.Follows.passSuspect (e c) : State.Follows r (s.passSuspect e c).office := by
  unfold State.passSuspect
  grind [State.Follows.rstEvent, State.Follows.release, State.Follows.nextTest]

@[simp] theorem State.Follows.replayPass (e mt) : State.Follows r (replayPass s e mt).office := by
  unfold Machine.replayPass
  dsimp only
  (repeat' split) <;> simp [hs]

@[simp] theorem State.Follows.rstReplayMs (e) : State.Follows r (rstReplayMs s e).office := by
  unfold Machine.rstReplayMs
  dsimp only
  (repeat' split) <;> simp [hs]

@[simp] theorem State.Follows.cutStatus (e c st d) : State.Follows r (s.cutStatus e c st d).office := by
  simp +contextual [State.cutStatus, hs]

@[simp] theorem State.Follows.replayFault (e st d) : State.Follows r (replayFault s e st d).office := by
  unfold Machine.replayFault
  grind [State.Follows.rstEvent, State.Follows.cutStatus, State.Follows.faultCtx, State.Follows.release, State.Follows.nextTest,
    State.Follows.setEngine, State.mk_follows, keepsOrder_follows]

@[simp] theorem State.Follows.engineWatchdog (e) : State.Follows r (engineWatchdog s e).office := by
  unfold Machine.engineWatchdog
  extract_lets +onlyGivenNames g due
  split
  · exact hs
  · exact .ite hs (((hs.at _).rstEvent ..).startEngine ..)
  · split
    · exact hs
    · split
      · exact hs
      · clear_value due
        extract_lets +onlyGivenNames t1 t2 ctrl t3 t4 t5
        have h2 : State.Follows r t2.office := (hs.at due).rstEvent ..
        clear_value t2
        have h3 : State.Follows r t3.office := by simpa only [t3, State.mk_follows, keepsOrder_follows] using h2
        exact ((((h3.setEngine ..).cutStatus ..).faultCtx ..).release ..).startEngine ..

@[simp] theorem State.Follows.unitHang (h) : State.Follows r (unitHang s h).office := by
  unfold Machine.unitHang
  (repeat' split) <;> simp [hs]

@[simp] theorem State.Follows.resetTimerExpiry (dom idx) : State.Follows r (resetTimerExpiry s dom idx).office := by
  unfold Machine.resetTimerExpiry
  dsimp only
  repeat' split
  all_goals
    grind [State.Follows.rstEvent, State.Follows.startDie, State.Follows.startHub, State.Follows.startModule, State.Follows.at,
      State.mk_follows, keepsOrder_follows]

@[simp] theorem State.Follows.applyHeld (h) : State.Follows r (s.applyHeld h).office := by
  unfold State.applyHeld
  grind [foldl_office, State.Follows.enablePort, State.Follows.retrainPort, foldl_follows, State.mk_follows, keepsOrder_follows]

@[simp] theorem State.Follows.unitBack (dom idx) : State.Follows r (s.unitBack dom idx).office := by
  unfold State.unitBack
  grind [State.Follows.endSequencer, State.Follows.nextTest, State.Follows.tryTrain, foldl_office, State.Follows.applyHeld, foldl_follows,
    State.mk_follows, keepsOrder_follows]

@[simp] theorem State.Follows.resetDone (dom idx mt degraded) : State.Follows r (resetDone s dom idx mt degraded).office := by
  unfold Machine.resetDone
  dsimp only
  repeat' split
  all_goals
    grind [foldl_office, State.startRetire_office, State.Follows.rstEvent, State.Follows.unitBack, State.Follows.settle,
      State.Follows.finish, State.Follows.at, foldl_follows, State.mk_follows, keepsOrder_follows]

/-! ### Power -/

@[simp] theorem State.Follows.quadSample (n temp) : State.Follows r (quadSample s n temp).office := by
  simp [Machine.quadSample, hs]

@[simp] theorem State.Follows.capSample (watts centiV) : State.Follows r (capSample s watts centiV).office := by
  simp [Machine.capSample, hs]

@[simp] theorem State.Follows.powerRun (q k) : State.Follows r (powerRun s q k).office := by
  unfold Machine.powerRun
  extract_lets +onlyGivenNames tgt fl t
  refine .ite hs (.ite (hs.finish ..) (.ite hs (.ite (hs.finish ..) (.ite (hs.finish ..) (State.Follows.refresh ?_)))))
  exact hs.wait k.id

omit hs in
@[simp] theorem State.Follows.powerLost (st) : State.Follows r (s.powerLost st).office := ⟨fun _ => .nil _⟩

omit hs in
@[simp] theorem State.Follows.comeUp : State.Follows r s.comeUp.office := by simp [State.comeUp]

@[simp] theorem State.Follows.unloadAll : State.Follows r s.unloadAll.office := by simp [State.unloadAll, hs]

@[simp] theorem State.Follows.enterDoze : State.Follows r s.enterDoze.office := by simp [State.enterDoze, hs]

@[simp] theorem State.Follows.transitionDone : State.Follows r (transitionDone s).office := by
  unfold Machine.transitionDone
  grind [State.Follows.enterDoze, State.Follows.refresh, State.Follows.settle, State.Follows.complete, State.Follows.sendDeparting,
    State.Follows.powerLost, State.Follows.comeUp, State.Follows.finish, State.mk_follows, keepsOrder_follows]

@[simp] theorem State.Follows.selfRefresh (stack) : State.Follows r (selfRefresh s stack).office := by
  simp [Machine.selfRefresh, hs]

@[simp] theorem State.Follows.powerUp : State.Follows r (powerUp s).office := by simp [Machine.powerUp, hs]

omit hs in
@[simp] theorem State.Follows.inputOff (full) : State.Follows r (inputOff s full).office := by simp [Machine.inputOff]

@[simp] theorem State.Follows.wakeN (us) : State.Follows r (wakeN s us).office := by simp [Machine.wakeN, hs]

@[simp] theorem State.Follows.setLink (port up) : State.Follows r (s.setLink port up).office := by simp [State.setLink, hs]

@[simp] theorem State.Follows.perstnN (port) : State.Follows r (perstnN s port).office := by simp [Machine.perstnN, hs]

@[simp] theorem State.Follows.linkUp (port) : State.Follows r (linkUp s port).office := by simp [Machine.linkUp, hs]

@[simp] theorem State.Follows.identRun (q k) : State.Follows r (identRun s q k).office := by
  unfold Machine.identRun
  grind [State.store_office, State.Follows.onErr, State.Follows.finish, State.mk_follows, keepsOrder_follows]

/-! ### What runs a command's packet -/

@[simp] theorem State.Follows.cmdTail (fn q v) : State.Follows r (cmdTail s fn q v).office := by
  unfold Machine.cmdTail
  exact .ite hs (.ite (hs.setQueue (.refl _)) (hs.setQueue (.refl _)))

@[simp] theorem State.Follows.cplHead (fn c v) : State.Follows r (cplHead s fn c v).office := by simp [Machine.cplHead, hs]

omit hs in
theorem headerPacket_idle (n : Nat) (b : List Byte) : (headerPacket n b).Idle := fun _ => rfl

omit hs in
@[simp] theorem packetOf_id (n : Nat) (b : List Byte) : (packetOf n b).id = n := by
  unfold packetOf
  dsimp only
  split <;> rfl

omit hs in
theorem packetOf_idle (n : Nat) (b : List Byte) : (packetOf n b).Idle := by
  unfold packetOf
  dsimp only
  split <;> exact fun _ => rfl

/-- R36: a packet that is fetched takes the next number. -/
theorem State.Follows.addPkt {q : Nat} {k : Packet} (hid : k.id = s.nextPkt) (hidle : k.Idle) :
    State.Follows r (s.addPkt q k).office :=
  ⟨fun hr => (hs.keep hr).set_next rfl hid hidle⟩

@[simp] theorem State.Follows.submit (v) : State.Follows r (s.submit v).office := by simp [State.submit, hs]

omit hs in
@[simp] theorem State.ringRead_office (s : State) (q n old) : (s.ringRead q n old).office = s.office := by
  unfold State.ringRead
  dsimp only
  split <;> simp

omit hs in
@[simp] theorem State.ringRead_nextPkt (s : State) (q n old) : (s.ringRead q n old).nextPkt = s.nextPkt :=
  (congrArg State.nextPkt (s.ringRead_office q n old) :)

@[simp] theorem State.Follows.fetchSlots (q b) : State.Follows r (s.fetchSlots q b).office := by
  unfold State.fetchSlots
  extract_lets +onlyGivenNames k t
  have ht : State.Follows r t.office := hs.setQueue (.refl _)
  have hadd := ht.addPkt (q := q) (packetOf_id s.nextPkt b) (packetOf_idle s.nextPkt b)
  split
  · exact ht
  · split
    · exact State.Follows.finishSilent hadd ..
    · exact .ite hadd (State.Follows.addPkt (ht.setClient ..) (packetOf_id s.nextPkt b) (packetOf_idle s.nextPkt b))

@[simp] theorem State.Follows.fetchTooLong (q h) : State.Follows r (s.fetchTooLong q h).office := by
  unfold State.fetchTooLong
  extract_lets +onlyGivenNames k src t
  have ht : State.Follows r t.office := hs.setQueue (.refl _)
  exact .ite ht ((ht.addPkt rfl (headerPacket_idle _ _)).finishSilent ..)

@[simp] theorem State.Follows.fetchBroken (q st d) : State.Follows r (s.fetchBroken q st d).office :=
  ((hs.haltQueue q).addPkt rfl fun _ => rfl).finishSilent ..

@[simp] theorem State.Follows.cancelSlots (q b) : State.Follows r (s.cancelSlots q b).office := by
  unfold State.cancelSlots
  extract_lets +onlyGivenNames k t v
  have ht : State.Follows r t.office := hs.setQueue (.refl _)
  have hid : k.id = t.nextPkt := packetOf_id s.nextPkt b
  have hidle : k.Idle := packetOf_idle s.nextPkt b
  clear_value k t v
  split
  · exact ht
  have hadd : State.Follows r (t.addPkt q k).office := ht.addPkt hid hidle
  have hsubmit : State.Follows r ((t.submit v).addPkt q { k with client := some v }).office :=
    State.Follows.addPkt (ht.setClient ..) hid hidle
  split
  · exact (hadd.finishSilent ..).complete _
  · exact (hsubmit.finishSilent ..).complete _

@[simp] theorem State.Follows.cancelRing (f q) : State.Follows r (State.cancelRing f s q).1.office := by
  induction f generalizing s with
  | zero => exact hs
  | succ f ih =>
    have hread (n) : State.Follows r (s.ringRead q n false).office := by simpa using hs
    unfold State.cancelRing
    split
    · exact ih ((hread _).cancelSlots ..)
    · exact .ite (hread 1) ((((hread 1).addPkt (by simp; rfl) (headerPacket_idle _ _)).finishSilent ..).complete _)
    · exact (((hread 1).addPkt (by simp) fun _ => rfl).finishSilent ..).complete _
    · exact hs

@[simp] theorem State.Follows.flushRing (q) : State.Follows r (s.flushRing q).office := by
  have hcancel := hs.cancelRing (s.queue q).filled q
  unfold State.flushRing
  split
  next t ht =>
    replace hcancel : State.Follows r t.office := by simpa [ht] using hcancel
    refine State.Follows.endFlush (hcancel.setQueue ?_) q
    exact .refl _
  next t ht =>
    replace hcancel : State.Follows r t.office := by simpa [ht] using hcancel
    refine hcancel.setQueue ?_
    exact .refl _

@[simp] theorem State.Follows.packetFetch (q) : State.Follows r (packetFetch s q).office := by
  have hread (n old) : State.Follows r (s.ringRead q n old).office := by simpa using hs
  have hdrew (n old) : State.Follows r (s.drew.ringRead q n old).office := by simpa using hs
  unfold Machine.packetFetch
  refine .ite (hs.flushRing q) (.ite hs ?_)
  split
  · split
    · exact hs
    · exact (hread ..).fetchBroken ..
    · exact (hread ..).fetchTooLong ..
    · exact (hread ..).fetchSlots ..
  · extract_lets +onlyGivenNames c
    split
    · exact hs
    · exact (hdrew ..).fetchBroken ..
    · exact (hdrew ..).fetchTooLong ..
    next b _ =>
      extract_lets +onlyGivenNames u t
      have hu : State.Follows r u.office := hread ..
      have ht : State.Follows r t.office := by
        refine State.Follows.setQueue ?_ (.refl _)
        simpa using hu
      have hnext : u.nextPkt = t.nextPkt := rfl
      clear_value t u
      refine .ite (.ite ht ?_) ?_
      · exact (ht.addPkt hnext (headerPacket_idle _ _)).finishSilent ..
      · exact State.Follows.fetchSlots (by simpa using hu) ..

@[simp] theorem State.Follows.nopRun (q) : State.Follows r (nopRun s q).office := by
  have hread (n old) : State.Follows r (s.ringRead q n old).office := by simpa using hs
  have hqueue (n old) : (s.ringRead q n old).queue q = s.queue q :=
    (congrArg (fun t : State => t.queue q) (s.ringRead_office q n old) :)
  unfold Machine.nopRun
  split
  · exact hs
  · split
    · refine .ite ((hread ..).setQueue ?_) hs
      rw [hqueue]
      exact .refl _
    · exact hs

@[simp] theorem State.Follows.readSem (q k) : State.Follows r (s.readSem q k).office := by
  unfold State.readSem
  grind [State.reading_office, State.dropLanded_office, State.Follows.askRead, State.Follows.finishSilent, State.Follows.modPkt,
    Packet.becomes_iff, Packet.mk_idle, Packet.fetched_idle, State.mk_follows, keepsOrder_follows]

@[simp] theorem State.Follows.semReread (q) : State.Follows r (semReread s q).office := by
  unfold Machine.semReread
  (repeat' split) <;> simp [hs]

@[simp] theorem State.Follows.notBefore (q) : State.Follows r (notBefore s q).office := by
  unfold Machine.notBefore
  (repeat' split) <;> simp [hs]

theorem State.Follows.readBlock {q k g} {t : State} (h : s.readBlock q k g = .ok t) : State.Follows r t.office := by
  unfold State.readBlock at h
  dsimp only at h
  split at h
  next b u hu =>
    cases h
    exact State.Follows.modPkt (by simpa using hs.reading hu) (by simp)
  · cases h

theorem State.Follows.readBlock_error {q k g} {t : State} (h : s.readBlock q k g = .error t) : State.Follows r t.office := by
  unfold State.readBlock at h
  dsimp only at h
  split at h
  · cases h
  next e u hu =>
    cases h
    exact (hs.reading hu).onErr ..

@[simp] theorem State.Follows.startPkt (q k role) : State.Follows r (s.startPkt q k role).office := by
  unfold State.startPkt
  extract_lets +onlyGivenNames c inStep step t1 t2
  have h2 : State.Follows r t2.office := State.Follows.modPkt hs fun _ => ⟨rfl, fun _ => by simp⟩
  exact .ite (h2.beginDestroy ..) h2

@[simp] theorem State.Follows.countCreate (k) : State.Follows r (s.countCreate k).office := by simp [State.countCreate, hs]

@[simp] theorem State.Follows.autoWake : State.Follows r s.autoWake.office := by simp [State.autoWake, hs]

@[simp] theorem State.Follows.judgeStart (q k) : State.Follows r (s.judgeStart q k).office := by
  unfold State.judgeStart
  grind [State.Follows.countCreate, State.Follows.finishSilent, State.Follows.judge, State.Follows.startPkt, State.Follows.giveMover,
    State.Follows.hold]

@[simp] theorem State.Follows.packetStart (q) : State.Follows r (packetStart s q).office := by
  unfold Machine.packetStart
  split
  · exact hs
  split
  · exact hs
  next before k _ =>
    extract_lets +onlyGivenNames mask hosts t
    have ht : State.Follows r t.office := .ite (hs.readSem ..) hs
    clear_value t
    refine .ite hs (.ite ht (.ite ht (.ite (.ite ht.autoWake (ht.finishSilent ..)) ?_)))
    split
    · exact ht.judgeStart ..
    · split
      · exact ht.finishSilent ..
      · split
        next u hu => exact ht.readBlock_error hu
        next u hu =>
          split
          · exact (ht.readBlock hu).judgeStart ..
          · exact ht.readBlock hu

@[simp] theorem State.Follows.flushQueue (q) : State.Follows r (s.flushQueue q).office := by
  unfold State.flushQueue
  grind [State.Follows.wait, foldl_office, State.Follows.finishSilent, State.Follows.complete, State.dropReqs_office,
    State.Follows.flushRing, foldl_follows]

@[simp] theorem State.Follows.resumeQueue (q) : State.Follows r (s.resumeQueue q).office := hs.setQueue (.refl _)

/-! ### Registers -/

@[simp] theorem State.Follows.clearRc (fn off) : State.Follows r (s.clearRc fn off).office := by
  unfold State.clearRc
  dsimp only
  (repeat' split) <;> simp [hs]

@[simp] theorem State.Follows.regRead (fn off) : State.Follows r (s.regRead fn off).office := by simp [State.regRead, hs]

@[simp] theorem State.Follows.moveWaiting (q old new) : State.Follows r (s.moveWaiting q old new).office := by
  unfold State.moveWaiting
  grind [State.Follows.drainRing, State.Follows.setRing, State.mk_follows, keepsOrder_follows]

@[simp] theorem State.Follows.writeQcfg (fn v) : State.Follows r (s.writeQcfg fn v).office := by
  unfold State.writeQcfg
  extract_lets +onlyGivenNames q u log2 enable part ring
  have hset {w : Queue} (hw : w.pkts = u.pkts) : State.Follows r (s.setQueue q w).office := by
    refine hs.setQueue ?_
    rw [hw]
  refine .ite hs (.ite hs (.ite ?_ (.ite ?_ (.ite ?_ ?_))))
  · exact hset rfl
  · exact hset rfl
  · exact hset rfl
  · refine State.Follows.moveWaiting (hset ?_) ..
    rfl

@[simp] theorem State.Follows.writeQbase (fn hi v) : State.Follows r (s.writeQbase fn hi v).office :=
  .ite hs (hs.setQueue (.refl _))

@[simp] theorem State.Follows.writeQctl (fn v) : State.Follows r (s.writeQctl fn v).office := by simp [State.writeQctl, hs]

@[simp] theorem State.Follows.writeRing (fn reg v) : State.Follows r (s.writeRing fn reg v).office := by
  unfold State.writeRing
  dsimp only
  (repeat' split) <;> simp [hs]

@[simp] theorem State.Follows.forgetWindow (w) : State.Follows r (s.forgetWindow w).office := by simp [State.forgetWindow, hs]

@[simp] theorem State.Follows.writeRattr (fn v) : State.Follows r (s.writeRattr fn v).office := by
  unfold State.writeRattr
  dsimp only
  repeat' split
  all_goals
    grind [foldl_office, State.Follows.forgetWindow, State.Follows.setRegion, foldl_follows, State.mk_follows, keepsOrder_follows]

@[simp] theorem State.Follows.dieLocalChangeDone (e) : State.Follows r (dieLocalChangeDone s e).office := by
  simp [Machine.dieLocalChangeDone, hs]

@[simp] theorem State.Follows.writeRetire (v) : State.Follows r (s.writeRetire v).office := by simp [State.writeRetire, hs]

@[simp] theorem State.Follows.writeArm (v) : State.Follows r (s.writeArm v).office := by simp [State.writeArm, hs]

@[simp] theorem State.Follows.writePortCtl (n v) : State.Follows r (s.writePortCtl n v).office := by simp [State.writePortCtl, hs]

@[simp] theorem State.Follows.writeModuleId (v) : State.Follows r (s.writeModuleId v).office := by
  unfold State.writeModuleId
  grind [foldl_office, State.Follows.tryTrain, State.Follows.noteMaster, foldl_follows, State.mk_follows, keepsOrder_follows]

@[simp] theorem State.Follows.writeCoreRetire (v) : State.Follows r (s.writeCoreRetire v).office := by
  simp [State.writeCoreRetire, hs]

@[simp] theorem State.Follows.writeCap (v) : State.Follows r (s.writeCap v).office := by simp [State.writeCap, hs]

@[simp] theorem State.Follows.writeVfmap (fn v) : State.Follows r (s.writeVfmap fn v).office := by
  unfold State.writeVfmap
  dsimp only
  (repeat' split) <;> simp [hs]

@[simp] theorem State.Follows.writeElog (fn ring reg v) : State.Follows r (s.writeElog fn ring reg v).office := by
  unfold State.writeElog
  dsimp only
  (repeat' split) <;> simp [hs]

@[simp] theorem State.Follows.writeSel (fn off v) : State.Follows r (s.writeSel fn off v).office := by
  unfold State.writeSel
  dsimp only
  (repeat' split) <;> simp [hs]

@[simp] theorem State.Follows.writePlain (fn off v) : State.Follows r (s.writePlain fn off v).office := by
  have hbell (q) (b : Bool) : State.Follows r (s.setQueue q { s.queue q with badBell := b }).office := hs.setQueue (.refl _)
  unfold State.writePlain
  split <;> simp [hs, hbell]

@[simp] theorem State.Follows.regWrite (fn off v) : State.Follows r (s.regWrite fn off v).office := by
  unfold State.regWrite
  (repeat' split) <;> simp [hs]

@[simp] theorem State.Follows.bar4Read (fn addr len) : State.Follows r (bar4Read s fn addr len).office := by
  unfold Machine.bar4Read
  grind [State.reading_office, State.Follows.hold, State.mk_follows, keepsOrder_follows]

@[simp] theorem State.Follows.barStore (fn addr data) : State.Follows r (s.barStore fn addr data).office := by
  unfold State.barStore
  refine .ite hs (.ite (hs.hold _) ?_)
  rw [State.otherWrite_office]
  refine foldl_follows hs fun t c ht => ?_
  split
  · simpa using ht
  · exact ht

@[simp] theorem State.Follows.bar4Write (fn addr data) : State.Follows r (bar4Write s fn addr data).office := by
  simp [Machine.bar4Write, hs]

/-! ### Holds -/

@[simp] theorem State.Follows.runHeld (i) : State.Follows r (s.runHeld i).office := by
  unfold State.runHeld
  dsimp only
  (repeat' split) <;> simp [hs]

@[simp] theorem State.Follows.retryNorm (c) : State.Follows r (s.retryNorm c).office := by
  unfold State.retryNorm
  dsimp only
  (repeat' split) <;> simp [hs]

@[simp] theorem State.Follows.resumeTests (since now) : State.Follows r (s.resumeTests since now).office := by
  simp [State.resumeTests, hs]

@[simp] theorem State.Follows.retryGroup (gid) : State.Follows r (s.retryGroup gid).office := by simp [State.retryGroup, hs]

@[simp] theorem State.Follows.drainRings : State.Follows r s.drainRings.office := by simp +contextual [State.drainRings, hs]

@[simp] theorem State.Follows.reportAll : State.Follows r s.reportAll.office := by simp [State.reportAll, hs]

@[simp] theorem State.Follows.serveHeld : State.Follows r s.serveHeld.office := by
  unfold State.serveHeld
  extract_lets +onlyGivenNames order t1 t2 t3 t4 t5
  have h1 : State.Follows r t1.office := hs.edit (f := fun k => { k with waits := false }) (fun k => by simp) rfl rfl
  have h2 : State.Follows r t2.office := foldl_follows (by simpa using h1) fun t i ht => ht.runHeld i
  have h3 : State.Follows r t3.office := foldl_follows h2 fun t c ht => ht.retryNorm c
  have h4 : State.Follows r t4.office := foldl_follows h3 fun t g ht => ht.retryGroup g
  exact h4.startAllXfers.drainRings.reportAll.settle

end

/-! ### Every step -/

variable {r s : State}

/-- Every command ends in `answer`, on a state that keeps in order what was in order. -/
theorem State.Follows.exec (hs : State.Follows r s.office) (c : Instr) :
    ∃ u, exec c s = answer c u ∧ State.Follows r u.office := by
  cases c
  case retry | resend | normUp | normDown | ready | commit | abortReq | decisionQuery | decision | rejoin | rejoinAns =>
    refine ⟨_, rfl, hs.heardOn fun t g ht => ?_⟩
    (repeat' split) <;> simp +contextual [ht]
  case abort a =>
    refine ⟨_, rfl, hs.heardOn fun t g ht => .ite ht ?_⟩
    exact State.Follows.applyAbort (foldl_follows ht fun t d ht => ht.tell ..) ..
  case stepBegin p =>
    refine ⟨_, rfl, ?_⟩
    split
    next q k _ =>
      refine hs.onSequencer k _ fun t ht => ?_
      have hbegun := (ht.turned q k).stepBeginRun q k
      exact .ite (hbegun.stepBegun _) hbegun
    · exact hs
  case stepCommit p =>
    refine ⟨_, rfl, ?_⟩
    split
    next q k _ => exact .ite hs (hs.onSequencer k _ fun t ht => (ht.turned q k).stepCommitRun q k)
    · exact hs
  case resetDone =>
    refine ⟨_, rfl, ?_⟩
    split
    · exact hs
    · exact .ite (by simp [hs]) (State.Follows.serveHeld (by simp [hs]))
  case stackThermalSample => exact ⟨_, rfl, .ite (State.Follows.serveHeld (by simp [hs])) (by simp [hs])⟩
  case dieLocalChangeDone => exact ⟨_, rfl, .ite (State.Follows.serveHeld (by simp [hs])) (by simp [hs])⟩
  -- what runs a packet or a task does so where it is there, or else nothing
  case copy | fill | hostSpill | hostFetch | tasklistRun | memAtomic | scrubCtrl | flipmaskArm | partitionSet
      | groupJoin | bucketDefine | groupAbort | shadowMap | feedOpen | feedSubmit | feedClose | tokenizerLoad | mediaSessionOpen
      | mediaDecode | mediaEncode | contextCreate | contextDestroy | resetDomain | powerState | identChallenge | countersRead
      | numericsPolicy | empty | matmul | backward | combine | conv | convBwd | poolBwd | vchain | vfinish | adamw | sgdm
      | packetCompletion =>
    exact ⟨_, rfl, by split <;> simp +contextual [hs]⟩
  case timeSync | portState | departing => exact ⟨_, rfl, hs.received fun t ht => ht.queued fun u hu => by simp [hu]⟩
  all_goals exact ⟨_, rfl, by simp +contextual [hs]⟩

/-- Time that passes keeps in order what was in order. -/
theorem State.Follows.idle (hs : State.Follows r s.office) : State.Follows r s.idle.office := by
  have htick : State.Follows r s.tick.office := by
    unfold State.tick
    dsimp only
    (repeat' split) <;> simp [hs]
  exact .ite hs (by simpa using htick)

theorem State.Follows.step {t : State} (h : step s = .next t) : State.Follows s t.office := by
  unfold Machine.step at h
  split at h
  · cases h
    exact State.Follows.idle (State.follows_self s)
  next c rest _ =>
    have hs : State.Follows s ({ s with pending := rest } : State).office := State.follows_self s
    obtain ⟨u, hu, hkeep⟩ := hs.exec c
    obtain rfl := eq_of_answer_eq_next (hu.symm.trans h)
    exact hkeep

/-- Settles O8: what no command and no passing of time breaks is the order of the queues and of their packets' numbers. -/
theorem stepKeepsNumbers : Obligations.StepKeepsNumbers := by
  intro s t hcan hnum ht
  have hrising : (s.queues.map Prod.fst).Pairwise (· < ·) := Tbl.rising_of_wf hcan.queues
  have hord : Orderly t.queues t.nextPkt := (State.Follows.step ht).keep ((State.numbered_iff hrising).mp hnum)
  exact (State.numbered_iff hord.rising).mpr hord

end Sys2Proof.Machine
end

section
/-! PROOFS. What the fetcher makes of a packet that stands in the ring (R35, R36). -/

namespace Sys2Proof.Machine

/-! ### Host memory (R459) -/

theorem isHost_of_between {g x : Nat} (h : isHost g = true) (hle : g ≤ x) (hlt : x < 2 ^ 64) : isHost x = true := by
  simp only [isHost, decide_eq_true_eq, Nat.shiftRight_eq_div_pow] at h ⊢
  omega

/-- Some bytes of host memory. -/
def State.hostBytes (s : State) (g n : Nat) : List Byte := (List.range n).map (fun i => s.hostByte (g % 2 ^ 48 + i))

theorem loadPiece_host {s : State} {a : Acc} {g n : Nat} (ha : a.host = true) (hg : isHost g = true) :
    loadPiece s a g n = pure (s.hostBytes g n) := by
  have hg : g >>> 48 = 0xFFFF := by simpa [isHost] using hg
  simp [loadPiece, State.resolve, hg, ha, loadPlace, State.hostBytes]

theorem mapM_loadPiece_host {s : State} {a : Acc} (ha : a.host = true) {l : List (Nat × Nat)} (hl : ∀ c ∈ l, isHost c.1 = true) :
    l.mapM (fun c => loadPiece s a c.1 c.2) = pure (l.map (fun c => s.hostBytes c.1 c.2)) := by
  induction l with
  | nil => rfl
  | cons c l ih =>
    rw [List.mapM_cons, loadPiece_host ha (hl c List.mem_cons_self), ih fun d hd => hl d (List.mem_cons_of_mem c hd)]
    rfl

/-- R36: reading host memory leaves no trace in the module. -/
theorem load_host {s : State} {a : Acc} {g n : Nat} (ha : a.host = true) (hg : isHost g = true) (hn : g + n ≤ 2 ^ 64) :
    load s a g n = pure ((pieces g n).map (fun c => s.hostBytes c.1 c.2)).flatten := by
  have hall : ∀ c ∈ pieces g n, isHost c.1 = true := fun c hc => by
    obtain ⟨hle, hend, hpos⟩ := pieces_within hc
    exact isHost_of_between hg hle (by omega)
  rw [load, mapM_loadPiece_host ha hall]
  rfl

theorem State.reading_pure {α : Type} (s : State) (a : Acc) (v : α) : s.reading a (pure v) = (.ok v, s) := rfl

/-! ### Fetching (R35, R36) -/

theorem State.ringRead_host {s : State} {q n : Nat} (hbase : isHost (s.queue q).base = true)
    (hend : (s.queue q).base + 64 * (s.queue q).slots ≤ 2 ^ 64) (hn : (s.queue q).head + n ≤ (s.queue q).slots) : s.ringRead q n false = s := by
  have hread := load_host (s := s) (a := { part := (s.queue q).part, host := true }) (g := (s.queue q).base + 64 * (s.queue q).head)
    (n := 64 * n) rfl
  rw [State.ringRead]
  by_cases hzero : n = 0
  · subst hzero
    rfl
  · rw [if_neg (by decide), hread (isHost_of_between hbase (by omega) (by omega)) (by omega), State.reading_pure]

/-- The checks at fetch ask nothing that reading the slots changes. -/
theorem State.fetchCheck_ringRead (s : State) (q n : Nat) (k : Packet) (b : List Byte) :
    (s.ringRead q n false).fetchCheck q k b = s.fetchCheck q k b :=
  (congrArg (fun t : State => t.fetchCheck q k b) (s.ringRead_office q n false) :)

section Fetch
variable {s : State} {q : Nat} {k : Packet} (hk : k.spells = true)
include hk

theorem headerSlots_take_encodePacket : headerSlots ((encodePacket k).take 64) = headerSlots (encodePacket k) := by
  have htake : (encodePacket k).take 64 = encodeHeader k ++ [] := by
    rw [encodePacket, List.take_left' (encodeHeader_length k), List.append_nil]
  have hhead := headerPacket_encodeHeader hk 0 []
  have hfl : field (encodeHeader k ++ []) 2 1 = k.flags := congrArg Packet.flags hhead
  have hpl : field (encodeHeader k ++ []) 12 2 = k.plen := congrArg Packet.plen hhead
  rw [headerSlots_encodePacket hk, htake, headerSlots, hfl, hpl, Packet.indirect_isSome_of_spells hk]

theorem field_opcode_encodePacket : field (encodePacket k) 0 2 = k.opcode := by
  exact congrArg Packet.opcode (headerPacket_encodeHeader hk 0 _)

theorem encodePacket_slots : (encodePacket k).length / 64 = headerSlots (encodePacket k) := by
  rw [encodePacket_length hk, Nat.mul_div_cancel_left _ (by decide)]

/-- R35: what stands in the ring is what the fetcher sees. -/
theorem State.look_of_ringHolds (h : s.RingHolds q (encodePacket k)) : s.look q false = .slots (encodePacket k) := by
  obtain ⟨hhead, hall, hfilled, hslots, hend, hhost⟩ := h
  have hpos : 0 < headerSlots (encodePacket k) := by
    rw [headerSlots_encodePacket hk]
    split
    · decide
    · simp only [cdiv]
      omega
  rw [encodePacket_slots hk] at hall hfilled hslots hend
  have hwait : ¬((s.queue q).filled = 0 ∨ isHost (s.queue q).base = true ∧ (!s.hostPath q) = true) := by
    rintro (h0 | ⟨hb, hp⟩)
    · omega
    · simp [hhost hb] at hp
  simp only [State.look, if_neg hwait, hhead, headerSlots_take_encodePacket hk, hall]
  rw [if_neg (by omega), if_neg (by omega)]

/-- R35, R36: a packet that stands in the ring is fetched from it. -/
theorem packetFetch_of_ringHolds (h : s.RingHolds q (encodePacket k)) (hfetch : s.fetches q = true) (hflush : (s.queue q).flushing = false)
    (hover : (s.queue q).overrun = 0) :
    packetFetch s q = (s.ringRead q (headerSlots (encodePacket k)) false).fetchSlots q (encodePacket k) := by
  have hspoiled : (s.queue q).spoiled = 0 := by simp [Queue.spoiled, hover]
  simp [packetFetch, hfetch, hflush, hspoiled, State.look_of_ringHolds hk h]

/-- R35: NOP. -/
theorem nopRun_of_ringHolds (h : s.RingHolds q (encodePacket k)) (hfetch : s.fetches q = true) (hover : (s.queue q).overrun = 0)
    (hop : k.opcode = 0) :
    nopRun s q = (s.ringRead q (headerSlots (encodePacket k)) false).setQueue q ((s.queue q).advance (headerSlots (encodePacket k))) := by
  have hspoiled : (s.queue q).spoiled = 0 := by simp [Queue.spoiled, hover]
  simp [nopRun, hfetch, hspoiled, State.look_of_ringHolds hk h, field_opcode_encodePacket hk, hop]

variable (hid : k.id = s.nextPkt)
include hid

theorem State.fetchSlots_nop (hop : k.opcode = 0) :
    s.fetchSlots q (encodePacket k) = s.setQueue q ((s.queue q).advance (headerSlots (encodePacket k))) := by
  rw [State.fetchSlots, ← hid, packetOf_encodePacket hk]
  exact if_pos hop

/-- R36, R227: a packet that passes the checks joins its queue, for its context's client. -/
theorem State.fetchSlots_taken (hop : k.opcode ≠ 0) (hcreate : k.opcode ≠ 0x0701) (hcheck : s.fetchCheck q k.written (encodePacket k) = none) :
    s.fetchSlots q (encodePacket k) =
      ((s.setQueue q ((s.queue q).advance (headerSlots (encodePacket k)))).submit (s.ctx k.ctx).client).addPkt q
        { k.written with client := some (s.ctx k.ctx).client } := by
  rw [State.fetchSlots, ← hid, packetOf_encodePacket hk]
  simp only [hcheck]
  exact (if_neg hop).trans (if_neg hcreate)

end Fetch

@[simp] theorem State.ringRead_queues (s : State) (q n : Nat) (old : Bool) : (s.ringRead q n old).queues = s.queues :=
  (congrArg State.queues (s.ringRead_office q n old) :)

@[simp] theorem State.ringRead_queue (s : State) (q n : Nat) (old : Bool) (x : Nat) : (s.ringRead q n old).queue x = s.queue x :=
  (congrArg (fun t : State => t.queue x) (s.ringRead_office q n old) :)

@[simp] theorem State.ringRead_ctx (s : State) (q n : Nat) (old : Bool) (x : Nat) : (s.ringRead q n old).ctx x = s.ctx x :=
  (congrArg (fun t : State => t.ctx x) (s.ringRead_office q n old) :)

@[simp] theorem State.ringRead_clients (s : State) (q n : Nat) (old : Bool) : (s.ringRead q n old).clients = s.clients :=
  (congrArg State.clients (s.ringRead_office q n old) :)

section Taken
variable (s : State) (q v : Nat) (u : Queue) (k : Packet)

theorem State.taken_queue (h : Tbl.wf {} s.queues = true) :
    (((s.setQueue q u).submit v).addPkt q k).queue q = { u with pkts := u.pkts ++ [k] } := by
  have hu : ((s.setQueue q u).submit v).queue q = u := State.queue_setQueue h q u
  rw [State.addPkt, hu]
  exact State.queue_setQueue (s := { (s.setQueue q u).submit v with nextPkt := s.nextPkt + 1 }) (Tbl.set_wf q u h) q _

theorem State.taken_queue_other {x : Nat} (hx : x ≠ q) : (((s.setQueue q u).submit v).addPkt q k).queue x = s.queue x :=
  (State.queue_setQueue_other { (s.setQueue q u).submit v with nextPkt := s.nextPkt + 1 } hx _).trans (State.queue_setQueue_other s hx u)

theorem State.taken_client (h : Tbl.wf (0, 0) s.clients = true) :
    (((s.setQueue q u).submit v).addPkt q k).client v = (((s.client v).1 + 1) % 2 ^ 64, (s.client v).2) := Tbl.get_set_same h

theorem State.taken_frame : { ((s.setQueue q u).submit v).addPkt q k with
    queues := s.queues, clients := s.clients, nextPkt := s.nextPkt } = s := rfl

end Taken

/-- Settles O12: what the fetcher sees is the packet, and `fetchSlots` is what it does with one. -/
theorem fetchTakesPacket : Obligations.FetchTakesPacket := by
  refine ⟨?_, ?_⟩
  · intro q k s hcan hq hfetch hflush hover hk hid hring n v r
    have hn : n = headerSlots (encodePacket k) := encodePacket_slots hk
    have hfits : (s.queue q).head + n ≤ (s.queue q).slots := by
      obtain ⟨-, -, -, -, h, -⟩ := hring
      exact h
    have hexec : exec (.packetFetch q) s = .next (r.fetchSlots q (encodePacket k)) := by
      refine (answer_of_wf (c := .packetFetch q) hq _).trans (congrArg _ ?_)
      rw [packetFetch_of_ringHolds hk hring hfetch hflush hover, ← hn]
    have hnop (hop : k.opcode = 0) : exec (.nop q) s = .next (r.setQueue q ((s.queue q).advance n)) := by
      refine (answer_of_wf (c := .nop q) hq _).trans (congrArg _ ?_)
      rw [nopRun_of_ringHolds hk hring hfetch hover hop, ← hn]
    have hrid : k.id = r.nextPkt := hid.trans (s.ringRead_nextPkt q n false).symm
    have hrcheck : r.fetchCheck q k.written (encodePacket k) = s.fetchCheck q k.written (encodePacket k) := State.fetchCheck_ringRead ..
    have hqueues : r.queues = s.queues := s.ringRead_queues q n false
    have hclients : r.clients = s.clients := s.ringRead_clients q n false
    have hctx : r.ctx k.ctx = s.ctx k.ctx := s.ringRead_ctx q n false k.ctx
    have hnext : r.nextPkt = s.nextPkt := s.ringRead_nextPkt q n false
    have hqueue (x) : r.queue x = s.queue x := s.ringRead_queue q n false x
    have hclient : r.client v = s.client v := by rw [State.client, hclients, State.client]
    refine ⟨fun hbase hend => State.ringRead_host hbase hend hfits, ?_⟩
    clear_value r
    refine ⟨fun hop hcreate hcheck => ?_, fun hop => ⟨hnop hop, ?_⟩⟩
    · have htaken := State.fetchSlots_taken hk hrid hop hcreate (hrcheck.trans hcheck)
      rw [← hn, hctx, hqueue] at htaken
      refine ⟨_, hexec.trans (congrArg _ htaken), ?_, ?_, ?_, State.taken_frame .., fun x hx => ?_⟩
      · exact State.taken_queue _ _ _ _ _ (hqueues ▸ hcan.queues)
      · rw [← hclient]
        exact State.taken_client _ _ _ _ _ (hclients ▸ hcan.clients)
      · exact congrArg (· + 1) hnext
      · rw [State.taken_queue_other _ _ _ _ _ hx, hqueue]
    · rw [hexec, State.fetchSlots_nop hk hrid hop, ← hn, hqueue]
  · intro q s hq hfetch hflush
    have hpacket : packetFetch s q = s := by simp [packetFetch, hflush, hfetch]
    have hnop : nopRun s q = s := by simp [nopRun, hfetch]
    exact ⟨(answer_of_wf (c := .packetFetch q) hq _).trans (congrArg _ hpacket), (answer_of_wf (c := .nop q) hq _).trans (congrArg _ hnop)⟩

end Sys2Proof.Machine
end

section
/-! PROOFS. Host memory that is written, semaphores there (R49), time that passes, and packets that are looked up (R36). -/

namespace Sys2Proof

theorem Tbl.get_of_mem {α : Type} {d : α} {t : Tbl α} (h : (t.map Prod.fst).Pairwise (· < ·)) {n : Nat} {v : α} (hv : (n, v) ∈ t) :
    Tbl.get d t n = v := by
  induction t with
  | nil => cases hv
  | cons e t ih =>
    obtain ⟨k, w⟩ := e
    rw [List.map_cons, List.pairwise_cons] at h
    obtain ⟨hk, ht⟩ := h
    rcases List.mem_cons.mp hv with he | hv
    · cases he
      simp [Tbl.get]
    · have hlt : k < n := hk n (List.mem_map_of_mem (f := Prod.fst) hv)
      rw [Tbl.get, if_neg (by omega), ih ht hv]

end Sys2Proof

namespace Sys2Proof.Machine

/-! ### Writing host memory -/

theorem State.setHost_frame (s : State) (a : Nat) (bs : List Byte) : ∃ h, s.setHost a bs = { s with host := h } := by
  induction bs generalizing s a with
  | nil => exact ⟨_, rfl⟩
  | cons b bs ih =>
    obtain ⟨h, hh⟩ := ih { s with host := Tbl.set 0#8 s.host a b } (a + 1)
    exact ⟨h, hh⟩

theorem State.setHost_wf {s : State} (h : Tbl.wf 0#8 s.host = true) (a : Nat) (bs : List Byte) : Tbl.wf 0#8 (s.setHost a bs).host = true := by
  induction bs generalizing s a with
  | nil => exact h
  | cons b bs ih => exact ih (s := { s with host := Tbl.set 0#8 s.host a b }) (Tbl.set_wf a b h) (a + 1)

theorem State.hostByte_setHost_other (s : State) {a x : Nat} {bs : List Byte} (hx : x < a ∨ a + bs.length ≤ x) :
    (s.setHost a bs).hostByte x = s.hostByte x := by
  induction bs generalizing s a with
  | nil => rfl
  | cons b bs ih =>
    rw [List.length_cons] at hx
    rw [State.setHost, ih _ (by omega)]
    exact Tbl.get_set_other (by omega) s.host

theorem State.setHost_holds {s : State} (h : Tbl.wf 0#8 s.host = true) (a : Nat) (bs : List Byte) : (s.setHost a bs).HostHolds a bs := by
  induction bs generalizing s a with
  | nil => exact fun i hi => absurd hi (Nat.not_lt_zero i)
  | cons b bs ih =>
    intro i hi
    cases i with
    | zero =>
      rw [State.setHost, State.hostByte_setHost_other _ (.inl (by omega))]
      exact Tbl.get_set_same h
    | succ i =>
      have hrest := ih (s := { s with host := Tbl.set 0#8 s.host a b }) (Tbl.set_wf a b h) (a + 1) i (by simpa using hi)
      rw [State.setHost, show a + (i + 1) = a + 1 + i by omega, hrest]
      simp

/-- Bytes that a run of addresses holds. -/
theorem State.HostHolds.range {s : State} {a : Nat} {bs : List Byte} (h : s.HostHolds a bs) :
    (List.range bs.length).map (fun i => s.hostByte (a + i)) = bs := by
  refine List.ext_getElem (by simp) fun i hi _ => ?_
  have hi : i < bs.length := by simpa using hi
  simp [h i hi, hi]

/-! ### Semaphores in host memory (R49, R51) -/

theorem pieces_aligned {g : Nat} (h : g % 8 = 0) : pieces g 8 = [(g, 8)] := by
  have hmin : min 8 (128 - g % 128) = 8 := by omega
  simp [pieces, cutLines, hmin]

theorem isPeer_of_isHost {s : State} {g : Nat} (h : isHost g = true) : s.isPeer g = false := by
  have hg : g >>> 48 = 0xFFFF := by simpa [isHost] using h
  simp [State.isPeer, hg]

theorem loadNat_host {s : State} {a : Acc} {g : Nat} (ha : a.host = true) (hg : isHost g = true) (hal : g % 8 = 0) :
    loadNat s a g 8 = pure (le (s.hostBytes g 8)) := by
  have hend : g + 8 ≤ 2 ^ 64 := by
    simp only [isHost, decide_eq_true_eq, Nat.shiftRight_eq_div_pow] at hg
    omega
  rw [loadNat, load_host ha hg hend, pieces_aligned hal]
  simp

/-- R49: a semaphore in host memory is read there and then. -/
theorem State.readSem_host {s : State} {q : Nat} {k : Packet} (hg : isHost k.waitAddr = true) (hal : k.waitAddr % 8 = 0) :
    s.readSem q k = s.modPkt k.id (fun p => { p with semOk := decide (k.waitVal ≤ le (s.hostBytes k.waitAddr 8)) }) := by
  have hload := loadNat_host (s := s) (a := { s.accOf q k with host := true }) rfl hg hal
  simp [State.readSem, hload, State.reading_pure, isPeer_of_isHost hg]

theorem semReread_host {s : State} {q : Nat} {before : List Packet} {k : Packet} (hfront : s.front q = some (before, k))
    (hwait : k.flags.testBit 0 = true) (hg : isHost k.waitAddr = true) (hpath : s.hostPath q = true) : semReread s q = s.readSem q k := by
  simp [semReread, hfront, isPeer_of_isHost hg, hwait, hpath]

/-! ### Time that passes in calm (R333, R358) -/

theorem Port.idled_of_no_swaps {p : Port} (h : p.swaps = []) (d : Nat) : p.idled d = p := by simp [Port.idled, Port.passed, h]

theorem Fabric.slewed_of_calm {f : Fabric} (hhold : f.hold = 0) (hslew : f.slew = 0) (d : Nat) : f.slewed d = f := by
  have hkeep : { f with hold := 0 } = f := by rw [← hhold]
  simp only [Fabric.slewed, if_pos hslew, hkeep, ite_self]

/-- Time moves on, and the engines with it. -/
def State.aged (s : State) (mt : Nat) : State :=
  { s with mtime := max s.mtime mt,
           engines := s.engines.map (fun g => (g.1, if s.paused g.1 then { g.2 with heldSince := g.2.heldSince + (mt - s.mtime) } else g.2)) }

theorem State.at_of_calm {s : State} (h : s.Calm) (mt : Nat) : s.at mt = s.aged mt := by
  obtain ⟨hce, hhold, hslew, hports⟩ := h
  have hidle (d : Nat) : s.fab.ports.map (fun p => (p.1, p.2.idled d)) = s.fab.ports :=
    (List.map_congr_left fun p hp => by rw [Port.idled_of_no_swaps (hports p hp)]; rfl).trans (List.map_id _)
  have hsame : ({ s with fab := s.fab.slewed (mt - s.mtime) } : State) = s := by rw [Fabric.slewed_of_calm hhold hslew]
  have hmax : max s.mtime mt = s.mtime + (mt - s.mtime) := by omega
  rw [State.at, hsame, State.aged, hmax, State.pass, hidle]
  split
  next hd => 
    have hE : s.engines.map (fun g => (g.1, if s.paused g.1 then { g.2 with heldSince := g.2.heldSince + (mt - s.mtime) } else g.2)) = s.engines := by
      rw [hd]
      simp
    rw [hE, hd, State.releaseAll, hce]
    rfl
  · rw [State.releaseAll, hce]
    rfl

/-! ### Packets that are looked up and that leave (R36) -/

theorem findPkt_eq_none {qs : Tbl Queue} {p : Nat} : findPkt qs p = none ↔ p ∉ idsOf qs := by
  induction qs with
  | nil => simp [findPkt, idsOf]
  | cons e qs ih =>
    obtain ⟨q, u⟩ := e
    rw [idsOf_cons, List.mem_append, not_or, ← ih, findPkt]
    split
    next k hk =>
      have hmem := List.mem_of_find?_eq_some hk
      have hid : k.id = p := by simpa using List.find?_some hk
      simp only [reduceCtorEq, List.mem_map, not_exists, false_iff, not_and]
      exact fun h => absurd hid (h k hmem)
    next hk =>
      have hnot : p ∉ u.pkts.map (·.id) := by simpa using hk
      exact ⟨fun h => ⟨hnot, h⟩, fun h => h.2⟩

theorem findPkt_mem {qs : Tbl Queue} {p q : Nat} {k : Packet} (h : findPkt qs p = some (q, k)) : k.id = p ∧ ∃ u, (q, u) ∈ qs ∧ k ∈ u.pkts := by
  induction qs with
  | nil => cases h
  | cons e qs ih =>
    obtain ⟨x, u⟩ := e
    rw [findPkt] at h
    split at h
    next j hj =>
      cases h
      exact ⟨by simpa using List.find?_some hj, u, List.mem_cons_self, List.mem_of_find?_eq_some hj⟩
    · obtain ⟨hid, v, hv, hk⟩ := ih h
      exact ⟨hid, v, List.mem_cons_of_mem _ hv, hk⟩

theorem findPkt_mem_get {qs : Tbl Queue} (h : (qs.map Prod.fst).Pairwise (· < ·)) {p q : Nat} {k : Packet} (hk : findPkt qs p = some (q, k)) :
    k.id = p ∧ k ∈ (Tbl.get {} qs q).pkts := by
  obtain ⟨hid, u, hu, hmem⟩ := findPkt_mem hk
  rw [Tbl.get_of_mem h hu]
  exact ⟨hid, hmem⟩

/-- The numbers in a table where one queue has changed, and its packets have not. -/
theorem idsOf_set_same {qs : Tbl Queue} (h : (qs.map Prod.fst).Pairwise (· < ·)) {q : Nat} {v : Queue} (hv : v.pkts = (Tbl.get {} qs q).pkts) :
    (idsOf (Tbl.set {} qs q v)).Perm (idsOf qs) := by
  obtain ⟨l, hl, hset⟩ := idsOf_set h q
  exact (hset v).trans (hv ▸ hl.symm)

/-- A packet that leaves its queue is nowhere. -/
theorem Orderly.not_mem_removed {qs : Tbl Queue} {n p q : Nat} {v : Queue} (h : Orderly qs n) (hp : p ∈ (Tbl.get {} qs q).pkts.map (·.id))
    (hv : p ∉ v.pkts.map (·.id)) : p ∉ idsOf (Tbl.set {} qs q v) := by
  obtain ⟨l, hl, hset⟩ := idsOf_set h.rising q
  have hdisj := (List.nodup_append.mp (hl.nodup_iff.mp h.nodup)).2.2
  rw [(hset v).mem_iff, List.mem_append, not_or]
  exact ⟨hv, fun hl => hdisj p hp p hl rfl⟩

end Sys2Proof.Machine
end

section
/-! PROOFS. The record of a packet, part by part: its context, its ring and its queue (R50 to R55, R60, R61). -/

namespace Sys2Proof.Machine

/-! ### A record is written (R50 to R54) -/

/-- What a state is besides what a record can change. -/
def State.besidesRecord (s : State) : State :=
  { s with fns := [], msix := [], host := [], rings := [], ctxs := [], clients := [], queues := [], fab := { s.fab with landed := [] } }

theorem State.irq_frame (s : State) (fn vec : Nat) : ∃ f m, s.irq fn vec = { s with fns := f, msix := m } := by
  unfold State.irq
  dsimp only
  (repeat' split) <;> exact ⟨_, _, rfl⟩

theorem State.poke_host {s : State} {part g : Nat} (hg : isHost g = true) (bs : List Byte) : s.poke part g bs = s.setHost (g % 2 ^ 48) bs := by
  have hg : g >>> 48 = 0xFFFF := by simpa [isHost] using hg
  simp [State.poke, Log.poke, hg]

/-- R352: a backward pass is counted for backward packets alone. -/
theorem State.backwardDone_of_role {s : State} {k : Packet} (h : k.run.role ≠ .backward) : s.backwardDone k = s := by
  simp [State.backwardDone, h]

theorem State.startAllXfers_of_none {s : State} (h : ∀ x ∈ s.ctxs, x.2.spillQ = [] ∧ x.2.fetchQ = []) : s.startAllXfers = s := by
  have hwait (e : Nat) : s.xferWaits e = false := by
    rw [State.xferWaits, List.any_eq_false]
    intro x hx
    simp [h x hx]
  rw [State.startAllXfers, List.filter_eq_nil_iff.mpr fun e _ => by simp [hwait]]
  rfl

/-- What completing a packet asks of a state: its ring is in host memory, no record waits there, and nothing else moves with it (R51,
R54). -/
structure State.Ready (s : State) (q : Nat) (k : Packet) : Prop where
  queues    : Tbl.wf {} s.queues = true
  rings     : Tbl.wf {} s.rings = true
  ctxs      : Tbl.wf {} s.ctxs = true
  host      : Tbl.wf 0#8 s.host = true
  order     : Orderly s.queues s.nextPkt
  pkt       : s.pkt k.id = some (q, k)
  role      : k.run.role ≠ .backward
  waiting   : (s.ring (s.queue q).ring).waiting = []
  ring      : isHost (s.ring (s.queue q).ring).base = true
  inside    : (s.ring (s.queue q).ring).base + 32 * (s.ring (s.queue q).ring).tail < 2 ^ 64
  transfers : s.NoTransfers

/-- Where the next record of a ring stands in host memory. -/
def CplRing.spot (r : CplRing) : Nat := (r.base + 32 * r.tail) % 2 ^ 48

/-- A ring that has taken a record (R53). -/
def CplRing.taken (r : CplRing) : CplRing :=
  { r with tail := (r.tail + 1) % 2 ^ r.log2, phase := if r.tail + 1 = 2 ^ r.log2 then !r.phase else r.phase }

/-- A queue without packet `p`. -/
def Queue.without (u : Queue) (p : Nat) : List Packet := u.pkts.filter (fun e => e.id != p)

/-- R61: a FLUSH of the queue has gone through the ring, and no record that it has cancelled is outstanding. -/
def Queue.FlushEnds (u : Queue) (p : Nat) : Prop := u.flushed = true ∧ ∀ e ∈ u.without p, ¬(e.phase = .finished ∧ e.status = stCancelled)

/-- From `s` to `t` packet `k` of queue `q` has completed. -/
structure State.Filed (s : State) (q : Nat) (k : Packet) (t : State) : Prop where
  besides  : t.besidesRecord = s.besidesRecord
  bytes    : t.HostHolds (s.ring (s.queue q).ring).spot (completionRecord q k (s.ring (s.queue q).ring).phase (k.visible.getD s.mtime))
  others   : ∀ a, a < (s.ring (s.queue q).ring).spot ∨ (s.ring (s.queue q).ring).spot + 32 ≤ a → t.hostByte a = s.hostByte a
  ring     : t.ring (s.queue q).ring = (s.ring (s.queue q).ring).taken
  gone     : t.pkt k.id = none
  left     : k.run.wrote = [] → (t.queue q).pkts = (s.queue q).without k.id
  halted   : (t.queue q).halted = true ↔ ((s.queue q).halted = true ∧ ¬(s.queue q).FlushEnds k.id) ∨
    (k.flags.testBit 4 = true ∧ harmless k.endStatus = false ∧ k.status ≠ stCancelled)
  flushing : (t.queue q).flushing = true ↔ (s.queue q).flushing = true ∧ ¬(s.queue q).FlushEnds k.id
  head     : (t.queue q).head = (s.queue q).head
  tail     : (t.queue q).tail = (s.queue q).tail
  totals   : k.counts.none = false → (s.ctx k.ctx).state ≠ .free → (t.ctx k.ctx).totals = (s.ctx k.ctx).totals.total k.counts
  policy   : k.opcode = 0x0802 → k.status = stOk → (t.ctx k.ctx).policy = field k.params 0 1

theorem completionRecord_length (q : Nat) (k : Packet) (b : Bool) (mt : Nat) : (completionRecord q k b mt).length = 32 := by
  simp [completionRecord]

/-! #### The context's part -/

theorem State.ctx_setCtx {s : State} (h : Tbl.wf {} s.ctxs = true) (c : Nat) (v : Ctx) : (s.setCtx c v).ctx c = v := Tbl.get_set_same h

theorem State.ctx_setCtx_other (s : State) {c x : Nat} (h : x ≠ c) (v : Ctx) : (s.setCtx c v).ctx x = s.ctx x := Tbl.get_set_other h s.ctxs

/-- One context changed, if at all. -/
def State.editCtx (s : State) (c : Nat) (p : Prop) [Decidable p] (g : Ctx → Ctx) : State := if p then s.setCtx c (g (s.ctx c)) else s

section EditCtx
variable (s : State) (c : Nat) (p : Prop) [Decidable p] (g : Ctx → Ctx)

theorem State.editCtx_wf {s : State} (h : Tbl.wf {} s.ctxs = true) : Tbl.wf {} (s.editCtx c p g).ctxs = true := by
  unfold State.editCtx
  split
  · exact Tbl.set_wf c _ h
  · exact h

theorem State.ctx_editCtx {s : State} (h : Tbl.wf {} s.ctxs = true) : (s.editCtx c p g).ctx c = if p then g (s.ctx c) else s.ctx c := by
  unfold State.editCtx
  split
  · exact State.ctx_setCtx h ..
  · rfl

theorem State.ctx_editCtx_other {x : Nat} (hx : x ≠ c) : (s.editCtx c p g).ctx x = s.ctx x := by
  unfold State.editCtx
  split
  · exact State.ctx_setCtx_other s hx _
  · rfl

/-- A change that leaves a context's automatic transfers alone. -/
theorem State.editCtx_transfers {s : State} (h : Tbl.wf {} s.ctxs = true) (hn : s.NoTransfers)
    (hg : ∀ x : Ctx, (g x).spillQ = x.spillQ ∧ (g x).fetchQ = x.fetchQ) : (s.editCtx c p g).NoTransfers := by
  intro x
  by_cases hx : x = c
  · subst hx
    rw [State.ctx_editCtx _ _ _ h]
    split
    · rw [(hg _).1, (hg _).2]
      exact hn x
    · exact hn x
  · rw [State.ctx_editCtx_other _ _ _ _ hx]
    exact hn x

end EditCtx

/-- What a completion tells its context (R52, R95). -/
def State.counted (s : State) (k : Packet) : State :=
  ((s.editCtx k.ctx (¬((s.ctx k.ctx).state = CtxState.free ∨ k.counts.none)) (fun x => { x with totals := x.totals.total k.counts })).editCtx k.ctx
    (k.opcode = 0x0701 ∧ k.status = stOk) (fun x => { x with created := s.mtime })).editCtx k.ctx
    (k.opcode = 0x0802 ∧ k.status = stOk) (fun x => { x with policy := field k.params 0 1 })

theorem State.counted_frame (s : State) (k : Packet) : ∃ l, s.counted k = { s with ctxs := l } := by
  unfold State.counted State.editCtx
  (repeat' split) <;> exact ⟨_, rfl⟩

section Counted
variable {s : State} (h : Tbl.wf {} s.ctxs = true) (k : Packet)
include h

theorem State.counted_wf : Tbl.wf {} (s.counted k).ctxs = true :=
  State.editCtx_wf _ _ _ (State.editCtx_wf _ _ _ (State.editCtx_wf _ _ _ h))

/-- A context's fields after a completion that counts for it. -/
theorem State.ctx_counted : (s.counted k).ctx k.ctx =
    { s.ctx k.ctx with
      totals := if (s.ctx k.ctx).state = .free ∨ k.counts.none then (s.ctx k.ctx).totals else (s.ctx k.ctx).totals.total k.counts,
      created := if k.opcode = 0x0701 ∧ k.status = stOk then s.mtime else (s.ctx k.ctx).created,
      policy := if k.opcode = 0x0802 ∧ k.status = stOk then field k.params 0 1 else (s.ctx k.ctx).policy } := by
  rw [State.counted, State.ctx_editCtx _ _ _ (State.editCtx_wf _ _ _ (State.editCtx_wf _ _ _ h)),
    State.ctx_editCtx _ _ _ (State.editCtx_wf _ _ _ h), State.ctx_editCtx _ _ _ h, ite_not]
  (repeat' split) <;> rfl

theorem State.counted_transfers (hn : s.NoTransfers) : (s.counted k).NoTransfers :=
  State.editCtx_transfers _ _ _ (State.editCtx_wf _ _ _ (State.editCtx_wf _ _ _ h))
    (State.editCtx_transfers _ _ _ (State.editCtx_wf _ _ _ h) (State.editCtx_transfers _ _ _ h hn fun _ => ⟨rfl, rfl⟩) fun _ => ⟨rfl, rfl⟩)
    fun _ => ⟨rfl, rfl⟩

end Counted

theorem State.NoTransfers.mem {s : State} (h : s.NoTransfers) (hwf : Tbl.wf {} s.ctxs = true) :
    ∀ x ∈ s.ctxs, x.2.spillQ = [] ∧ x.2.fetchQ = [] := by
  intro x hx
  have := h x.1
  rwa [State.ctx, Tbl.get_of_mem (Tbl.rising_of_wf hwf) hx] at this

/-! #### The ring's part -/

/-- R53: the record stands at the ring's TAIL. -/
theorem State.putRecord_host {s : State} {c : Nat} {i : Bool} {rec : List Byte} (hg : isHost (s.ring c).base = true)
    (hin : (s.ring c).base + 32 * (s.ring c).tail < 2 ^ 64) :
    ∃ f m, s.putRecord c i rec = { (s.setHost (s.ring c).spot rec).setRing c (s.ring c).taken with fns := f, msix := m } := by
  rw [State.putRecord, State.poke_host (isHost_of_between hg (by omega) hin)]
  split
  · exact State.irq_frame ..
  · exact ⟨_, _, rfl⟩

/-! #### The queue's part -/

theorem get_editAll (f : Packet → Packet) (qs : Tbl Queue) (q : Nat) :
    Tbl.get {} (editAll f qs) q = { Tbl.get {} qs q with pkts := (Tbl.get {} qs q).pkts.map f } := by
  induction qs with
  | nil => rfl
  | cons e qs ih =>
    obtain ⟨k, u⟩ := e
    by_cases h : q = k
    · simp [editAll, Tbl.get, h]
    · simpa [editAll, Tbl.get, h] using ih

theorem State.setQueue_queue {s : State} (h : Tbl.wf {} s.queues = true) (q : Nat) : s.setQueue q (s.queue q) = s :=
  congrArg (fun t => { s with queues := t }) (Tbl.set_get h)

/-- R61: the queue once a record is written, where it may be the last that a FLUSH has cancelled. -/
def Queue.flushEnded (u : Queue) : Queue :=
  if u.flushed && !u.pkts.any (fun k => k.phase == .finished && k.status == stCancelled) then
    { u with halted := false, flushing := false, flushed := false } else u

theorem State.endFlush_eq {s : State} (h : Tbl.wf {} s.queues = true) (q : Nat) : s.endFlush q = s.setQueue q (s.queue q).flushEnded := by
  unfold State.endFlush Queue.flushEnded
  dsimp only
  split
  · rfl
  · exact (State.setQueue_queue h q).symm

@[simp] theorem Queue.flushEnded_pkts (u : Queue) : u.flushEnded.pkts = u.pkts := by
  unfold Queue.flushEnded
  split <;> rfl

/-- R60: the queue where the record written asks for a halt. -/
def Queue.stopped (u : Queue) (k : Packet) : Queue :=
  if k.flags.testBit 4 && !harmless k.endStatus && k.status != stCancelled then { u with halted := true } else u

@[simp] theorem Queue.stopped_pkts (u : Queue) (k : Packet) : (u.stopped k).pkts = u.pkts := by
  unfold Queue.stopped
  split <;> rfl

/-- What a completion makes of its queue. -/
def Queue.filed (u : Queue) (k : Packet) : Queue := ({ u with pkts := u.without k.id } : Queue).flushEnded.stopped k

@[simp] theorem Queue.filed_pkts (u : Queue) (k : Packet) : (u.filed k).pkts = u.without k.id := by simp [Queue.filed]

theorem Queue.flushEnds_iff (u : Queue) (p : Nat) : u.FlushEnds p ↔
    (u.flushed && !(u.without p).any (fun k => k.phase == .finished && k.status == stCancelled)) = true := by
  simp [Queue.FlushEnds, List.any_eq_false]

/-- R60, R61: whether the queue halts, and whether a FLUSH goes on. -/
theorem Queue.filed_halted (u : Queue) (k : Packet) : (u.filed k).halted = true ↔ (u.halted = true ∧ ¬u.FlushEnds k.id) ∨
    (k.flags.testBit 4 = true ∧ harmless k.endStatus = false ∧ k.status ≠ stCancelled) := by
  rw [Queue.flushEnds_iff]
  unfold Queue.filed Queue.stopped Queue.flushEnded
  dsimp only
  split <;> split <;> simp_all

theorem Queue.filed_flushing (u : Queue) (k : Packet) : (u.filed k).flushing = true ↔ u.flushing = true ∧ ¬u.FlushEnds k.id := by
  rw [Queue.flushEnds_iff]
  unfold Queue.filed Queue.stopped Queue.flushEnded
  dsimp only
  split <;> split <;> simp_all

theorem Queue.filed_head (u : Queue) (k : Packet) : (u.filed k).head = u.head := by
  unfold Queue.filed Queue.stopped Queue.flushEnded
  (repeat' split) <;> rfl

theorem Queue.filed_tail (u : Queue) (k : Packet) : (u.filed k).tail = u.tail := by
  unfold Queue.filed Queue.stopped Queue.flushEnded
  (repeat' split) <;> rfl

theorem State.haltQueue_eq {s : State} (h : Tbl.wf {} s.queues = true) (q : Nat) (k : Packet) :
    (if k.flags.testBit 4 && !harmless k.endStatus && k.status != stCancelled then s.haltQueue q else s) =
      s.setQueue q ((s.queue q).stopped k) := by
  unfold Queue.stopped
  split
  · rfl
  · exact (State.setQueue_queue h q).symm

theorem Orderly.not_mem_refiled {qs : Tbl Queue} {n p q : Nat} {u v w : Queue} (h : Orderly qs n) (hwf : Tbl.wf {} qs = true)
    (hp : p ∈ (Tbl.get {} qs q).pkts.map (·.id)) (hu : p ∉ u.pkts.map (·.id)) (hv : v.pkts = u.pkts) (hw : w.pkts = v.pkts) :
    p ∉ idsOf (Tbl.set {} (Tbl.set {} (Tbl.set {} qs q u) q v) q w) := by
  have hr1 := Tbl.set_rising (d := {}) h.rising q u
  rw [(idsOf_set_same (Tbl.set_rising hr1 q v) (by rw [Tbl.get_set_same (Tbl.set_wf q u hwf), hw])).mem_iff,
    (idsOf_set_same hr1 (by rw [Tbl.get_set_same hwf, hv])).mem_iff]
  exact h.not_mem_removed hp hu

/-- The queue's part of a completion. -/
def State.dequeued (s : State) (q : Nat) (k : Packet) : State :=
  let t := (s.setQueue q { s.queue q with pkts := (s.queue q).without k.id }).endFlush q
  if k.flags.testBit 4 && !harmless k.endStatus && k.status != stCancelled then t.haltQueue q else t

theorem State.dequeued_frame (s : State) (q : Nat) (k : Packet) : ∃ qs, s.dequeued q k = { s with queues := qs } := by
  unfold State.dequeued State.endFlush
  dsimp only
  (repeat' split) <;> exact ⟨_, rfl⟩

section Dequeued
variable {s : State} (h : Tbl.wf {} s.queues = true) (q : Nat) (k : Packet)
include h

theorem State.dequeued_eq : s.dequeued q k = ((s.setQueue q { s.queue q with pkts := (s.queue q).without k.id }).setQueue q
    ({ s.queue q with pkts := (s.queue q).without k.id } : Queue).flushEnded).setQueue q ((s.queue q).filed k) := by
  have h1 : Tbl.wf {} (s.setQueue q { s.queue q with pkts := (s.queue q).without k.id }).queues = true := Tbl.set_wf q _ h
  have h2 := Tbl.set_wf q ({ s.queue q with pkts := (s.queue q).without k.id } : Queue).flushEnded h1
  rw [State.dequeued, State.endFlush_eq h1, State.queue_setQueue h, State.haltQueue_eq h2, State.queue_setQueue h1]
  rfl

theorem State.queue_dequeued : (s.dequeued q k).queue q = (s.queue q).filed k := by
  rw [State.dequeued_eq h]
  exact State.queue_setQueue (Tbl.set_wf q _ (Tbl.set_wf q _ h)) ..

/-- The packet is nowhere any more. -/
theorem State.not_mem_dequeued {n : Nat} (ho : Orderly s.queues n) (hk : s.pkt k.id = some (q, k)) :
    k.id ∉ idsOf (s.dequeued q k).queues := by
  rw [State.dequeued_eq h]
  refine Orderly.not_mem_refiled ho h (List.mem_map_of_mem (findPkt_mem_get ho.rising hk).2) ?_ ?_ ?_
  · simp [Queue.without]
  · simp
  · simp

end Dequeued

/-- The client's part of a completion (R227). -/
def State.clientDone (s : State) (k : Packet) : State := match k.client with
  | some v => s.setClient v ((s.client v).1, ((s.client v).2 + 1) % 2 ^ 64)
  | none => s

theorem State.clientDone_frame (s : State) (k : Packet) : ∃ l, s.clientDone k = { s with clients := l } := by
  unfold State.clientDone
  split <;> exact ⟨_, rfl⟩

/-- What a completed packet wrote is marked in what still runs (R133). -/
def State.foesTold (s : State) (k : Packet) : State :=
  if k.run.wrote.isEmpty then s else { s with queues := editAll (fun p =>
    if p.phase = .started then { p with run := { p.run with foes := p.run.foes ++ k.run.wrote.flatMap (·.2.2) } } else p) s.queues }

theorem State.foesTold_frame (s : State) (k : Packet) : ∃ qs, s.foesTold k = { s with queues := qs } := by
  unfold State.foesTold
  split <;> exact ⟨_, rfl⟩

/-- The record that a completion writes. -/
def State.recordOf (s : State) (q : Nat) (k : Packet) : List Byte :=
  completionRecord q k (s.ring (s.queue q).ring).phase (k.visible.getD s.mtime)

/-- The context's, the ring's and the client's part of a completion. -/
def State.noted (s : State) (q : Nat) (k : Packet) : State :=
  let c := (s.queue q).ring
  let t := s.counted k
  let t := (t.putRecord c (k.flags.testBit 2) (completionRecord q k (t.ring c).phase (k.visible.getD t.mtime))).clientDone k
  t.setRing c { t.ring c with waiting := (t.ring c).waiting.filter (· != k.id) }

/-- A completion, part by part. -/
theorem State.record_eq (s : State) (q : Nat) (k : Packet) : s.record q k =
    let t := ((((s.noted q k).dequeued q k).foesTold k).dropLanded k.id).backwardDone k
    if isMover k.opcode then t.startAllXfers else t := by
  have hcounted : s.counted k =
      (let x := s.ctx k.ctx
       let t := if x.state = .free ∨ k.counts.none then s else s.setCtx k.ctx { x with totals := x.totals.total k.counts }
       let t := if k.opcode = 0x0701 ∧ k.status = stOk then t.setCtx k.ctx { t.ctx k.ctx with created := t.mtime } else t
       if k.opcode = 0x0802 ∧ k.status = stOk then t.setCtx k.ctx { t.ctx k.ctx with policy := field k.params 0 1 } else t) := by
    by_cases hno : (s.ctx k.ctx).state = .free ∨ k.counts.none
    · have hfirst (g : Ctx → Ctx) : s.editCtx k.ctx (¬((s.ctx k.ctx).state = .free ∨ k.counts.none)) g = s := if_neg (not_not.mpr hno)
      dsimp only
      rw [State.counted, hfirst, if_pos hno]
      rfl
    · have hfirst (g : Ctx → Ctx) : s.editCtx k.ctx (¬((s.ctx k.ctx).state = .free ∨ k.counts.none)) g = s.setCtx k.ctx (g (s.ctx k.ctx)) :=
        if_pos hno
      dsimp only
      rw [State.counted, hfirst, if_neg hno]
      rfl
  rw [State.noted, hcounted]
  rfl

/-- R54: a packet whose record is written waits at its ring no more. -/
def State.unlisted (s : State) (c : Nat) (k : Packet) : State :=
  s.setRing c { s.ring c with waiting := (s.ring c).waiting.filter (· != k.id) }

theorem State.unlisted_frame {s : State} {c : Nat} (h : Tbl.wf {} s.rings = true) (hw : (s.ring c).waiting = []) (k : Packet) :
    ∃ l, s.unlisted c k = { s with rings := l } ∧ Tbl.get {} l c = s.ring c := by
  refine ⟨_, rfl, (Tbl.get_set_same h).trans ?_⟩
  rw [hw, List.filter_nil, ← hw]

section Noted
variable {s : State} {q : Nat} {k : Packet}

theorem State.noted_frame (h : s.Ready q k) : ∃ f m l rings, s.noted q k =
    { (s.counted k).setHost (s.ring (s.queue q).ring).spot (s.recordOf q k) with rings, fns := f, msix := m, clients := l } ∧
      Tbl.get {} rings (s.queue q).ring = (s.ring (s.queue q).ring).taken := by
  obtain ⟨cs, hcs⟩ := s.counted_frame k
  obtain ⟨f, m, hput⟩ := State.putRecord_host (s := { s with ctxs := cs }) (c := (s.queue q).ring) (i := k.flags.testBit 2)
    (rec := s.recordOf q k) h.ring h.inside
  obtain ⟨ho, hho⟩ := State.setHost_frame { s with ctxs := cs } (s.ring (s.queue q).ring).spot (s.recordOf q k)
  obtain ⟨l, hl⟩ := State.clientDone_frame (({ s with ctxs := cs } : State).putRecord (s.queue q).ring (k.flags.testBit 2) (s.recordOf q k)) k
  have hnoted : s.noted q k = ((({ s with ctxs := cs } : State).putRecord (s.queue q).ring (k.flags.testBit 2) (s.recordOf q k)).clientDone k).unlisted
    (s.queue q).ring k := by
    rw [State.noted, hcs]
    rfl
  have hput := hput.trans (congrArg (fun t : State =>
    ({ t.setRing (s.queue q).ring (s.ring (s.queue q).ring).taken with fns := f, msix := m } : State)) hho)
  rw [hl, hput] at hnoted
  have hget := Tbl.get_set_same h.rings (n := (s.queue q).ring) (v := (s.ring (s.queue q).ring).taken)
  obtain ⟨rings, hrings, hring⟩ := State.unlisted_frame (s := { s with
    ctxs := cs, host := ho, fns := f, msix := m, clients := l, rings := Tbl.set {} s.rings (s.queue q).ring (s.ring (s.queue q).ring).taken })
    (Tbl.set_wf (s.queue q).ring _ h.rings) ((congrArg CplRing.waiting hget).trans h.waiting) k
  refine ⟨f, m, l, rings, ?_, hring.trans hget⟩
  rw [hcs, hho]
  exact hnoted.trans hrings

end Noted

theorem State.foesTold_of_none {s : State} {k : Packet} (h : k.run.wrote = []) : s.foesTold k = s := by simp [State.foesTold, h]

/-- What a packet wrote is told to packets alone. -/
theorem State.queue_foesTold (s : State) (k : Packet) (q : Nat) : ∃ l, (s.foesTold k).queue q = { s.queue q with pkts := l } := by
  unfold State.foesTold
  split
  · exact ⟨_, rfl⟩
  · exact ⟨_, get_editAll _ s.queues q⟩

theorem State.pkt_foesTold_eq_none {s : State} {k : Packet} {p : Nat} : (s.foesTold k).pkt p = none ↔ p ∉ idsOf s.queues := by
  rw [State.pkt, findPkt_eq_none]
  unfold State.foesTold
  split
  · rfl
  · dsimp only
    rw [idsOf_editAll]
    intro j
    split <;> rfl

/-- From `s` to `u` the record of packet `k` is written, which is in its queue still. -/
structure State.Noted (s : State) (q : Nat) (k : Packet) (u : State) : Prop where
  besides   : u.besidesRecord = s.besidesRecord
  queues    : u.queues = s.queues
  bytes     : u.HostHolds (s.ring (s.queue q).ring).spot (s.recordOf q k)
  others    : ∀ a, a < (s.ring (s.queue q).ring).spot ∨ (s.ring (s.queue q).ring).spot + 32 ≤ a → u.hostByte a = s.hostByte a
  ring      : u.ring (s.queue q).ring = (s.ring (s.queue q).ring).taken
  ctx       : u.ctx k.ctx = (s.counted k).ctx k.ctx
  transfers : ∀ x ∈ u.ctxs, x.2.spillQ = [] ∧ x.2.fetchQ = []

section Record
variable {s : State} {q : Nat} {k : Packet} (h : s.Ready q k)
include h

theorem State.noted_of_ready : s.Noted q k (s.noted q k) := by
  obtain ⟨f, m, l, rings, hnoted, hring⟩ := State.noted_frame h
  obtain ⟨cs, hcs⟩ := s.counted_frame k
  have hwf : Tbl.wf 0#8 (s.counted k).host = true := by
    rw [hcs]
    exact h.host
  have hframe := State.setHost_frame (s.counted k) (s.ring (s.queue q).ring).spot (s.recordOf q k)
  have hbytes := State.setHost_holds hwf (s.ring (s.queue q).ring).spot (s.recordOf q k)
  have hothers (a : Nat) := State.hostByte_setHost_other (s.counted k) (a := (s.ring (s.queue q).ring).spot) (x := a) (bs := s.recordOf q k)
  have hnone := (State.counted_transfers h.ctxs k h.transfers).mem (State.counted_wf h.ctxs k)
  rw [State.recordOf, completionRecord_length, ← State.recordOf] at hothers
  generalize (s.counted k).setHost (s.ring (s.queue q).ring).spot (s.recordOf q k) = t at *
  obtain ⟨ho, rfl⟩ := hframe
  rw [hcs] at hnoted hothers hnone
  rw [hnoted]
  exact { besides := rfl, queues := rfl, bytes := hbytes, others := hothers, ring := hring, ctx := by rw [hcs]; rfl, transfers := hnone }

/-- Nothing else moves with a completion. -/
theorem State.record_of_ready : s.record q k = (((s.noted q k).dequeued q k).foesTold k).dropLanded k.id := by
  obtain ⟨qs, hqs⟩ := State.dequeued_frame (s.noted q k) q k
  obtain ⟨qs', hqs'⟩ := State.foesTold_frame ((s.noted q k).dequeued q k) k
  have hback := State.backwardDone_of_role (s := (((s.noted q k).dequeued q k).foesTold k).dropLanded k.id) h.role
  have hstart := State.startAllXfers_of_none (s := (((s.noted q k).dequeued q k).foesTold k).dropLanded k.id)
    (by rw [hqs', hqs]; exact (State.noted_of_ready h).transfers)
  rw [State.record_eq, hback]
  dsimp only
  rw [hstart, ite_self]

/-- R50 to R55: a completion writes its record and ends its packet. -/
theorem State.record_filed : s.Filed q k (s.record q k) := by
  rw [State.record_of_ready h]
  have hnoted := State.noted_of_ready h
  generalize s.noted q k = u at hnoted ⊢
  obtain ⟨hbesides, hqueues, hbytes, hothers, hring, hctx, -⟩ := hnoted
  have hwf : Tbl.wf {} u.queues = true := hqueues ▸ h.queues
  have hqueue : (u.dequeued q k).queue q = (s.queue q).filed k :=
    (State.queue_dequeued hwf q k).trans (congrArg (fun qs => (Tbl.get {} qs q).filed k) hqueues)
  have hgone := State.not_mem_dequeued hwf q k (hqueues ▸ h.order) ((congrArg (fun qs => findPkt qs k.id) hqueues).trans h.pkt)
  have hframe := State.dequeued_frame u q k
  generalize u.dequeued q k = v at hqueue hgone hframe ⊢
  obtain ⟨l, hl⟩ := State.queue_foesTold v k q
  have hpkt := (State.pkt_foesTold_eq_none (s := v) (k := k) (p := k.id)).mpr hgone
  have hleft := State.foesTold_of_none (s := v) (k := k)
  obtain ⟨qs, hqs⟩ := v.foesTold_frame k
  generalize v.foesTold k = w at hl hpkt hleft hqs ⊢
  have hfiled : (w.dropLanded k.id).queue q = { (s.queue q).filed k with pkts := l } := by
    rw [hqueue] at hl
    exact hl
  obtain ⟨qs', rfl⟩ := hframe
  subst hqs
  exact {
    besides := hbesides
    bytes := hbytes
    others := hothers
    ring := hring
    gone := hpkt
    left := fun hwrote => by
      have := congrArg (fun t : State => (t.queue q).pkts) (hleft hwrote)
      exact this.trans ((congrArg Queue.pkts hqueue).trans (Queue.filed_pkts ..))
    halted := by rw [hfiled]; exact Queue.filed_halted ..
    flushing := by rw [hfiled]; exact Queue.filed_flushing ..
    head := by rw [hfiled]; exact Queue.filed_head ..
    tail := by rw [hfiled]; exact Queue.filed_tail ..
    totals := fun hcounts hlive => by
      have := congrArg Ctx.totals hctx
      rw [State.ctx_counted h.ctxs] at this
      exact this.trans (if_neg (by simp [hcounts, hlive]))
    policy := fun hop hst => by
      have := congrArg Ctx.policy hctx
      rw [State.ctx_counted h.ctxs] at this
      exact this.trans (if_pos ⟨hop, hst⟩) }
end Record
end Sys2Proof.Machine
end

section
/-! PROOFS. The completion of a packet: its time, its policy, its SIGNAL add and its record (R50 to R52, R95). -/

namespace Sys2Proof.Machine

/-! #### The packet's part -/

theorem editAll_wfFrom {f : Packet → Packet} {qs : Tbl Queue} : ∀ {lo : Nat}, Tbl.wfFrom {} lo qs = true → Tbl.wfFrom {} lo (editAll f qs) = true := by
  induction qs with
  | nil => exact id
  | cons e qs ih =>
    obtain ⟨q, u⟩ := e
    intro lo h
    simp only [Tbl.wfFrom, Bool.and_eq_true, decide_eq_true_eq] at h
    obtain ⟨⟨hlo, hu⟩, hqs⟩ := h
    have hedit : ({ u with pkts := u.pkts.map f } : Queue) ≠ {} := by
      intro he
      have hnil : u.pkts = [] := List.map_eq_nil_iff.mp (congrArg Queue.pkts he)
      rw [hnil, List.map_nil] at he
      have hempty : u = { u with pkts := [] } := by rw [← hnil]
      exact hu (hempty.trans he)
    simpa [editAll, Tbl.wfFrom, hlo, hedit] using ih hqs

/-- A change of packets leaves no queue without anything to say. -/
theorem editAll_wf {qs : Tbl Queue} (f : Packet → Packet) (h : Tbl.wf {} qs = true) : Tbl.wf {} (editAll f qs) = true := editAll_wfFrom h

theorem State.queue_modPkt (s : State) (p : Nat) (f : Packet → Packet) (q : Nat) :
    (s.modPkt p f).queue q = { s.queue q with pkts := (s.queue q).pkts.map (fun k => if k.id = p then f k else k) } :=
  get_editAll _ s.queues q

/-- A queue without a packet is the same however that packet was changed. -/
theorem State.without_modPkt (s : State) {p : Nat} {f : Packet → Packet} (hid : ∀ k, (f k).id = k.id) (q : Nat) :
    ((s.modPkt p f).queue q).without p = (s.queue q).without p := by
  rw [State.queue_modPkt, Queue.without, Queue.without, List.filter_map]
  have hpred : ((fun e : Packet => e.id != p) ∘ fun k => if k.id = p then f k else k) = fun e => e.id != p := by
    funext e
    by_cases he : e.id = p <;> simp [he, hid]
  rw [hpred]
  refine (List.map_congr_left fun e he => ?_).trans (List.map_id _)
  have : e.id ≠ p := by simpa using (List.mem_filter.mp he).2
  simp [this]

section ModPkt
variable {s : State} {q : Nat} {k : Packet} {f : Packet → Packet} (hid : ∀ j, (f j).id = j.id)
include hid

/-- A packet that is about to complete may be changed before it does. -/
theorem State.Ready.modPkt (h : s.Ready q k) (hidle : ∀ j, j.Idle → (f j).Idle) (hrole : (f k).run.role = k.run.role) :
    (s.modPkt k.id f).Ready q (f k) := by
  have hring : ((s.modPkt k.id f).queue q).ring = (s.queue q).ring := by rw [State.queue_modPkt]
  have hsame : (s.modPkt k.id f).ring ((s.modPkt k.id f).queue q).ring = s.ring (s.queue q).ring := congrArg s.ring hring
  exact {
    queues := editAll_wf _ h.queues
    rings := h.rings
    ctxs := h.ctxs
    host := h.host
    order := h.order.edit (fun j => by split; exacts [hid j, rfl]) fun j hj => by split; exacts [hidle j hj, hj]
    pkt := by rw [hid, State.modPkt_pkt fun j hj => (hid j).trans hj, h.pkt]; rfl
    role := hrole ▸ h.role
    waiting := hsame ▸ h.waiting
    ring := hsame ▸ h.ring
    inside := hsame ▸ h.inside
    transfers := h.transfers }

/-- What a completion says of a packet that was changed before it. -/
theorem State.Filed.of_modPkt {t : State} (h : (s.modPkt k.id f).Filed q (f k) t) : s.Filed q (f k) t := by
  have hqueue := State.queue_modPkt s k.id f q
  have hwithout : ((s.modPkt k.id f).queue q).without (f k).id = (s.queue q).without (f k).id := by
    rw [hid]
    exact State.without_modPkt s hid q
  have hends : ((s.modPkt k.id f).queue q).FlushEnds (f k).id ↔ (s.queue q).FlushEnds (f k).id := by
    rw [Queue.FlushEnds, Queue.FlushEnds, hwithout, hqueue]
  have hring : ((s.modPkt k.id f).queue q).ring = (s.queue q).ring := by rw [hqueue]
  obtain ⟨hbesides, hbytes, hothers, hrings, hgone, hleft, hhalted, hflushing, hhead, htail, htotals, hpolicy⟩ := h
  rw [hwithout] at hleft
  rw [hends, hqueue] at hhalted hflushing
  rw [hring] at hbytes hothers hrings
  rw [hqueue] at hhead htail
  exact ⟨hbesides, hbytes, hothers, hrings, hgone, hleft, hhalted, hflushing, hhead, htail, htotals, hpolicy⟩

end ModPkt
/-- A packet whose effects are visible at `mt` at the latest (R52). -/
def Packet.seen (k : Packet) (mt : Nat) : Packet := { k with visible := some (k.visible.getD mt) }

/-- R52: a completion takes the time at which the packet's effects are visible. -/
def State.seen (s : State) (p : Nat) (k : Packet) : State := if k.visible.isNone then s.modPkt p (fun k => { k with visible := some s.mtime }) else s

/-- R54: the record of a packet that may end need not wait. -/
theorem State.recordWaits_of_mayEnd {s : State} {p q : Nat} {k : Packet} (h : s.MayEnd p q k) : s.recordWaits q p = false := by
  simp [State.recordWaits, h.room, State.ringReaches, h.ring, h.path, h.waiting]

theorem State.MayEnd.modPkt {s : State} {p q : Nat} {k : Packet} {f : Packet → Packet} (h : s.MayEnd p q k) (hid : ∀ j, (f j).id = j.id)
    (hphase : (f k).phase = k.phase) (hrole : (f k).run.role = k.run.role) : (s.modPkt p f).MayEnd p q (f k) := by
  have hring : ((s.modPkt p f).queue q).ring = (s.queue q).ring := by rw [State.queue_modPkt]
  have hsame : (s.modPkt p f).ring ((s.modPkt p f).queue q).ring = s.ring (s.queue q).ring := congrArg s.ring hring
  exact {
    pkt := by rw [State.modPkt_pkt fun j hj => (hid j).trans hj, h.pkt]; rfl
    finished := hphase.trans h.finished
    reqs := h.reqs
    owed := h.owed
    role := hrole ▸ h.role
    room := hsame ▸ h.room
    waiting := hsame ▸ h.waiting
    ring := hsame ▸ h.ring
    inside := hsame ▸ h.inside
    path := h.path
    calm := h.calm
    transfers := h.transfers }

theorem Packet.seen_of_none {k : Packet} {mt : Nat} (h : k.visible = none) : k.seen mt = { k with visible := some mt } := by simp [Packet.seen, h]

theorem Packet.seen_of_some {k : Packet} {mt v : Nat} (h : k.visible = some v) : k.seen mt = k := by
  rw [Packet.seen, h, Option.getD_some, ← h]

theorem State.seen_of_none {s : State} {p : Nat} {k : Packet} (h : k.visible = none) :
    s.seen p k = s.modPkt p (fun k => { k with visible := some s.mtime }) := by simp [State.seen, h]

theorem State.seen_of_some {s : State} {p v : Nat} {k : Packet} (h : k.visible = some v) : s.seen p k = s := by simp [State.seen, h]

theorem State.seen_frame (s : State) (p : Nat) (k : Packet) : ∃ qs, s.seen p k = { s with queues := qs } := by
  unfold State.seen
  split <;> exact ⟨_, rfl⟩

section Seen
variable {s : State} {p q : Nat} {k : Packet}

theorem State.MayEnd.seen (h : s.MayEnd p q k) : (s.seen p k).MayEnd p q (k.seen s.mtime) := by
  cases hv : k.visible with
  | none =>
    rw [State.seen_of_none hv, Packet.seen_of_none hv]
    exact h.modPkt (fun _ => rfl) rfl rfl
  | some v => rwa [State.seen_of_some hv, Packet.seen_of_some hv]

theorem State.Ready.seen (h : s.Ready q k) : (s.seen k.id k).Ready q (k.seen s.mtime) := by
  cases hv : k.visible with
  | none =>
    rw [State.seen_of_none hv, Packet.seen_of_none hv]
    exact h.modPkt (fun _ => rfl) (fun _ hj => hj) rfl
  | some v => rwa [State.seen_of_some hv, Packet.seen_of_some hv]

theorem State.Filed.of_seen {t : State} (h : (s.seen k.id k).Filed q (k.seen s.mtime) t) : s.Filed q (k.seen s.mtime) t := by
  cases hv : k.visible with
  | none =>
    rw [State.seen_of_none hv] at h
    rw [Packet.seen_of_none hv] at h ⊢
    exact State.Filed.of_modPkt (f := fun e => { e with visible := some s.mtime }) (fun _ => rfl) h
  | some v => rwa [State.seen_of_some hv] at h

end Seen

/-- The end of a completion whose record need not wait: the SIGNAL add, and the record (R51). -/
def State.ending (s : State) (p : Nat) : State :=
  match s.pkt p with
  | none => s
  | some (q, k) => match s.signalStep q k with
    | (t, false) => t
    | (t, true) => match t.pkt p with
      | some (_, k) => t.record q k
      | none => t

theorem State.ending_of_signal {s t : State} {p q x : Nat} {k e : Packet} (hk : s.pkt p = some (q, k)) (hsignal : s.signalStep q k = (t, true))
    (he : t.pkt p = some (x, e)) : s.ending p = t.record q e := by
  rw [State.ending, hk]
  dsimp only
  rw [hsignal]
  dsimp only
  rw [he]

theorem State.MayEnd.id {s : State} {p q : Nat} {k : Packet} (h : s.MayEnd p q k) : k.id = p := (findPkt_mem h.pkt).1

/-- R52, R54, R95: a packet whose record need not wait takes its time, is judged, and ends. -/
theorem State.MayEnd.complete {s : State} {p q : Nat} {k : Packet} (h : s.MayEnd p q k) :
    s.complete p = ((s.seen p k).policyLate k).ending p := by
  have hpath : (k.flags.testBit 1 && isHost k.sigAddr && !(s.seen p k).hostPath q) = false := by simp [h.seen.path]
  have hplace : (((s.seen p k).policyLate k).pkt p).map Prod.fst = some q := by
    unfold State.policyLate
    split
    · rw [h.id, State.modPkt_pkt (by intro _ hj; exact hj), h.seen.pkt]
      rfl
    · exact congrArg (Option.map Prod.fst) h.seen.pkt
  unfold State.complete
  rw [h.pkt]
  dsimp only
  rw [if_neg (by simp [h.finished, h.reqs, h.owed]), ← State.seen, if_neg (by rw [State.recordWaits_of_mayEnd h.seen]; exact Bool.false_ne_true),
    if_neg (by rw [hpath]; exact Bool.false_ne_true)]
  generalize (s.seen p k).policyLate k = t at hplace
  unfold State.ending
  rcases he : t.pkt p with _ | ⟨x, e⟩
  · rfl
  · obtain rfl : x = q := by simpa [he] using hplace
    rfl

/-! #### A policy that comes too late (R95) -/

/-- A packet whose numerics policy has no effect. -/
def Packet.tooLate (k : Packet) : Packet := { k with status := 0x60 }

theorem editAll_editAll (f g : Packet → Packet) (qs : Tbl Queue) : editAll g (editAll f qs) = editAll (g ∘ f) qs := by
  simp [editAll]

theorem State.seen_modPkt_tooLate (s : State) (p : Nat) (k : Packet) :
    (s.modPkt p Packet.tooLate).seen p k.tooLate = (s.seen p k).modPkt p Packet.tooLate := by
  have hcomm : ((s.modPkt p Packet.tooLate).modPkt p fun e => { e with visible := some s.mtime }) =
      (s.modPkt p fun e => { e with visible := some s.mtime }).modPkt p Packet.tooLate := by
    refine congrArg (fun qs => { s with queues := qs }) ?_
    refine (editAll_editAll ..).trans (.trans ?_ (editAll_editAll ..).symm)
    congr 1
    funext e
    by_cases he : e.id = p <;> simp [he, Packet.tooLate]
  cases hv : k.visible with
  | none => rw [State.seen_of_none hv, State.seen_of_none (k := k.tooLate) hv, ← hcomm]; rfl
  | some v => rw [State.seen_of_some hv, State.seen_of_some (k := k.tooLate) hv]

theorem State.MayEnd.tooLate {s : State} {p q : Nat} {k : Packet} (h : s.MayEnd p q k) : (s.modPkt p Packet.tooLate).MayEnd p q k.tooLate :=
  h.modPkt (fun _ => rfl) rfl rfl

theorem State.policyLate_of_not {s : State} {k : Packet} (h : ¬(k.opcode = 0x0802 ∧ k.status = stOk ∧ (s.ctx k.ctx).stepState.isOpen)) :
    s.policyLate k = s := if_neg h

theorem State.ctx_seen (s : State) (p : Nat) (k : Packet) (c : Nat) : (s.seen p k).ctx c = s.ctx c := by
  obtain ⟨qs, hqs⟩ := s.seen_frame p k
  rw [hqs]
  rfl

/-- R95: it completes as one that ended with POLICY_LOCKED. -/
theorem State.MayEnd.complete_tooLate {s : State} {p q : Nat} {k : Packet} (h : s.MayEnd p q k)
    (hlate : k.opcode = 0x0802 ∧ k.status = stOk ∧ (s.ctx k.ctx).stepState.isOpen) : s.complete p = (s.modPkt p Packet.tooLate).complete p := by
  have hleft : (s.seen p k).policyLate k = (s.seen p k).modPkt p Packet.tooLate := by
    rw [← h.id]
    exact if_pos (by rwa [State.ctx_seen])
  have hright : ((s.modPkt p Packet.tooLate).seen p k.tooLate).policyLate k.tooLate = (s.modPkt p Packet.tooLate).seen p k.tooLate :=
    State.policyLate_of_not fun hno => absurd hno.2.1 (by simp [Packet.tooLate, stOk])
  rw [h.complete, h.tooLate.complete, hleft, hright, State.seen_modPkt_tooLate]

theorem State.workWaits_modPkt_tooLate (s : State) (p e : Nat) : (s.modPkt p Packet.tooLate).workWaits e = s.workWaits e := by
  have hkeep {α : Type} (f : Packet → α) (hf : ∀ k : Packet, f k.tooLate = f k) (k : Packet) : f (if k.id = p then k.tooLate else k) = f k := by
    split
    · exact hf k
    · rfl
  have hworks := hkeep (fun k => k.phase == .started && k.mover == some e) fun _ => rfl
  have hwaits := hkeep (fun k => k.waits || s.fab.reqs.any (fun r => r.pkt == k.id) || !k.planes.isEmpty) fun _ => rfl
  rw [State.workWaits, State.workWaits, State.modPkt, List.flatMap_map, List.map_flatMap, List.map_flatMap]
  simp only [List.filter_map, List.map_map, Function.comp_def, hworks, hwaits]
  rfl

theorem State.aged_modPkt_tooLate (s : State) (p mt : Nat) : (s.modPkt p Packet.tooLate).aged mt = (s.aged mt).modPkt p Packet.tooLate := by
  have hpaused : (s.modPkt p Packet.tooLate).paused = s.paused := by
    funext e
    rw [State.paused, State.workWaits_modPkt_tooLate]
    rfl
  rw [State.aged, hpaused]
  rfl

section Completion
variable {s : State} {p q : Nat} {k : Packet}

theorem State.MayEnd.aged (h : s.MayEnd p q k) (mt : Nat) : (s.aged mt).MayEnd p q k :=
  ⟨h.pkt, h.finished, h.reqs, h.owed, h.role, h.room, h.waiting, h.ring, h.inside, h.path, h.calm, h.transfers⟩

theorem State.MayEnd.ready (h : s.MayEnd p q k) (hcanon : s.Canonical) (hnum : s.Numbered) (mt : Nat) : (s.aged mt).Ready q k := by
  exact {
    queues := hcanon.queues
    rings := hcanon.rings
    ctxs := hcanon.ctxs
    host := hcanon.host
    order := (State.numbered_iff (Tbl.rising_of_wf hcanon.queues)).mp hnum
    pkt := by rw [h.id]; exact h.pkt
    role := h.role
    waiting := h.waiting
    ring := h.ring
    inside := h.inside
    transfers := h.transfers }

/-- PACKET_COMPLETION completes a finished packet at its time. -/
theorem exec_packetCompletion {mt : Nat} (hmt : mt < 2 ^ 64) (h : s.MayEnd p q k) :
    exec (.packetCompletion p mt) s = .next ((s.aged mt).complete p) := by
  rw [← State.at_of_calm h.calm]
  refine (answer_of_wf (c := .packetCompletion p mt) (by simpa [Instr.wf, fits64] using hmt) _).trans ?_
  rw [h.pkt]
  dsimp only
  rw [if_pos h.finished]

/-- R51: a packet that asks for no SIGNAL ends with its record. -/
theorem State.ending_of_no_signal (hk : s.pkt p = some (q, k)) (hsignal : k.flags.testBit 1 = false) : s.ending p = s.record q k :=
  State.ending_of_signal hk (by simp [State.signalStep, hsignal]) hk

/-- A finished packet without SIGNAL completes. -/
theorem State.MayEnd.filed (h : s.MayEnd p q k) (hready : s.Ready q k) (hsignal : k.flags.testBit 1 = false)
    (hlate : ¬(k.opcode = 0x0802 ∧ k.status = stOk ∧ (s.ctx k.ctx).stepState.isOpen)) : s.Filed q (k.seen s.mtime) (s.complete p) := by
  rw [h.complete, State.policyLate_of_not (by rwa [State.ctx_seen]), State.ending_of_no_signal h.seen.pkt hsignal, ← h.id]
  exact (State.record_filed hready.seen).of_seen

end Completion

/-- Settles O15: a completion is a record in the ring, and the packet's end. -/
theorem completionWritesRecord : Obligations.CompletionWritesRecord := by
  unfold Obligations.CompletionWritesRecord
  intro p mt q k s hmt hcanon hnum h hsignal
  refine ⟨fun hlate => ?_, fun hlate => ?_⟩
  · rw [exec_packetCompletion hmt h, (h.aged mt).complete_tooLate hlate, ← State.aged_modPkt_tooLate]
    exact (exec_packetCompletion hmt h.tooLate).symm
  · obtain ⟨hbesides, hbytes, hothers, hring, hgone, hleft, hhalted, hflushing, hhead, htail, htotals, hpolicy⟩ :=
      (h.aged mt).filed (h.ready hcanon hnum mt) hsignal hlate
    have hframe {α : Type} (f : State → α) := congrArg f hbesides
    obtain rfl := h.id
    exact ⟨_, exec_packetCompletion hmt h, hbytes, hring, hgone, hleft, hhalted, hflushing, hhead, htail, htotals, hpolicy,
      hframe (·.mem), hframe (·.sp), hframe (·.parts), hframe (·.regions), hframe (·.items), hframe (·.groups), hothers⟩

/-! ### The SIGNAL add in host memory (R51) -/

/-- An 8-byte word of host memory counted up. -/
def State.countUp (s : State) (a : Nat) : State := s.setHost a (toLe 8 (le ((List.range 8).map (fun i => s.hostByte (a + i))) + 1))

theorem State.countUp_frame (s : State) (a : Nat) : ∃ h, s.countUp a = { s with host := h } := State.setHost_frame ..

/-- What does not fit the bytes is lost. -/
theorem le_toLe_mod (n v : Nat) : le (toLe n v) = v % 256 ^ n := by
  induction n generalizing v with
  | zero => simp [toLe, le, Nat.mod_one]
  | succ n ih =>
    rw [toLe, le, ih, Nat.pow_succ', Nat.mod_mul]
    simp

/-- R51: the add is exact. -/
theorem State.countUp_value {s : State} (h : Tbl.wf 0#8 s.host = true) (a : Nat) :
    le ((List.range 8).map (fun i => (s.countUp a).hostByte (a + i))) = (le ((List.range 8).map (fun i => s.hostByte (a + i))) + 1) % 2 ^ 64 := by
  have hrange := (State.setHost_holds h a (toLe 8 (le ((List.range 8).map (fun i => s.hostByte (a + i))) + 1))).range
  rw [toLe_length] at hrange
  rw [State.countUp, hrange, le_toLe_mod]
  rfl

theorem State.signal_host {s : State} {a : Acc} {g : Nat} (hg : isHost g = true) (hfree : s.noAtomics.contains (g % 2 ^ 48 / 8) = false) :
    s.signal a g = .ok (s.countUp (g % 2 ^ 48)) := by
  have hg : g >>> 48 = 0xFFFF := by simpa [isHost] using hg
  have hres : s.resolve { a with host := true } g = .ok (.host (g % 2 ^ 48)) := by simp [State.resolve, hg]
  rw [State.signal, State.addAt, hres]
  dsimp only
  rw [hfree, if_neg Bool.false_ne_true]
  rfl

/-- A packet whose SIGNAL add has been made. -/
def Packet.counted (k : Packet) : Packet := { k with signalled := true }

section Signal
variable {s : State} {q : Nat} {k : Packet}

theorem State.ending_of_host_signal (hk : s.pkt k.id = some (q, k)) (hsignal : k.flags.testBit 1 = true) (hnew : k.signalled = false)
    (hcheck : isCheck k.status = false) (hg : isHost k.sigAddr = true) (hfree : s.noAtomics.contains (k.sigAddr % 2 ^ 48 / 8) = false)
    (hreqs : s.fab.reqs.any (fun r => r.pkt == k.id) = false) :
    s.ending k.id = ((s.countUp (k.sigAddr % 2 ^ 48)).modPkt k.id Packet.counted).record q k.counted := by
  obtain ⟨ho, hho⟩ := s.countUp_frame (k.sigAddr % 2 ^ 48)
  refine State.ending_of_signal hk (x := q) ?_ ?_
  · rw [State.signalStep, hsignal, hnew, hcheck, State.signal_host hg hfree, hho]
    exact congrArg (fun b => (_, !b)) hreqs
  · rw [hho, State.modPkt_pkt (by intro _ hj; exact hj)]
    exact congrArg (Option.map _) hk

theorem State.ring_seen (p : Nat) : ((s.seen p k).queue q).ring = (s.queue q).ring := by
  unfold State.seen
  split
  · rw [State.queue_modPkt]
  · rfl

theorem State.Ready.countUp (h : s.Ready q k) (a : Nat) : (s.countUp a).Ready q k := by
  have hwf : Tbl.wf 0#8 (s.countUp a).host = true := State.setHost_wf h.host ..
  obtain ⟨ho, hho⟩ := s.countUp_frame a
  rw [hho] at hwf ⊢
  exact ⟨h.queues, h.rings, h.ctxs, hwf, h.order, h.pkt, h.role, h.waiting, h.ring, h.inside, h.transfers⟩

/-- A finished packet whose SIGNAL add meets host memory completes after it. -/
theorem State.MayEnd.filed_signal {p : Nat} (h : s.MayEnd p q k) (hready : s.Ready q k) (hsignal : k.flags.testBit 1 = true)
    (hnew : k.signalled = false) (hcheck : isCheck k.status = false)
    (hlate : ¬(k.opcode = 0x0802 ∧ k.status = stOk ∧ (s.ctx k.ctx).stepState.isOpen)) (hg : isHost k.sigAddr = true)
    (hfree : s.noAtomics.contains (k.sigAddr % 2 ^ 48 / 8) = false) :
    ((s.seen p k).countUp (k.sigAddr % 2 ^ 48)).Filed q (k.seen s.mtime).counted (s.complete p) := by
  have hpkt := h.seen.pkt
  obtain ⟨qs, hqs⟩ := s.seen_frame p k
  obtain rfl := h.id
  rw [h.complete, State.policyLate_of_not (by rwa [State.ctx_seen])]
  have hend := State.ending_of_host_signal (s := s.seen k.id k) (k := k.seen s.mtime) hpkt hsignal hnew hcheck hg (by rw [hqs]; exact hfree)
    (by rw [hqs]; exact h.reqs)
  rw [show (s.seen k.id k).ending k.id = _ from hend]
  exact State.Filed.of_modPkt (f := Packet.counted) (fun _ => rfl)
    (State.record_filed ((hready.seen.countUp _).modPkt (f := Packet.counted) (fun _ => rfl) (fun _ hj => hj) rfl))

end Signal

theorem State.Filed.host {s t : State} {q : Nat} {k : Packet} {r : CplRing} (h : s.Filed q k t) (hr : s.ring (s.queue q).ring = r) :
    t.HostHolds r.spot (completionRecord q k r.phase (k.visible.getD s.mtime)) ∧
      ∀ a, a < r.spot ∨ r.spot + 32 ≤ a → t.hostByte a = s.hostByte a := by
  subst hr
  exact ⟨h.bytes, h.others⟩

/-- Settles O14: a semaphore in host memory is read anew for who waits for it, and counts who signals it. -/
theorem semaphoresWaitAndCount : Obligations.SemaphoresWaitAndCount := by
  unfold Obligations.SemaphoresWaitAndCount
  refine ⟨fun q before k s hq hfront hwait hhost hal hpath => ?_,
    fun p mt q k s hmt hcanon hnum h hsignal hnew hcheck hopen hhost hfree hapart => ?_⟩
  · refine (answer_of_wf (c := .waitSemaphoreReread q) hq _).trans (congrArg Host.Outcome.next ?_)
    exact (semReread_host hfront hwait hhost hpath).trans (State.readSem_host hhost hal)
  · have hfiled := (h.aged mt).filed_signal (h.ready hcanon hnum mt) hsignal hnew hcheck
      (fun hlate => absurd hlate.2.2 (Bool.eq_false_iff.mp (hopen hlate.1))) hhost hfree
    obtain rfl := h.id
    obtain ⟨qs, hqs⟩ := (s.aged mt).seen_frame k.id k
    have hring := State.ring_seen (s := s.aged mt) (q := q) (k := k) k.id
    have hvalue := State.countUp_value (s := (s.aged mt).seen k.id k) (by rw [hqs]; exact hcanon.host) (k.sigAddr % 2 ^ 48)
    have hframe := ((s.aged mt).seen k.id k).countUp_frame (k.sigAddr % 2 ^ 48)
    rw [hqs] at hfiled hvalue hring hframe
    generalize State.countUp _ (k.sigAddr % 2 ^ 48) = u at hfiled hvalue hframe
    obtain ⟨ho, rfl⟩ := hframe
    obtain ⟨hbytes, hothers⟩ := hfiled.host (r := s.ring (s.queue q).ring) (congrArg s.ring hring)
    have hsame : (List.range 8).map (fun i => (((s.aged mt).complete k.id).hostByte (k.sigAddr % 2 ^ 48 + i))) = _ :=
      List.map_congr_left fun i hi => hothers _ (by
        have hi : i < 8 := List.mem_range.mp hi
        rw [CplRing.spot]
        omega)
    exact ⟨_, exec_packetCompletion hmt h, hfiled.gone, (congrArg (fun t : State => t.mem) hfiled.besides :), (congrArg le hsame).trans hvalue, hbytes⟩

end Sys2Proof.Machine
end

section
/-! FLUSH of a queue in which the last backward list of a step stands, whose end lets the step's norm block fail (R61, R250). -/

namespace Sys2Proof.Machine

/-- The last backward list of context 1's step, which met its start conditions and was held (R234). -/
def heldList : Packet := { ctx := 1, opcode := opTasklist, run := { role := .backward } }

/-- A packet of context 1 that waits for the SEM of its norm block (R251). -/
def normWaiter : Packet := { id := 1, ctx := 1, opcode := 0x0101, flags := 1, waitAddr := 0xFFF0 * 2 ^ 48 + 4096 + 120 }

/-- The module after reset with both in a halted queue, one slot left in its completion ring, and the channel of the norm block lost
(R316). -/
def normLostState : State :=
  { State.reset with
    queues := [(0, { enable := true, halted := true, pkts := [heldList, normWaiter] })], nextPkt := 2
    rings := [(0, { enable := true, base := 0xFFFF * 2 ^ 48, tail := 62 })]
    ctxs := [(0, Ctx.management .azg7208), (1, { state := .active, memLimit := 2 ^ 20, stepState := .drain, nmb := 1, lpmb := 1, bwdMet := 1,
                                                 normAddr := 0xFFF0 * 2 ^ 48 + 4096 })]
    chans := [(16, { retire := 3 })] }

theorem normLostState_canonical : normLostState.Canonical := by
  constructor <;> decide +kernel

theorem normLostState_numbered : normLostState.Numbered := by
  unfold State.Numbered
  decide +kernel

/-- The CANCELLED record of the last backward list takes the step to its exchange, whose norm block fails: the context is faulted, and the
packet that waits for SEM ends with CONTEXT_FAULTED before the FLUSH comes to it. -/
theorem normLostState_flushQueue : ((normLostState.flushQueue 0).pkt 1).any (fun e => e.2.status == stContextFaulted) = true := by
  decide +kernel

/-- R61: MGT_QCTL.FLUSH written by a physical function flushes the queue that it has selected. -/
theorem exec_flush {s : State} {fn : Nat} (hfn : isFn fn = true) (hpf : isPf fn = true) (hup : s.fnUp fn = true) :
    exec (.flush fn) s = .next (s.flushQueue (s.fn fn).qsel) :=
  (answer_of_wf (c := .flush fn) hfn _).trans (congrArg Host.Outcome.next (State.regWrite_qctl hpf hup))

/-- Refutes O19: a packet that had not started can end otherwise than as CANCELLED, since the record of one that a FLUSH cancels before it
can fault its context. -/
theorem not_resumeAndFlush : ¬ Obligations.ResumeAndFlush := by
  unfold Obligations.ResumeAndFlush
  intro h
  obtain ⟨-, -, hflush⟩ := h 0 normLostState (by decide) (by decide) (by decide) normLostState_canonical normLostState_numbered
  obtain ⟨t, hexec, -, -, -, -, -, hcancelled⟩ := hflush (by decide) (by decide) (by decide)
  have ht : t = normLostState.flushQueue 0 :=
    Host.Outcome.next.inj (hexec.symm.trans (exec_flush (by decide) (by decide) (by decide)))
  have hfaulted := normLostState_flushQueue
  rw [← ht] at hfaulted
  cases he : t.pkt 1 with
  | none => simp [he] at hfaulted
  | some e =>
    obtain ⟨-, hended, -⟩ := hcancelled normWaiter (by decide) rfl e he
    rw [he, Option.any_some, hended] at hfaulted
    exact absurd hfaulted (by decide)

end Sys2Proof.Machine
end

section
/-! PROOFS. What a change of work leaves: the time, the engines' progress, what packets have counted, and the tasks that have been dispatched
(R132 to R134, R209 to R216). -/

namespace Sys2Proof

/-- An entry that is listed reads back, whatever the table. -/
theorem Tbl.get_set_of_ne {α : Type} [DecidableEq α] {d v : α} (hv : v ≠ d) (t : Tbl α) (n : Nat) : Tbl.get d (Tbl.set d t n v) n = v := by
  induction t with
  | nil => simp [Tbl.set, Tbl.get, hv]
  | cons e t ih =>
    obtain ⟨k, w⟩ := e
    rcases lt_trichotomy n k with hlt | rfl | hgt
    · simp [Tbl.set, Tbl.get, hlt, hv]
    · simp [Tbl.set, Tbl.get, hv]
    · have hne : n ≠ k := by omega
      have hle : ¬ n < k := by omega
      simp [Tbl.set, Tbl.get, hle, hne, ih]

/-- What a change of every entry leaves of them, it leaves of the entry that is read. -/
theorem Tbl.get_map_keeps {α β : Type} {g : α → β} {f : Nat × α → α} (h : ∀ e, g (f e) = g e.2) (d : α) (t : Tbl α) (n : Nat) :
    g (Tbl.get d (t.map (fun e => (e.1, f e))) n) = g (Tbl.get d t n) := by
  induction t with
  | nil => rfl
  | cons e t ih =>
    simp only [List.map_cons, Tbl.get]
    split
    exacts [h e, ih]

end Sys2Proof

namespace Sys2Proof.Machine

/-! ### What stays -/

/-- The tasks and instructions that run, by packet and index. -/
def State.running (s : State) : List (Nat × Nat) := s.items.map (fun x => (x.pkt, x.idx))

theorem State.item_eq_none_iff {s : State} {p i : Nat} : s.item p i = none ↔ (p, i) ∉ s.running := by
  simp [State.item, State.running]

@[simp] theorem State.office_running (s : State) : s.office.running = s.running := by
  simp [State.office, State.besidesIo, State.besidesMem, State.running, Function.comp_def]

theorem findPkt_editAll {f : Packet → Packet} (hid : ∀ k, (f k).id = k.id) (qs : Tbl Queue) (p : Nat) :
    findPkt (editAll f qs) p = (findPkt qs p).map (fun e => (e.1, f e.2)) := by
  induction qs with
  | nil => rfl
  | cons e qs ih =>
    have hfind : (e.2.pkts.map f).find? (fun k => k.id == p) = (e.2.pkts.find? (fun k => k.id == p)).map f := by
      simp [List.find?_map, hid]
    rw [editAll, List.map_cons, ← editAll, findPkt, hfind, findPkt, ih]
    cases e.2.pkts.find? (fun k => k.id == p) <;> rfl

theorem State.allPkts_of_editAll {s t : State} {f : Packet → Packet} (h : t.queues = editAll f s.queues) :
    t.allPkts = s.allPkts.map (fun e => (e.1, f e.2)) := by
  simp [State.allPkts, h, editAll, List.flatMap_map, List.map_flatMap, Function.comp_def]

/-- What a change of work makes of a packet: its list goes on, and counts nothing by it. -/
structure Packet.Advances (k k' : Packet) : Prop where
  id    : k'.id = k.id
  marks : k'.run.marks = k.run.marks
  next  : k.run.next ≤ k'.run.next

theorem Packet.Advances.refl (k : Packet) : k.Advances k := ⟨rfl, rfl, le_rfl⟩

theorem Packet.Advances.trans {k l m : Packet} (h : k.Advances l) (h' : l.Advances m) : k.Advances m :=
  ⟨h'.id.trans h.id, h'.marks.trans h.marks, h.next.trans h'.next⟩

/-- State `t` comes from `r` by what follows a change of work: no time passes, no engine makes progress, no packet counts anything, and a task
that runs did so or had not been dispatched. -/
structure State.Onward (r t : State) : Prop where
  mtime    : t.mtime = r.mtime
  progress : ∀ e, (r.engine e).progress ≠ 0 → (t.engine e).progress = (r.engine e).progress
  pkts     : ∃ f : Packet → Packet, (∀ k : Packet, k.Advances (f k)) ∧ t.queues = editAll f r.queues
  running  : ∀ x ∈ t.running, x ∈ r.running ∨ ∃ z ∈ r.allPkts, z.2.id = x.1 ∧ z.2.run.next ≤ x.2

section
variable {r s t u : State}

/-- An edit of packets alone. -/
theorem State.Onward.of_edit {f : Packet → Packet} (hf : ∀ k : Packet, k.Advances (f k)) (hm : t.mtime = r.mtime) (he : t.engines = r.engines)
    (hq : t.queues = editAll f r.queues) (hi : t.running = r.running) : r.Onward t :=
  ⟨hm, fun e _ => by rw [State.engine, he, State.engine], ⟨f, hf, hq⟩, fun _ hx => .inl (hi ▸ hx)⟩

theorem editAll_id (qs : Tbl Queue) : editAll id qs = qs := by simp [editAll]

theorem State.Onward.of_same (hm : t.mtime = r.mtime) (he : t.engines = r.engines) (hq : t.queues = r.queues) (hi : t.running = r.running) :
    r.Onward t :=
  .of_edit Packet.Advances.refl hm he (hq.trans (editAll_id _).symm) hi

theorem State.Onward.refl (s : State) : s.Onward s := .of_same rfl rfl rfl rfl

theorem State.Onward.trans (h : r.Onward s) (h' : s.Onward t) : r.Onward t := by
  obtain ⟨f, hf, hs⟩ := h.pkts
  obtain ⟨g, hg, ht⟩ := h'.pkts
  refine ⟨h'.mtime.trans h.mtime, fun e he => ?_, ⟨g ∘ f, fun k => (hf k).trans (hg (f k)), ?_⟩, fun x hx => ?_⟩
  · rw [h'.progress e (by rwa [h.progress e he]), h.progress e he]
  · rw [ht, hs, editAll_editAll]
  · rcases h'.running x hx with hx | ⟨z, hz, hid, hnext⟩
    · exact h.running x hx
    · rw [State.allPkts_of_editAll hs] at hz
      obtain ⟨y, hy, rfl⟩ := List.mem_map.mp hz
      exact .inr ⟨y, hy, (hf y.2).id ▸ hid, (hf y.2).next.trans hnext⟩

/-- A packet found is still there, with what it has counted. -/
theorem State.Onward.pkt {p q : Nat} {k : Packet} (h : r.Onward t) (hk : r.pkt p = some (q, k)) :
    ∃ e, t.pkt p = some (q, e) ∧ e.run.marks = k.run.marks := by
  obtain ⟨f, hf, hq⟩ := h.pkts
  refine ⟨f k, ?_, (hf k).marks⟩
  rw [State.pkt, hq, findPkt_editAll fun k => (hf k).id, ← State.pkt, hk]
  rfl

theorem State.Onward.ite {c : Prop} [Decidable c] (ht : r.Onward t) (hu : r.Onward u) : r.Onward (if c then t else u) := by
  split
  exacts [ht, hu]

end

/-! ### What lists count, and what engines keep of their progress (R134, R209 to R215, R424) -/

@[simp] theorem ListRun.fail_marks (u : ListRun) (i st d : Nat) : (u.fail i st d).marks = u.marks := by
  unfold ListRun.fail
  (repeat' split) <;> rfl

@[simp] theorem ListRun.fail_next (u : ListRun) (i st d : Nat) : (u.fail i st d).next = u.next := by
  unfold ListRun.fail
  (repeat' split) <;> rfl

theorem State.engine_setEngine {s : State} {e : Nat} {v : Engine} (hv : v.progress ≠ 0) : (s.setEngine e v).engine e = v :=
  Tbl.get_set_of_ne (fun h => hv (congrArg Engine.progress h)) s.engines e

theorem State.mem_listsOf {s : State} {c : Nat} {x : Nat × Packet} (h : x ∈ s.listsOf c) : x ∈ s.allPkts :=
  (List.mem_filter.mp (mem_sortBy.mp h)).1

@[simp] theorem Engine.ite_progress (c : Prop) [Decidable c] (g h : Engine) :
    (if c then g else h).progress = if c then g.progress else h.progress := apply_ite ..

/-- What every step of a fold leaves of an engine's progress, the fold does. -/
@[simp] theorem Engine.foldl_progress {α : Type} {f : Engine → α → Engine} {l : List α} {g : Engine}
    (h : ∀ g a, (f g a).progress = g.progress) : (l.foldl f g).progress = g.progress := foldl_keeps Engine.progress f h l g

@[simp] theorem Engine.setSlot_progress (g : Engine) (k v) : (g.setSlot k v).progress = g.progress := rfl

@[simp] theorem Engine.foldl_setSlot_progress (v : Engine → Nat → Slot) (l : List Nat) (g : Engine) :
    (l.foldl (fun g k => g.setSlot k (v g k)) g).progress = g.progress := Engine.foldl_progress fun _ _ => rfl

@[simp] theorem Engine.release_progress (g : Engine) (k) : (g.release k).progress = g.progress := rfl

@[simp] theorem Engine.passed_progress (g : Engine) (level k) : (g.passed level k).progress = g.progress := rfl

section
variable {r s t : State} (hs : r.Onward s)
include hs

/-! ### Folds, accesses, edits of packets and engines -/

theorem State.Onward.foldl {α : Type} {f : State → α → State} {l : List α} (hf : ∀ t a, r.Onward t → r.Onward (f t a)) :
    r.Onward (l.foldl f s) := by
  induction l generalizing s with
  | nil => exact hs
  | cons a l ih => exact ih (hf s a hs)

theorem State.Onward.same (hm : t.mtime = s.mtime) (he : t.engines = s.engines) (hq : t.queues = s.queues) (hi : t.running = s.running) :
    r.Onward t := hs.trans (.of_same hm he hq hi)

theorem State.Onward.office (h : t.office = s.office) : r.Onward t :=
  hs.same (congrArg (fun s : State => s.mtime) h :) (congrArg (fun s : State => s.engines) h :) (congrArg (fun s : State => s.queues) h :)
    (by rw [← t.office_running, h, s.office_running])

theorem State.Onward.modPkt (p : Nat) {f : Packet → Packet} (hf : ∀ k : Packet, k.Advances (f k)) : r.Onward (s.modPkt p f) :=
  hs.trans (.of_edit (f := fun k => if k.id = p then f k else k) (fun k => by split; exacts [hf k, .refl k]) rfl rfl rfl rfl)

theorem State.Onward.modRun (p : Nat) {f : ListRun → ListRun} (hmarks : ∀ u, (f u).marks = u.marks) (hnext : ∀ u, u.next ≤ (f u).next) :
    r.Onward (s.modRun p f) :=
  hs.modPkt p fun k => by split; exacts [.refl k, ⟨rfl, hmarks _, hnext _⟩]

theorem State.Onward.finish (p st : Nat) (d : Option Nat) (c : Counts) : r.Onward (s.finish p st d c) :=
  hs.modPkt p fun k => by split; exacts [.refl k, ⟨rfl, rfl, le_rfl⟩]

theorem State.Onward.fail (p i st d : Nat) : r.Onward (s.modRun p (·.fail i st d)) :=
  hs.modRun p (fun u => u.fail_marks i st d) fun u => (u.fail_next i st d).ge

theorem State.Onward.setEngine {e : Nat} {v : Engine} (hv : v.progress = (s.engine e).progress) : r.Onward (s.setEngine e v) := by
  refine hs.trans ⟨rfl, fun n hn => ?_, ⟨id, Packet.Advances.refl, (editAll_id _).symm⟩, fun _ hx => .inl hx⟩
  by_cases h : n = e
  · subst h
    rw [State.engine_setEngine (hv ▸ hn), hv]
  · exact congrArg Engine.progress (Tbl.get_set_other h s.engines)

/-! ### Contexts and locks (R209, R310, R437) -/

theorem State.Onward.setCore (n : Nat) (c : Core) : r.Onward (s.setCore n c) := hs.same rfl rfl rfl rfl

theorem State.Onward.rstEvent (kind dom cause index ctx dur detail : Nat) : r.Onward (s.rstEvent kind dom cause index ctx dur detail) := by
  unfold State.rstEvent
  have hring (c : Ctrl) : r.Onward { s with ctrl := c } := hs.same rfl rfl rfl rfl
  exact .ite hs ((hring _).office (Log.put_office records_keepsOffice ..))

theorem State.Onward.retireCore (n : Nat) : r.Onward (s.retireCore n) := by
  unfold State.retireCore
  dsimp only
  split
  · exact hs
  · split
    · exact (((hs.setCore ..).rstEvent ..).setCore ..).rstEvent ..
    · exact (hs.setCore ..).rstEvent ..

theorem State.Onward.setLocks (locks : List Lock) : r.Onward { s with locks } := hs.same rfl rfl rfl rfl

theorem State.Onward.tidyLocks : r.Onward s.tidyLocks :=
  .foldl (hs.setLocks _) fun t _ ht => ht.office ((State.putWord_office ..).trans (t.touchUnit_office _))

theorem State.Onward.passLock (addr : Nat) : r.Onward (s.passLock addr) := by
  unfold State.passLock
  split
  · exact hs
  · split
    · exact .finish (hs.setLocks _) ..
    · exact hs

theorem State.Onward.revoke (party : Nat × Nat → Bool) : r.Onward (s.revoke party) := by
  refine .tidyLocks (.foldl (.setLocks (.foldl (hs.setLocks _) ?_) _) ?_)
  · exact fun t w ht => ht.finish ..
  · exact fun t l ht => ht.passLock l.addr

theorem State.Onward.stopLists (sel : Packet → Bool) (st : Nat) (d : Option Nat) : r.Onward (s.stopLists sel st d) := by
  refine hs.trans (.of_edit (fun k => ?_) rfl rfl rfl rfl)
  split
  exacts [⟨rfl, rfl, le_rfl⟩, .refl k]

theorem State.Onward.dropFeeds (c : Nat) : r.Onward (s.dropFeeds c) := by
  have hset (l : Tbl Feed) : r.Onward { s with feeds := l } := hs.same rfl rfl rfl rfl
  refine .foldl (hset _) fun t f ht => ?_
  split
  exacts [ht.finish .., ht]

theorem State.Onward.faultCtx (c : Nat) (how : CtxState) (st d : Nat) : r.Onward (s.faultCtx c how st d) := by
  have hset (v : Ctx) : r.Onward (s.setCtx c v) := hs.same rfl rfl rfl rfl
  exact .ite hs (.stopLists (.foldl (((hset _).revoke _).dropFeeds c) fun t x ht => ht.finish ..) ..)

theorem State.Onward.faultData (c d : Nat) : r.Onward (s.faultData c d) := .ite hs (hs.faultCtx ..)

/-! ### Engines and lists (R132 to R134, R209 to R216) -/

/-- Slots, holder and waiters move; the progress stays. -/
theorem State.Onward.refreshEngine (e : Nat) : r.Onward (s.refreshEngine e) := by
  unfold State.refreshEngine
  refine hs.setEngine ?_
  dsimp only
  split <;> simp

theorem State.Onward.refresh : r.Onward s.refresh := .foldl hs fun _ e ht => ht.refreshEngine e

theorem State.Onward.descriptorRead (q : Nat) (k : Packet) (i : Nat) : r.Onward (s.descriptorRead q k i) := hs.office (s.reading_office ..)

/-- A task placed is the next of its list. -/
theorem State.Onward.newItem {x : Nat × Packet} (hx : x ∈ s.allPkts) {it : Item} (hpkt : it.pkt = x.2.id) (hidx : it.idx = x.2.run.next) :
    r.Onward { s with items := s.items ++ [it] } := by
  refine hs.trans ⟨rfl, fun _ _ => rfl, ⟨id, Packet.Advances.refl, (editAll_id _).symm⟩, fun y hy => ?_⟩
  rcases List.mem_append.mp (show y ∈ s.running ++ [(it.pkt, it.idx)] by simpa [State.running] using hy) with hy | hy
  · exact .inl hy
  · obtain rfl := List.mem_singleton.mp hy
    exact .inr ⟨x, hx, hpkt.symm, hidx.ge⟩

theorem State.Onward.dispatchOn {e : Nat} (h : s.dispatchOn e = some t) : r.Onward t := by
  simp only [State.dispatchOn] at h
  split at h
  · cases h
  · split at h
    · cases h
    · obtain ⟨x, hx, hplaced⟩ := List.exists_of_findSome?_eq_some h
      obtain ⟨site, -, rfl⟩ := Option.map_eq_some_iff.mp hplaced
      have hmem := State.mem_listsOf hx
      refine .modRun (.descriptorRead (.newItem (x := x) ?_ ?_ rfl rfl) ..) _ (fun _ => rfl) fun u => Nat.le_succ u.next
      · exact .ite hs (hs.setEngine rfl)
      · split <;> exact hmem

theorem State.Onward.dispatchFuel (f : Nat) : r.Onward (State.dispatchFuel f s) := by
  induction f generalizing s with
  | zero => exact hs
  | succ f ih =>
    unfold State.dispatchFuel
    split
    next t ht =>
      obtain ⟨e, -, he⟩ := List.exists_of_findSome?_eq_some ht
      exact ih (hs.dispatchOn he)
    · exact hs

theorem State.Onward.failNext : r.Onward s.failNext := by
  refine .foldl hs fun t x ht => ?_
  dsimp only
  split
  · exact ht
  · split
    · exact .ite ((ht.descriptorRead ..).fail ..) ht
    · exact .ite (((ht.descriptorRead ..).fail ..).faultData ..) ((ht.descriptorRead ..).fail ..)
    · exact ht
    · split
      next u hu => exact ht.office (State.askRead_office _ _ _ _ _ _ _ _ hu)
      · exact ht.fail ..
      · exact ht

theorem State.Onward.driftSignals (q : Nat) (k : Packet) : r.Onward (s.driftSignals q k) :=
  .foldl hs fun t _ ht => ht.office (t.signalQuiet_office ..)

theorem State.Onward.endLists : r.Onward s.endLists := by
  refine .foldl hs fun t x ht => ?_
  split
  · exact .finish (ht.driftSignals ..) ..
  · exact ht

theorem State.Onward.settle : r.Onward s.settle :=
  hs.failNext.refresh |>.dispatchFuel _ |>.failNext.refresh.endLists

end

/-! ### A task leaves its core (R132 to R134, R424) -/

/-- What an engine keeps once an item of its has left: one more in its progress, and the overrun charged (R215, R424). -/
def State.engineLeft (s : State) (it : Item) : Engine :=
  { (s.engine it.eng).charge it.ctx it.slice s.mtime with progress := (s.engine it.eng).progress + 1, heldSince := s.mtime }

/-- An item has left its core, and its packet has its counts and its outcome; what it held back has not gone on yet. -/
def State.leftCore (s : State) (p i : Nat) (it : Item) : State :=
  ({ s.setEngine it.eng (s.engineLeft it) with
    items := (s.items.filter (fun x => !(x.pkt == p && x.idx == i))).map (fun x =>
      if x.done then x else { x with rivals := x.rivals ++ it.wrote }) } : State).modRun p
    (fun u => (if it.status = 0 then u else u.fail i it.status (it.detail.getD 0)).joins it)

/-- A completed task leaves its core, and the rest follows. -/
theorem taskComplete_onward {s : State} {p i mt : Nat} {it : Item} (hit : s.item p i = some it) (hdone : it.done = true)
    (hmode : (s.engine it.eng).mode = .service) (hdie : s.dieStopped (it.eng / 10) = false) (hreqs : s.fab.reqs = []) :
    ((s.at mt).leftCore p i it).Onward (taskComplete s p i mt) := by
  unfold taskComplete
  rw [hit]
  dsimp only
  rw [if_neg (by simp [hdone, hmode, hdie, hreqs])]
  have hleft := State.Onward.refl ((s.at mt).leftCore p i it)
  have hfaulted := State.Onward.ite (c := it.status = stMemUncorrectable) (hleft.faultData it.ctx (it.detail.getD 0)) hleft
  refine .settle ?_
  split
  · exact .ite (hfaulted.retireCore _) hfaulted
  · exact hfaulted

theorem taskComplete_of_not_done {s : State} {p i mt : Nat} {it : Item} (hit : s.item p i = some it)
    (h : it.done = false ∨ s.dieStopped (it.eng / 10) = true) : taskComplete s p i mt = s := by
  unfold taskComplete
  rw [hit]
  exact if_pos (by rcases h with h | h <;> simp [h])

section LeftCore
variable {s : State} {p i : Nat} {it : Item}

theorem State.leftCore_progress : ((s.leftCore p i it).engine it.eng).progress = (s.engine it.eng).progress + 1 :=
  congrArg Engine.progress (State.engine_setEngine (v := s.engineLeft it) (Nat.succ_ne_zero _))

theorem State.leftCore_pkt {q : Nat} {k : Packet} (hk : s.pkt p = some (q, k)) (hphase : k.phase ≠ .fetched) :
    ∃ e, (s.leftCore p i it).pkt p = some (q, e) ∧ e.run.marks = k.run.marks.add it.marks := by
  refine ⟨_, State.modRun_pkt hk, ?_⟩
  rw [if_neg hphase]
  simp only [ListRun.joins]
  split <;> simp

theorem State.leftCore_not_running : (p, i) ∉ (s.leftCore p i it).running := by
  intro h
  obtain ⟨x, hx, hname⟩ := List.mem_map.mp h
  obtain ⟨y, hy, rfl⟩ := List.mem_map.mp hx
  obtain ⟨-, hother⟩ := List.mem_filter.mp hy
  have hy : (y.pkt, y.idx) = (p, i) := by rw [← hname]; split <;> rfl
  obtain ⟨rfl, rfl⟩ := Prod.mk.inj hy
  simp at hother

/-- The lists have dispatched what they had. -/
theorem State.leftCore_next {z : Nat × Packet} (hz : z ∈ (s.leftCore p i it).allPkts) :
    ∃ y ∈ s.allPkts, y.2.id = z.2.id ∧ y.2.run.next = z.2.run.next := by
  unfold State.leftCore State.modRun at hz
  rw [State.allPkts_of_editAll (s := s) rfl] at hz
  obtain ⟨y, hy, rfl⟩ := List.mem_map.mp hz
  refine ⟨y, hy, ?_⟩
  dsimp only
  split
  · split
    · exact ⟨rfl, rfl⟩
    · refine ⟨rfl, ?_⟩
      simp only [ListRun.joins]
      split <;> simp
  · exact ⟨rfl, rfl⟩

end LeftCore

theorem State.aged_progress (s : State) (mt e : Nat) : ((s.aged mt).engine e).progress = (s.engine e).progress :=
  Tbl.get_map_keeps (g := Engine.progress) (fun g => by split <;> rfl) {} s.engines e

theorem State.mem_allPkts_of_pkt {s : State} {p q : Nat} {k : Packet} (h : s.pkt p = some (q, k)) : k.id = p ∧ (q, k) ∈ s.allPkts := by
  obtain ⟨hid, u, hu, hk⟩ := findPkt_mem h
  exact ⟨hid, State.mem_allPkts.mpr ⟨(q, u), hu, rfl, hk⟩⟩

/-- A list that has dispatched something has started. -/
theorem State.Numbered.started_of_next {s : State} (h : s.Numbered) {x : Nat × Packet} (hx : x ∈ s.allPkts) {i : Nat} (hi : i < x.2.run.next) :
    x.2.phase ≠ .fetched := by
  obtain ⟨-, -, hidle⟩ := h
  intro hphase
  rw [hidle x hx hphase] at hi
  exact absurd hi (Nat.not_lt_zero i)

/-- A packet's number is its own. -/
theorem State.Numbered.eq_of_id {s : State} (h : s.Numbered) {x y : Nat × Packet} (hx : x ∈ s.allPkts) (hy : y ∈ s.allPkts)
    (hid : x.2.id = y.2.id) : x = y := by
  obtain ⟨hnodup, -, -⟩ := h
  exact List.inj_on_of_nodup_map hnodup hx hy hid

/-- Settles O40: the item leaves its core, and what follows makes no progress, counts nothing and dispatches no task again. -/
theorem taskCompletionFreesCore : Obligations.TaskCompletionFreesCore := by
  unfold Obligations.TaskCompletionFreesCore
  intro p i mt q k it s hmt hnum hcalm hit
  have hexec : exec (.taskComplete p i mt) s = .next (taskComplete s p i mt) := answer_of_wf (by simpa [Instr.wf, fits64] using hmt) _
  refine ⟨fun hstays => ?_, fun hdone hmode hdie hreqs hpkt hnext _ => ?_⟩
  · rw [hexec, taskComplete_of_not_done hit hstays]
  · have honward := taskComplete_onward (mt := mt) hit hdone hmode hdie hreqs
    rw [State.at_of_calm hcalm] at honward
    obtain ⟨hid, hmem⟩ := State.mem_allPkts_of_pkt hpkt
    obtain ⟨e, he, hmarks⟩ := State.leftCore_pkt (s := s.aged mt) (i := i) (it := it) hpkt (hnum.started_of_next hmem hnext)
    obtain ⟨e', he', hmarks'⟩ := honward.pkt he
    have hprogress := State.leftCore_progress (s := s.aged mt) (p := p) (i := i) (it := it)
    refine ⟨_, e', hexec, ?_, ?_, honward.mtime, he', hmarks'.trans hmarks⟩
    · refine State.item_eq_none_iff.mpr fun hruns => ?_
      rcases honward.running _ hruns with hruns | ⟨z, hz, hzid, hznext⟩
      · exact State.leftCore_not_running hruns
      · obtain ⟨y, hy, hyid, hynext⟩ := State.leftCore_next hz
        obtain rfl : y = (q, k) := hnum.eq_of_id hy hmem (by rw [hyid, hzid, hid])
        exact absurd hnext (by rw [hynext]; exact Nat.not_lt.mpr hznext)
    · rw [honward.progress _ (by rw [hprogress]; exact Nat.succ_ne_zero _), hprogress, State.aged_progress]

end Sys2Proof.Machine
end

section
/-! A task whose operand has a corrected error, the record of which is owed to a home that holds the error ring (R21, R312, R333). -/

namespace Sys2Proof.Machine

/-- VCHAIN of one FP32 element in the scratchpad of engine 79: the smaller of it and +0, to offset 64 (R179 to R189). -/
def minTaskDesc : List Byte :=
  toLe 1 0x20 ++ toLe 1 0 ++ toLe 1 1 ++ toLe 6 0 ++ toLe 1 79 ++ toLe 2 0xFFFF ++ toLe 2 1 ++ toLe 2 1 ++ toLe 28 0 ++ toLe 4 64 ++ toLe 16 0
    ++ toLe 8 0x7004 ++ toLe 56 0

/-- The task list of context 0 that has dispatched it. -/
def minTaskList : Packet := { opcode := opTasklist, phase := .started, startSeq := 1, run := { count := 1, next := 1, begun := true } }

/-- It runs on the vector engine of engine 79. -/
def minTask : Item := { eng := 79, site := .vector, desc := minTaskDesc }

/-- The module after reset with that task running, a check byte of the word that it reads in error, and the error ring enabled in memory
of stack 1, which is in protective self-refresh (R312). -/
def owedRecordState : State :=
  { State.reset with
    queues := [(0, { enable := true, pkts := [minTaskList] })], nextPkt := 1, nextSeq := 1, items := [minTask]
    sp := { ck := [(79 * 2 ^ 20, 1#16)] }
    stackTbl := [(1, { protect := true })]
    ecc := { ring := { enable := true, base := 0xFFF0 * 2 ^ 48 + 8192 } } }

/-- What the task computes. -/
def minTaskOut : Rd Out :=
  vchainOut owedRecordState (owedRecordState.taskAcc 0 minTaskList 0) minTaskList.run.key minTaskDesc (vdesc 0 minTaskDesc)

/-- What it then writes: +0 at offset 64. -/
def minTaskWrites : Out := { units := [{ writes := [(spAddr + 79 * 2 ^ 24 + 64, toLe 4 0)] }] }

/-- Refutes O39: a task can leave more than memory, the fabric and its item changed, since the record of a corrected error that it reads
is owed to the home that holds the error ring. -/
theorem not_tasksDoTheirWork : ¬ Obligations.TasksDoTheirWork := by
  unfold Obligations.TasksDoTheirWork
  rintro ⟨hwork, -⟩
  have hread : (owedRecordState.reading (owedRecordState.taskAcc 0 minTaskList 0) minTaskOut).1 = .ok minTaskWrites := by decide +kernel
  obtain ⟨-, hframe, -⟩ := hwork 0 0 0x20 0 (.vchain 0 0) minTaskList minTask minTaskDesc minTaskOut minTaskWrites owedRecordState
    (by decide) (by decide +kernel) rfl hread rfl rfl (by decide +kernel) rfl (by decide +kernel)
  exact absurd (congrArg State.owed hframe) (by decide +kernel)

end Sys2Proof.Machine
end

section
/-! PROOFS. What the module holds right after reset (R39, R53, R206, R220). -/

namespace Sys2Proof.Machine

theorem State.reset_part (p : Nat) : State.reset.part p = if p = 0 then Partition.whole .azg7208 else {} := rfl

theorem State.reset_ctx (c : Nat) : State.reset.ctx c = if c = 0 then Ctx.management .azg7208 else {} := rfl

theorem State.reset_chanCount_zero : State.reset.chanCount 0 = 512 := by decide +kernel

/-- Settles O4: partition 0 and context 0 are listed as the order code has them, every other table is empty. -/
theorem resetState : Obligations.ResetState := by
  unfold Obligations.ResetState
  refine ⟨fun p _ => State.reset_part p, rfl, rfl, State.reset_chanCount_zero, State.reset_ctx, rfl, ?_,
    fun _ => ⟨rfl, rfl, rfl, rfl, rfl⟩, fun _ => ⟨rfl, rfl, rfl⟩, fun _ => rfl, rfl, rfl, rfl⟩
  rw [State.memBytes, State.reset_chanCount_zero]
  rfl

end Sys2Proof.Machine
end

section
/-! CONTEXT_LOAD while another engine dispatches a task of the same context, and a mask is armed for the channel of its descriptor (R209, R211,
R328, R329, R335). -/

namespace Sys2Proof.Machine

/-- The one task of both lists: EMPTY, with no DEP (R132, R136). -/
def emptyDesc : List Byte := toLe 10 0 ++ toLe 2 0xFFFF ++ toLe 116 0

/-- The first of two started task lists of context 1; both have that one task, whose descriptor stands at offset 0. -/
def firstList : Packet :=
  { opcode := opTasklist, ctx := 1, phase := .started, startSeq := 1, run := { addr := 0xFFF0 * 2 ^ 48, count := 1, begun := true } }

/-- The second of them. -/
def secondList : Packet := { firstList with id := 1, startSeq := 2 }

/-- The module after reset with context 1 and its two lists. It holds engine 1 and waits for engine 0. Offset 0 lies in an uncached region;
its word has a corrected error, and a mask of two lanes is armed for its channel. -/
def sharedDescState : State :=
  { State.reset with
    queues := [(0, { enable := true, pkts := [firstList, secondList] })], nextPkt := 2, nextSeq := 3
    ctxs := [(0, Ctx.management .azg7208), (1, { state := .active, engines := 3, memLimit := 2 ^ 20 })]
    regions := [(0, { valid := true, nocache := true })]
    engines := [(0, { waiters := [(1, 0)] }),
                (1, { slots := [(0, { ctx := 1 })], used := [0], holder := some 0, sliceEnd := 1000000, slice := 1 })]
    mem := { cells := [(10, 0xFF#8), (11, 0xFF#8)], ck := [(0, 1#16)], touched := [(0, true)] }
    ecc := { armed := true, checkMask := 0x0101 } }

/-- Both lists read their task's descriptor, and may dispatch it. -/
theorem sharedDescState_descriptor : ∀ r ∈ sharedDescState.allPkts,
    r.2.run.next = 0 ∧ r.2.run.count = 1 ∧ sharedDescState.descriptor r.1 r.2 0 = .ok emptyDesc ∧
      badNext (sharedDescState.ctx r.2.ctx).engines (sharedDescState.ctx r.2.ctx).policy r.2 emptyDesc = false := by
  decide +kernel

theorem sharedDescState_listsSound : sharedDescState.ListsSound := by
  intro r hr _ i _ hi
  obtain ⟨hnext, hcount, hread, hgood⟩ := sharedDescState_descriptor r hr
  have hzero : i = 0 := by omega
  subst hzero
  exact ⟨emptyDesc, hread, by rw [← hnext]; exact hgood⟩

/-- Engine 1 dispatches the first list's task; the word of its descriptor is corrected and written back, and takes the mask. The second list
then reads it as uncorrectable, which faults context 1, and engine 0 releases the slot that the context has just taken. -/
theorem sharedDescState_contextLoad : ((contextLoad sharedDescState 0 1).engine 0).used = [] := by decide +kernel

/-- Refutes O38: a waiting context can lose the slot that CONTEXT_LOAD gives it at once, since the task that another engine dispatches
meanwhile can leave the descriptor of its next one uncorrectable. -/
theorem not_listsScheduled : ¬ Obligations.ListsScheduled := by
  unfold Obligations.ListsScheduled
  rintro ⟨-, hload, -⟩
  obtain ⟨t, hexec, hused, -⟩ := hload 0 1 0 sharedDescState rfl rfl sharedDescState_listsSound (by decide +kernel) rfl rfl rfl rfl
  have ht : t = contextLoad sharedDescState 0 1 := Host.Outcome.next.inj hexec.symm
  rw [ht, sharedDescState_contextLoad] at hused
  exact absurd hused (by decide)

end Sys2Proof.Machine
end

section
/-! A FEED_CLOSE that stands among the waiters of a memory lock as the store of its feed's last micro-batch faults the context (R209, R310,
R368, notes/assumptions/156). -/

namespace Sys2Proof.Machine

/-- A started FEED_CLOSE of feed 0, without DISCARD. -/
def lockedClose : Packet := { id := 1, opcode := 0x0503, ctx := 1, params := toLe 16 0, plen := 16, phase := .started, startSeq := 1 }

/-- The feed, opened by context 1, with one sample in its unfinished micro-batch and none left to deliver. Its buffers lie above the context's
range. -/
def outsideFeed : Feed := { st := .opened, ctx := 1, mbSamples := 2, mbCount := 1, out := 0xFFF0 * 2 ^ 48 + 2 ^ 30 }

/-- The module after reset with that packet and that feed, and a lock that context 0 holds and for which the packet waits. -/
def lockedCloseState : State :=
  { State.reset with
    queues := [(0, { enable := true, pkts := [lockedClose] })], nextPkt := 2, nextSeq := 2
    ctxs := [(0, Ctx.management .azg7208), (1, { state := .active, kind := 1, memLimit := 2 ^ 20 })]
    feeds := [(0, outsideFeed)]
    locks := [{ addr := 0, holder := some (0xFF, 0), waiters := [(1, 0xFF, 1)] }] }

theorem lockedCloseState_canonical : lockedCloseState.Canonical := by
  constructor <;> decide +kernel

/-- The header of the last micro-batch cannot be stored, which faults context 1: its waiters leave the lock, the FEED_CLOSE among them. -/
theorem lockedCloseState_feedClose :
    ((feedCloseRun lockedCloseState 0 lockedClose).pkt lockedClose.id).any (fun e => e.2.status == stLockWaitRemoved) = true := by
  decide +kernel

/-- Refutes O59: a FEED_CLOSE that drains can end otherwise than with OK, since the fault of the feed's context removes it from a lock that it
waits for before the feed is closed. -/
theorem not_feedsRun : ¬ Obligations.FeedsRun := by
  unfold Obligations.FeedsRun
  rintro ⟨-, -, hclose, -⟩
  obtain ⟨-, hserves⟩ := hclose 1 0 lockedClose lockedCloseState (by decide +kernel) lockedCloseState_canonical
  obtain ⟨-, -, hdrain, -⟩ := hserves (by decide)
  obtain ⟨t, hexec, ⟨e, hpkt, -, hok⟩, -⟩ := hdrain rfl (by decide) rfl
  have ht : t = feedCloseRun lockedCloseState 0 lockedClose := Host.Outcome.next.inj hexec.symm
  have hremoved := lockedCloseState_feedClose
  rw [← ht, hpkt, Option.any_some, hok] at hremoved
  exact absurd hremoved (by decide)

end Sys2Proof.Machine
end

section
/-! PROOFS. A started packet whose turn has come: what the turn at its unit leaves as it was, and how its row is carried out (R45, R63). -/

namespace Sys2Proof.Machine

section Turned
variable (s : State) (q : Nat) (k : Packet)

@[simp] theorem State.turned_parts : (s.turned q k).parts = s.parts := by unfold State.turned; split <;> rfl
@[simp] theorem State.turned_ctxs : (s.turned q k).ctxs = s.ctxs := by unfold State.turned; split <;> rfl
@[simp] theorem State.turned_engines : (s.turned q k).engines = s.engines := by unfold State.turned; split <;> rfl
@[simp] theorem State.turned_items : (s.turned q k).items = s.items := by unfold State.turned; split <;> rfl
@[simp] theorem State.turned_mem : (s.turned q k).mem = s.mem := by unfold State.turned; split <;> rfl
@[simp] theorem State.turned_sp : (s.turned q k).sp = s.sp := by unfold State.turned; split <;> rfl
@[simp] theorem State.turned_host : (s.turned q k).host = s.host := by unfold State.turned; split <;> rfl
@[simp] theorem State.turned_ecc : (s.turned q k).ecc = s.ecc := by unfold State.turned; split <;> rfl
@[simp] theorem State.turned_memRing : (s.turned q k).memRing = s.memRing := by unfold State.turned; split <;> rfl
@[simp] theorem State.turned_ctrl : (s.turned q k).ctrl = s.ctrl := by unfold State.turned; split <;> rfl
@[simp] theorem State.turned_locks : (s.turned q k).locks = s.locks := by unfold State.turned; split <;> rfl
@[simp] theorem State.turned_groups : (s.turned q k).groups = s.groups := by unfold State.turned; split <;> rfl
@[simp] theorem State.turned_feeds : (s.turned q k).feeds = s.feeds := by unfold State.turned; split <;> rfl
@[simp] theorem State.turned_sessions : (s.turned q k).sessions = s.sessions := by unfold State.turned; split <;> rfl

@[simp] theorem State.turned_ctx (c : Nat) : (s.turned q k).ctx c = s.ctx c := by simp [State.ctx]
@[simp] theorem State.turned_part (p : Nat) : (s.turned q k).part p = s.part p := by simp [State.part]
@[simp] theorem State.turned_session (n : Nat) : (s.turned q k).session n = s.session n := by simp [State.session]

/-- A packet whose turn has come waits for its unit no more. -/
def Packet.served (k : Packet) : Packet := { k with unit := 0 }

theorem State.turned_queues : ∃ f : Packet → Packet, (s.turned q k).queues = editAll f s.queues ∧ ∀ j, f j = j ∨ f j = j.served := by
  unfold State.turned
  split
  · exact ⟨id, (editAll_id _).symm, fun _ => .inl rfl⟩
  · refine ⟨fun j => if j.id = k.id then j.served else j, rfl, fun j => ?_⟩
    by_cases hj : j.id = k.id <;> simp [hj]

@[simp] theorem State.turned_partOf (x : Nat) : (s.turned q k).partOf x = s.partOf x := by
  obtain ⟨f, hf, -⟩ := s.turned_queues q k
  simp only [State.partOf, State.queue, hf, get_editAll]

variable {s q k}

theorem State.turned_pkt (h : s.pkt k.id = some (q, k)) : (s.turned q k).pkt k.id = some (q, k.served) := by
  unfold State.turned
  split
  next hunit => rw [h, Packet.served, ← hunit]
  next =>
    have hid : ∀ j : Packet, j.id = k.id → j.served.id = k.id := fun _ hj => hj
    exact (State.modPkt_pkt (s := { s with unitLast := _ }) hid).trans (congrArg (Option.map fun e => (e.1, e.2.served)) h)

end Turned

section Rows
variable {s : State} {p op q : Nat} {k : Packet}

theorem State.started_pkt (h : s.started p op = some (q, k)) : s.pkt k.id = some (q, k) ∧ k.phase = .started := by
  unfold State.started at h
  split at h
  next x j hpkt =>
    split at h
    next hc =>
      cases h
      obtain ⟨hphase, -⟩ := hc
      rw [(findPkt_mem hpkt).1]
      exact ⟨hpkt, hphase⟩
    next => cases h
  next => cases h

theorem State.managed_pkt (h : s.managed p op = some (q, k)) : s.pkt k.id = some (q, k) ∧ k.phase = .started := by
  unfold State.managed at h
  split at h
  next x j hpkt =>
    split at h
    next hc =>
      cases h
      obtain ⟨hphase, -⟩ := hc
      rw [(findPkt_mem hpkt).1]
      exact ⟨hpkt, hphase⟩
    next => cases h
  next => cases h

/-- A packet that has not finished ends with the status that its row gives it. -/
theorem State.finish_ended {st : Nat} {d : Option Nat} {c : Counts} (h : s.pkt p = some (q, k)) (hk : k.phase ≠ .finished) :
    (s.finish p st d c).Ended p q st := ⟨_, State.finish_pkt h hk, rfl, rfl⟩

end Rows

end Sys2Proof.Machine
end

section
/-! PROOFS. CONTEXT_CREATE and CONTEXT_DESTROY (R207, R208, R262, R310, R363, R401). -/

namespace Sys2Proof.Machine

theorem exec_contextCreate {s : State} {p q : Nat} {k : Packet} (h : s.managed p 0x0701 = some (q, k)) :
    exec (.contextCreate p) s = .next (createRun (s.turned q k) q k) :=
  (answer_of_wf (c := .contextCreate p) rfl _).trans (by rw [h])

theorem exec_contextDestroy {s : State} {p q : Nat} {k : Packet} (h : s.managed p 0x0702 = some (q, k)) :
    exec (.contextDestroy p) s = .next (destroyRun (s.turned q k) q k) :=
  (answer_of_wf (c := .contextDestroy p) rfl _).trans (by rw [h])

/-! ### A module without work -/

theorem Packet.openList_begun {k : Packet} (h : k.openList = true) : k.opcode = opTasklist ∧ k.phase = .started ∧ k.run.begun = true := by
  simp only [Packet.openList, Bool.and_eq_true, beq_iff_eq] at h
  obtain ⟨⟨⟨⟨⟨hop, hphase⟩, hbegun⟩, -⟩, -⟩, -⟩ := h
  exact ⟨hop, hphase, hbegun⟩

section Workless
variable {s : State} (h : s.Workless)
include h

theorem State.Workless.no_openList {r : Nat × Packet} (hr : r ∈ s.allPkts) : r.2.openList = false := by
  rw [Bool.eq_false_iff]
  intro hopen
  obtain ⟨hop, hphase, hbegun⟩ := Packet.openList_begun hopen
  exact absurd hbegun (by rw [h.lists r hr hop hphase]; exact Bool.false_ne_true)

theorem State.Workless.engine (e : Nat) : (s.engine e).used = [] ∧ (s.engine e).holder = none := by
  rcases Tbl.get_mem_or ({} : Engine) s.engines e with hdef | hmem
  · exact ⟨congrArg Engine.used hdef, congrArg Engine.holder hdef⟩
  · obtain ⟨hused, hholder, -⟩ := h.engines _ hmem
    exact ⟨hused, hholder⟩

theorem State.Workless.failNext : s.failNext = s := by
  have hkeeps : ∀ l : List (Nat × Packet), (∀ r ∈ l, r.2.openList = false) → ∀ f : State → Nat × Packet → State,
      l.foldl (fun t r => if !r.2.openList then t else f t r) s = s := by
    intro l hl f
    induction l with
    | nil => rfl
    | cons r l ih =>
      rw [List.foldl_cons, hl r List.mem_cons_self]
      exact ih fun x hx => hl x (List.mem_cons_of_mem _ hx)
  exact hkeeps s.allPkts (fun _ hr => h.no_openList hr) _

theorem State.Workless.listCtxs : s.listCtxs = [] := by
  have : s.allPkts.filter (fun r => r.2.openList) = [] := List.filter_eq_nil_iff.mpr fun r hr => by simp [h.no_openList hr]
  simp [State.listCtxs, this]

/-- No context waits for an engine: what a refresh writes back of an engine is what was there. -/
theorem State.Workless.refreshEngine (e : Nat) : s.refreshEngine e = s.setEngine e { s.engine e with waiters := [] } := by
  obtain ⟨hused, hholder⟩ := h.engine e
  simp [State.refreshEngine, hused, hholder, h.listCtxs]

theorem State.Workless.setEngine {e : Nat} : (s.setEngine e { s.engine e with waiters := [] }).Workless where
  lists := h.lists
  items := h.items
  engines g hg := by
    obtain ⟨hused, hholder⟩ := h.engine e
    rcases Tbl.mem_of_mem_set hg with rfl | hmem
    · exact ⟨hused, hholder, rfl⟩
    · exact h.engines g hmem

theorem State.Workless.refresh : ∃ es, s.refresh = { s with engines := es } ∧ ({ s with engines := es } : State).Workless := by
  have hfold : ∀ (l : List Nat) (t : State), t.Workless → ∃ es, l.foldl State.refreshEngine t = { t with engines := es } ∧
      ({ t with engines := es } : State).Workless := by
    intro l
    induction l with
    | nil => exact fun t ht => ⟨t.engines, rfl, ht⟩
    | cons e l ih =>
      intro t ht
      obtain ⟨es, heq, hwork⟩ := ih _ (ht.setEngine (e := e))
      exact ⟨es, by rw [List.foldl_cons, ht.refreshEngine, heq]; rfl, hwork⟩
  exact hfold s.busyEngines s h

theorem State.Workless.dispatch : s.dispatch = s := by
  have hnone : s.busyEngines.findSome? (fun e => s.dispatchOn e) = none :=
    List.findSome?_eq_none_iff.mpr fun e _ => by
      obtain ⟨-, hholder⟩ := h.engine e
      simp only [State.dispatchOn, hholder]
  unfold State.dispatch State.dispatchFuel
  rw [hnone]

theorem State.Workless.endLists : s.endLists = s := by
  unfold State.endLists
  rw [List.filter_eq_nil_iff.mpr]
  · rfl
  · intro r hr hend
    simp only [Bool.and_eq_true, beq_iff_eq] at hend
    obtain ⟨⟨⟨⟨⟨hop, hphase⟩, hbegun⟩, -⟩, -⟩, -⟩ := hend
    exact absurd hbegun (by rw [h.lists r hr hop hphase]; exact Bool.false_ne_true)

/-- A change of work, where there is none, concerns the engines alone. -/
theorem State.Workless.settle : ∃ es, s.settle = { s with engines := es } := by
  obtain ⟨es, hfirst, hwork⟩ := h.refresh
  obtain ⟨es', hsecond, hwork'⟩ := hwork.refresh
  refine ⟨es', ?_⟩
  rw [State.settle, h.failNext, hfirst, hwork.dispatch, hwork.failNext, hsecond, hwork'.endLists]

end Workless

/-! ### Packets that end with OK, and what else a context that is destroyed leaves -/

/-- A started packet, or one that has ended with OK. -/
def Packet.EndsWell (k : Packet) : Prop := k.phase = .started ∨ k.phase = .finished ∧ k.status = stOk

/-- What a packet keeps that waits for its unit no more, or ends with OK. -/
structure Packet.Leaves (k k' : Packet) : Prop where
  number   : k'.id = k.id
  ctx      : k'.ctx = k.ctx
  startSeq : k'.startSeq = k.startSeq
  opcode   : k'.opcode = k.opcode
  run      : k'.run = k.run
  started  : k'.phase = .started → k.phase = .started
  well     : k.EndsWell → k'.EndsWell

theorem Packet.Leaves.refl (k : Packet) : k.Leaves k := ⟨rfl, rfl, rfl, rfl, rfl, fun h => h, fun h => h⟩

theorem Packet.Leaves.trans {k l m : Packet} (h : k.Leaves l) (h' : l.Leaves m) : k.Leaves m where
  number := h'.number.trans h.number
  ctx := h'.ctx.trans h.ctx
  startSeq := h'.startSeq.trans h.startSeq
  opcode := h'.opcode.trans h.opcode
  run := h'.run.trans h.run
  started hm := h.started (h'.started hm)
  well hk := h'.well (h.well hk)

theorem Packet.leaves_served (k : Packet) : k.Leaves k.served := ⟨rfl, rfl, rfl, rfl, rfl, fun h => h, fun h => h⟩

/-- A packet whose work ends with OK. -/
def Packet.endedOk (k : Packet) : Packet :=
  if k.phase = .finished then k else { k with phase := .finished, status := stOk, detail := none, counts := {}, waiting := false }

theorem Packet.EndsWell.endedOk {k : Packet} (h : k.EndsWell) : k.endedOk.phase = .finished ∧ k.endedOk.status = stOk := by
  unfold Packet.endedOk
  rcases h with hstarted | ⟨hfinished, hok⟩
  · rw [if_neg (by rw [hstarted]; decide)]
    exact ⟨rfl, rfl⟩
  · rw [if_pos hfinished]
    exact ⟨hfinished, hok⟩

theorem Packet.leaves_endedOk (k : Packet) : k.Leaves k.endedOk := by
  unfold Packet.endedOk
  split
  · exact .refl k
  · exact ⟨rfl, rfl, rfl, rfl, rfl, nofun, fun _ => .inr ⟨rfl, rfl⟩⟩

/-- From `s` to `t`, what CONTEXT_DESTROY of context `c` does before it waits, where no lock is in use and no fetched packet names the
context (R58, R59, R63). -/
structure State.Clears (s t : State) (c : Nat) : Prop where
  queues  : ∃ f : Packet → Packet, t.queues = editAll f s.queues ∧ ∀ k : Packet, k.Leaves (f k)
  items   : t.items = s.items
  engines : t.engines = s.engines
  locks   : t.locks = s.locks
  mem     : t.mem = s.mem
  parts   : t.parts = s.parts
  ctx     : ∀ x, x ≠ c → t.ctx x = s.ctx x
  wf      : Tbl.wf {} s.ctxs = true → Tbl.wf {} t.ctxs = true

theorem State.Clears.refl (s : State) (c : Nat) : s.Clears s c :=
  ⟨⟨id, (editAll_id _).symm, .refl⟩, rfl, rfl, rfl, rfl, rfl, fun _ _ => rfl, id⟩

theorem State.Clears.trans {s t u : State} {c : Nat} (h : s.Clears t c) (h' : t.Clears u c) : s.Clears u c where
  queues := by
    obtain ⟨f, hf, hkeep⟩ := h.queues
    obtain ⟨g, hg, hkeep'⟩ := h'.queues
    exact ⟨g ∘ f, by rw [hg, hf, editAll_editAll], fun k => (hkeep k).trans (hkeep' (f k))⟩
  items := h'.items.trans h.items
  engines := h'.engines.trans h.engines
  locks := h'.locks.trans h.locks
  mem := h'.mem.trans h.mem
  parts := h'.parts.trans h.parts
  ctx x hx := (h'.ctx x hx).trans (h.ctx x hx)
  wf hs := h'.wf (h.wf hs)

section Clears
variable {s t : State} {c : Nat}

/-- A change of packets, feeds or the round robins of units. -/
theorem State.Clears.of_edit {f : Packet → Packet} (hf : ∀ k : Packet, k.Leaves (f k)) (ul : Tbl Nat) (feeds : Tbl Feed) :
    s.Clears { s with unitLast := ul, feeds, queues := editAll f s.queues } c :=
  ⟨⟨f, rfl, hf⟩, rfl, rfl, rfl, rfl, rfl, fun _ _ => rfl, id⟩

theorem State.Clears.turned (q : Nat) (k : Packet) : s.Clears (s.turned q k) c where
  queues := by
    obtain ⟨f, hf, hserved⟩ := s.turned_queues q k
    refine ⟨f, hf, fun j => ?_⟩
    rcases hserved j with hj | hj <;> rw [hj]
    · exact .refl j
    · exact j.leaves_served
  items := by simp
  engines := by simp
  locks := by simp
  mem := by simp
  parts := by simp
  ctx _ _ := by simp
  wf h := by simpa using h

theorem State.Clears.setCtx (v : Ctx) : s.Clears (s.setCtx c v) c where
  queues := ⟨id, (editAll_id _).symm, .refl⟩
  items := rfl
  engines := rfl
  locks := rfl
  mem := rfl
  parts := rfl
  ctx _ hx := Tbl.get_set_other hx s.ctxs
  wf := Tbl.set_wf c v

theorem State.Clears.finish (p : Nat) : s.Clears (s.finish p stOk none) c := by
  refine .of_edit (s := s) (f := fun k => if k.id = p then k.endedOk else k) (fun k => ?_) s.unitLast s.feeds
  split
  · exact k.leaves_endedOk
  · exact .refl k

theorem State.Clears.foldl {α : Type} {f : State → α → State} (h : ∀ u a, State.Clears u (f u a) c) (l : List α) : s.Clears (l.foldl f s) c := by
  induction l generalizing s with
  | nil => exact .refl s c
  | cons a l ih => exact (h s a).trans ih

theorem State.Clears.dropFeeds (x : Nat) : s.Clears (s.dropFeeds x) c := by
  have hfeeds : s.Clears { s with feeds := s.feeds.filter (fun f => !(f.2.st != .closed && f.2.ctx == x)) } c := by
    have := State.Clears.of_edit (s := s) (c := c) (f := id) .refl s.unitLast (s.feeds.filter (fun f => !(f.2.st != .closed && f.2.ctx == x)))
    rwa [editAll_id] at this
  refine hfeeds.trans (.foldl (fun u f => ?_) _)
  cases f.2.closePkt with
  | none => exact .refl u c
  | some p => exact .finish p

/-- Nothing waits for the context but the packet that destroys it: its feed is closed, and the destruction is under way. -/
theorem State.beginDestroy_alone (hlocks : s.locks = []) {p : Nat}
    (halone : ∀ r ∈ s.allPkts, r.2.ctx = c → r.2.phase ≠ .fetched) :
    s.beginDestroy c p = (s.dropFeeds c).setCtx c { s.ctx c with destroying := some p } := by
  have hgone : s.allPkts.filter (fun r => r.2.ctx == c && r.2.phase == .fetched) = [] :=
    List.filter_eq_nil_iff.mpr fun r hr hboth => by
      simp only [Bool.and_eq_true, beq_iff_eq] at hboth
      exact halone r hr hboth.1 hboth.2
  have hreqs : s.dropReqs (fun _ => false) = s := by simp [State.dropReqs]
  simp only [State.beginDestroy, hgone, List.map_nil, List.foldl_nil, List.contains_nil, hreqs, hlocks, List.flatMap_nil]
  rw [show ({ s with locks := [] } : State) = s by rw [← hlocks]]

theorem State.Clears.beginDestroy (hlocks : s.locks = []) (p : Nat) (halone : ∀ r ∈ s.allPkts, r.2.ctx = c → r.2.phase ≠ .fetched) :
    s.Clears (s.beginDestroy c p) c := by
  rw [State.beginDestroy_alone hlocks halone]
  exact (State.Clears.dropFeeds c).trans (.setCtx _)

variable (h : s.Clears t c)
include h

theorem State.Clears.mem_allPkts {r : Nat × Packet} (hr : r ∈ t.allPkts) : ∃ x ∈ s.allPkts, r.1 = x.1 ∧ x.2.Leaves r.2 := by
  obtain ⟨f, hf, hkeep⟩ := h.queues
  rw [State.allPkts_of_editAll hf] at hr
  obtain ⟨x, hx, rfl⟩ := List.mem_map.mp hr
  exact ⟨x, hx, rfl, hkeep x.2⟩

theorem State.Clears.workless (hs : s.Workless) : t.Workless where
  lists r hr hop hphase := by
    obtain ⟨x, hx, -, hkeep⟩ := h.mem_allPkts hr
    rw [hkeep.run]
    exact hs.lists x hx (hkeep.opcode.symm.trans hop) (hkeep.started hphase)
  items := h.items.trans hs.items
  engines := by rw [h.engines]; exact hs.engines

theorem State.Clears.pkt {p q : Nat} {k : Packet} (hk : s.pkt p = some (q, k)) : ∃ e, t.pkt p = some (q, e) ∧ k.Leaves e := by
  obtain ⟨f, hf, hkeep⟩ := h.queues
  refine ⟨f k, ?_, hkeep k⟩
  rw [State.pkt, hf, findPkt_editAll (fun j => (hkeep j).number)]
  exact congrArg _ hk

end Clears

/-! ### The entry freed -/

theorem State.revoke_of_no_locks {s : State} (h : s.locks = []) (party : Nat × Nat → Bool) : s.revoke party = s := by
  have hsame : ({ s with locks := [] } : State) = s := by rw [← h]
  simp [State.revoke, State.tidyLocks, h, hsame]

theorem Engine.without_idle {g : Engine} (h : g.used = [] ∧ g.holder = none ∧ g.waiters = []) (c : Nat) : g.without c = g := by
  obtain ⟨hused, -, -⟩ := h
  simp [Engine.without, Engine.slotOf, hused]

/-- What CONTEXT_DESTROY leaves of the state, where no lock is in use (R208, R262, R401). -/
def State.freed (s : State) (c : Nat) : State :=
  { s with
    ctxs := Tbl.set {} s.ctxs c {}
    engines := (s.engines.map (fun e => (e.1, e.2.without c))).filter (fun e => decide (e.2 ≠ {}))
    units := (s.units.map (fun e => (e.1, e.2.without c))).filter (fun e => decide (e.2 ≠ {}))
    groups := s.groups.filter (fun g => g.ctx != c)
    sessions := s.sessions.filter (fun f => !f.2.opened || f.2.ctx != c) }

theorem State.freeCtx_of_no_locks {s : State} (h : s.locks = []) (c : Nat) : s.freeCtx c = s.freed c := by
  rw [State.freeCtx, State.revoke_of_no_locks h]
  rfl

section Freed
variable {s : State} {c : Nat}

theorem State.Workless.freed (h : s.Workless) : (s.freed c).Workless where
  lists := h.lists
  items := h.items
  engines g hg := by
    obtain ⟨e, he, rfl⟩ := List.mem_map.mp (List.mem_of_mem_filter hg)
    rw [Engine.without_idle (h.engines e he)]
    exact h.engines e he

theorem State.freed_ctx_same (h : Tbl.wf {} s.ctxs = true) : (s.freed c).ctx c = {} := Tbl.get_set_same h

theorem State.freed_ctx_other {x : Nat} (hx : x ≠ c) : (s.freed c).ctx x = s.ctx x := Tbl.get_set_other hx s.ctxs

theorem State.freed_groups : ∀ g ∈ (s.freed c).groups, g.ctx ≠ c := fun g hg => by
  simpa using (List.mem_filter.mp hg).2

theorem State.freed_sessions : ∀ x ∈ (s.freed c).sessions, x.2.opened = true → x.2.ctx ≠ c := fun x hx hopened => by
  simpa [hopened] using (List.mem_filter.mp hx).2

end Freed

/-! ### The commands -/

section Destroy
variable {s : State} {q : Nat} {k : Packet}

/-- The packet that destroys a context, alone in it, waits for no other: what it does before the entry is freed. -/
theorem State.destroyRun_alone (hpkt : s.pkt k.id = some (q, k)) (hwell : k.EndsWell) (hnum : s.Numbered) (hlocks : s.locks = [])
    (halone : ∀ r ∈ s.allPkts, r.2.ctx = k.ctx → r.2.id = k.id) :
    ∃ t, s.Clears t k.ctx ∧ destroyRun (s.turned q k) q k = ((t.freed k.ctx).settle).finish k.id stOk none := by
  have honly : ∀ {t : State}, s.Clears t k.ctx → ∀ r ∈ t.allPkts, r.2.ctx = k.ctx → k.Leaves r.2 := by
    intro t ht r hr hctx
    obtain ⟨x, hx, -, hkeep⟩ := ht.mem_allPkts hr
    have hid := halone x hx (hkeep.ctx.symm.trans hctx)
    obtain rfl := hnum.eq_of_id hx (State.mem_allPkts_of_pkt hpkt).2 hid
    exact hkeep
  have hturned : s.Clears (s.turned q k) k.ctx := .turned q k
  have hbegun : s.Clears (if ((s.turned q k).ctx k.ctx).destroying.isNone then (s.turned q k).beginDestroy k.ctx k.id else s.turned q k) k.ctx := by
    split
    · refine hturned.trans (.beginDestroy (hturned.locks.trans hlocks) k.id fun r hr hctx hfetched => ?_)
      rcases (honly hturned r hr hctx).well hwell with hphase | ⟨hphase, -⟩ <;> rw [hfetched] at hphase <;> cases hphase
    · exact hturned
  refine ⟨_, hbegun, ?_⟩
  unfold destroyRun
  rw [if_neg, State.freeCtx_of_no_locks (hbegun.locks.trans hlocks)]
  rw [List.any_eq_true]
  rintro ⟨r, hr, hlive⟩
  simp only [Bool.and_eq_true, beq_iff_eq, decide_eq_true_eq] at hlive
  obtain ⟨hctx, -, hbefore⟩ := hlive
  rw [(honly hbegun r hr hctx).startSeq] at hbefore
  exact absurd hbefore (lt_irrefl _)

theorem State.Clears.destroyed {t : State} (h : s.Clears t k.ctx) (hctxs : Tbl.wf {} s.ctxs = true) (hwork : s.Workless)
    (hpkt : s.pkt k.id = some (q, k)) (hwell : k.EndsWell) :
    let u := ((t.freed k.ctx).settle).finish k.id stOk none
    ∃ e, u.ctx k.ctx = {} ∧ (∀ c, c ≠ k.ctx → u.ctx c = s.ctx c) ∧
      (∀ g ∈ u.groups, g.ctx ≠ k.ctx) ∧ (∀ x ∈ u.sessions, x.2.opened = true → x.2.ctx ≠ k.ctx) ∧
      u.pkt k.id = some (q, e) ∧ e.phase = .finished ∧ e.status = stOk ∧ u.mem = s.mem ∧ u.parts = s.parts := by
  obtain ⟨es, hsettle⟩ := (h.workless hwork).freed (c := k.ctx).settle
  obtain ⟨j, hj, hkeep⟩ := h.pkt hpkt
  have hend : j.endedOk.phase = .finished ∧ j.endedOk.status = stOk := (hkeep.well hwell).endedOk
  have hfinish : ((t.freed k.ctx).settle.finish k.id stOk none).pkt k.id = some (q, j.endedOk) := by
    rw [hsettle]
    refine (State.modPkt_pkt (s := { t.freed k.ctx with engines := es }) fun l hl => ?_).trans (congrArg (Option.map _) hj)
    split <;> exact hl
  refine ⟨j.endedOk, ?_, fun c hc => ?_, ?_, ?_, hfinish, hend.1, hend.2, ?_, ?_⟩ <;> rw [hsettle]
  · exact State.freed_ctx_same (h.wf hctxs)
  · exact (State.freed_ctx_other hc).trans (h.ctx c hc)
  · exact State.freed_groups
  · exact State.freed_sessions
  · exact h.mem
  · exact h.parts

end Destroy

/-- Settles O35: a context is made of its packet's block, and where nothing else of it is there its end concerns its entry, its group and
its session alone. -/
theorem contextsCreatedAndDestroyed : Obligations.ContextsCreatedAndDestroyed := by
  unfold Obligations.ContextsCreatedAndDestroyed
  refine ⟨fun p q k s h => ⟨fun hstate => ?_, fun hstate => ?_⟩, fun p q k s h hcan hnum hwork hlocks halone => ?_⟩
  · rw [exec_contextCreate h, createRun, if_pos (by simpa using hstate)]
  · rw [exec_contextCreate h, createRun, if_neg (by simpa using hstate), State.turned_partOf]
  · obtain ⟨hpkt, hstarted⟩ := State.managed_pkt h
    obtain ⟨t, hclears, hrun⟩ := State.destroyRun_alone hpkt (.inl hstarted) hnum hlocks halone
    obtain ⟨e, hend⟩ := hclears.destroyed hcan.ctxs hwork hpkt (.inl hstarted)
    exact ⟨_, e, by rw [exec_contextDestroy h, hrun], hend⟩

end Sys2Proof.Machine
end

section
/-! PROOFS. Accesses to the module's memory leave the scratchpads as they were, and where no mask is armed and the error ring is disabled
they leave host memory as it was (R317, R334). -/

namespace Sys2Proof.Machine

@[simp] theorem foldl_sp {α : Type} (f : State → α → State) (l : List α) (s : State) (h : ∀ s a, (f s a).sp = s.sp) :
    (l.foldl f s).sp = s.sp := foldl_keeps State.sp _ h _ _

@[simp] theorem State.ite_sp (c : Prop) [Decidable c] (s t : State) : (if c then s else t).sp = if c then s.sp else t.sp := apply_ite ..

/-- A log whose records leave the scratchpads alone. -/
def Log.KeepsSp (w : Log) : Prop := ∀ s g bs v, (w s g bs v).sp = s.sp

@[simp] theorem State.touchUnit_sp (s : State) (p) : (s.touchUnit p).sp = s.sp := by simp [State.touchUnit]

@[simp] theorem State.irq_sp (s : State) (fn vec) : (s.irq fn vec).sp = s.sp := by simp [State.irq]

@[simp] theorem State.setHost_sp (s : State) (a bs) : (s.setHost a bs).sp = s.sp := by
  induction bs generalizing s a with
  | nil => rfl
  | cons b r ih => simp [State.setHost, ih]

@[simp] theorem State.unexempt_sp (s : State) (w) : (s.unexempt w).sp = s.sp := by simp [State.unexempt]

@[simp] theorem State.putWord_sp (s : State) (p bs) : (s.putWord p bs).sp = s.sp := by simp [State.putWord]

@[simp] theorem State.modLine_sp (s : State) (p f) : (s.modLine p f).sp = s.sp := rfl
@[simp] theorem State.dropCopies_sp (s : State) (line) : (s.dropCopies line).sp = s.sp := rfl
@[simp] theorem State.owe_sp (s : State) (o) : (s.owe o).sp = s.sp := rfl

@[simp] theorem State.keepCopy_sp (s t : State) (w) : (s.keepCopy t w).sp = t.sp := by
  unfold State.keepCopy
  (repeat' split) <;> rfl

@[simp] theorem State.stackUsed_sp (s : State) (p) : (s.stackUsed p).sp = s.sp := by simp [State.stackUsed]

section EventLogs
variable {w : Log} (hw : w.KeepsSp)
include hw

@[simp] theorem Log.put_sp (s : State) (r rec) : (w.put s r rec).sp = s.sp := hw _ _ _ _

@[simp] theorem Log.memEvent_sp (s : State) (kind stack chan eflags row spares) :
    (w.memEvent s kind stack chan eflags row spares).sp = s.sp := by
  simp [Log.memEvent, hw]

@[simp] theorem Log.eccEvent_sp (s : State) (kind cls eflags index synd addr ctx count) :
    (w.eccEvent s kind cls eflags index synd addr ctx count).sp = s.sp := by
  simp [Log.eccEvent, hw]

@[simp] theorem Log.releaseCe_sp (s : State) (key) : (w.releaseCe s key).sp = s.sp := by
  unfold Log.releaseCe
  (repeat' split) <;> simp [hw]

@[simp] theorem Log.corrected_sp (s : State) (cls eflags index synd addr ctx) :
    (w.corrected s cls eflags index synd addr ctx).sp = s.sp := by simp [Log.corrected, hw]

@[simp] theorem Log.uncorrectable_sp (s : State) (cls eflags index synd addr ctx) :
    (w.uncorrectable s cls eflags index synd addr ctx).sp = s.sp := by simp [Log.uncorrectable, hw]

@[simp] theorem Log.startRetire_sp (s : State) (ch) : (w.startRetire s ch).sp = s.sp := by
  simp [Log.startRetire, hw]

@[simp] theorem Log.spareRow_sp (s : State) (p) : (w.spareRow s p).sp = s.sp := by
  simp [Log.spareRow, hw]

@[simp] theorem Log.listCorrected_sp (s : State) (p) : (w.listCorrected s p).sp = s.sp := by
  simp [Log.listCorrected, hw]

@[simp] theorem Log.fired_sp (s : State) (word addr ctx ck) : (w.fired s word addr ctx ck).sp = s.sp := by simp [Log.fired, hw]

/-- The stack's array and the die's cache are no scratchpad: what reaches them leaves it alone. -/
@[simp] theorem Log.inject_sp (s : State) (cls index word addr ctx) : (w.inject s cls index word addr ctx).sp = s.sp := by
  simp [Log.inject, hw]

@[simp] theorem Log.arrayWrite_sp (s : State) (word ctx) : (w.arrayWrite s word ctx).sp = s.sp := by simp [Log.arrayWrite, hw]

@[simp] theorem Log.outWord_sp (s : State) (word) : (w.outWord s word).sp = s.sp := by
  unfold Log.outWord
  split <;> simp [hw]

@[simp] theorem Log.writeBack_sp (s : State) (line) : (w.writeBack s line).sp = s.sp := by simp [Log.writeBack, hw]

@[simp] theorem Log.cacheLine_sp (s : State) (part p alloc) : (w.cacheLine s part p alloc).2.sp = s.sp := by
  unfold Log.cacheLine
  dsimp only
  (repeat' split) <;> simp [hw]

@[simp] theorem Log.injectCache_sp (s : State) (p ctx dirty) : (w.injectCache s p ctx dirty).sp = s.sp := by
  simp [Log.injectCache, hw]

@[simp] theorem Log.wordRead_sp (s : State) (word ctx eflags) : (w.wordRead s word ctx eflags).sp = s.sp := by
  unfold Log.wordRead
  dsimp only
  (repeat' split) <;> simp [hw]

@[simp] theorem Log.fillLine_sp (s : State) (p ctx) : (w.fillLine s p ctx).sp = s.sp := by simp [Log.fillLine, hw]

@[simp] theorem Log.dropBad_sp (s : State) (p n ctx) : (w.dropBad s p n ctx).sp = s.sp := by
  unfold Log.dropBad
  (repeat' split) <;> simp [hw]

@[simp] theorem Log.wordWrite_sp (s : State) (p ctx bs) : (w.wordWrite s p ctx bs).sp = s.sp := by
  unfold Log.wordWrite
  dsimp only
  (repeat' split) <;> simp [hw]

@[simp] theorem Log.soilLine_sp (s : State) (p n ctx) : (w.soilLine s p n ctx).sp = s.sp := by
  simp [Log.soilLine, hw]

@[simp] theorem Log.lineWrite_sp (s : State) (part ctx p nc bs) : (w.lineWrite s part ctx p nc bs).sp = s.sp := by
  simp [Log.lineWrite, hw]

@[simp] theorem Log.poke_sp (s : State) (a g bs) : (w.poke s a g bs).sp = s.sp := by
  simp [Log.poke, hw]

end EventLogs

@[simp] theorem State.pokeMem_sp (s : State) (part off bs) : (s.pokeMem part off bs).sp = s.sp := by simp [State.pokeMem]

theorem logAt_keepsSp : ∀ n, (logAt n).KeepsSp
  | 0 => by
    intro s g bs v
    unfold logAt
    rw [State.irq_sp]
    (repeat' split) <;> simp
  | n + 1 => by
    intro s g bs v
    unfold logAt
    split <;> simp [logAt_keepsSp n]

@[simp] theorem State.writeBack_sp (s : State) (line) : (s.writeBack line).sp = s.sp := Log.writeBack_sp (logAt_keepsSp 3) s line

/-! ### Without a mask and a ring -/

/-- No mask is armed, and the error ring is disabled. -/
def State.Hushed (s : State) : Prop := s.ecc.armed = false ∧ s.ecc.ring.enable = false

/-- From a hushed state to a hushed one, host memory the same. -/
def State.Hushes (s t : State) : Prop := s.Hushed → t.Hushed ∧ t.host = s.host

theorem State.Hushes.refl (s : State) : s.Hushes s := fun h => ⟨h, rfl⟩

theorem State.Hushes.trans {s t u : State} (h : s.Hushes t) (h' : t.Hushes u) : s.Hushes u := fun hs => by
  obtain ⟨ht, hhost⟩ := h hs
  obtain ⟨hu, hhost'⟩ := h' ht
  exact ⟨hu, hhost'.trans hhost⟩

theorem State.Hushes.foldl {α : Type} {f : State → α → State} (h : ∀ s a, State.Hushes s (f s a)) (l : List α) (s : State) :
    s.Hushes (l.foldl f s) := by
  induction l generalizing s with
  | nil => exact .refl s
  | cons a l ih => exact (h s a).trans (ih _)

section Hushed
variable {w : Log} (s : State)

theorem Log.eccEvent_hushes (kind cls eflags index synd addr ctx count) : s.Hushes (w.eccEvent s kind cls eflags index synd addr ctx count) := by
  intro h
  rw [Log.eccEvent, if_pos (by rw [EvRing.closed, h.2]; rfl)]
  exact ⟨h, rfl⟩

theorem Log.releaseCe_hushes (key) : s.Hushes (w.releaseCe s key) := by
  unfold Log.releaseCe
  dsimp only
  split
  · exact .refl s
  · split
    · exact .refl s
    · exact fun h => Log.eccEvent_hushes { s with ecc := _ } _ _ _ _ _ _ _ _ h

theorem Log.outWord_hushes (word) : s.Hushes (w.outWord s word) := by
  unfold Log.outWord
  dsimp only
  split
  · exact .refl s
  · exact fun h => Log.releaseCe_hushes { s with mem := _, ecc := _ } _ h
  · exact fun h => Log.eccEvent_hushes { s with mem := _, ecc := _ } _ _ _ _ _ _ _ _ h

theorem Log.arrayWrite_hushes (word ctx) : s.Hushes (w.arrayWrite s word ctx) := by
  intro h
  rw [Log.arrayWrite, Log.inject, if_pos (by rw [State.aimed, h.1]; rfl)]
  exact ⟨h, rfl⟩

theorem State.keepCopy_hushes (t : State) (word) : t.Hushes (s.keepCopy t word) := by
  unfold State.keepCopy
  (repeat' split) <;> exact fun h => ⟨h, rfl⟩

theorem Log.writeBack_hushes (line) : s.Hushes (w.writeBack s line) := by
  unfold Log.writeBack
  refine .trans (t := (s.dropCopies line).modLine (line * 128) _) (fun h => ⟨h, rfl⟩) (.foldl (fun t i => ?_) _ _)
  exact ((Log.outWord_hushes t _).trans (Log.arrayWrite_hushes _ _ _)).trans (State.keepCopy_hushes _ _ _)

end Hushed

end Sys2Proof.Machine
end

section
/-! PROOFS. PARTITION_SET (R221 to R225). -/

namespace Sys2Proof.Machine

theorem exec_partitionSet {s : State} {p q : Nat} {k : Packet} (h : s.started p 0x0304 = some (q, k)) :
    exec (.partitionSet p) s = .next (partitionRun (s.turned q k) q k) :=
  (answer_of_wf (c := .partitionSet p) rfl _).trans (by rw [h])

@[simp] theorem State.turned_partConflict (s : State) (q : Nat) (k : Packet) (n : Nat) (v : Partition) :
    (s.turned q k).partConflict n v = s.partConflict n v := by simp [State.partConflict]

@[simp] theorem State.turned_partBusy (s : State) (q : Nat) (k : Packet) (n : Nat) (v : Partition) :
    (s.turned q k).partBusy n v = s.partBusy n v := by simp [State.partBusy, State.engine]

/-! ### The ways given up are written back -/

section FlushWays
variable (s : State) (mask : Nat)

@[simp] theorem State.flushWays_office : (s.flushWays mask).office = s.office := by simp [State.flushWays]

@[simp] theorem State.flushWays_sp : (s.flushWays mask).sp = s.sp := by simp [State.flushWays]

theorem State.flushWays_parts : (s.flushWays mask).parts = s.parts := (congrArg State.parts (s.flushWays_office mask) :)
theorem State.flushWays_ctxs : (s.flushWays mask).ctxs = s.ctxs := (congrArg State.ctxs (s.flushWays_office mask) :)
theorem State.flushWays_locks : (s.flushWays mask).locks = s.locks := (congrArg State.locks (s.flushWays_office mask) :)
theorem State.flushWays_pkt (p : Nat) : (s.flushWays mask).pkt p = s.pkt p := (congrArg (fun t => t.pkt p) (s.flushWays_office mask) :)

theorem State.flushWays_hushes : s.Hushes (s.flushWays mask) :=
  (State.Hushes.foldl (fun t line => Log.writeBack_hushes (w := records) t line) _ s).trans fun h => ⟨h, rfl⟩

end FlushWays

/-! ### The channels that change hands come empty -/

section ForgetChans
variable (s : State) (mask : Nat)

/-- What waiters that leave a lock keep of the state: all but their packets. -/
theorem foldl_finish_frame {β : Type} (g : State → β) (hg : ∀ t p, g (State.finish t p stLockWaitRemoved none) = g t)
    (ws : List (Nat × Nat × Nat)) : g (ws.foldl (fun t w => t.finish w.1 stLockWaitRemoved none) s) = g s :=
  foldl_keeps g _ (fun t w => hg t w.1) ws s

@[simp] theorem State.forgetChans_sp : (s.forgetChans mask).sp = s.sp := foldl_finish_frame s State.sp (fun _ _ => rfl) _
@[simp] theorem State.forgetChans_parts : (s.forgetChans mask).parts = s.parts := foldl_finish_frame s State.parts (fun _ _ => rfl) _
@[simp] theorem State.forgetChans_ctxs : (s.forgetChans mask).ctxs = s.ctxs := foldl_finish_frame s State.ctxs (fun _ _ => rfl) _
@[simp] theorem State.forgetChans_host : (s.forgetChans mask).host = s.host := foldl_finish_frame s State.host (fun _ _ => rfl) _

/-- A packet that waits for none of the locks that go stays as it was. -/
theorem State.forgetChans_pkt {p : Nat} (h : ∀ l ∈ s.locks, ∀ w ∈ l.waiters, w.1 ≠ p) : (s.forgetChans mask).pkt p = s.pkt p := by
  have hfold : ∀ (ws : List (Nat × Nat × Nat)) (t : State), (∀ w ∈ ws, w.1 ≠ p) →
      (ws.foldl (fun t w => t.finish w.1 stLockWaitRemoved none) t).pkt p = t.pkt p := by
    intro ws
    induction ws with
    | nil => exact fun _ _ => rfl
    | cons w ws ih =>
      intro t hws
      have hother : (t.finish w.1 stLockWaitRemoved none).pkt p = t.pkt p :=
        State.modPkt_pkt_other (fun k hk => by split <;> exact hk) (hws w List.mem_cons_self).symm
      exact (ih _ fun x hx => hws x (List.mem_cons_of_mem _ hx)).trans hother
  refine hfold _ s fun w hw => ?_
  obtain ⟨l, hl, hw⟩ := List.mem_flatMap.mp hw
  exact h l (List.mem_of_mem_filter hl) w hw

/-- A unit lies in one channel. -/
theorem chanOf_unit (a : Nat) : chanOf (a / 4096 * 4096) = chanOf a := by
  unfold chanOf
  omega

/-- R225: a byte of a channel that goes reads as never written. -/
theorem State.forgetChans_raw {a : Nat} (h : mask.testBit (chanOf a) = true) : (s.forgetChans mask).mem.raw a = 0#8 := by
  refine (Tbl.get_filter (d := 0#8) (fun c => !mask.testBit (chanOf (c / 4096 * 4096))) a _).trans (if_neg ?_)
  rw [chanOf_unit, h]
  exact Bool.false_ne_true

theorem State.forgetChans_touched {a : Nat} (h : mask.testBit (chanOf a) = true) :
    Tbl.get false (s.forgetChans mask).mem.touched (Machine.unitOf a) = false := by
  refine (Tbl.get_filter (d := false) (fun u => !mask.testBit (chanOf (u * 4096))) (Machine.unitOf a) _).trans (if_neg ?_)
  rw [Machine.unitOf, chanOf_unit, h]
  exact Bool.false_ne_true

theorem State.forgetChans_locks {a : Nat} (h : mask.testBit (chanOf a) = true) :
    ∀ l ∈ (s.forgetChans mask).locks, chanOf l.addr ≠ chanOf a := by
  intro l hl hsame
  have hkept := (List.mem_filter.mp hl).2
  rw [hsame, h] at hkept
  exact Bool.false_ne_true hkept

end ForgetChans

/-! ### The command -/

/-- The module once the ways and channels that change hands are given up. -/
def State.cleared (s : State) (o v : Partition) : State := (s.flushWays (o.ways ^^^ v.ways)).forgetChans (o.chans ^^^ v.chans)

section Cleared
variable {s : State} {o v : Partition}

theorem State.cleared_parts : (s.cleared o v).parts = s.parts := by rw [State.cleared, State.forgetChans_parts, State.flushWays_parts]
theorem State.cleared_ctxs : (s.cleared o v).ctxs = s.ctxs := by rw [State.cleared, State.forgetChans_ctxs, State.flushWays_ctxs]
theorem State.cleared_sp : (s.cleared o v).sp = s.sp := by rw [State.cleared, State.forgetChans_sp, State.flushWays_sp]

theorem State.cleared_host (h : s.Quiet) : (s.cleared o v).host = s.host := by
  rw [State.cleared, State.forgetChans_host]
  exact (s.flushWays_hushes _ ⟨h.disarmed, h.ecc⟩).2

theorem State.cleared_pkt {p : Nat} (h : ∀ l ∈ s.locks, ∀ w ∈ l.waiters, w.1 ≠ p) : (s.cleared o v).pkt p = s.pkt p := by
  rw [State.cleared, State.forgetChans_pkt _ _ (by rw [State.flushWays_locks]; exact h), State.flushWays_pkt]

end Cleared

/-- The remapping entries of a partition whose channels change are cleared. -/
def State.unmapped (s : State) (n : Nat) (o v : Partition) : State :=
  if o.chans = v.chans then s
  else { s with regions := s.regions.map (fun r => (r.1, if r.2.part = n then { r.2 with valid := false } else r.2)) }

/-- Context 0 follows partition 0. -/
def State.followed (s : State) (n : Nat) (v : Partition) : State :=
  if n = 0 then s.setCtx 0 { s.ctx 0 with engines := v.engines, memLimit := s.memBytes 0 } else s

/-- The module with partition `n` as `v` says. -/
def State.partitioned (s : State) (n : Nat) (v : Partition) : State :=
  (((s.cleared (s.part n) v).unmapped n (s.part n) v).setPart n v).followed n v

theorem partitionRun_set {s : State} {q : Nat} {k : Packet} (hq : s.partOf q = 0)
    (hconflict : s.partConflict (field k.params 0 1) (partOfBlock k.params) = false)
    (hbusy : s.partBusy (field k.params 0 1) (partOfBlock k.params) = false) :
    partitionRun s q k = (s.partitioned (field k.params 0 1) (partOfBlock k.params)).finish k.id stOk none := by
  unfold partitionRun
  dsimp only
  rw [if_neg (by simp [hq]), if_neg (by simp [hconflict]), if_neg (by simp [hbusy])]
  rfl

section Partitioned
variable (s : State) (n : Nat) (v : Partition)

/-- What follows the clearing concerns the tables of regions, partitions and contexts. -/
theorem State.partitioned_frame {β : Type} (g : State → β) (hregions : ∀ (t : State) r, g { t with regions := r } = g t)
    (hpart : ∀ (t : State) w, g (t.setPart n w) = g t) (hctx : ∀ (t : State) w, g (t.setCtx 0 w) = g t) :
    g (s.partitioned n v) = g (s.cleared (s.part n) v) := by
  have hunmapped : g ((s.cleared (s.part n) v).unmapped n (s.part n) v) = g (s.cleared (s.part n) v) := by
    unfold State.unmapped
    split
    exacts [rfl, hregions _ _]
  unfold State.partitioned State.followed
  split
  · rw [hctx, hpart, hunmapped]
  · rw [hpart, hunmapped]

theorem State.partitioned_mem : (s.partitioned n v).mem = (s.cleared (s.part n) v).mem :=
  s.partitioned_frame n v State.mem (fun _ _ => rfl) (fun _ _ => rfl) (fun _ _ => rfl)

theorem State.partitioned_locks : (s.partitioned n v).locks = (s.cleared (s.part n) v).locks :=
  s.partitioned_frame n v State.locks (fun _ _ => rfl) (fun _ _ => rfl) (fun _ _ => rfl)

theorem State.partitioned_sp : (s.partitioned n v).sp = s.sp :=
  (s.partitioned_frame n v State.sp (fun _ _ => rfl) (fun _ _ => rfl) (fun _ _ => rfl)).trans State.cleared_sp

variable {s n v}

theorem State.partitioned_host (h : s.Quiet) : (s.partitioned n v).host = s.host :=
  (s.partitioned_frame n v State.host (fun _ _ => rfl) (fun _ _ => rfl) (fun _ _ => rfl)).trans (State.cleared_host h)

theorem State.partitioned_pkt {p : Nat} (h : ∀ l ∈ s.locks, ∀ w ∈ l.waiters, w.1 ≠ p) : (s.partitioned n v).pkt p = s.pkt p :=
  (s.partitioned_frame n v (fun t => t.pkt p) (fun _ _ => rfl) (fun _ _ => rfl) (fun _ _ => rfl)).trans (State.cleared_pkt h)

theorem State.partitioned_parts : (s.partitioned n v).parts = Tbl.set {} s.parts n v := by
  have hunmapped : ((s.cleared (s.part n) v).unmapped n (s.part n) v).parts = s.parts := by
    rw [← State.cleared_parts (s := s) (o := s.part n) (v := v)]
    unfold State.unmapped
    split <;> rfl
  rw [← hunmapped]
  unfold State.partitioned State.followed
  split <;> rfl

theorem State.partitioned_part_same (h : Tbl.wf {} s.parts = true) : (s.partitioned n v).part n = v := by
  rw [State.part, State.partitioned_parts]
  exact Tbl.get_set_same h

theorem State.partitioned_part_other {m : Nat} (hm : m ≠ n) : (s.partitioned n v).part m = s.part m := by
  rw [State.part, State.partitioned_parts]
  exact Tbl.get_set_other hm s.parts

theorem State.partitioned_ctxs (hn : n ≠ 0) : (s.partitioned n v).ctxs = s.ctxs := by
  rw [← State.cleared_ctxs (s := s) (o := s.part n) (v := v), State.partitioned, State.followed, if_neg hn]
  unfold State.unmapped
  split <;> rfl

theorem State.followed_zero (h : Tbl.wf {} s.ctxs = true) :
    ((s.followed 0 v).ctx 0).engines = v.engines ∧ ((s.followed 0 v).ctx 0).memLimit = (s.followed 0 v).memBytes 0 := by
  have hctx : (s.followed 0 v).ctx 0 = { s.ctx 0 with engines := v.engines, memLimit := s.memBytes 0 } := Tbl.get_set_same h
  rw [hctx]
  exact ⟨rfl, rfl⟩

theorem State.partitioned_zero (h : Tbl.wf {} s.ctxs = true) :
    ((s.partitioned 0 v).ctx 0).engines = v.engines ∧ ((s.partitioned 0 v).ctx 0).memLimit = (s.partitioned 0 v).memBytes 0 := by
  refine State.followed_zero ?_
  rw [State.setPart_ctxs]
  unfold State.unmapped
  split <;> exact (State.cleared_ctxs (s := s)).symm ▸ h

end Partitioned

/-- Settles O36: denied, in conflict, busy or set; what is given up is written back or forgotten, and the tables of partitions and contexts
change at the partition's own entries. -/
theorem partitionIsSet : Obligations.PartitionIsSet := by
  unfold Obligations.PartitionIsSet
  intro p q k s h hcan n v u
  obtain ⟨hpkt, hstarted⟩ := State.started_pkt h
  have hexec := exec_partitionSet h
  refine ⟨fun hq => ?_, fun hq hconflict => ?_, fun hq hconflict hbusy => ?_, fun hq hconflict hbusy hwaiters => ?_⟩
  · rw [hexec, partitionRun, if_pos (by simpa using hq)]
  · rw [hexec, partitionRun, if_neg (by simpa using hq), if_pos (by simpa using hconflict)]
  · rw [hexec, partitionRun, if_neg (by simpa using hq), if_neg (by simpa using hconflict), if_pos (by simpa using hbusy)]
  · have hrun : partitionRun u q k = (u.partitioned n v).finish k.id stOk none :=
      partitionRun_set (by simpa [u] using hq) (by simpa [u] using hconflict) (by simpa [u] using hbusy)
    have hset : (u.partitioned n v).pkt k.id = some (q, k.served) :=
      (State.partitioned_pkt (by simpa [u] using hwaiters)).trans (State.turned_pkt hpkt)
    have hchans : (u.part n).chans = (s.part n).chans := by simp [u]
    refine ⟨_, _, hexec.trans (congrArg _ hrun), State.partitioned_part_same (by simpa [u] using hcan.parts),
      fun m hm => (State.partitioned_part_other hm).trans (by simp [u]),
      State.finish_pkt hset (by rw [Packet.served, hstarted]; decide), rfl, rfl, fun a ha => ?_, fun hn => ?_,
      fun hn => (State.partitioned_ctxs hn).trans (by simp [u]), fun hquiet => ?_, ?_⟩
    · rw [← hchans] at ha
      exact ⟨(congrArg (Mem.raw · a) (u.partitioned_mem n v)).trans (State.forgetChans_raw _ _ ha),
        (congrArg (fun m => Tbl.get false m.touched (Machine.unitOf a)) (u.partitioned_mem n v)).trans (State.forgetChans_touched _ _ ha),
        fun l hl => State.forgetChans_locks _ _ ha l ((congrArg (l ∈ ·) (u.partitioned_locks n v)).mp hl)⟩
    · rw [hn]
      exact State.partitioned_zero (by simpa [u] using hcan.ctxs)
    · have hu : u.Quiet := ⟨by simpa [State.Disarmed, u] using hquiet.disarmed, by simpa [u] using hquiet.ecc, by simpa [u] using hquiet.mem,
        by simpa [u] using hquiet.rst⟩
      exact (State.partitioned_host hu).trans (by simp [u])
    · exact congrArg Mem.cells ((u.partitioned_sp n v).trans (by simp [u]))

end Sys2Proof.Machine
end

section
/-! PROOFS. Magnitudes and codes of a floating-point format (R67, R86): the exponent of a magnitude, and the codes that a conversion gives. -/

namespace Sys2Proof.Machine

theorem pow2_eq_zpow (e : Int) : pow2 e = (2 : Rat) ^ e := by
  unfold pow2
  split
  next h =>
    obtain ⟨n, rfl⟩ := Int.eq_ofNat_of_zero_le h
    simp
  next h =>
    obtain ⟨n, hn⟩ := Int.eq_ofNat_of_zero_le (a := -e) (by omega)
    obtain rfl : e = -(n : Int) := by omega
    rw [Rat.mkRat_eq_div]
    simp

theorem pow2_pos (e : Int) : 0 < pow2 e := by
  rw [pow2_eq_zpow]
  positivity

theorem pow2_add (a b : Int) : pow2 (a + b) = pow2 a * pow2 b := by
  simp only [pow2_eq_zpow]
  exact zpow_add₀ (by norm_num) a b

theorem pow2_lt_pow2 {a b : Int} : pow2 a < pow2 b ↔ a < b := by
  simp only [pow2_eq_zpow]
  exact zpow_lt_zpow_iff_right₀ (by norm_num)

theorem pow2_natCast (n : Nat) : pow2 n = ((2 ^ n : Nat) : Rat) := by
  rw [pow2_eq_zpow]
  simp

theorem log2_bounds {n : Nat} (hn : n ≠ 0) : pow2 n.log2 ≤ n ∧ (n : Rat) < pow2 (n.log2 + 1) := by
  have hup : n < 2 ^ (n.log2 + 1) := Nat.lt_log2_self
  rw [pow2_natCast, show ((n.log2 : Int) + 1) = ((n.log2 + 1 : Nat) : Int) by norm_cast, pow2_natCast]
  exact ⟨by exact_mod_cast Nat.log2_self_le hn, by exact_mod_cast hup⟩

/-- The quotient of two numbers lies within a factor of two of the power of two between their lengths. -/
theorem log2_quotient {n d : Nat} (hn : n ≠ 0) (hd : d ≠ 0) :
    pow2 ((n.log2 : Int) - d.log2 - 1) < (n : Rat) / d ∧ (n : Rat) / d < pow2 ((n.log2 : Int) - d.log2 + 1) := by
  obtain ⟨hnlo, hnhi⟩ := log2_bounds hn
  obtain ⟨hdlo, hdhi⟩ := log2_bounds hd
  have hpos : (0 : Rat) < d := by exact_mod_cast Nat.pos_of_ne_zero hd
  rw [lt_div_iff₀ hpos, div_lt_iff₀ hpos]
  constructor
  · calc pow2 ((n.log2 : Int) - d.log2 - 1) * d < pow2 ((n.log2 : Int) - d.log2 - 1) * pow2 (d.log2 + 1) := by
          exact mul_lt_mul_of_pos_left hdhi (pow2_pos _)
      _ = pow2 n.log2 := by rw [← pow2_add]; congr 1; omega
      _ ≤ n := hnlo
  · calc (n : Rat) < pow2 (n.log2 + 1) := hnhi
      _ = pow2 ((n.log2 : Int) - d.log2 + 1) * pow2 d.log2 := by rw [← pow2_add]; congr 1; omega
      _ ≤ pow2 ((n.log2 : Int) - d.log2 + 1) * d := mul_le_mul_of_nonneg_left hdlo (pow2_pos _).le

theorem natAbs_div_den {q : Rat} (hq : 0 < q) : (q.num.natAbs : Rat) / q.den = q := by
  rw [Nat.cast_natAbs, abs_of_pos (Rat.num_pos.mpr hq)]
  exact Rat.num_div_den q

/-- The two tests of `ilog2` are one: whether the power of two is at most the magnitude. -/
theorem ilog2_of_pos {q : Rat} (hq : 0 < q) :
    ilog2 q = if pow2 ((q.num.natAbs.log2 : Int) - q.den.log2) ≤ q then (q.num.natAbs.log2 : Int) - q.den.log2
      else (q.num.natAbs.log2 : Int) - q.den.log2 - 1 := by
  have hd : (0 : Rat) < q.den := by exact_mod_cast q.den_pos
  have hn := natAbs_div_den hq
  unfold ilog2
  dsimp only
  generalize (q.num.natAbs.log2 : Int) - q.den.log2 = k
  have htest : pow2 k ≤ q ↔ pow2 k * q.den ≤ q.num.natAbs := by rw [← le_div_iff₀ hd, hn]
  simp only [htest]
  split
  next hk =>
    obtain ⟨m, rfl⟩ := Int.eq_ofNat_of_zero_le hk
    rw [pow2_natCast, Int.toNat_natCast]
    have hnat : q.den * 2 ^ m ≤ q.num.natAbs ↔ ((2 ^ m : Nat) : Rat) * q.den ≤ q.num.natAbs := by
      rw [mul_comm]
      exact_mod_cast Iff.rfl
    simp only [hnat]
  next hk =>
    obtain ⟨m, hm⟩ := Int.eq_ofNat_of_zero_le (a := -k) (by omega)
    obtain rfl : k = -(m : Int) := by omega
    rw [neg_neg, Int.toNat_natCast]
    have hscale : pow2 m * pow2 (-(m : Int)) = 1 := by
      rw [← pow2_add, add_neg_cancel]
      rfl
    have hnat : q.den ≤ q.num.natAbs * 2 ^ m ↔ pow2 (-(m : Int)) * q.den ≤ q.num.natAbs := by
      rw [← mul_le_mul_iff_of_pos_left (pow2_pos m), ← mul_assoc, hscale, one_mul, pow2_natCast, mul_comm _ (q.num.natAbs : Rat)]
      exact_mod_cast Iff.rfl
    simp only [hnat]

theorem ilog2_spec {q : Rat} (hq : 0 < q) : pow2 (ilog2 q) ≤ q ∧ q < pow2 (ilog2 q + 1) := by
  have hn : q.num.natAbs ≠ 0 := Int.natAbs_ne_zero.mpr (Rat.num_pos.mpr hq).ne'
  obtain ⟨hlo, hhi⟩ := log2_quotient hn q.den_nz
  rw [natAbs_div_den hq] at hlo hhi
  rw [ilog2_of_pos hq]
  split
  next h => exact ⟨h, hhi⟩
  next h => exact ⟨hlo.le, by rw [sub_add_cancel]; exact not_le.mp h⟩

/-! ### Codes -/

/-- The floor of a magnitude below a whole number is below it. -/
theorem natFloor_lt {q : Rat} {n : Nat} (hq : 0 ≤ q) (h : q < n) : natFloor q < n := by
  rw [natFloor, Nat.div_lt_iff_lt_mul q.den_pos]
  have hd : (0 : Rat) < q.den := by exact_mod_cast q.den_pos
  have hnum : ((q.num.toNat : Nat) : Rat) = q.num := by exact_mod_cast Int.toNat_of_nonneg (Rat.num_nonneg.mpr hq)
  have hlt : (q.num : Rat) < n * q.den := by rwa [← div_lt_iff₀ hd, Rat.num_div_den]
  rw [← hnum] at hlt
  exact_mod_cast hlt

/-- A finite magnitude has an FP32 code of 31 bits. -/
theorem codeOf_fp32_lt {a : Rat} (ha : 0 < a) (h : a < pow2 128) : Flt.fp32.codeOf a < 2 ^ 31 := by
  obtain ⟨hlo, hhi⟩ := ilog2_spec ha
  have hexp : ilog2 a < 128 := pow2_lt_pow2.mp (hlo.trans_lt h)
  have hscaled : ∀ k : Int, k + 24 ≥ ilog2 a + 1 → natFloor (a / pow2 k) < 2 ^ 24 := by
    intro k hk
    refine natFloor_lt (div_nonneg ha.le (pow2_pos k).le) ?_
    rw [div_lt_iff₀ (pow2_pos k)]
    calc a < pow2 (ilog2 a + 1) := hhi
      _ ≤ pow2 (24 + k) := by
        rw [← not_lt, pow2_lt_pow2]
        omega
      _ = ((2 ^ 24 : Nat) : Rat) * pow2 k := by rw [pow2_add, ← pow2_natCast]; rfl
  by_cases hsub : ilog2 a < 1 - ((127 : Nat) : Int)
  · rw [show Flt.fp32.codeOf a = natFloor (a / pow2 (1 - ((127 : Nat) : Int) - ((23 : Nat) : Int))) from if_pos hsub]
    have := hscaled (1 - ((127 : Nat) : Int) - ((23 : Nat) : Int)) (by omega)
    omega
  · rw [show Flt.fp32.codeOf a = (ilog2 a + (127 : Nat)).toNat * 2 ^ 23 + natFloor (a / pow2 (ilog2 a - ((23 : Nat) : Int))) - 2 ^ 23
      from if_neg hsub]
    have := hscaled (ilog2 a - ((23 : Nat) : Int)) (by omega)
    omega

theorem roundMag_nonneg (p : Nat) (emin : Int) (r : Rnd) (a : Rat) : 0 ≤ roundMag p emin r a :=
  mul_nonneg (Nat.cast_nonneg _) (pow2_pos _).le

theorem fp32_top : Flt.fp32.magOf Flt.fp32.top < pow2 128 := by decide +kernel

/-- A conversion to FP32 gives 32 bits. -/
theorem bits32_lt (v : FVal) : bits32 v < 2 ^ 32 := by
  have hsign : ∀ (s : Bool) (c : Nat), c < 2 ^ 31 → (if s then c + 2 ^ (8 + 23) else c) < 2 ^ 32 := by
    intro s c hc
    split <;> omega
  cases v with
  | nan => decide
  | inf s => exact hsign s _ (by decide)
  | zero s => exact hsign s _ (by decide)
  | num q =>
    unfold bits32 Flt.convert
    dsimp only
    split
    · exact hsign _ _ (by decide)
    next hsmall =>
      split
      · exact hsign _ _ (by decide)
      next hzero =>
        refine hsign _ _ (codeOf_fp32_lt (lt_of_le_of_ne (roundMag_nonneg ..) (Ne.symm hzero)) ?_)
        exact (not_lt.mp fun hlt => hsmall (decide_eq_true hlt)).trans_lt fp32_top

end Sys2Proof.Machine
end

section
/-! PROOFS. SLOT_TABLE_SUM (R219, R272, R273). -/

namespace Sys2Proof.Machine

/-! ### The sum of the slots -/

theorem flatMap_toLe_length (f : Nat → Nat) (n : Nat) : ((List.range n).flatMap (fun i => toLe 4 (f i))).length = 4 * n := by
  simp [mul_comm]

/-- Words of four bytes one after the other are read back one by one. -/
theorem field_flatMap_toLe {f : Nat → Nat} (hf : ∀ i, f i < 2 ^ 32) {n i : Nat} (hi : i < n) :
    field ((List.range n).flatMap (fun i => toLe 4 (f i))) (4 * i) 4 = f i := by
  induction n with
  | zero => exact absurd hi (Nat.not_lt_zero i)
  | succ n ih =>
    rw [List.range_succ, List.flatMap_append, List.flatMap_singleton]
    rcases Nat.lt_succ_iff_lt_or_eq.mp hi with hlt | rfl
    · rw [field_append_left _ _ _ _ (by rw [flatMap_toLe_length]; omega)]
      exact ih hlt
    · rw [field_append_right _ _ _ _ (by rw [flatMap_toLe_length]), flatMap_toLe_length, Nat.sub_self, ← List.append_nil (toLe 4 (f i))]
      exact field_toLe [] (hf i)

/-- What the sum of the slots has at word `i`. -/
def slotWord (a : List Byte) (r : List (List Byte)) (i : Nat) : Nat :=
  bits32 (r.foldl (fun v c => add32 v (f32 (field c (4 * i) 4))) (f32 (field a (4 * i) 4)))

theorem sumSlots_cons {a : List Byte} {r : List (List Byte)} (hr : r ≠ []) :
    sumSlots (a :: r) = (List.range (a.length / 4)).flatMap (fun i => toLe 4 (slotWord a r i)) := by
  cases r with
  | nil => exact absurd rfl hr
  | cons b r => rfl

theorem sumSlots_words {l : List (List Byte)} {n i : Nat} (hlen : ∀ x ∈ l, x.length = 4 * n) (hi : i < n) (hmany : 1 < l.length) :
    (sumSlots l).length = 4 * n ∧ ∀ a r, l = a :: r → field (sumSlots l) (4 * i) 4 = slotWord a r i := by
  obtain ⟨a, r, rfl⟩ := List.exists_cons_of_length_pos (Nat.zero_lt_of_lt hmany)
  have hr : r ≠ [] := by
    rintro rfl
    exact absurd hmany (by simp)
  have hwords : a.length / 4 = n := by
    rw [hlen a List.mem_cons_self]
    omega
  rw [sumSlots_cons hr, hwords]
  refine ⟨flatMap_toLe_length _ n, fun a' r' heq => ?_⟩
  cases heq
  exact field_flatMap_toLe (fun j => bits32_lt _) hi

/-! ### The command -/

theorem exec_slotTableSum {gid bid : Nat} (adopted good1 good2 : Bool) (s : State) (hgid : gid < 2 ^ 16) (hbid : bid < 2 ^ 16) :
    exec (.slotTableSum gid bid adopted good1 good2) s = .next (slotTableSum s gid bid adopted good1 good2) :=
  answer_of_wf (by simp only [Instr.wf, fits16, hgid, hbid, decide_true, Bool.and_self]) _

/-- The rank whose shard a table holds. -/
def Group.tableRank (g : Group) (adopted : Bool) : Nat := if adopted then g.adoptedRank else g.rank

/-- A table is full, or its shard is empty. -/
def Group.tableFull (g : Group) (b : Bucket) (adopted : Bool) : Prop :=
  (b.shard g.n (g.tableRank adopted)).2 = 0 ∨ ∀ r, r < g.n → r ∈ (b.table adopted).ranks g.n g.shadows

theorem State.summable_iff {s : State} {g : Group} {b : Bucket} {adopted : Bool} :
    s.summable g b adopted = true ↔ g.tableRank adopted ≠ 0xFFFF ∧ g.keyState = 1 ∧ (b.table adopted).own = 0 ∧ g.tableFull b adopted ∧
      (s.ctx g.ctx).stepState.isOpen = true := by
  simp [State.summable, Group.tableFull, Group.tableRank, and_assoc]

/-- The slots of a full table, one for each rank. -/
def Group.tableSlots (g : Group) (o : Own) : List Nat :=
  (List.range g.n).map (fun r => ((g.slotsOf r).find? (fun k => o.present.contains k)).getD r)

section Sum
variable {s : State} {gid bid : Nat} {adopted : Bool} {g : Group} {b : Bucket} (hg : s.group gid = some g) (hb : g.bucket bid = some b)
include hg hb

theorem slotTableSum_missing (good1 good2 : Bool) (h : s.summable g b adopted = false) : slotTableSum s gid bid adopted good1 good2 = s := by
  simp only [slotTableSum, hg, hb, h, Bool.not_false, if_true]

theorem slotTableSum_waits (good1 good2 : Bool) (h : s.summable g b adopted = true) (hactive : (s.ctx g.ctx).state = .active)
    (htakes : (s.unitTakes memoryUnit s.sumWork g.ctx).1 = false) :
    slotTableSum s gid bid adopted good1 good2 = (s.unitTakes memoryUnit s.sumWork g.ctx).2.2 := by
  simp [slotTableSum, hg, hb, h, hactive, htakes]

/-- A sum that meets no error and fails no sample check: stored, its squares added, and the table's state and step set. -/
theorem slotTableSum_sums {good2 : Bool} {parts : List (List Byte)} {t w : State} {x : State × Group} (h : s.summable g b adopted = true)
    (hlen : 0 < (b.shard g.n (g.tableRank adopted)).2) (htakes : (s.unitTakes memoryUnit s.sumWork g.ctx).1 = true)
    (hread : let u := (s.unitTakes memoryUnit s.sumWork g.ctx).2.2
      u.reading (u.groupAcc g) ((g.tableSlots (b.table adopted)).mapM
        (fun k => slotLoad u g (g.slotAddr b adopted k) (b.shard g.n (g.tableRank adopted)).2)) = (.ok parts, t))
    (hstore : t.store { (s.unitTakes memoryUnit s.sumWork g.ctx).2.2.groupAcc g with atHome := true } (t.global b.sumOff) (sumSlots parts) = (w, none))
    (hnorm : (if b.manual then .ok (w, g) else w.addSquares g adopted (sumSlots parts)) = Except.ok x) :
    slotTableSum s gid bid adopted true good2 =
      ((x.1.putBucket x.2 (b.setTable adopted { b.table adopted with own := 1, step := x.2.step })).bump
        ((s.unitTakes memoryUnit s.sumWork g.ctx).2.2.groupAcc x.2)
        ((x.1.putBucket x.2 (b.setTable adopted { b.table adopted with own := 1, step := x.2.step })).global (b.recOff + 16))).normStep gid := by
  have hkept : (t.group gid).getD g = g := by
    have hoffice : t.office = (s.unitTakes memoryUnit s.sumWork g.ctx).2.2.office := by
      rw [← State.reading_office (s.unitTakes memoryUnit s.sumWork g.ctx).2.2 _ _, hread]
    have hsame : t.groups = s.groups := (congrArg State.groups hoffice :)
    rw [State.group, hsame]
    exact congrArg (Option.getD · g) hg
  unfold slotTableSum
  rw [hg]
  dsimp only
  rw [hb]
  dsimp only [Group.tableRank, Group.tableSlots] at *
  rw [if_neg (by simp [h]), if_neg (by simp [htakes]), if_neg hlen.ne', hread]
  simp only [Bool.not_true, Bool.and_false, Bool.false_and, Bool.false_eq_true, if_false, hkept, hstore, hnorm]

end Sum

/-- Settles O52: a table is summed once it is full and the unit takes its context; the sum is made word by word, each of 32 bits. -/
theorem slotTablesSummed : Obligations.SlotTablesSummed := by
  unfold Obligations.SlotTablesSummed
  refine ⟨fun gid bid adopted good2 g b s hgid hbid hg hb => ⟨fun hfull good1 => ?_, fun hfull hlen hme hkey hopen hown => ⟨?_, ?_⟩⟩, ?_⟩
  · rw [exec_slotTableSum _ _ _ _ hgid hbid, slotTableSum_missing hg hb]
    rw [Bool.eq_false_iff, ne_eq, State.summable_iff]
    rintro ⟨-, -, -, h, -⟩
    exact hfull h
  · intro hactive htakes good1
    rw [exec_slotTableSum _ _ _ _ hgid hbid,
      slotTableSum_waits hg hb _ _ (State.summable_iff.mpr ⟨hme, hkey, hown, hfull, hopen⟩) hactive htakes]
  · intro hactive htakes parts w x hread hstore hnorm
    rw [exec_slotTableSum _ _ _ _ hgid hbid, slotTableSum_sums hg hb (State.summable_iff.mpr ⟨hme, hkey, hown, hfull, hopen⟩) hlen htakes
      (Prod.ext hread rfl) hstore hnorm]
  · exact fun l n i _ hlens hi hmany => sumSlots_words hlens hi hmany

end Sys2Proof.Machine
end

section
/-! PROOFS. Media sessions: opening, decoding, encoding and output (R401 to R420). -/

namespace Sys2Proof.Machine

theorem exec_mediaSessionOpen {s : State} {p q : Nat} {k : Packet} (h : s.started p 0x0601 = some (q, k)) :
    exec (.mediaSessionOpen p) s = .next (sessionOpenRun (s.turned q k) q k) :=
  (answer_of_wf (c := .mediaSessionOpen p) rfl _).trans (by rw [h])

theorem exec_mediaDecode {s : State} {p q : Nat} {k : Packet} (h : s.mediaPkt p 0x0602 = some (q, k)) :
    exec (.mediaDecode p) s = .next (mediaDecodeRun s q k) :=
  (answer_of_wf (c := .mediaDecode p) rfl _).trans (by rw [h])

theorem exec_mediaEncode {s : State} {p q : Nat} {k : Packet} (h : s.mediaPkt p 0x0603 = some (q, k)) :
    exec (.mediaEncode p) s = .next (mediaEncodeRun s q k) :=
  (answer_of_wf (c := .mediaEncode p) rfl _).trans (by rw [h])

theorem exec_outputRecord {n : Nat} (s : State) (h : n < 2 ^ 16) : exec (.outputRecord n) s = .next (outputRecord s n) :=
  answer_of_wf (by simp only [Instr.wf, fits16, h, decide_true]) _

theorem exec_outConsReread {n : Nat} (s : State) (h : n < 2 ^ 16) : exec (.outConsReread n) s = .next (outConsReread s n) :=
  answer_of_wf (by simp only [Instr.wf, fits16, h, decide_true]) _

theorem State.mediaPkt_pkt {s : State} {p op q : Nat} {k : Packet} (h : s.mediaPkt p op = some (q, k)) :
    s.pkt k.id = some (q, k) ∧ k.phase = .started := by
  unfold State.mediaPkt at h
  split at h
  next x j hpkt =>
    split at h
    next hc =>
      cases h
      obtain ⟨hphase, -⟩ := hc
      rw [(findPkt_mem hpkt).1]
      exact ⟨hpkt, hphase⟩
    next => cases h
  next => cases h

/-! ### The table of sessions -/

section Sessions
variable {s : State} {n : Nat} {x : Session}

theorem State.setSession_session (h : Tbl.wf {} s.sessions = true) : (s.setSession n x).session n = x := Tbl.get_set_same h

theorem State.setSession_session_other {m : Nat} (h : m ≠ n) : (s.setSession n x).session m = s.session m := Tbl.get_set_other h s.sessions

theorem State.setSession_wf (h : Tbl.wf {} s.sessions = true) : Tbl.wf {} (s.setSession n x).sessions = true := Tbl.set_wf n x h

theorem State.setSession_self (h : Tbl.wf {} s.sessions = true) : s.setSession n (s.session n) = s := by
  rw [State.setSession, State.session, Tbl.set_get h]

/-- The session that a context has open is the one of its number. -/
theorem State.session_of_sessionOf {c : Nat} (hwf : Tbl.wf {} s.sessions = true) (h : s.sessionOf c = some (n, x)) :
    s.session n = x ∧ x.ctx = c := by
  have hmine := List.find?_some h
  simp only [Bool.and_eq_true, beq_iff_eq] at hmine
  exact ⟨Tbl.get_of_mem (Tbl.rising_of_wf hwf) (List.mem_of_find?_eq_some h), hmine.2⟩

/-- A session whose units run is of a context that is ACTIVE. -/
theorem State.sessRuns_active (h : s.sessRuns n = true) : (s.ctx (s.session n).ctx).state = .active := by
  simp only [State.sessRuns, Bool.and_eq_true, beq_iff_eq] at h
  exact h.1.1.2

theorem State.goneStatus_active {c : Nat} (h : (s.ctx c).state = .active) : s.goneStatus c = none := by rw [State.goneStatus, h]

end Sessions

/-! ### What decoding leaves of a session -/

/-- What a session has taken, and the command that decodes it. -/
def Session.taken (x : Session) : List Byte × Option Nat := (x.hist, x.running)

/-- From `s` to `t`, the command under way in session `n` decodes: the packets and what the session has taken stay. -/
structure State.Decodes (s t : State) (n : Nat) : Prop where
  queues : t.queues = s.queues
  wf     : Tbl.wf {} s.sessions = true → Tbl.wf {} t.sessions = true
  taken  : Tbl.wf {} s.sessions = true → (t.session n).taken = (s.session n).taken

theorem State.Decodes.refl (s : State) (n : Nat) : s.Decodes s n := ⟨rfl, fun h => h, fun _ => rfl⟩

theorem State.Decodes.trans {s t u : State} {n : Nat} (h : s.Decodes t n) (h' : t.Decodes u n) : s.Decodes u n where
  queues := h'.queues.trans h.queues
  wf hs := h'.wf (h.wf hs)
  taken hs := (h'.taken (h.wf hs)).trans (h.taken hs)

theorem State.Decodes.of_same {s t : State} {n : Nat} (hq : t.queues = s.queues) (hs : t.sessions = s.sessions) : s.Decodes t n where
  queues := hq
  wf h := by rwa [hs]
  taken _ := by rw [State.session, State.session, hs]

theorem State.Decodes.of_office {s t : State} {n : Nat} (h : t.office = s.office) : s.Decodes t n :=
  .of_same (congrArg State.queues h :) (congrArg State.sessions h :)

theorem State.Decodes.setSession {s : State} {n : Nat} {v : Session} (h : v.taken = (s.session n).taken) : s.Decodes (s.setSession n v) n where
  queues := rfl
  wf := State.setSession_wf
  taken hs := by rw [State.setSession_session hs, h]

/-- The session changed in a state that has the packets and the sessions of `s`. -/
theorem State.Decodes.set_same {s t : State} {n : Nat} {v : Session} (hq : t.queues = s.queues) (hs : t.sessions = s.sessions)
    (h : v.taken = (s.session n).taken) : s.Decodes (t.setSession n v) n :=
  .trans (.of_same hq hs) (.setSession (by rw [h, State.session, State.session, hs]))

theorem Session.foldl_setBuf_taken {α : Type} (x : Session) (l : List α) (i : α → Nat) (v : α → FrameBuf) :
    (l.foldl (fun y a => y.setBuf (i a) (v a)) x).taken = x.taken :=
  foldl_keeps Session.taken (fun y a => y.setBuf (i a) (v a)) (fun _ _ => rfl) l x

theorem Session.takeBufs_taken {x y : Session} {f : FrameBuf} {miss : List Bool} {ids : List Nat} (h : x.takeBufs f miss = some (y, ids)) :
    y.taken = x.taken := by
  unfold Session.takeBufs at h
  dsimp only at h
  split at h
  · cases h
  · obtain ⟨rfl, -⟩ := Prod.mk.inj (Option.some.inj h)
    have hpics : ∀ (z : Session) (m : Nat), ({ z with pics := m } : Session).taken = z.taken := fun _ _ => rfl
    rw [hpics, Session.foldl_setBuf_taken, Session.foldl_setBuf_taken]

theorem State.pictureIn_decodes {s t : State} {n p fullW fullH need : Nat} {mono : Bool} {parents : List Nat} {f : FrameBuf} {miss : List Bool}
    (h : s.pictureIn n p fullW fullH mono parents f miss need = some t) : s.Decodes t n := by
  unfold State.pictureIn at h
  dsimp only at h
  split at h
  · cases h
    exact .setSession rfl
  split at h
  · cases h
    exact .trans (.of_same (t := s.countOverflow) rfl rfl) (.setSession rfl)
  split at h
  · cases h
  next y ids htake =>
    have hstored : ∀ {c : Prop} [Decidable c] {a l w o}, (if c then s.countConcealed else s).storeAll a l = (w, o) →
        w.queues = s.queues ∧ w.sessions = s.sessions := by
      intro c _ a l w o hw
      have hoffice : w.office = (if c then s.countConcealed else s).office := by
        simpa [hw] using State.storeAll_office (if c then s.countConcealed else s) a l
      have hqueues : w.queues = (if c then s.countConcealed else s).queues := (congrArg State.queues hoffice :)
      have hsessions : w.sessions = (if c then s.countConcealed else s).sessions := (congrArg State.sessions hoffice :)
      rw [hqueues, hsessions]
      split <;> exact ⟨rfl, rfl⟩
    split at h
    next w hw =>
      cases h
      obtain ⟨hqueues, hsessions⟩ := hstored hw
      have htaken : y.taken = (s.session n).taken := Session.takeBufs_taken htake
      exact .set_same hqueues hsessions htaken
    next w st d hw =>
      cases h
      obtain ⟨hqueues, hsessions⟩ := hstored hw
      exact .set_same hqueues hsessions rfl
    next => cases h

theorem State.play_decodes (n p : Nat) (es : List Config.PicEvent) (s : State) : s.Decodes (s.play n p es) n := by
  induction es generalizing s with
  | nil =>
    refine .setSession ?_
    split <;> rfl
  | cons e r ih =>
    have hstep : ∀ v : Session, v.taken = (s.session n).taken → s.Decodes ((s.setSession n v).play n p r) n :=
      fun v hv => (State.Decodes.setSession hv).trans (ih _)
    cases e with
    | decoded fullW fullH w h cx cy depth mono parents ref miss shown coded parsedLen =>
      unfold State.play
      dsimp only
      split
      · exact .setSession rfl
      next t hpic =>
        split
        · exact State.pictureIn_decodes hpic
        · exact (State.pictureIn_decodes hpic).trans (ih t)
    | unref m =>
      unfold State.play
      dsimp only
      split
      exacts [hstep _ rfl, ih s]
    | output m =>
      unfold State.play
      dsimp only
      split
      · split
        exacts [ih s, hstep _ rfl]
      · exact ih s
    | unsupported => exact .setSession rfl
    | error => exact hstep _ rfl

/-! ### The end of a command -/

section End
variable {s : State} {n p q : Nat} {k : Packet}

theorem State.mediaEnd_session (hwf : Tbl.wf {} s.sessions = true) (st : Nat) (d : Option Nat) :
    ((s.mediaEnd n p st d).session n).hist = (s.session n).hist ∧ ((s.mediaEnd n p st d).session n).coded = (s.session n).coded := by
  have hsession : (s.mediaEnd n p st d).session n = _ := State.setSession_session hwf
  rw [hsession]
  exact ⟨rfl, rfl⟩

theorem State.mediaEnd_ended (hpkt : s.pkt p = some (q, k)) (hk : k.phase = .started) (st : Nat) (d : Option Nat) :
    (s.mediaEnd n p st d).Ended p q st :=
  State.finish_ended (s := s.setSession n _) hpkt (by rw [hk]; decide)

/-- The command under way ends, or goes on waiting. -/
theorem State.decodeDone_ends (hwf : Tbl.wf {} s.sessions = true) (hpkt : s.pkt p = some (q, k)) (hk : k.phase = .started)
    (hrun : (s.session n).running = some p) :
    ((s.decodeDone n).session n).hist = (s.session n).hist ∧
      (((s.decodeDone n).session n).running = some p ∨ ∃ st, (s.decodeDone n).Ended p q st) := by
  have hend : ∀ st d, ((s.mediaEnd n p st d).session n).hist = (s.session n).hist ∧
      (((s.mediaEnd n p st d).session n).running = some p ∨ ∃ st', (s.mediaEnd n p st d).Ended p q st') :=
    fun st d => ⟨(State.mediaEnd_session hwf st d).1, .inr ⟨st, State.mediaEnd_ended hpkt hk st d⟩⟩
  unfold State.decodeDone
  simp only [hrun]
  split
  · exact ⟨rfl, .inl hrun⟩
  · split
    · exact hend _ _
    · split
      exacts [hend _ _, hend _ _]

theorem State.decodeOn_ends (hwf : Tbl.wf {} s.sessions = true) (hpkt : s.pkt p = some (q, k)) (hk : k.phase = .started)
    (hrun : (s.session n).running = some p) :
    ((s.decodeOn n).session n).hist = (s.session n).hist ∧
      (((s.decodeOn n).session n).running = some p ∨ ∃ st, (s.decodeOn n).Ended p q st) := by
  unfold State.decodeOn
  simp only [hrun]
  split
  · have hplay := s.play_decodes n p (s.session n).todo
    obtain ⟨hhist, hrunning⟩ := Prod.ext_iff.mp (hplay.taken hwf)
    obtain ⟨hhist', hend⟩ := State.decodeDone_ends (hplay.wf hwf) (by rw [State.pkt, hplay.queues]; exact hpkt) hk (hrunning.trans hrun)
    exact ⟨hhist'.trans hhist, hend⟩
  · exact ⟨rfl, .inl hrun⟩

/-- Nothing to decode and nothing to output: the command ends with OK. -/
theorem State.decodeOn_empty (hwf : Tbl.wf {} s.sessions = true) (hpkt : s.pkt p = some (q, k)) (hk : k.phase = .started)
    (hruns : s.sessRuns n = true) {x : Session} (hx : s.session n = x) (hrun : x.running = some p) (htodo : x.todo = []) (hout : x.outQ = [])
    (hends : x.ends = false) (hfailed : x.failed = none) (hconceal : x.conceal = 0) (hdec : x.encode = false) :
    (s.decodeOn n).Ended p q stOk := by
  have hsame : ({ x with todo := [], ends := false } : Session) = x := by rw [← htodo, ← hends]
  have hplay : s.play n p [] = s := by
    unfold State.play
    simp only [hx, hends, Bool.false_eq_true, if_false]
    rw [hsame, ← hx, State.setSession_self hwf]
  have hdone : s.decodeOn n = s.mediaEnd n p stOk none := by
    unfold State.decodeOn
    simp only [hx, hrun, hruns, if_true, htodo, hplay]
    unfold State.decodeDone
    simp only [hx, hrun, hdec, htodo, hout, hfailed, hconceal, List.isEmpty_nil, Bool.not_true, Bool.or_self, Bool.false_eq_true, if_false, if_true]
  rw [hdone]
  exact State.mediaEnd_ended hpkt hk stOk none

end End

/-! ### MEDIA_DECODE -/

/-- A session whose RESET forgets what it had taken, or not (R407). -/
def Session.restarted (x : Session) (reset : Bool) : Session := if reset then { x.clearMarks with hist := [], pics := 0, outQ := [] } else x

theorem State.sessAcc_restarted (s : State) (x : Session) (reset : Bool) (p : Nat) (host : Bool) :
    s.sessAcc (x.restarted reset) p host = s.sessAcc x p host := by
  unfold Session.restarted
  split <;> rfl

theorem Session.restarted_hist (x : Session) (reset : Bool) : (x.restarted reset).hist = if reset then [] else x.hist := by
  unfold Session.restarted
  split <;> rfl

/-- The session decodes the stream `bs` for packet `p`. -/
def Session.decoding (x : Session) (p : Nat) (bs : List Byte) (len : Nat) (ends : Bool) : Session :=
  { x with running := some p, hist := x.hist ++ bs, todo := if len = 0 then [] else Config.decodeStream x.codec x.depth x.hist bs ends,
           ends, failed := none, conceal := 0 }

/-- A stream that can be read is taken, and decoding begins. -/
theorem State.beginDecode_takes {s : State} {q n : Nat} {k : Packet} {bs : List Byte}
    (hup : isHost (field k.params 0 8) = true → field k.params 8 5 ≠ 0 → s.hostUp (fld (field k.params 13 1) 2 1) = true)
    (hload : ((load s (s.sessAcc (s.session n) k.id true) (field k.params 0 8) (field k.params 8 5)).run.run []).1 = .ok bs) :
    ∃ t : State, t.office = s.office ∧ s.beginDecode q n k =
      ((t.setSession n (((s.session n).restarted ((field k.params 13 1).testBit 1)).decoding k.id bs (field k.params 8 5)
        ((field k.params 13 1).testBit 0))).dropLanded k.id).decodeOn n := by
  refine ⟨(s.reading (s.sessAcc (s.session n) k.id true) (load s (s.sessAcc (s.session n) k.id true) (field k.params 0 8) (field k.params 8 5))).2,
    State.reading_office .., ?_⟩
  have hread : s.reading (s.sessAcc (s.session n) k.id true) (load s (s.sessAcc (s.session n) k.id true) (field k.params 0 8) (field k.params 8 5)) =
      (.ok bs, (s.reading (s.sessAcc (s.session n) k.id true)
        (load s (s.sessAcc (s.session n) k.id true) (field k.params 0 8) (field k.params 8 5))).2) := Prod.ext hload rfl
  have hacc := State.sessAcc_restarted s (s.session n) ((field k.params 13 1).testBit 1) k.id true
  unfold Session.restarted at hacc ⊢
  unfold State.beginDecode
  dsimp only at hacc ⊢
  rw [if_neg (by
    rintro ⟨hhost, hlen, hdown⟩
    rw [hup hhost hlen] at hdown
    cases hdown), hacc, hread]
  rfl

section Accept
variable {s : State} {q n : Nat} {k : Packet} {x : Session}

theorem State.codecTurn_units (s : State) (n : Nat) : ∃ us, (s.codecTurn n).2 = { s with units := us } := ⟨_, rfl⟩

theorem State.decodeDone_idle (h : (s.session n).running = none) : s.decodeDone n = s := by
  simp only [State.decodeDone, h]

theorem State.decodeOn_idle (h : (s.session n).running = none) : s.decodeOn n = s := by
  simp only [State.decodeOn, h]

/-- The frame buffers of a command's release entries are given back. -/
theorem foldl_release (l : List Nat) (x : Session) :
    ∃ b, l.foldl (fun (y : Session) i => y.setBuf i { y.buf i with exp := false }) x = { x with bufs := b } := by
  induction l generalizing x with
  | nil => exact ⟨x.bufs, rfl⟩
  | cons i l ih => exact ih (x.setBuf i { x.buf i with exp := false })

/-- A session with nothing to do that takes a command up: its buffers are released, and the command is its first. -/
def Session.accepted (x : Session) (b : Tbl FrameBuf) (p : Nat) : Session := { x with bufs := b, queue := [p] }

theorem State.acceptDecode_idle (hwf : Tbl.wf {} s.sessions = true) (hx : s.session n = x) (hqueue : x.queue = []) (hrun : x.running = none) :
    ∃ us b, s.acceptDecode n k = { s.setSession n (x.accepted b k.id) with units := us } := by
  obtain ⟨b, hb⟩ := foldl_release (releases k.params) x
  obtain ⟨us, hus⟩ := State.codecTurn_units (s.setSession n (x.accepted b k.id)) n
  refine ⟨us, b, ?_⟩
  have haccept : s.acceptDecode n k = (s.setSession n (x.accepted b k.id)).decodeTurn n := by
    unfold State.acceptDecode
    dsimp only
    rw [hx, hb, hqueue]
    rfl
  rw [haccept, State.decodeTurn]
  cases hturn : (s.setSession n (x.accepted b k.id)).codecTurn n with
  | mk mine u =>
    have hu : u = { s.setSession n (x.accepted b k.id) with units := us } := by rw [← hus, hturn]
    have hnone : (u.session n).running = none := by
      rw [hu]
      exact (congrArg Session.running (State.setSession_session hwf)).trans hrun
    cases mine
    · exact (State.decodeDone_idle hnone).trans hu
    · exact (State.decodeOn_idle hnone).trans hu

theorem State.mediaTidy_idle (hwf : Tbl.wf {} s.sessions = true) {c : Nat} (h : s.sessionOf c = some (n, x)) (hqueue : x.queue = [])
    (hrun : x.running = none) : s.mediaTidy c = s := by
  obtain ⟨hx, -⟩ := State.session_of_sessionOf hwf h
  have hsame : ({ x with queue := [], running := none } : Session) = x := by rw [← hqueue, ← hrun]
  unfold State.mediaTidy
  simp only [h, hqueue, hrun, List.filter_nil, Option.filter_none, if_true]
  rw [hsame, ← hx, State.setSession_self hwf]

/-- A command whose session has nothing else to do takes its turn at once. -/
theorem mediaDecodeRun_idle (hwf : Tbl.wf {} s.sessions = true) (h : s.sessionOf k.ctx = some (n, x)) (hdec : x.encode = false)
    (hruns : s.sessRuns n = true) (hqueue : x.queue = []) (hrun : x.running = none) (hearly : s.mediaEarlier k x = false)
    (hrelease : badRelease x k.params = none) :
    mediaDecodeRun s q k = if ((s.acceptDecode n k).codecTurn n).1 then ((s.acceptDecode n k).codecTurn n).2.beginDecode q n k
      else ((s.acceptDecode n k).codecTurn n).2 := by
  obtain ⟨hx, hctx⟩ := State.session_of_sessionOf hwf h
  have hactive : (s.ctx k.ctx).state = .active := by rw [← hctx, ← hx]; exact State.sessRuns_active hruns
  obtain ⟨us, b, haccept⟩ := State.acceptDecode_idle (k := k) hwf hx hqueue hrun
  have hmine : (s.acceptDecode n k).session n = x.accepted b k.id := by
    rw [haccept]
    exact State.setSession_session hwf
  rw [mediaDecodeRun, State.mediaTidy_idle hwf h hqueue hrun, mediaDecodeStep]
  simp only [h, State.goneStatus_active hactive, hdec, hruns, hqueue, hearly, hrelease, hmine, Session.accepted, hrun]
  cases hturn : (s.acceptDecode n k).codecTurn n with
  | mk mine u => cases mine <;> simp

end Accept

theorem State.sessRuns_same {s t : State} {n : Nat} (hctxs : t.ctxs = s.ctxs) (hctrl : t.ctrl = s.ctrl) (hpower : t.power = s.power)
    (hopened : (t.session n).opened = (s.session n).opened) (hctx : (t.session n).ctx = (s.session n).ctx) : t.sessRuns n = s.sessRuns n := by
  rw [State.sessRuns, State.sessRuns, State.ctx, State.ctx, hctxs, hctrl, hpower, hopened, hctx]

section Taken
variable {s t : State} {q n : Nat} {k : Packet} {x : Session} {bs : List Byte} {len : Nat} {reset ends : Bool}

/-- The module as decoding begins. -/
def State.decodes (t : State) (n p : Nat) (x : Session) : State := (t.setSession n x).dropLanded p

theorem State.decodes_session (hwf : Tbl.wf {} t.sessions = true) (p : Nat) : (t.decodes n p x).session n = x := State.setSession_session hwf

/-- What decoding a stream comes to: the session has taken it, and its command goes on or has ended; with OK, where there is nothing to
decode and nothing to output. -/
theorem State.decodes_ends (hwf : Tbl.wf {} t.sessions = true) (hpkt : t.pkt k.id = some (q, k)) (hk : k.phase = .started) :
    let y := (x.restarted reset).decoding k.id bs len ends
    let w := (t.decodes n k.id y).decodeOn n
    (w.session n).hist = (if reset then [] else x.hist) ++ bs ∧ ((w.session n).running = some k.id ∨ ∃ st, w.Ended k.id q st) ∧
      (len = 0 → ends = false → x.outQ = [] → x.encode = false → (t.decodes n k.id y).sessRuns n = true → w.Ended k.id q stOk) := by
  intro y w
  have hy : (t.decodes n k.id y).session n = y := State.decodes_session hwf k.id
  have hwf' : Tbl.wf {} (t.decodes n k.id y).sessions = true := State.setSession_wf hwf
  obtain ⟨hhist, hend⟩ := State.decodeOn_ends hwf' hpkt hk (congrArg Session.running hy)
  refine ⟨?_, hend, ?_⟩
  · rw [hhist, hy, ← Session.restarted_hist]
    rfl
  · rintro rfl rfl hout henc hruns
    have hrestarted : (x.restarted reset).outQ = [] ∧ (x.restarted reset).encode = false := by
      unfold Session.restarted
      split
      exacts [⟨rfl, henc⟩, ⟨hout, henc⟩]
    obtain ⟨hout', henc'⟩ := hrestarted
    exact State.decodeOn_empty hwf' hpkt hk hruns hy rfl rfl hout' rfl rfl rfl henc'

end Taken

/-- A session that is idle takes up a command whose stream can be read: its stream follows what the session has taken, and the command goes
on or has ended. -/
theorem State.beginDecode_idle {s : State} {q n : Nat} {k : Packet} {x : Session} {bs : List Byte} (hwf : Tbl.wf {} s.sessions = true)
    (hx : s.session n = x) (hpkt : s.pkt k.id = some (q, k)) (hstarted : k.phase = .started) (hdec : x.encode = false)
    (hruns : s.sessRuns n = true) (hqueue : x.queue = []) (hrun : x.running = none)
    (hup : isHost (field k.params 0 8) = true → field k.params 8 5 ≠ 0 → s.hostUp (fld (field k.params 13 1) 2 1) = true)
    (hload : ((load s (s.sessAcc x k.id true) (field k.params 0 8) (field k.params 8 5)).run.run []).1 = .ok bs) :
    let t := ((s.acceptDecode n k).codecTurn n).2.beginDecode q n k
    (t.session n).hist = (if (field k.params 13 1).testBit 1 then [] else x.hist) ++ bs ∧
      ((t.session n).running = some k.id ∨ ∃ st, t.Ended k.id q st) ∧
      (field k.params 8 5 = 0 → (field k.params 13 1).testBit 0 = false → x.outQ = [] → t.Ended k.id q stOk) := by
  obtain ⟨us, b, haccept⟩ := State.acceptDecode_idle (k := k) hwf hx hqueue hrun
  obtain ⟨us', hunits⟩ := State.codecTurn_units (s.acceptDecode n k) n
  generalize ((s.acceptDecode n k).codecTurn n).2 = u at hunits ⊢
  have hu : u = { s with units := us', sessions := Tbl.set {} s.sessions n (x.accepted b k.id) } := by
    rw [hunits, haccept]
    rfl
  have hux : u.session n = x.accepted b k.id := by
    rw [hu]
    exact State.setSession_session hwf
  have huload : ((load u (u.sessAcc (u.session n) k.id true) (field k.params 0 8) (field k.params 8 5)).run.run []).1 = .ok bs := by
    rw [hux, hu]
    exact hload
  obtain ⟨t, hoffice, hbegin⟩ := State.beginDecode_takes (q := q) (n := n) (by rw [hu]; exact hup) huload
  have hsame : t.queues = s.queues ∧ t.ctxs = s.ctxs ∧ t.ctrl = s.ctrl ∧ t.power = s.power ∧ t.sessions = (s.setSession n (x.accepted b k.id)).sessions := by
    have huoffice : t.office = State.office { s with units := us', sessions := Tbl.set {} s.sessions n (x.accepted b k.id) } := by rw [hoffice, hu]
    exact ⟨(congrArg State.queues huoffice :), (congrArg State.ctxs huoffice :), (congrArg State.ctrl huoffice :),
      (congrArg State.power huoffice :), (congrArg State.sessions huoffice :)⟩
  obtain ⟨hqueues, hctxs, hctrl, hpower, hsessions⟩ := hsame
  have htwf : Tbl.wf {} t.sessions = true := by
    rw [hsessions]
    exact State.setSession_wf hwf
  rw [hux] at hbegin
  obtain ⟨hhist, hend, hempty⟩ := State.decodes_ends (n := n) (x := x.accepted b k.id) (bs := bs) (len := field k.params 8 5)
    (reset := (field k.params 13 1).testBit 1) (ends := (field k.params 13 1).testBit 0) htwf (by rw [State.pkt, hqueues]; exact hpkt) hstarted
  rw [hbegin]
  refine ⟨hhist, hend, fun hlen hends hout => hempty hlen hends hout hdec ?_⟩
  rw [← hruns]
  refine State.sessRuns_same hctxs hctrl hpower ?_ ?_ <;> rw [State.decodes_session htwf, hx] <;>
    unfold Session.decoding Session.restarted <;> split <;> rfl

/-! ### MEDIA_ENCODE -/

/-- R422: a picture that exhausted its budget is counted. -/
def State.countExhausted (s : State) (st : Nat) : State :=
  if st = 0x52 then { s with media := { s.media with exhausted := satTo (2 ^ 32 - 1) (s.media.exhausted + 1) } } else s

theorem State.countExhausted_exhausted (s : State) (st : Nat) :
    (s.countExhausted st).media.exhausted = if st = 0x52 then min 0xFFFFFFFF (s.media.exhausted + 1) else s.media.exhausted := by
  unfold State.countExhausted
  split <;> rfl

theorem State.countExhausted_sessions (s : State) (st : Nat) : (s.countExhausted st).sessions = s.sessions := by
  unfold State.countExhausted
  split <;> rfl

theorem State.countExhausted_queues (s : State) (st : Nat) : (s.countExhausted st).queues = s.queues := by
  unfold State.countExhausted
  split <;> rfl

section Encode
variable {s w : State} {q n : Nat} {k : Packet} {src : List Byte}

/-- What a coded picture leaves: the session `y` afterwards, its semaphore signalled, and the command ended. -/
def State.pictureCoded (s : State) (n p : Nat) (y : Session) (st : Nat) (a : Acc) (sem : Nat) : State :=
  (((s.countExhausted st).setSession n y).signalQuiet a sem).mediaEnd n p st none

theorem State.pictureCoded_ends (hwf : Tbl.wf {} s.sessions = true) (hpkt : s.pkt k.id = some (q, k)) (hk : k.phase = .started) (y : Session)
    (st : Nat) (a : Acc) (sem : Nat) :
    let t := s.pictureCoded n k.id y st a sem
    t.Ended k.id q st ∧ (t.session n).coded = y.coded ∧ (t.session n).hist = y.hist ∧
      t.media.exhausted = if st = 0x52 then min 0xFFFFFFFF (s.media.exhausted + 1) else s.media.exhausted := by
  have hoffice := State.signalQuiet_office ((s.countExhausted st).setSession n y) a sem
  unfold State.pictureCoded
  generalize ((s.countExhausted st).setSession n y).signalQuiet a sem = v at hoffice ⊢
  have hsessions : v.sessions = ((s.countExhausted st).setSession n y).sessions := (congrArg State.sessions hoffice :)
  have hqueues : v.queues = ((s.countExhausted st).setSession n y).queues := (congrArg State.queues hoffice :)
  have hmedia : v.media = ((s.countExhausted st).setSession n y).media := (congrArg State.media hoffice :)
  have hcount : Tbl.wf {} (s.countExhausted st).sessions = true := by rwa [State.countExhausted_sessions]
  have hvwf : Tbl.wf {} v.sessions = true := by
    rw [hsessions]
    exact State.setSession_wf hcount
  have hvsession : v.session n = y := by
    rw [State.session, hsessions]
    exact State.setSession_session hcount
  have hvpkt : v.pkt k.id = some (q, k) := by
    rw [State.pkt, hqueues, State.setSession_queues, State.countExhausted_queues]
    exact hpkt
  obtain ⟨hhist, hcoded⟩ := State.mediaEnd_session (n := n) (p := k.id) hvwf st none
  rw [hvsession] at hhist hcoded
  refine ⟨State.mediaEnd_ended hvpkt hk st none, hcoded, hhist, ?_⟩
  rw [← State.countExhausted_exhausted, ← State.setSession_media (s := s.countExhausted st) n y, ← hmedia]
  rfl

/-- A picture whose source can be read and whose bytes can be stored is coded. -/
theorem State.encodeNow_stored (hread : (s.reading (s.sessAcc (s.session n) k.id) (loadSource s (s.sessAcc (s.session n) k.id) k.params)).1 = .ok src)
    (hstore : (s.reading (s.sessAcc (s.session n) k.id) (loadSource s (s.sessAcc (s.session n) k.id) k.params)).2.storeAll
      (s.sessAcc (s.session n) k.id) ((s.session n).encode1 k.params src).1 = (w, none)) :
    w.office = s.office ∧ s.encodeNow q n k = w.pictureCoded n k.id ((s.session n).encode1 k.params src).2.1
      ((s.session n).encode1 k.params src).2.2 { s.sessAcc (s.session n) k.id with host := true } (s.session n).sem := by
  have hpair : s.reading (s.sessAcc (s.session n) k.id) (loadSource s (s.sessAcc (s.session n) k.id) k.params) =
      (.ok src, (s.reading (s.sessAcc (s.session n) k.id) (loadSource s (s.sessAcc (s.session n) k.id) k.params)).2) := Prod.ext hread rfl
  constructor
  · have hoffice := State.storeAll_office (s.reading (s.sessAcc (s.session n) k.id) (loadSource s (s.sessAcc (s.session n) k.id) k.params)).2
      (s.sessAcc (s.session n) k.id) ((s.session n).encode1 k.params src).1
    rwa [hstore, State.reading_office] at hoffice
  · unfold State.encodeNow
    dsimp only
    rw [hpair]
    dsimp only
    rw [hstore]
    rfl

/-- The pictures coded are counted. -/
theorem Session.encode1_coded (x : Session) (b src : List Byte) : (x.encode1 b src).2.1.coded = x.coded + 1 := rfl

theorem mediaEncodeRun_turn {x : Session} (hwf : Tbl.wf {} s.sessions = true) (h : s.sessionOf k.ctx = some (n, x)) (henc : x.encode = true)
    (hruns : s.sessRuns n = true) (hearly : s.mediaEarlier k x = false) :
    mediaEncodeRun s q k = if (s.codecTurn n).1 then (s.codecTurn n).2.encodeNow q n k else (s.codecTurn n).2 := by
  obtain ⟨hx, hctx⟩ := State.session_of_sessionOf hwf h
  have hactive : (s.ctx k.ctx).state = .active := by rw [← hctx, ← hx]; exact State.sessRuns_active hruns
  rw [mediaEncodeRun]
  simp only [h, State.goneStatus_active hactive, henc, hruns, hearly]
  cases hturn : s.codecTurn n with
  | mk mine u => cases mine <;> simp

end Encode

/-! ### MEDIA_SESSION_OPEN -/

section Open
variable {s : State} {q : Nat} {k : Packet}

@[simp] theorem State.turned_sessionOf (c : Nat) : (s.turned q k).sessionOf c = s.sessionOf c := by simp [State.sessionOf]
@[simp] theorem State.turned_poolUsed : (s.turned q k).poolUsed = s.poolUsed := by simp [State.poolUsed]
@[simp] theorem State.turned_memBytes (p : Nat) : (s.turned q k).memBytes p = s.memBytes p := by simp [State.memBytes, State.chanCount]
@[simp] theorem State.turned_accOf (j : Packet) : (s.turned q k).accOf q j = s.accOf q j := by simp [State.accOf]

end Open

/-! ### OUTPUT_RECORD, OUT_CONS_REREAD -/

section Output
variable {s : State} {n : Nat}

theorem outputRecord_idle (h : (s.session n).outQ = []) : outputRecord s n = s := by
  simp only [outputRecord, h, List.head?_nil]

theorem outputRecord_full (hgood : (s.session n).consBad = false) (hfull : (s.session n).cons + 2 ^ (s.session n).outLog2 ≤ (s.session n).records) :
    outputRecord s n = s := by
  unfold outputRecord
  dsimp only
  split
  · rfl
  · rw [hgood, if_neg Bool.false_ne_true, if_neg (not_lt.mpr hfull), ite_self]

theorem outputRecord_room {i : Nat} {r : List Nat} (hout : (s.session n).outQ = i :: r) (hruns : s.sessRuns n = true)
    (hgood : (s.session n).consBad = false) (hroom : (s.session n).records < (s.session n).cons + 2 ^ (s.session n).outLog2) :
    outputRecord s n = s.writeOutput n i := by
  simp only [outputRecord, hout, List.head?_cons, hruns, hgood, Bool.not_true, Bool.false_eq_true, if_false, if_pos hroom]

/-- A record that can be stored, its statistics before it. -/
theorem State.writeOutput_stored {i : Nat} {r : List Nat} {w u : State} (hout : (s.session n).outQ = i :: r)
    (hstats : s.storeAll (s.sessAcc (s.session n) ((s.session n).running.getD 0)) (if (s.session n).statN = 0 then [] else
      [((s.session n).statAddr + (s.session n).records % (s.session n).statN * (s.session n).statBytes,
        (s.session n).statBlock (s.session n).records ((s.session n).buf i).inter ((s.session n).buf i).conceal ((s.session n).buf i).luma
          ((s.session n).buf i).blocks)]) = (w, none))
    (hrec : w.storeAll (s.sessAcc (s.session n) ((s.session n).running.getD 0) true)
      [((s.session n).outAddr + 32 * ((s.session n).records % 2 ^ (s.session n).outLog2), (s.session n).outRec i)] = (u, none)) :
    s.writeOutput n i = ((u.signalQuiet (s.sessAcc (s.session n) ((s.session n).running.getD 0) true) (s.session n).sem).setSession n
      { (s.session n).setBuf i { (s.session n).buf i with out := false, exp := true, shown := true } with
        outQ := r, records := (s.session n).records + 1, lastLuma := if (s.session n).statN = 0 then none else some ((s.session n).buf i).luma,
        conceal := (s.session n).conceal + (if ((s.session n).buf i).conceal && !((s.session n).buf i).shown then 1 else 0) }).decodeTurn n := by
  unfold State.writeOutput
  dsimp only
  rw [hstats]
  dsimp only
  rw [hrec, hout]
  rfl

theorem outConsReread_idle (h : (s.session n).encode = true ∨ s.sessRuns n = false) : outConsReread s n = s := by
  rw [outConsReread, if_pos (by simpa using h)]

/-- A count that can be read is the session's from now on. -/
theorem outConsReread_reads {v : Nat} (hdec : (s.session n).encode = false) (hruns : s.sessRuns n = true)
    (hread : (s.reading (s.sessAcc (s.session n) ((s.session n).running.getD 0) true)
      (loadNat s (s.sessAcc (s.session n) ((s.session n).running.getD 0) true) (s.session n).consAddr 8)).1 = .ok v) :
    ∃ t : State, t.sessions = s.sessions ∧ outConsReread s n = t.setSession n { s.session n with
      cons := v, consBad := (s.session n).consBad || decide (v < (s.session n).cons ∨ (s.session n).records < v) } := by
  generalize hr : s.reading (s.sessAcc (s.session n) ((s.session n).running.getD 0) true)
    (loadNat s (s.sessAcc (s.session n) ((s.session n).running.getD 0) true) (s.session n).consAddr 8) = r at hread
  have hoffice : r.2.office = s.office := by rw [← hr, State.reading_office]
  obtain ⟨answer, t⟩ := r
  obtain rfl : answer = Except.ok v := hread
  refine ⟨t.dropLanded ((s.session n).running.getD 0), (congrArg State.sessions hoffice :), ?_⟩
  unfold outConsReread
  dsimp only
  rw [if_neg (by simp [hdec, hruns]), hr]
  rfl

end Output

/-- Settles O60: each command by what its session, the frame pool, its turn at the codec engine and its accesses allow. -/
theorem mediaRuns : Obligations.MediaRuns := by
  unfold Obligations.MediaRuns
  refine ⟨?_, ?_, ?_, ?_, ?_⟩
  · intro p q k s h n x u refused
    have hexec := exec_mediaSessionOpen h
    refine ⟨fun hrefused => ?_, fun hopen hpool => ?_, fun hopen hpool => ⟨fun henc => ?_, fun w hdec hstore => ?_⟩⟩
    all_goals rw [hexec, sessionOpenRun]
    · rw [if_pos (by simpa [refused, n] using hrefused)]
    · rw [if_neg (by simpa [refused, n] using hopen), if_pos (by simpa [x] using hpool)]
    · rw [if_neg (by simpa [refused, n] using hopen), if_neg (by simpa [x] using hpool), if_pos henc]
    · rw [if_neg (by simpa [refused, n] using hopen), if_neg (by simpa [x] using hpool), if_neg (by rw [hdec]; exact Bool.false_ne_true)]
      simp only [State.turned_accOf, show (s.turned q k).store { s.accOf q k with host := true } (sessionOf k.ctx k.params).consAddr (toLe 8 0) =
        (w, none) from hstore]
      rfl
  · intro p q k s h hcan
    obtain ⟨hpkt, hstarted⟩ := State.mediaPkt_pkt h
    have hexec := exec_mediaDecode h
    refine ⟨fun hnone hactive => ?_, ?_⟩
    · rw [hexec, mediaDecodeRun, State.mediaTidy, hnone]
      simp only [mediaDecodeStep, hnone, State.goneStatus_active hactive, Option.isSome_none, Bool.false_eq_true, if_false]
    · intro n x bs hsess hdec hruns hqueue hrun hearly hrelease src len fl hup hload tk
      obtain ⟨hx, -⟩ := State.session_of_sessionOf hcan.sessions hsess
      rw [mediaDecodeRun_idle hcan.sessions hsess hdec hruns hqueue hrun hearly hrelease] at hexec
      refine ⟨fun hturn => by rw [hexec, if_neg (by rw [hturn]; exact Bool.false_ne_true)], fun hturn => ?_⟩
      rw [if_pos hturn] at hexec
      exact ⟨_, hexec, State.beginDecode_idle hcan.sessions hx hpkt hstarted hdec hruns hqueue hrun hup hload⟩
  · intro p q n k x s h hcan hsess henc hruns hearly tk u a r
    obtain ⟨hpkt, hstarted⟩ := State.mediaPkt_pkt h
    obtain ⟨hx, -⟩ := State.session_of_sessionOf hcan.sessions hsess
    have hexec := exec_mediaEncode h
    rw [mediaEncodeRun_turn hcan.sessions hsess henc hruns hearly] at hexec
    refine ⟨fun hturn => by rw [hexec, if_neg (by rw [hturn]; exact Bool.false_ne_true)], ?_⟩
    intro hturn src w hread e hstore
    rw [if_pos hturn] at hexec
    have hux : u.session n = x := hx
    subst hux
    obtain ⟨hoffice, hcoded⟩ := State.encodeNow_stored (q := q) hread hstore
    have hends := w.pictureCoded_ends (q := q) (k := k) (n := n)
      (by rw [show w.sessions = u.sessions from (congrArg State.sessions hoffice :)]; exact hcan.sessions)
      (by rw [State.pkt, show w.queues = u.queues from (congrArg State.queues hoffice :)]; exact hpkt) hstarted
      e.2.1 e.2.2 { a with host := true } (u.session n).sem
    obtain ⟨hend, hcount, hhist, hexhausted⟩ := hends
    rw [show w.media = s.media from (congrArg State.media hoffice :)] at hexhausted
    exact ⟨_, hexec.trans (congrArg _ hcoded), hend, hcount, hhist, hexhausted⟩
  · intro n s hn x
    rw [exec_outputRecord s hn]
    refine ⟨fun hout => congrArg _ (outputRecord_idle hout), fun hgood hfull => congrArg _ (outputRecord_full hgood hfull), ?_⟩
    intro i r w u hout hruns hgood hroom p f hstats hrec
    exact congrArg _ ((outputRecord_room hout hruns hgood hroom).trans (State.writeOutput_stored hout hstats hrec))
  · intro n s hn hcan x a r
    rw [exec_outConsReread s hn]
    refine ⟨fun hidle => congrArg _ (outConsReread_idle hidle), fun v hdec hruns hread => ?_⟩
    obtain ⟨t, hsessions, hrun⟩ := outConsReread_reads hdec hruns hread
    refine ⟨_, congrArg _ hrun, State.setSession_session (by rw [hsessions]; exact hcan.sessions), fun m hm => ?_⟩
    rw [State.setSession_session_other hm, State.session, State.session, hsessions]

end Sys2Proof.Machine
end

section
/-! PROOFS. Spills of an entry whose SPILLED semaphore lies across the end of host memory (R241 to R244, R247, R248). -/

namespace Sys2Proof.Machine

/-! ### Where host memory ends -/

theorem State.resolveLocal_ne_host {s : State} {a : Acc} {g off h : Nat} : s.resolveLocal a g off ≠ .ok (.host h) := by
  unfold State.resolveLocal
  dsimp only
  (repeat' split) <;> simp

theorem State.resolve_host {s : State} {a : Acc} {g h : Nat} (hs : s.resolve a g = .ok (.host h)) : h = g % 2 ^ 48 := by
  unfold State.resolve at hs
  dsimp only at hs
  generalize g % 2 ^ 48 = off at hs ⊢
  by_cases hid : g >>> 48 = 0xFFFF
  · rw [if_pos hid] at hs
    split at hs <;> cases hs
    rfl
  · rw [if_neg hid] at hs
    (repeat' split at hs)
    · cases hs
    · cases hs
    · cases hs
    · exact absurd hs State.resolveLocal_ne_host

/-- No address stands above the last byte of host memory. -/
theorem State.spot_host_lt {s : State} {a : Acc} {g h : Nat} (hs : s.spot a g = some (true, h)) : h < 2 ^ 48 := by
  unfold State.spot at hs
  split at hs
  next hr =>
    cases hs
    rw [State.resolve_host hr]
    exact Nat.mod_lt _ (by decide)
  next => cases hs
  next => cases hs

theorem State.not_inAct_of_le {s : State} {acc : Acc} {a : Act} {j h : Nat} (hh : 2 ^ 48 ≤ h) : ¬s.inAct acc a j (true, h) := by
  rintro (⟨i, -, hi⟩ | ⟨i, -, hi⟩ | ⟨i, -, hi⟩) <;> exact absurd (State.spot_host_lt hi) (by omega)

/-! ### A transfer that starts is under way -/

theorem State.ctx_of_office {s t : State} (h : t.office = s.office) (c : Nat) : t.ctx c = s.ctx c := by
  have hctxs : t.ctxs = s.ctxs := (congrArg State.ctxs h :)
  rw [State.ctx, State.ctx, hctxs]

theorem State.reading_office_of {α : Type} {s t : State} {a : Acc} {r : Rd α} {x : Except Err α} (h : s.reading a r = (x, t)) :
    t.office = s.office := by
  have ht : (s.reading a r).2 = t := congrArg Prod.snd h
  rw [← ht]
  exact s.reading_office a r

theorem State.sendBulk_office {s t : State} {part tag g : Nat} {bs : List Byte} {planes : List Nat}
    (h : s.sendBulk part tag g bs = .ok (t, planes)) : t.office = s.office := by
  unfold State.sendBulk at h
  dsimp only at h
  split at h
  · cases h
  · cases h
    refine foldl_office _ _ _ fun u i => ?_
    split <;> simp

/-- A transfer of context `c` is under way. -/
def State.Moves (s : State) (c : Nat) : Prop := (s.ctx c).xfer.isSome = true

/-- From `s` to `t`, a transfer of context `c` began, and the other contexts stayed. -/
def State.Began (s t : State) (c : Nat) : Prop := t.Moves c ∧ ∀ x, x ≠ c → t.ctx x = s.ctx x

theorem State.Began.of_office {s t u : State} {c : Nat} (h : s.Began t c) (ho : u.office = t.office) : s.Began u c := by
  obtain ⟨hmoves, hother⟩ := h
  refine ⟨?_, fun x hx => (State.ctx_of_office ho x).trans (hother x hx)⟩
  rw [State.Moves, State.ctx_of_office ho]
  exact hmoves

theorem State.Began.setCtx {s t : State} {c : Nat} (h : ∀ x, x ≠ c → t.ctx x = s.ctx x) {v : Ctx} (hv : v.xfer.isSome = true) :
    s.Began (t.setCtx c v) c := by
  have hne : v ≠ {} := fun he => by rw [he] at hv; cases hv
  refine ⟨?_, fun x hx => (t.ctx_setCtx_other hx v).trans (h x hx)⟩
  rw [State.Moves, State.setCtx, State.ctx, Tbl.get_set_of_ne hne]
  exact hv

theorem State.Began.setEnt {s t : State} {c : Nat} (h : s.Began t c) (a : Act) (e st : Nat) : s.Began (t.setEnt c a e st) c :=
  (State.Began.setCtx h.2 (v := { t.ctx c with ents := (t.ctx c).ents.modify e (fun v => { v with st }) }) h.1).of_office
    (State.poke_office ..)

/-- A transfer that begins is under way, unless nothing comes of it. -/
theorem State.beginXfer_began (s : State) (c : Nat) (a : Act) (e : Nat) (fetch : Bool) :
    s.beginXfer c a e fetch = s ∨ s.Began (s.beginXfer c a e fetch) c := by
  unfold State.beginXfer
  dsimp only
  have hbegan {v : Ctx} (hv : v.xfer.isSome = true) (n : Nat) : s.Began ((s.setCtx c v).setEnt c a e n) c :=
    (State.Began.setCtx (fun _ _ => rfl) hv).setEnt a e n
  have hfail {t u : State} (st : Nat) (ht : s.Began t c) (hu : u = t.setCtx c { t.ctx c with xferFail := some st }) : s.Began u c := by
    rw [hu]
    exact State.Began.setCtx ht.2 ht.1
  split
  · exact .inr (hbegan (by rfl) _)
  · split
    · split
      next t ht => exact .inr ((hbegan (by rfl) _).of_office (State.request_office _ _ _ _ _ _ _ _ _ _ _ _ _ _ ht))
      next st d ht => exact .inr (hfail st (hbegan (by rfl) _) rfl)
      next => exact .inr (hbegan (by rfl) _)
    · split
      next st d t ht => exact .inr (hfail st ((hbegan (by rfl) _).of_office (State.reading_office_of ht)) rfl)
      next => exact .inl rfl
      next bs t ht =>
        have hread := State.Began.of_office (hbegan (by rfl) _) (State.reading_office_of ht)
        split
        next u planes hu =>
          obtain ⟨hmoves, hother⟩ := hread.of_office (State.sendBulk_office hu)
          exact .inr (State.Began.setCtx hother hmoves)
        next st d hu => exact .inr (hfail st hread rfl)
        next => exact .inl rfl

/-- Where a transfer may start, host memory keeps its bytes or the transfer is under way. -/
theorem State.startXfer_began (s : State) (c : Nat) :
    ((s.startXfer c).host = s.host ∧ ∀ x, (s.startXfer c).ctx x = s.ctx x) ∨ s.Began (s.startXfer c) c := by
  have hbegan (t : State) (hhost : t.host = s.host) (hctx : ∀ x, t.ctx x = s.ctx x) (a : Act) (e : Nat) (fetch : Bool) :
      ((t.beginXfer c a e fetch).host = s.host ∧ ∀ x, (t.beginXfer c a e fetch).ctx x = s.ctx x) ∨
        s.Began (t.beginXfer c a e fetch) c := by
    rcases State.beginXfer_began t c a e fetch with heq | ⟨hmoves, hother⟩
    · rw [heq]
      exact .inl ⟨hhost, hctx⟩
    · exact .inr ⟨hmoves, fun x hx => (hother x hx).trans (hctx x)⟩
  unfold State.startXfer
  split
  next a eng _ _ =>
    dsimp only
    split
    · exact .inl ⟨rfl, fun _ => rfl⟩
    · split
      · split
        · exact hbegan s.drew rfl (fun _ => rfl) _ _ _
        · exact hbegan s.drew rfl (fun _ => rfl) _ _ _
      · exact hbegan s rfl (fun _ => rfl) _ _ _
      · exact hbegan s rfl (fun _ => rfl) _ _ _
      · exact .inl ⟨rfl, fun _ => rfl⟩
  next => exact .inl ⟨rfl, fun _ => rfl⟩

theorem State.Moves.startXfer {s : State} {x : Nat} (h : s.Moves x) (c : Nat) : (s.startXfer c).Moves x := by
  rcases s.startXfer_began c with ⟨-, hctx⟩ | ⟨hmoves, hother⟩
  · rw [State.Moves, hctx]
    exact h
  · by_cases hx : x = c
    · rwa [hx]
    · rw [State.Moves, hother x hx]
      exact h

theorem State.Moves.foldl {α : Type} (f : α → Nat) (l : List α) {s : State} {x : Nat} (h : s.Moves x) :
    (l.foldl (fun t c => t.startXfer (f c)) s).Moves x := by
  induction l generalizing s with
  | nil => exact h
  | cons c l ih => exact ih (h.startXfer (f c))

theorem State.Moves.startXfers {s : State} {x : Nat} (h : s.Moves x) (e : Nat) : (s.startXfers e).Moves x := State.Moves.foldl Prod.fst _ h

/-- Where no transfer is under way once transfers of these contexts might have started, host memory kept its bytes. -/
theorem State.startXfer_foldl_host {α : Type} (f : α → Nat) (l : List α) (s : State)
    (h : ∀ x, ¬(l.foldl (fun t c => t.startXfer (f c)) s).Moves x) : (l.foldl (fun t c => t.startXfer (f c)) s).host = s.host := by
  induction l generalizing s with
  | nil => rfl
  | cons c l ih =>
    rw [List.foldl_cons] at h ⊢
    rw [ih _ h]
    rcases s.startXfer_began (f c) with ⟨hhost, -⟩ | ⟨hstarted, -⟩
    · exact hhost
    · exact absurd (hstarted.foldl f l) (h (f c))

theorem State.startXfers_host {s : State} {e : Nat} (h : ∀ x, ¬(s.startXfers e).Moves x) : (s.startXfers e).host = s.host :=
  State.startXfer_foldl_host Prod.fst _ s h

theorem State.nextXfer_host {s : State} {c : Nat} (h : ∀ x, ¬(s.nextXfer c).Moves x) : (s.nextXfer c).host = s.host := by
  unfold State.nextXfer at h ⊢
  cases he : s.stepEngine c with
  | none => rfl
  | some e =>
    rw [he] at h
    dsimp only at h ⊢
    rw [State.startXfers_host h]
    exact State.startXfer_foldl_host id [c] s fun x hx => h x (hx.startXfers e)

theorem State.no_moves {s : State} (h : (s.ctxs.all fun x => x.2.xfer.isNone) = true) (x : Nat) : ¬s.Moves x := by
  rw [State.Moves]
  rcases Tbl.get_mem_or {} s.ctxs x with hget | hmem
  · rw [State.ctx, hget]
    decide
  · rw [State.ctx, Bool.not_eq_true, Option.isSome_eq_false_iff]
    exact List.all_eq_true.mp h _ hmem

/-- An activation block of one entry without AUTO; the SPILLED semaphore of micro-batch 0 starts in the last byte of host memory, off the
32-byte alignment that STEP_BEGIN asks of the block (R240). -/
def edgeAct : Act :=
  { addr := 0xFFF0 * 2 ^ 48 + 0x4000, nent := 1, auto := false, kmin := 0, kmax := 0, kcur := 0, entA := 0xFFF0 * 2 ^ 48 + 0x5000,
    mbA := 0xFFFF * 2 ^ 48 + (2 ^ 48 - 9), bw := 0, tbwd := 0, fails := 0 }

/-- Its entry: 256 bytes at offset 0x10000, which spill to bus address 0x10000 (R241). -/
def edgeEnt : Ent := { home := 0xFFF0 * 2 ^ 48 + 0x10000, spill := 0xFFFF * 2 ^ 48 + 0x10000, bytes := 256, cls := 1 }

/-- The module after reset with context 0 in FILL, its micro-batch's FWD_DONE handled, and 255 in the last byte of host memory. -/
def edgeState (xfer : Option (Nat × Bool)) (ks : List Packet) : State :=
  { State.reset with
    queues := [(0, { enable := true, pkts := ks })], nextPkt := 2, nextSeq := 2
    host := [(2 ^ 48 - 1, 0xFF#8)]
    ctxs := [(0, { Ctx.management .azg7208 with stepState := .fill, nmb := 1, act := some edgeAct, ents := [edgeEnt], fwdSeen := [0], xfer })] }

/-- HOST_SPILL of that entry, which it names. -/
def edgePkt : Packet :=
  { opcode := 0x0103, phase := .started, startSeq := 1, plen := 32
    params := toLe 8 edgeEnt.home ++ toLe 8 edgeEnt.spill ++ toLe 4 edgeEnt.bytes ++ toLe 12 0 }

/-- A failed spill ends with SPILLED added to: the carry goes beyond host memory's last address. -/
theorem edgeState_spillDone : (spillDone (edgeState (some (0, false)) []) 0 0 1 0).hostByte (2 ^ 48) = 1#8 ∧
    ((spillDone (edgeState (some (0, false)) []) 0 0 1 0).ctxs.all fun x => x.2.xfer.isNone) = true := by decide +kernel

theorem edgeState_hostSpill : (hostRun (edgeState none [edgePkt]) 0 edgePkt true).hostByte (2 ^ 48) = 1#8 ∧
    ((hostRun (edgeState none [edgePkt]) 0 edgePkt true).ctxs.all fun x => x.2.xfer.isNone) = true := by decide +kernel

theorem edge_started : (edgeState none [edgePkt]).started 0 0x0103 = some (0, edgePkt) := by decide +kernel
theorem edge_named : (edgeState none [edgePkt]).namedEnt 0 0 edgeEnt.home edgeEnt.spill 256 true = some (edgeAct, edgeEnt) := by
  decide +kernel
theorem edge_taken : (edgeState none [edgePkt]).takeMover edgePkt = some 0 := by decide +kernel

theorem edge_canon (xfer ks) : (edgeState xfer ks).Canonical := by constructor <;> rfl

theorem edge_laid (xfer ks) : (edgeState xfer ks).Laid :=
  ⟨fun _ hr => absurd hr List.not_mem_nil, fun _ hr => absurd hr List.not_mem_nil⟩

theorem edge_quiet (xfer ks) : (edgeState xfer ks).Quiet := ⟨rfl, rfl, rfl, rfl⟩

theorem edge_plain (xfer ks) : (edgeState xfer ks).Plain where
  disarmed := rfl
  clean := fun _ => (⟨by decide, by decide⟩ : verdict 0#16 = .clean ∧ verdict 0#16 = .clean)
  locks := rfl
  groups := rfl
  chans := fun _ => ⟨(by decide : (0 : Nat) ≠ 3), rfl⟩
  copies := ⟨rfl, rfl⟩
  active := rfl

theorem edge_noTransfers : (edgeState none [edgePkt]).NoTransfers := by
  intro c
  rcases Tbl.get_mem_or {} (edgeState none [edgePkt]).ctxs c with hget | hmem
  · rw [State.ctx, hget]
    exact ⟨rfl, rfl⟩
  · have hctx : (edgeState none [edgePkt]).ctx c = _ := congrArg Prod.snd (List.mem_singleton.mp hmem)
    rw [hctx]
    exact ⟨rfl, rfl⟩

theorem State.reaches_of_run {s : State} {a : Acc} {g n : Nat} (b : Bool) (p : Nat)
    (h : (List.range n).all (fun i => s.spot a (g + i) == some (b, p + i)) = true) : s.Reaches a g n := by
  have hspot (i : Nat) (hi : i < n) : s.spot a (g + i) = some (b, p + i) := beq_iff_eq.mp (List.all_eq_true.mp h i (List.mem_range.mpr hi))
  refine ⟨fun i hi => by simp [hspot i hi], fun i j hi hj hij => ?_⟩
  rw [hspot i hi, hspot j hj] at hij
  exact Nat.add_left_cancel (congrArg Prod.snd (Option.some.inj hij))

/-- As which HOST_SPILL copies. -/
def edgeAcc : Acc := { (edgeState none [edgePkt]).accOf 0 edgePkt with host := true }

theorem edge_reaches_home : (edgeState none [edgePkt]).Reaches edgeAcc edgeEnt.home edgeEnt.bytes :=
  State.reaches_of_run false ((edgeState none [edgePkt]).place 0 0x10000) (by decide +kernel)

theorem edge_reaches_spill : (edgeState none [edgePkt]).Reaches edgeAcc edgeEnt.spill edgeEnt.bytes :=
  State.reaches_of_run true 0x10000 (by decide +kernel)

/-- Refutes O47: a failed spill leaves every byte outside the activation block and its semaphores as it was only where no semaphore lies across
the end of host memory. The statement asks nothing of the block; STEP_BEGIN accepts none of this one's alignment (R240). -/
theorem not_residencyTransfers : ¬Obligations.ResidencyTransfers := by
  intro h
  obtain ⟨hafter, hover⟩ := edgeState_spillDone
  have hcan := edge_canon (some (0, false)) []
  obtain ⟨-, hdone⟩ := h.2 0 0 0 false edgeAct (edgeState (some (0, false)) []) rfl (by decide) rfl hcan (edge_laid ..)
    (edge_plain ..) (edge_quiet ..)
  obtain ⟨-, -, hfailed, -⟩ := hdone rfl rfl rfl rfl rfl rfl (by decide) rfl rfl
  obtain ⟨t, hrun, -, hkept⟩ := hfailed 1 (by decide) (by decide) rfl
  have hstep : exec (.spillDone 0 0 1 0) (edgeState (some (0, false)) []) = .next (spillDone (edgeState (some (0, false)) []) 0 0 1 0) :=
    answer_of_wf (c := .spillDone 0 0 1 0) (by decide) _
  have hnext : spillDone (edgeState (some (0, false)) []) 0 0 1 0 = t.nextXfer 0 := Host.Outcome.next.inj (hstep.symm.trans hrun)
  rw [hnext] at hafter hover
  have hhost : (t.nextXfer 0).host = t.host := State.nextXfer_host (State.no_moves hover)
  have hbefore : t.hostByte (2 ^ 48) = 0#8 := Option.some.inj (hkept (true, 2 ^ 48) (State.not_inAct_of_le (Nat.le_refl _)))
  rw [State.hostByte, hhost] at hafter
  exact absurd (hafter.symm.trans hbefore) (by decide)

/-- Refutes O48: as in O47's counterexample, the SPILLED semaphore of the entry that HOST_SPILL names lies across the end of host memory. -/
theorem not_hostTransfers : ¬Obligations.HostTransfers := by
  intro h
  obtain ⟨hafter, hover⟩ := edgeState_hostSpill
  obtain ⟨-, hrun⟩ := h 0 0 0 true edgePkt (edgeState none [edgePkt]) edge_started (edge_canon ..) (edge_laid ..)
    (edge_plain ..) (edge_quiet ..)
  obtain ⟨-, hmoves⟩ := hrun edge_taken rfl
  obtain ⟨-, hnamed⟩ := hmoves (fun _ => edge_noTransfers) edge_reaches_home edge_reaches_spill
  obtain ⟨t, hrun, -, -, hkept⟩ := hnamed edgeAct edgeEnt edge_named
  have hstep : exec (.hostSpill 0) (edgeState none [edgePkt]) = .next (hostRun (edgeState none [edgePkt]) 0 edgePkt true) :=
    (answer_of_wf (c := .hostSpill 0) (by decide) _).trans (by rw [edge_started])
  have hnext : hostRun (edgeState none [edgePkt]) 0 edgePkt true = t.startXfers 0 := Host.Outcome.next.inj (hstep.symm.trans hrun)
  rw [hnext] at hafter hover
  have hhost : (t.startXfers 0).host = t.host := State.startXfers_host (State.no_moves hover)
  have hbefore : t.hostByte (2 ^ 48) = 0#8 := Option.some.inj
    (hkept (true, 2 ^ 48) (State.not_inAct_of_le (Nat.le_refl _)) fun i _ hi => absurd (State.spot_host_lt hi) (by decide))
  rw [State.hostByte, hhost] at hafter
  exact absurd (hafter.symm.trans hbefore) (by decide)

end Sys2Proof.Machine
end

section
/-! PROOFS. What reads and writes of the module's memory leave of the fabric's ports, requests and messages: all of it. -/

namespace Sys2Proof.Machine

@[simp] theorem foldl_fab {α : Type} (f : State → α → State) (l : List α) (s : State) (h : ∀ s a, (f s a).fab = s.fab) :
    (l.foldl f s).fab = s.fab := foldl_keeps State.fab _ h _ _

@[simp] theorem State.ite_fab (c : Prop) [Decidable c] (s t : State) : (if c then s else t).fab = if c then s.fab else t.fab := apply_ite ..

/-- A log whose records leave the fabric alone. -/
def Log.KeepsFab (w : Log) : Prop := ∀ s g bs v, (w s g bs v).fab = s.fab

@[simp] theorem State.touchUnit_fab (s : State) (p) : (s.touchUnit p).fab = s.fab := by simp [State.touchUnit]

@[simp] theorem State.irq_fab (s : State) (fn vec) : (s.irq fn vec).fab = s.fab := by simp [State.irq]

@[simp] theorem State.setHost_fab (s : State) (a bs) : (s.setHost a bs).fab = s.fab := by
  induction bs generalizing s a with
  | nil => rfl
  | cons b r ih => simp [State.setHost, ih]

@[simp] theorem State.unexempt_fab (s : State) (w) : (s.unexempt w).fab = s.fab := by simp [State.unexempt]
@[simp] theorem State.putWord_fab (s : State) (p bs) : (s.putWord p bs).fab = s.fab := by simp [State.putWord]
@[simp] theorem State.modLine_fab (s : State) (p f) : (s.modLine p f).fab = s.fab := by simp [State.modLine]
@[simp] theorem State.dropCopies_fab (s : State) (line) : (s.dropCopies line).fab = s.fab := by simp [State.dropCopies]

@[simp] theorem State.keepCopy_fab (s t : State) (w) : (s.keepCopy t w).fab = t.fab := by
  unfold State.keepCopy
  split <;> simp

@[simp] theorem State.stackUsed_fab (s : State) (p) : (s.stackUsed p).fab = s.fab := by simp [State.stackUsed]
@[simp] theorem State.owe_fab (s : State) (o) : (s.owe o).fab = s.fab := by simp [State.owe]

section EventLogs
variable {w : Log} (hw : w.KeepsFab)
include hw

@[simp] theorem Log.put_fab (s : State) (r rec) : (w.put s r rec).fab = s.fab := hw _ _ _ _

@[simp] theorem Log.memEvent_fab (s : State) (kind stack chan eflags row spares) :
    (w.memEvent s kind stack chan eflags row spares).fab = s.fab := by simp [Log.memEvent, hw]

@[simp] theorem Log.eccEvent_fab (s : State) (kind cls eflags index synd addr ctx count) :
    (w.eccEvent s kind cls eflags index synd addr ctx count).fab = s.fab := by simp [Log.eccEvent, hw]

@[simp] theorem Log.releaseCe_fab (s : State) (key) : (w.releaseCe s key).fab = s.fab := by
  unfold Log.releaseCe
  split <;> simp [hw]

@[simp] theorem Log.corrected_fab (s : State) (cls eflags index synd addr ctx) :
    (w.corrected s cls eflags index synd addr ctx).fab = s.fab := by simp [Log.corrected, hw]

@[simp] theorem Log.uncorrectable_fab (s : State) (cls eflags index synd addr ctx) :
    (w.uncorrectable s cls eflags index synd addr ctx).fab = s.fab := by simp [Log.uncorrectable, hw]

@[simp] theorem Log.startRetire_fab (s : State) (ch) : (w.startRetire s ch).fab = s.fab := by simp [Log.startRetire, hw]
@[simp] theorem Log.spareRow_fab (s : State) (p) : (w.spareRow s p).fab = s.fab := by simp [Log.spareRow, hw]

@[simp] theorem Log.listCorrected_fab (s : State) (p) : (w.listCorrected s p).fab = s.fab := by
  simp [Log.listCorrected, hw]

@[simp] theorem Log.fired_fab (s : State) (word addr ctx ck) : (w.fired s word addr ctx ck).fab = s.fab := by
  simp [Log.fired, hw]

@[simp] theorem Log.inject_fab (s : State) (cls index word addr ctx sp) :
    (w.inject s cls index word addr ctx sp).fab = s.fab := by simp [Log.inject, hw]

@[simp] theorem Log.arrayWrite_fab (s : State) (word ctx) : (w.arrayWrite s word ctx).fab = s.fab := by
  simp [Log.arrayWrite, hw]

@[simp] theorem Log.outWord_fab (s : State) (word) : (w.outWord s word).fab = s.fab := by
  unfold Log.outWord
  split <;> simp [hw]

@[simp] theorem Log.writeBack_fab (s : State) (line) : (w.writeBack s line).fab = s.fab := by simp [Log.writeBack, hw]

@[simp] theorem Log.cacheLine_fab (s : State) (part p alloc) : (w.cacheLine s part p alloc).2.fab = s.fab := by
  unfold Log.cacheLine
  dsimp only
  (repeat' split) <;> simp [hw]

@[simp] theorem Log.injectCache_fab (s : State) (p ctx dirty) : (w.injectCache s p ctx dirty).fab = s.fab := by
  simp [Log.injectCache, hw]

@[simp] theorem Log.wordRead_fab (s : State) (word ctx eflags) : (w.wordRead s word ctx eflags).fab = s.fab := by
  unfold Log.wordRead
  split <;> simp [hw]

@[simp] theorem Log.stackRead_fab (s : State) (word eflags) : (w.stackRead s word eflags).fab = s.fab := by
  unfold Log.stackRead
  (repeat' split) <;> simp [hw]

@[simp] theorem Log.fillLine_fab (s : State) (p ctx) : (w.fillLine s p ctx).fab = s.fab := by simp [Log.fillLine, hw]

@[simp] theorem Log.dropBad_fab (s : State) (p n ctx) : (w.dropBad s p n ctx).fab = s.fab := by
  unfold Log.dropBad
  (repeat' split) <;> simp [hw]

@[simp] theorem Log.wordWrite_fab (s : State) (p ctx bs) : (w.wordWrite s p ctx bs).fab = s.fab := by
  unfold Log.wordWrite
  dsimp only
  (repeat' split) <;> simp [hw]

@[simp] theorem Log.soilLine_fab (s : State) (p n ctx) : (w.soilLine s p n ctx).fab = s.fab := by simp [Log.soilLine, hw]

@[simp] theorem Log.lineWrite_fab (s : State) (part ctx p nc bs) : (w.lineWrite s part ctx p nc bs).fab = s.fab := by
  simp [Log.lineWrite, hw]

@[simp] theorem Log.poke_fab (s : State) (a g bs) : (w.poke s a g bs).fab = s.fab := by simp [Log.poke, hw]

end EventLogs

@[simp] theorem State.pokeMem_fab (s : State) (part off bs) : (s.pokeMem part off bs).fab = s.fab := by
  simp [State.pokeMem]

theorem logAt_keepsFab : ∀ n, (logAt n).KeepsFab
  | 0 => by intro s g bs v; simp [logAt]
  | n + 1 => by
    intro s g bs v
    have := logAt_keepsFab n
    simp [logAt, this]

@[simp] theorem records_keepsFab : records.KeepsFab := logAt_keepsFab 3

@[simp] theorem State.memEvent_fab (s : State) (kind stack chan eflags row spares) :
    (s.memEvent kind stack chan eflags row spares).fab = s.fab := by simp [State.memEvent]

@[simp] theorem State.eccEvent_fab (s : State) (kind cls eflags index synd addr ctx count) :
    (s.eccEvent kind cls eflags index synd addr ctx count).fab = s.fab := by simp [State.eccEvent]

@[simp] theorem State.corrected_fab (s : State) (cls eflags index synd addr ctx) :
    (s.corrected cls eflags index synd addr ctx).fab = s.fab := by simp [State.corrected]

@[simp] theorem State.uncorrectable_fab (s : State) (cls eflags index synd addr ctx) :
    (s.uncorrectable cls eflags index synd addr ctx).fab = s.fab := by simp [State.uncorrectable]

@[simp] theorem State.startRetire_fab (s : State) (ch) : (s.startRetire ch).fab = s.fab := by simp [State.startRetire]
@[simp] theorem State.writeBack_fab (s : State) (line) : (s.writeBack line).fab = s.fab := by simp [State.writeBack]

@[simp] theorem State.wordRead_fab (s : State) (w ctx eflags) : (s.wordRead w ctx eflags).fab = s.fab := by
  simp [State.wordRead]

@[simp] theorem State.stackRead_fab (s : State) (w eflags) : (s.stackRead w eflags).fab = s.fab := by
  simp [State.stackRead]

@[simp] theorem State.lineWrite_fab (s : State) (part ctx p nc bs) : (s.lineWrite part ctx p nc bs).fab = s.fab := by
  simp [State.lineWrite]

@[simp] theorem State.poke_fab (s : State) (part g bs) : (s.poke part g bs).fab = s.fab := by simp [State.poke]
@[simp] theorem State.releaseAll_fab (s : State) : s.releaseAll.fab = s.fab := by simp [State.releaseAll]

@[simp] theorem State.spWordRead_fab (s : State) (w ctx) : (s.spWordRead w ctx).fab = s.fab := by
  unfold State.spWordRead
  split <;> simp

@[simp] theorem State.noteRead_fab (s : State) (part ctx r) : (s.noteRead part ctx r).fab = s.fab := by
  unfold State.noteRead
  grind [State.drew_fab, State.spWordRead_fab, Log.cacheLine_fab, State.stackUsed_fab, Log.injectCache_fab,
    Log.fillLine_fab, Log.dropBad_fab, State.wordRead_fab, records_keepsFab, foldl_fab]

@[simp] theorem State.noteReads_fab (s : State) (a l) :
    (s.noteReads a l).fab = s.fab := foldl_fab _ _ _ fun t r => t.noteRead_fab a.part a.ctx r

@[simp] theorem State.reading_fab {α : Type} (s : State) (a) (r : Rd α) : (s.reading a r).2.fab = s.fab :=
  s.noteReads_fab a _

@[simp] theorem State.homeRead_fab {α : Type} (s : State) (a) (r : Rd α) : (s.homeRead a r).2.fab = s.fab :=
  s.noteReads_fab a _

@[simp] theorem State.burst_fab (s : State) (n) : (s.burst n).2.fab = s.fab := by
  unfold State.burst
  dsimp only
  (repeat' split) <;> simp


/-! ### Packets that are taken and sent -/

/-- The fabric without its ports and the count of packets discarded. -/
def Fabric.besidesPorts (f : Fabric) : Fabric := { f with ports := [], discards := 0 }

theorem State.setPort_besidesPorts (s : State) (n : Nat) (p : Port) : (s.setPort n p).fab.besidesPorts = s.fab.besidesPorts := rfl

theorem State.discard_besidesPorts (s : State) (d : Nat) :
    ({ s with fab := { s.fab with discards := d } } : State).fab.besidesPorts = s.fab.besidesPorts := rfl

theorem State.report_besidesPorts (s : State) (n : Nat) (again : Bool) : (s.report n again).fab.besidesPorts = s.fab.besidesPorts := by
  unfold State.report
  dsimp only
  split
  · rfl
  · exact State.setPort_besidesPorts ..

theorem State.pumpPort_besidesPorts (s : State) (n : Nat) : (s.pumpPort n).fab.besidesPorts = s.fab.besidesPorts := rfl

theorem State.transmit_besidesPorts (s : State) (n : Nat) (k : TxPkt) : (s.transmit n k).fab.besidesPorts = s.fab.besidesPorts := by
  unfold State.transmit
  rw [State.pumpPort_besidesPorts, State.setPort_besidesPorts, State.burst_fab]

theorem State.respond_besidesPorts (s : State) (port dest tag status rkind value detail : Nat) (data : List Byte) (part : Nat) :
    (s.respond port dest tag status rkind value detail data part).fab.besidesPorts = s.fab.besidesPorts := by
  unfold State.respond
  dsimp only
  split
  · exact State.transmit_besidesPorts ..
  · rfl

/-- Taking a packet changes the ports alone, and what they discard. -/
theorem State.taken_besidesPorts (s : State) (n : Nat) (via : Via) (v flits : Nat) :
    (s.taken n via v flits).fab.besidesPorts = s.fab.besidesPorts := by
  unfold State.taken State.arrive
  dsimp only
  split
  · rfl
  split
  · rw [State.report_besidesPorts, State.setPort_besidesPorts]
  split
  · split
    · rw [State.report_besidesPorts, State.discard_besidesPorts, State.burst_fab, State.setPort_besidesPorts]
    · rw [State.burst_fab, State.setPort_besidesPorts]
  split
  · rw [State.report_besidesPorts, State.setPort_besidesPorts]
  · rfl

@[simp] theorem State.taken_office (s : State) (n : Nat) (via : Via) (v flits : Nat) : (s.taken n via v flits).office = s.office :=
  State.arrive_office ..

section Taken
variable (s : State) (n : Nat) (via : Via) (v flits : Nat)

@[simp] theorem State.taken_mtime : (s.taken n via v flits).mtime = s.mtime := (congrArg State.mtime (s.taken_office n via v flits) :)
@[simp] theorem State.taken_groups : (s.taken n via v flits).groups = s.groups := (congrArg State.groups (s.taken_office n via v flits) :)
@[simp] theorem State.taken_msgs : (s.taken n via v flits).fab.msgs = s.fab.msgs :=
  (congrArg Fabric.msgs (s.taken_besidesPorts n via v flits) :)
@[simp] theorem State.taken_seen : (s.taken n via v flits).fab.seen = s.fab.seen :=
  (congrArg Fabric.seen (s.taken_besidesPorts n via v flits) :)

end Taken

theorem State.group_of_office {s t : State} (h : t.office = s.office) (gid : Nat) : t.group gid = s.group gid := by
  have hgroups : t.groups = s.groups := (congrArg State.groups h :)
  rw [State.group, State.group, hgroups]

theorem State.taken_msgRoom (s : State) (n m : Nat) (via : Via) (v flits : Nat) : (s.taken n via v flits).msgRoom m = s.msgRoom m := by
  have hrecent : (s.taken n via v flits).recentMsgs = s.recentMsgs := by rw [State.recentMsgs, State.recentMsgs, State.taken_mtime, State.taken_msgs]
  rw [State.msgRoom, State.msgRoom, hrecent]

@[simp] theorem State.heard_office (s : State) (m : GroupMsg) (n : Nat) : (s.heard m n).office = s.office := by
  have hfab (t : State) (f : Fabric) : ({ t with fab := f } : State).office = t.office := rfl
  rw [State.heard, hfab, State.respond_office, State.noteMsg_office, State.taken_office]

/-- R354: a GROUP message that its port takes, that finds room in its hub's queue and was not heard before, acts on its group. -/
theorem State.heardOn_of_hears {s : State} {m : GroupMsg} {g : Group} (h : s.Hears m g) (n : Nat) (act : State → Group → State) :
    s.heardOn m n act = (act (s.heard m n) g).report m.port := by
  obtain ⟨-, haccepts, hroom, hnew, hgroup⟩ := h
  rw [State.heardOn, State.received_accepts haccepts, State.queued, if_pos ((s.taken_msgRoom ..).trans hroom), State.hear]
  have hseen : ((s.taken m.port m.via 0 (flitsOf n)).noteMsg m.port).fab.seen = s.fab.seen := State.taken_seen ..
  have hunheard : ¬((s.taken m.port m.via 0 (flitsOf n)).noteMsg m.port).fab.seen.contains (m.src, m.mseq) = true := by simpa [hseen] using hnew
  rw [if_neg hunheard]
  have hsame : (s.heard m n).group m.gid = some g := by
    rw [State.group_of_office (s.heard_office m n), hgroup]
  dsimp only
  simp only [State.heard] at hsame ⊢
  rw [hsame]

end Sys2Proof.Machine
end

section
/-! PROOFS. SHARD_PUBLISH, BCAST, NORM_UP and NORM_DOWN (R250, R251, R277, R278). -/

namespace Sys2Proof.Machine

/-- A list of one reading computation that succeeds. -/
theorem State.reading_mapM_singleton {α β : Type} {s t : State} {a : Acc} {f : α → Rd β} {x : α} {v : β}
    (h : s.reading a (f x) = (.ok v, t)) : s.reading a ([x].mapM f) = (.ok [v], t) := by
  have hlist : [x].mapM f = (f x >>= fun y => pure [y]) := by simp [List.mapM_cons]
  obtain ⟨hv, ht⟩ := Prod.mk.inj (h : (((f x).run.run []).1, s.noteReads a ((f x).run.run []).2) = _)
  have hrun : (f x).run.run [] = (.ok v, ((f x).run.run []).2) := Prod.ext hv rfl
  rw [hlist, State.reading, ExceptT.run_bind, StateT.run_bind, hrun]
  exact congrArg _ ht

/-! ### SHARD_PUBLISH -/

/-- R277: the modules that a shard goes to: the other live members and the shadows, this module apart. -/
abbrev Group.targets (g : Group) (me self : Nat) : List Nat :=
  (((List.range g.n).filter (fun k => k != me && g.live k)).map (fun k => g.members.getD k 0xFFFF)
    ++ g.shadows.map Prod.snd).eraseDups.filter (· != self)

/-- R277: where the shard of half 1 − CUR of a region that is not split stands. -/
abbrev BReg.source (r : BReg) (g : Group) (me : Nat) : Nat := (if 1 - g.cur % 2 = 0 then r.base0 else r.base1) + (r.shard me).1

section Publish
variable {s : State} {gid bid : Nat} {adopted : Bool} {g : Group} {b : Bucket} {me : Nat} {o : Own}

theorem shardPublish_unsummed (hg : s.group gid = some g) (hb : g.bucket bid = some b) (ho : b.table adopted = o) (h : o.own ≠ 1) :
    shardPublish s gid bid adopted = s := by
  unfold shardPublish
  simp [hg, hb, ho, h]

/-- The bucket is summed, and this module or the rank that it adopted owns a shard of it. -/
structure State.Summed (s : State) (gid bid : Nat) (adopted : Bool) (g : Group) (b : Bucket) (me : Nat) (o : Own) : Prop where
  group  : s.group gid = some g
  bucket : g.bucket bid = some b
  is     : (if adopted then g.adoptedRank else g.rank) = me
  table  : b.table adopted = o
  ranked : me ≠ 0xFFFF
  own    : o.own = 1

variable {u : State} {n : Nat} (h : s.Summed gid bid adopted g b me o)
include h

theorem shardPublish_zero (hread : s.readNat (s.groupAcc g) (s.global (b.recOff + 24)) 8 = (.ok 0, u)) :
    shardPublish s gid bid adopted = u := by
  unfold shardPublish
  simp [h.group, h.bucket, h.is, h.table, h.ranked, h.own, hread]

theorem shardPublish_bare (hread : s.readNat (s.groupAcc g) (s.global (b.recOff + 24)) 8 = (.ok n, u)) (hn : n ≠ 0) (hnone : b.regions = []) :
    shardPublish s gid bid adopted = (u.putBucket g (b.setTable adopted { o with own := 2 })).readyStep gid := by
  unfold shardPublish
  simp [h.group, h.bucket, h.is, h.table, h.ranked, h.own, hread, hnone, State.reading_pure]

theorem shardPublish_region {r : BReg} {v : State} {bs : List Byte}
    (hread : s.readNat (s.groupAcc g) (s.global (b.recOff + 24)) 8 = (.ok n, u)) (hn : n ≠ 0) (hreg : b.regions = [r]) (hkind : r.kind = 0)
    (hlen : 0 < (r.shard me).2) (hall : g.targets me u.fab.moduleId ≠ [])
    (hload : u.reading (u.groupAcc g) (load u (u.groupAcc g) (u.global (r.source g me)) (r.shard me).2) = (.ok bs, v)) :
    shardPublish s gid bid adopted = (((g.targets me u.fab.moduleId).foldl (fun t d => t.bcastTo g b me false (r.source g me) bs d) v).putBucket g
      (b.setTable adopted { o with own := 2 })).readyStep gid := by
  have hskip : ¬((r.shard me).2 = 0 ∨ g.targets me u.fab.moduleId = []) := fun hor => hor.elim (by omega) hall
  have hlist := State.reading_mapM_singleton
    (f := fun c : Nat × Nat × Nat × Bool × List Nat => load u (u.groupAcc g) (u.global c.1) c.2.1)
    (x := (r.source g me, (r.shard me).2, r.source g me, 0 == 1, g.targets me u.fab.moduleId)) hload
  unfold shardPublish
  simp only [h.group, h.bucket, h.is, h.table]
  rw [if_neg (fun hor => hor.elim h.ranked (absurd h.own)), hread]
  simp only [hreg, hkind, if_true, List.filterMap_cons, List.filterMap_nil]
  rw [if_neg hskip]
  rw [hlist]
  rfl

end Publish

/-! ### BCAST -/

theorem exec_bcast {h : BcastHdr} {data : List Byte} {s : State} (hwf : (Instr.bcast h data).wf = true) (hacc : s.Accepts h.port h.via) :
    exec (.bcast h data) s = .next ((bcastIn (s.taken h.port h.via 3 (flitsOf data.length)) h data).report h.port) :=
  (answer_of_wf hwf _).trans (by rw [State.received_accepts hacc])

section Broadcast
variable {u : State} {h : BcastHdr} {data : List Byte} {g : Group} {b : Bucket} (hg : u.group h.gid = some g) (hb : g.bucket h.bucket = some b)
include hg hb

theorem bcastIn_undefined (hcrc : b.crc ≠ h.defCrc) : bcastIn u h data = u.stale g := by
  simp only [bcastIn, hg, hb]
  rw [if_pos (.inl hcrc)]

variable (hcrc : b.crc = h.defCrc) (hfits : h.addr + data.length ≤ u.memBytes g.part)
include hcrc hfits

theorem bcastIn_held (hheld : u.landHeld g h.addr data.length = true ∨ u.behind (.bcast h data) = true) :
    bcastIn u h data = u.hold (.bcast h data) := by
  simp only [bcastIn, hg, hb]
  rw [if_neg (by simp [hcrc, hfits]), if_pos (by simpa using hheld)]

variable (hfree : ¬(u.landHeld g h.addr data.length = true ∨ u.behind (.bcast h data) = true)) (hjoined : g.rejoining = false)
include hfree hjoined

theorem bcastIn_stale (hkey : g.keyOk h.step h.attempt = false) : bcastIn u h data = u.stale g := by
  simp only [bcastIn, hg, hb]
  rw [if_neg (by simp [hcrc, hfits]), if_neg (by simpa using hfree), if_neg (by simp [hjoined]), if_pos (by simp [hkey])]

theorem bcastIn_lands (hkey : g.keyOk h.step h.attempt = true) : bcastIn u h data = ((u.landAt g h.addr data).putBucket g
    (if h.mirror then { b with mirrored := b.mirrored.filter (fun e => e.1 != h.addr) ++ [(h.addr, data.length)] }
      else { b with landed := b.landed.filter (fun e => !(e.1 == h.owner && e.2.1 == h.addr)) ++ [(h.owner, h.addr, data.length)] })).readyStep h.gid := by
  simp only [bcastIn, hg, hb]
  rw [if_neg (by simp [hcrc, hfits]), if_neg (by simpa using hfree), if_neg (by simp [hjoined]), if_neg (by simp [hkey])]

end Broadcast

/-! ### The norm messages -/

theorem exec_normUp {m : GroupMsg} {image : List Byte} {g : Group} {s : State} (h : s.Hears m g) (hwf : (Instr.normUp m image).wf = true) :
    exec (.normUp m image) s = .next (State.report
      (if !g.keyOk m.step m.attempt || g.normKids.any (fun e => e.1 == m.srcRank) then s.heard m image.length
        else ((s.heard m image.length).putGroup { g with normKids := g.normKids ++ [(m.srcRank, image)] }).normStep g.gid) m.port) :=
  (answer_of_wf hwf _).trans (by rw [State.heardOn_of_hears h])

theorem exec_normDown {m : GroupMsg} {norm2 factor flags : Nat} {g : Group} {s : State} (h : s.Hears m g)
    (hwf : (Instr.normDown m norm2 factor flags).wf = true) :
    exec (.normDown m norm2 factor flags) s = .next (State.report
      (if g.keyState ≠ 1 || !g.keyOk m.step m.attempt || ((s.heard m 12).ctx g.ctx).readyDone then s.heard m 12
        else ((s.heard m 12).normDown g (norm2 % 2 ^ 32, factor, flags &&& 4)).normReady g.ctx (norm2 % 2 ^ 32, factor, flags &&& 4)) m.port) :=
  (answer_of_wf hwf _).trans (by rw [State.heardOn_of_hears h])

theorem normOf_unordered {maxnorm : Nat} {r : Red} (h : (r.nan || r.pinf || r.ninf) = true) : normOf maxnorm r = (0x7FC00000, 0x7FC00000, 4) :=
  if_pos h

/-- R250: a norm of at most MAXNORM scales nothing. -/
theorem normOf_within {maxnorm : Nat} {r : Red} {x : Rat} (h : (r.nan || r.pinf || r.ninf) = false) (hmax : f32 maxnorm = .num x)
    (hle : r.sum ≤ x * x) : (normOf maxnorm r).2 = (0x3F800000, 0) := by
  simp [normOf, h, hmax, hle]

/-- Settles O53, each command by the outcome of what it reads: PUBLISH, the key, and what of the group it has. -/
theorem shardsAndNorms : Obligations.ShardsAndNorms := by
  unfold Obligations.ShardsAndNorms
  refine ⟨?_, ?_, ?_, ?_, ?_⟩
  · intro gid bid adopted g b s hgid hbid hg hb
    have hrun : exec (.shardPublish gid bid adopted) s = .next (shardPublish s gid bid adopted) :=
      answer_of_wf (c := .shardPublish gid bid adopted) (by simpa [Instr.wf, fits16] using ⟨hgid, hbid⟩) _
    rw [hrun]
    dsimp only
    generalize hread : s.readNat (s.groupAcc g) (s.global (b.recOff + 24)) 8 = pub
    obtain ⟨x, u⟩ := pub
    refine ⟨fun hown => by rw [shardPublish_unsummed hg hb rfl hown], fun hme hown hx => ?_, fun n hme hown hx hn => ⟨fun hnone => ?_, ?_⟩⟩
    · cases hx
      rw [shardPublish_zero ⟨hg, hb, rfl, rfl, hme, hown⟩ hread]
    · cases hx
      rw [shardPublish_bare ⟨hg, hb, rfl, rfl, hme, hown⟩ hread hn hnone]
    · intro r bs hreg hkind hlen
      generalize hload : u.reading _ _ = rd
      obtain ⟨y, v⟩ := rd
      intro hall hy
      cases hx
      cases hy
      rw [shardPublish_region ⟨hg, hb, rfl, rfl, hme, hown⟩ hread hn hreg hkind hlen hall hload]
  · intro h data g b s hwf hacc hg hb hjoined u held
    have hgu : u.group h.gid = some g := (State.group_of_office (State.taken_office ..) _).trans hg
    rw [exec_bcast hwf hacc]
    refine ⟨fun hcrc => by rw [bcastIn_undefined hgu hb hcrc], fun hcrc hfits => ⟨fun hheld => by rw [bcastIn_held hgu hb hcrc hfits hheld],
      fun hfree hkey => by rw [bcastIn_stale hgu hb hcrc hfits hfree hjoined hkey], fun hfree hkey => ⟨fun hm => ?_, fun hm => ?_⟩⟩⟩
    · rw [bcastIn_lands hgu hb hcrc hfits hfree hjoined hkey, if_neg (by simp [hm])]
    · rw [bcastIn_lands hgu hb hcrc hfits hfree hjoined hkey, if_pos hm]
  · intro m image g s hhears hwf u
    rw [exec_normUp hhears hwf]
    exact ⟨fun hknown => by rw [if_pos (by simpa using hknown)], fun hkey hnew => by
      rw [if_neg (by simpa [hkey] using fun x hx => hnew _ hx rfl)]⟩
  · intro m norm2 factor flags g s hhears hnorm hfactor hflags u
    have hwf : (Instr.normDown m norm2 factor flags).wf = true := by
      simp only [Instr.wf, fits64, fits32, Bool.and_eq_true, decide_eq_true_eq]
      exact ⟨⟨⟨hhears.1, by omega⟩, hfactor⟩, hflags⟩
    have hctx : (u.ctx g.ctx).readyDone = (s.ctx g.ctx).readyDone := congrArg Ctx.readyDone (State.ctx_of_office (s.heard_office m 12) g.ctx)
    rw [exec_normDown hhears hwf, Nat.mod_eq_of_lt hnorm, hctx]
    refine ⟨fun hover => by rw [if_pos (by simpa [or_assoc] using hover)], fun hstate hkey hready => by rw [if_neg (by simp [hstate, hkey, hready])]⟩
  · exact fun maxnorm r => ⟨normOf_unordered, fun hord x => normOf_within hord⟩

end Sys2Proof.Machine
end

section
/-! PROOFS. Stores that go to peers leave which of the module's ports carry traffic, and whom they reach (R352, R353). -/

namespace Sys2Proof.Machine

/-! ### What a port sends leaves its link state -/

theorem Port.dueSwaps_st (p : Port) : p.dueSwaps.st = p.st := by
  unfold Port.dueSwaps
  exact foldl_keeps Port.st (fun (q : Port) (w : Bool × Nat × Nat × Nat) => q.swapLane w.2.1 w.2.2.1) (fun _ _ => rfl) _ _

@[simp] theorem Port.passed_st (p : Port) (own : Bool) (n : Nat) : (p.passed own n).st = p.st := by
  unfold Port.passed
  split
  · rfl
  · exact Port.dueSwaps_st _

theorem Port.sendPkt_st (now : Nat) (p : Port) (k : TxPkt) : (Port.sendPkt now p k).st = p.st := Port.passed_st ..

theorem Port.serve_st {share : Nat → Nat} {now v f : Nat} {p p' : Port} (h : Port.serve share now v f p = some p') : p'.st = p.st := by
  induction f generalizing p with
  | zero => cases h
  | succ f ih =>
    unfold Port.serve at h
    dsimp only at h
    split at h
    · exact (ih h).trans rfl
    · split at h
      · exact (ih h).trans rfl
      · split at h
        · cases h
          exact Port.sendPkt_st ..
        · exact (ih h).trans rfl

theorem Port.nextVc_st {weight : Nat → Nat} {now : Nat} {p : Port} {r : Nat × Port} (h : p.nextVc weight now = some r) : r.2.st = p.st := by
  unfold Port.nextVc at h
  dsimp only at h
  (repeat' split at h) <;> cases h <;> rfl

theorem Port.pumpOne_st {weight share : Nat → Nat} {now : Nat} {p p' : Port} (h : p.pumpOne weight share now = some p') : p'.st = p.st := by
  unfold Port.pumpOne at h
  obtain ⟨r, hr, h⟩ := Option.bind_eq_some_iff.mp h
  rw [← Port.nextVc_st hr]
  split at h
  · cases h
    exact Port.sendPkt_st ..
  · exact Port.serve_st h

theorem Port.pumpFuel_st {weight share : Nat → Nat} {now : Nat} (f : Nat) (p : Port) : (Port.pumpFuel weight share now f p).st = p.st := by
  induction f generalizing p with
  | zero => rfl
  | succ f ih =>
    unfold Port.pumpFuel
    split
    next h => rw [ih, Port.pumpOne_st h]
    next => rfl

theorem Port.pump_st (weight share : Nat → Nat) (now : Nat) (p : Port) : (p.pump weight share now).st = p.st := Port.pumpFuel_st ..

/-! ### Peers -/

/-- From `s` to `t`, ports keep their link states, and the planes reach whom they reached. -/
structure State.SamePeers (s t : State) : Prop where
  ports : Tbl.wf {} s.fab.ports = true → Tbl.wf {} t.fab.ports = true ∧ ∀ n, (t.port n).st = (s.port n).st
  reach : t.fab.reach = s.fab.reach
  gone  : t.fab.gone = s.fab.gone
  self  : t.fab.moduleId = s.fab.moduleId

theorem State.SamePeers.refl (s : State) : s.SamePeers s := ⟨fun h => ⟨h, fun _ => rfl⟩, rfl, rfl, rfl⟩

theorem State.SamePeers.of_fab {s t : State} (h : t.fab = s.fab) : s.SamePeers t := by
  constructor <;> simp [State.port, h]

theorem State.SamePeers.trans {s t u : State} (h : s.SamePeers t) (h' : t.SamePeers u) : s.SamePeers u where
  ports hwf := by
    obtain ⟨ht, hst⟩ := h.ports hwf
    obtain ⟨hu, hst'⟩ := h'.ports ht
    exact ⟨hu, fun n => (hst' n).trans (hst n)⟩
  reach := h'.reach.trans h.reach
  gone := h'.gone.trans h.gone
  self := h'.self.trans h.self

theorem State.SamePeers.setPort (s : State) {n : Nat} {p : Port} (h : p.st = (s.port n).st) : s.SamePeers (s.setPort n p) where
  ports hwf := by
    refine ⟨Tbl.set_wf n p hwf, fun m => ?_⟩
    by_cases hm : m = n
    · rw [hm, ← h]
      exact congrArg Port.st (Tbl.get_set_same hwf)
    · exact congrArg Port.st (Tbl.get_set_other hm s.fab.ports)
  reach := rfl
  gone := rfl
  self := rfl

theorem State.samePeers_transmit (s : State) (n : Nat) (k : TxPkt) : s.SamePeers (s.transmit n k) := by
  unfold State.transmit
  have hburst : s.SamePeers (s.burst n).2 := .of_fab (s.burst_fab n)
  rcases hb : s.burst n with ⟨mark, t⟩
  rw [hb] at hburst
  refine (hburst.trans (.setPort t ?_)).trans (.setPort _ (Port.pump_st ..))
  rfl

theorem State.samePeers_request {s t : State} {kind pkt part g len : Nat} {tag : Option Nat} {hdr : List Nat} {data : List Byte} {task : Nat}
    {drift : Option (Nat × Nat × Nat × Bool)} {land : Nat} {sem : Bool}
    (h : s.request kind pkt part g len tag hdr data task drift land sem = .ok t) : s.SamePeers t := by
  unfold State.request at h
  dsimp only at h
  split at h
  · cases h
  · cases h
    split
    · exact ⟨fun hwf => ⟨hwf, fun _ => rfl⟩, rfl, rfl, rfl⟩
    · refine State.SamePeers.trans ?_ (State.samePeers_transmit ..)
      exact ⟨fun hwf => ⟨hwf, fun _ => rfl⟩, rfl, rfl, rfl⟩

theorem State.samePeers_storePiece {s t : State} {a : Acc} {g : Nat} {bs : List Byte} (h : s.storePiece a g bs = .ok t) : s.SamePeers t := by
  unfold State.storePiece at h
  split at h
  · cases h
  · cases h
    exact .of_fab (State.setHost_fab ..)
  · cases h
  · exact State.samePeers_request h
  · (repeat' split at h) <;> cases h
    exact .of_fab (State.lineWrite_fab ..)

theorem State.samePeers_foldl {α β : Type} {f : State × β → α → State × β} (h : ∀ (r : State × β) (a : α), r.1.SamePeers (f r a).1)
    (l : List α) (r : State × β) :
    r.1.SamePeers (l.foldl f r).1 := by
  induction l generalizing r with
  | nil => exact .refl _
  | cons a l ih => exact (h r a).trans (ih _)

theorem State.samePeers_store (s : State) (a : Acc) (g : Nat) (bs : List Byte) : s.SamePeers (s.store a g bs).1 := by
  refine State.samePeers_foldl (fun r c => ?_) _ (s, none)
  split
  · exact .refl _
  · split
    next h => exact State.samePeers_storePiece h
    next => exact .refl _

@[simp] theorem State.formSp_fab (s : State) (w : Nat) : (s.formSp w).fab = s.fab := by
  unfold State.formSp
  split <;> simp

@[simp] theorem State.spWrite_fab (s : State) (p ctx : Nat) (bs : List Byte) : (s.spWrite p ctx bs).fab = s.fab := by simp [State.spWrite]

theorem State.samePeers_storeAt (s : State) (a : Acc) (g : Nat) (bs : List Byte) : s.SamePeers (s.storeAt a g bs).1 := by
  unfold State.storeAt
  split
  · exact .of_fab (s.spWrite_fab ..)
  · exact s.samePeers_store a g bs

theorem State.samePeers_storeAll (s : State) (a : Acc) (l : List (Nat × List Byte)) : s.SamePeers (s.storeAll a l).1 := by
  refine State.samePeers_foldl (fun r c => ?_) l (s, none)
  split
  · exact .refl _
  · exact r.1.samePeers_storeAt a c.1 c.2

theorem State.SamePeers.present {s t : State} (h : s.SamePeers t) (hwf : Tbl.wf {} s.fab.ports = true) (m : Nat) : t.present m = s.present m := by
  obtain ⟨-, hst⟩ := h.ports hwf
  simp only [State.present, State.reaches, State.linked, Port.live, hst, h.reach, h.gone]

end Sys2Proof.Machine
end

section
/-! PROOFS. STEP_BEGIN and STEP_COMMIT (R228 to R231, R236, R279). -/

namespace Sys2Proof.Machine

/-! ### What a command leaves of packets, contexts and groups -/

theorem State.pkt_of_office {s t : State} (h : t.office = s.office) (p : Nat) : t.pkt p = s.pkt p := by
  have hqueues : t.queues = s.queues := (congrArg State.queues h :)
  rw [State.pkt, State.pkt, hqueues]

/-- A packet that one's turn may have changed: it stays but for what it waits for. -/
theorem State.turned_pkt_run {s : State} {q : Nat} {k : Packet} {p q' : Nat} {e : Packet} (h : s.pkt p = some (q', e)) :
    ∃ e', (s.turned q k).pkt p = some (q', e') ∧ e'.run = e.run ∧ e'.ctx = e.ctx ∧ e'.phase = e.phase := by
  obtain ⟨f, hf, hsame⟩ := s.turned_queues q k
  have hid (j : Packet) : (f j).id = j.id := (hsame j).elim (fun hj => by rw [hj]) (fun hj => by rw [hj]; rfl)
  refine ⟨f e, ?_, ?_⟩
  · rw [State.pkt, hf, findPkt_editAll hid, ← State.pkt, h]
    rfl
  · rcases hsame e with he | he <;> rw [he] <;> exact ⟨rfl, rfl, rfl⟩

/-! ### Groups as their step begins -/

/-- The context's group begins the step, in the list of groups. -/
def State.begunGroups (s : State) (c step : Nat) : List Group :=
  match s.groupOf c with
  | none => s.groups
  | some g => s.groups.map (fun x => if x.gid = (g.begin step).gid then g.begin step else x)

theorem State.syncGroup_office (s : State) (g : Group) : (s.syncGroup g).office = s.office := by simp [State.syncGroup]

theorem State.syncBucket_office (s : State) (g : Group) (b : Bucket) : (s.syncBucket g b).office = s.office := by simp [State.syncBucket]

theorem bucketBegin_office (s : State) (g : Group) (b : Bucket) : (bucketBegin s g b).office = s.office := by
  simp [bucketBegin, State.syncBucket_office]

theorem State.putGroup_office (s : State) (g : Group) :
    (s.putGroup g).office = ({ s with groups := s.groups.map (fun x => if x.gid = g.gid then g else x) } : State).office :=
  State.syncGroup_office ..

theorem State.syncBucket_fab (s : State) (g : Group) (b : Bucket) : (s.syncBucket g b).fab = s.fab := by
  simp only [State.syncBucket, State.poke_fab]

theorem bucketBegin_fab (s : State) (g : Group) (b : Bucket) : (bucketBegin s g b).fab = s.fab := by
  simp only [bucketBegin, State.poke_fab, State.syncBucket_fab]

theorem State.putGroup_fab (s : State) (g : Group) : (s.putGroup g).fab = s.fab := by simp [State.putGroup, State.syncGroup]

section Begin
variable (s : State) (g : Group)

theorem State.resetBuckets_office : (g.buckets.foldl (fun t b => bucketBegin t g b) (s.putGroup g)).office =
    ({ s with groups := s.groups.map (fun x => if x.gid = g.gid then g else x) } : State).office := by
  rw [foldl_office _ _ _ fun t b => bucketBegin_office t g b, State.putGroup_office]

theorem State.resetBuckets_fab : (g.buckets.foldl (fun t b => bucketBegin t g b) (s.putGroup g)).fab = s.fab := by
  have hkeeps (f : State → Bucket → State) (hf : ∀ t b, f t b = bucketBegin t g b) : (g.buckets.foldl f (s.putGroup g)).fab = s.fab :=
    (foldl_fab f _ _ fun t b => by rw [hf, bucketBegin_fab]).trans (s.putGroup_fab g)
  exact hkeeps _ fun _ _ => rfl

end Begin

section GroupOf
variable {s : State} {c : Nat} (step : Nat)

theorem State.groupBegin_none (h : s.groupOf c = none) : s.groupBegin c step = s := by simp only [State.groupBegin, h]

theorem State.groupBegin_some {g : Group} (h : s.groupOf c = some g) :
    s.groupBegin c step = (g.begin step).buckets.foldl (fun t b => bucketBegin t (g.begin step) b) (s.putGroup (g.begin step)) := by
  simp only [State.groupBegin, h]

theorem State.begunGroups_none (h : s.groupOf c = none) : s.begunGroups c step = s.groups := by simp only [State.begunGroups, h]

theorem State.begunGroups_some {g : Group} (h : s.groupOf c = some g) :
    s.begunGroups c step = s.groups.map (fun x => if x.gid = (g.begin step).gid then g.begin step else x) := by
  simp only [State.begunGroups, h]

end GroupOf

theorem State.groupBegin_office (s : State) (c step : Nat) :
    (s.groupBegin c step).office = ({ s with groups := s.begunGroups c step } : State).office := by
  cases hg : s.groupOf c with
  | none => rw [State.groupBegin_none step hg, State.begunGroups_none step hg]
  | some g => rw [State.groupBegin_some step hg, State.begunGroups_some step hg, State.resetBuckets_office]

theorem State.groupBegin_fab (s : State) (c step : Nat) : (s.groupBegin c step).fab = s.fab := by
  cases hg : s.groupOf c with
  | none => rw [State.groupBegin_none step hg]
  | some g => rw [State.groupBegin_some step hg, State.resetBuckets_fab]

/-- A list in which what has one's number was replaced by one that is looked for too. -/
theorem find?_replaced {l : List Group} {P : Group → Bool} {g g' : Group} (h : l.find? P = some g) (hgid : g'.gid = g.gid) (hP : P g' = true) :
    (l.map (fun x => if x.gid = g'.gid then g' else x)).find? P = some g' := by
  induction l with
  | nil => cases h
  | cons x l ih =>
    rw [List.map_cons]
    by_cases hx : x.gid = g'.gid
    · rw [if_pos hx, List.find?_cons_of_pos hP]
    · rw [if_neg hx]
      have hne : ¬P x = true := fun hPx => by
        rw [List.find?_cons_of_pos hPx] at h
        cases h
        exact hx hgid.symm
      rw [List.find?_cons_of_neg hne] at h ⊢
      exact ih h

theorem find?_gid_replaced {l : List Group} {g' : Group} (h : ∃ x ∈ l, x.gid = g'.gid) :
    (l.map (fun x => if x.gid = g'.gid then g' else x)).find? (fun x => x.gid == g'.gid) = some g' := by
  induction l with
  | nil => obtain ⟨x, hx, -⟩ := h; cases hx
  | cons x l ih =>
    rw [List.map_cons]
    by_cases hx : x.gid = g'.gid
    · rw [if_pos hx, List.find?_cons_of_pos (by simp)]
    · obtain ⟨y, hy, hgid⟩ := h
      rw [if_neg hx, List.find?_cons_of_neg (by simpa using hx)]
      rcases List.mem_cons.mp hy with rfl | hy
      · exact absurd hgid hx
      · exact ih ⟨y, hy, hgid⟩

theorem State.begunGroups_find {s : State} {c : Nat} (step : Nat) {g : Group} (hg : s.groupOf c = some g) :
    (s.begunGroups c step).find? (fun x => x.ctx == c) = some (g.begin step) ∧
      (s.begunGroups c step).find? (fun x => x.gid == g.gid) = some (g.begin step) := by
  have hctx : (g.begin step).ctx = g.ctx := rfl
  have hgid : (g.begin step).gid = g.gid := rfl
  rw [State.begunGroups_some step hg]
  generalize g.begin step = g' at hctx hgid ⊢
  have hc : (g.ctx == c) = true := List.find?_some (p := fun x : Group => x.ctx == c) hg
  refine ⟨find?_replaced hg hgid (by rw [hctx]; exact hc), ?_⟩
  rw [← hgid]
  exact find?_gid_replaced ⟨g, List.mem_of_find?_eq_some hg, hgid.symm⟩

/-- A group with nothing to commit takes no step towards it. -/
theorem State.readyStep_idle {s : State} {gid : Nat} {g : Group} (hg : s.group gid = some g) (hhold : g.holdCommit = false)
    (hpkts : g.commitPkts = []) : s.readyStep gid = s := by
  simp [State.readyStep, hg, hhold, hpkts]

/-- R284: a step begins in a group all of whose members can be reached, and which has nothing to commit. -/
theorem State.stepBegun_idle {s : State} {c : Nat} (h : ∀ g, s.groupOf c = some g → s.group g.gid = some g ∧ g.holdCommit = false ∧
    g.commitPkts = [] ∧ ∀ m ∈ g.members, m = s.fab.moduleId ∨ s.present m = true) : s.stepBegun c = s := by
  unfold State.stepBegun
  split
  · rfl
  next g hg =>
    obtain ⟨hself, hhold, hpkts, hmembers⟩ := h g hg
    have hsame : ∀ l : List Nat, (∀ k ∈ l, k < g.n) → l.foldl (fun t k =>
        if g.members.getD k 0xFFFF = t.fab.moduleId ∨ t.present (g.members.getD k 0xFFFF) then t
        else (t.departRank g.gid k).resumeRoot g.gid) s = s := by
      intro l hl
      induction l with
      | nil => rfl
      | cons k l ih =>
        have hk : k < g.members.length := hl k List.mem_cons_self
        have hmem : g.members.getD k 0xFFFF ∈ g.members := by
          rw [List.getD_eq_getElem _ _ hk]
          exact List.getElem_mem hk
        rw [List.foldl_cons, if_pos (hmembers _ hmem), ih fun j hj => hl j (List.mem_cons_of_mem _ hj)]
    dsimp only
    rw [hsame _ fun k hk => List.mem_range.mp hk, State.readyStep_idle hself hhold hpkts]

/-! ### The step as STEP_BEGIN opens it -/

/-- R230: the context of a step that begins. -/
def Ctx.begun (x : Ctx) (k : Packet) (av : Option Act) (ents : List Ent) : Ctx :=
  { x with
    seed := field k.params 0 8, step := field k.params 8 4, stepState := .fill, nmb := field k.params 12 2, lpmb := field k.params 14 1,
    lookahead := (field k.params 15 1).testBit 0, act := av, ents, normAddr := field k.params 24 8, normDue := none,
    kStart := (av.map (·.kcur)).getD 0, bwdMet := 0, bwdDone := 0, spillQ := [], fetchQ := [], spilled := [], fwdSeen := [],
    spilledAdd := [], homeAdd := [], localDone := false, readyDone := false }

/-- The step opened, its blocks written. -/
def State.stepOpened (s : State) (k : Packet) (v : Ctx) : State :=
  (((s.setCtx k.ctx v).adoptLookahead k.ctx (field k.params 8 4)).groupBegin k.ctx (field k.params 8 4)).finish k.id stOk none

/-- R236: what becomes of one packet as lookahead lists become forward lists. -/
def Packet.adopted (c step : Nat) (j : Packet) : Packet :=
  if j.ctx == c && j.phase == .started && j.run.role == .lookahead && j.run.step == step then { j with run := { j.run with role := .forward } } else j

section Opened
variable (s : State) (k : Packet) (v : Ctx)

theorem State.stepOpened_ctxs : (s.stepOpened k v).ctxs = Tbl.set {} s.ctxs k.ctx v :=
  (congrArg State.ctxs (State.groupBegin_office ((s.setCtx k.ctx v).adoptLookahead k.ctx (field k.params 8 4)) k.ctx (field k.params 8 4)) :)

theorem State.stepOpened_groups : (s.stepOpened k v).groups = s.begunGroups k.ctx (field k.params 8 4) :=
  (congrArg State.groups (State.groupBegin_office ((s.setCtx k.ctx v).adoptLookahead k.ctx (field k.params 8 4)) k.ctx (field k.params 8 4)) :)

theorem State.stepOpened_fab : (s.stepOpened k v).fab = s.fab :=
  State.groupBegin_fab ((s.setCtx k.ctx v).adoptLookahead k.ctx (field k.params 8 4)) k.ctx (field k.params 8 4)

/-- The packets before STEP_BEGIN itself ends. -/
theorem State.stepBegins_queues : (((s.setCtx k.ctx v).adoptLookahead k.ctx (field k.params 8 4)).groupBegin k.ctx (field k.params 8 4)).queues =
    editAll (Packet.adopted k.ctx (field k.params 8 4)) s.queues :=
  (congrArg State.queues (State.groupBegin_office ((s.setCtx k.ctx v).adoptLookahead k.ctx (field k.params 8 4)) k.ctx (field k.params 8 4)) :)

end Opened

/-- What is known of the state in which a step has been opened. -/
theorem State.stepOpened_ended {s : State} {k j : Packet} {q : Nat} (v : Ctx) (hpkt : s.pkt k.id = some (q, j)) (hphase : j.phase = .started) :
    (s.stepOpened k v).Ended k.id q stOk := by
  have hid (i : Packet) : (i.adopted k.ctx (field k.params 8 4)).id = i.id := by unfold Packet.adopted; split <;> rfl
  have hadopted : (j.adopted k.ctx (field k.params 8 4)).phase = j.phase := by unfold Packet.adopted; split <;> rfl
  refine State.finish_ended (k := j.adopted k.ctx (field k.params 8 4)) ?_ (by rw [hadopted, hphase]; decide)
  rw [State.pkt, State.stepBegins_queues, findPkt_editAll hid, ← State.pkt, hpkt]
  rfl

theorem State.stepOpened_forward {s : State} {k e : Packet} {p q : Nat} (v : Ctx) (hpkt : s.pkt p = some (q, e)) (hctx : e.ctx = k.ctx)
    (hphase : e.phase = .started) (hrole : e.run.role = .lookahead) (hstep : e.run.step = field k.params 8 4) :
    ∃ e', (s.stepOpened k v).pkt p = some (q, e') ∧ e'.run.role = .forward := by
  have hid (i : Packet) : (i.adopted k.ctx (field k.params 8 4)).id = i.id := by unfold Packet.adopted; split <;> rfl
  have hfwd : (e.adopted k.ctx (field k.params 8 4)).run.role = .forward := by simp [Packet.adopted, hctx, hphase, hrole, hstep]
  have hbegun : (((s.setCtx k.ctx v).adoptLookahead k.ctx (field k.params 8 4)).groupBegin k.ctx (field k.params 8 4)).pkt p =
      some (q, e.adopted k.ctx (field k.params 8 4)) := by
    rw [State.pkt, State.stepBegins_queues, findPkt_editAll hid, ← State.pkt, hpkt]
    rfl
  have hfid (i : Packet) (hi : i.id = k.id) : (if i.phase = .finished then i
      else { i with phase := .finished, status := stOk, detail := none, counts := {}, waiting := false }).id = k.id := by split <;> exact hi
  by_cases hp : p = k.id
  · subst hp
    refine ⟨_, (State.modPkt_pkt hfid).trans (by rw [hbegun]; rfl), ?_⟩
    dsimp only
    split <;> exact hfwd
  · exact ⟨_, (State.modPkt_pkt_other hfid hp).trans hbegun, hfwd⟩

theorem State.stepOpened_present {s : State} (k : Packet) (v : Ctx) (m : Nat) : (s.stepOpened k v).present m = s.present m := by
  simp only [State.present, State.reaches, State.linked, State.port, State.stepOpened_fab]

/-- R284: a step that opens in a group all of whose members can be reached, and which has nothing to commit. -/
theorem State.stepOpened_begun {s : State} (k : Packet) (v : Ctx) (h : ∀ g, s.groupOf k.ctx = some g → g.holdCommit = false ∧
    g.commitPkts = [] ∧ ∀ m ∈ g.members, m = s.fab.moduleId ∨ s.present m = true) : (s.stepOpened k v).stepBegun k.ctx = s.stepOpened k v := by
  refine State.stepBegun_idle fun g' hg' => ?_
  rw [State.groupOf, State.stepOpened_groups] at hg'
  rw [State.group, State.stepOpened_groups]
  cases hg : s.groupOf k.ctx with
  | none =>
    rw [State.begunGroups_none _ hg] at hg'
    exact absurd (hg.symm.trans hg') (by simp)
  | some g =>
    obtain ⟨hctx, hgid⟩ := State.begunGroups_find (field k.params 8 4) hg
    obtain ⟨hhold, hpkts, hmembers⟩ := h g hg
    have heq : g.begin (field k.params 8 4) = g' := Option.some.inj (hctx.symm.trans hg')
    have hstays : (g.begin (field k.params 8 4)).holdCommit = false ∧ (g.begin (field k.params 8 4)).commitPkts = g.commitPkts ∧
        (g.begin (field k.params 8 4)).members = g.members ∧ (g.begin (field k.params 8 4)).gid = g.gid :=
      ⟨by simp [Group.begin, hhold], rfl, rfl, rfl⟩
    rw [heq] at hstays hgid
    obtain ⟨hhold', hpkts', hmembers', hgid'⟩ := hstays
    refine ⟨hgid' ▸ hgid, hhold', hpkts'.trans hpkts, fun m hm => ?_⟩
    rw [State.stepOpened_fab, State.stepOpened_present]
    exact hmembers m (hmembers' ▸ hm)

/-! ### STEP_BEGIN -/

/-- What the sequencer does on STEP_BEGIN once it serves it. -/
def State.beginStep (s : State) (q : Nat) (k : Packet) : State :=
  let t := stepBeginRun (s.turned q k) q k
  if (s.ctx k.ctx).stepState ≠ .fill ∧ (t.ctx k.ctx).stepState = .fill then t.stepBegun k.ctx else t

theorem State.beginStep_of_ctx {s : State} {q : Nat} {k : Packet} {t : State} (hrun : stepBeginRun (s.turned q k) q k = t)
    (hctx : t.ctx k.ctx = s.ctx k.ctx) : s.beginStep q k = t := by
  simp only [State.beginStep, hrun]
  rw [if_neg fun ⟨hold, hnew⟩ => hold (by rw [← hctx, hnew])]

theorem exec_stepBegin {s : State} {p q : Nat} {k : Packet} (h : s.started p 0x0202 = some (q, k)) :
    exec (.stepBegin p) s = .next (s.onSequencer k (fun s => s.beginStep q k)) :=
  (answer_of_wf (c := .stepBegin p) rfl _).trans (by rw [h]; rfl)

section Sequencer
variable {s : State} {k : Packet} {run : State → State}

theorem State.onSequencer_reset (h : ∃ e, s.stepEngine k.ctx = some e ∧ s.engineReset e = true) :
    s.onSequencer k run = s.finish k.id stEngineReset none := by
  obtain ⟨e, he, hreset⟩ := h
  rw [State.onSequencer, if_pos (by simp [he, hreset])]

theorem State.onSequencer_replay (h : ∃ e, s.stepEngine k.ctx = some e ∧ s.engineReset e = false ∧ (s.engine e).mode ≠ .service) :
    s.onSequencer k run = s := by
  obtain ⟨e, he, hreset, hmode⟩ := h
  rw [State.onSequencer, if_neg (by simp [he, hreset]), if_neg (by simp [State.stepServes, he, hmode])]

theorem State.onSequencer_serves (h : s.stepServes k.ctx = true) : s.onSequencer k run = run s := by
  have hfree : ¬(s.stepEngine k.ctx).any (fun e => s.engineReset e) = true := by
    rw [State.stepServes] at h
    cases he : s.stepEngine k.ctx with
    | none => simp
    | some e =>
      rw [he] at h
      simp only [Option.all_some, Bool.and_eq_true, Bool.not_eq_true'] at h
      simp [h.2]
  rw [State.onSequencer, if_neg hfree, if_pos h]

end Sequencer

section Judged
variable {u r : State} {q : Nat} {k : Packet}

theorem stepBeginRun_bad {d : Nat}
    (h : u.reading (u.accOf q k) (actBegin u (u.accOf q k) (field k.params 16 8) (field k.params 12 2)) = (.error (.fail stBadDescriptor d), r)) :
    stepBeginRun u q k = r.finishSilent k.id stBadDescriptor (some d) := by
  simp only [stepBeginRun, h, if_true]

theorem stepBeginRun_refused {st : Nat} (hact : field k.params 16 8 = 0) (h : stepRefused (u.ctx k.ctx) (field k.params 8 4) = some st) :
    stepBeginRun u q k = u.finish k.id st none := by
  have hread : u.reading (u.accOf q k) (actBegin u (u.accOf q k) (field k.params 16 8) (field k.params 12 2)) = (.ok ([], none, []), u) := by
    rw [actBegin, if_pos hact]
    rfl
  simp only [stepBeginRun, hread, h]

theorem stepBeginRun_opens {ws : List (Nat × List Byte)} {av : Option Act} {ents : List Ent}
    (h : u.reading (u.accOf q k) (actBegin u (u.accOf q k) (field k.params 16 8) (field k.params 12 2)) = (.ok (ws, av, ents), r))
    (hstep : stepRefused (u.ctx k.ctx) (field k.params 8 4) = none)
    (hstore : ∀ w ∈ ws ++ normBegin (field k.params 24 8) (field k.params 8 4), r.canStore (u.accOf q k) w.1 w.2.length = none) :
    stepBeginRun u q k = ((r.storeAll (u.accOf q k) (ws ++ normBegin (field k.params 24 8) (field k.params 8 4))).1).stepOpened k
      ((u.ctx k.ctx).begun k av ents) := by
  have hfits : (ws ++ normBegin (field k.params 24 8) (field k.params 8 4)).findSome? (fun w => r.canStore (u.accOf q k) w.1 w.2.length) = none :=
    List.findSome?_eq_none_iff.mpr hstore
  simp only [stepBeginRun, h, hstep, hfits]
  rfl

/-- R229: a step is not accepted while another is in FILL. -/
theorem stepRefused_none {x : Ctx} {step : Nat} (h : stepRefused x step = none) : x.stepState ≠ .fill := by
  intro hfill
  simp [stepRefused, hfill] at h

end Judged

theorem State.finishSilent_ctxs (s : State) (p st : Nat) (d : Option Nat) : (s.finishSilent p st d).ctxs = s.ctxs := by
  unfold State.finishSilent
  split <;> rfl

theorem State.turned_eq (s : State) (q : Nat) (k : Packet) : ∃ qs ul, s.turned q k = { s with queues := qs, unitLast := ul } := by
  unfold State.turned
  split
  · exact ⟨_, _, rfl⟩
  · exact ⟨_, _, rfl⟩

theorem State.turned_fab (s : State) (q : Nat) (k : Packet) : (s.turned q k).fab = s.fab := by
  obtain ⟨qs, ul, h⟩ := s.turned_eq q k
  rw [h]

/-- A state in which a step is about to open: what was read and written on the way left packets, contexts, groups and peers. -/
structure State.Opens (s u : State) (q : Nat) (k : Packet) : Prop where
  office : u.office = (s.turned q k).office
  self   : u.fab.moduleId = s.fab.moduleId
  peers  : ∀ m, u.present m = s.present m

theorem State.Opens.ctxs {s u : State} {q : Nat} {k : Packet} (h : s.Opens u q k) : u.ctxs = s.ctxs :=
  (congrArg State.ctxs h.office :).trans (s.turned_ctxs q k)

theorem State.Opens.groups {s u : State} {q : Nat} {k : Packet} (h : s.Opens u q k) : u.groups = s.groups :=
  (congrArg State.groups h.office :).trans (s.turned_groups q k)

theorem State.Opens.storeAll {s r : State} {q : Nat} {k : Packet} {α : Type} {a : Acc} {rd : Rd α} {x : Except Err α} (hcan : s.Canonical)
    (hread : (s.turned q k).reading a rd = (x, r)) (ws : List (Nat × List Byte)) : s.Opens (r.storeAll a ws).1 q k := by
  have hpeers := r.samePeers_storeAll a ws
  have hfab : r.fab = s.fab := by
    have hr : ((s.turned q k).reading a rd).2 = r := congrArg Prod.snd hread
    rw [← hr, State.reading_fab, State.turned_fab]
  have hports : Tbl.wf {} r.fab.ports = true := by rw [hfab]; exact hcan.ports
  refine ⟨(r.storeAll_office a ws).trans (State.reading_office_of hread), by rw [hpeers.self, hfab], fun m => ?_⟩
  rw [hpeers.present hports]
  simp only [State.present, State.reaches, State.linked, State.port, hfab]

/-- R230, R231, R236: STEP_BEGIN opens the step. -/
theorem State.beginStep_opens {s u : State} {q : Nat} {k : Packet} {v : Ctx} (hcan : s.Canonical) (h : s.Opens u q k)
    (hgroup : ∀ g, s.groupOf k.ctx = some g → g.holdCommit = false ∧ g.commitPkts = [] ∧
      ∀ m ∈ g.members, m = s.fab.moduleId ∨ s.present m = true)
    (hrun : stepBeginRun (s.turned q k) q k = u.stepOpened k v) (hold : (s.ctx k.ctx).stepState ≠ .fill) (hfill : v.stepState = .fill) :
    s.beginStep q k = u.stepOpened k v := by
  have hctx : (u.stepOpened k v).ctx k.ctx = v := by
    rw [State.ctx, State.stepOpened_ctxs, h.ctxs]
    exact Tbl.get_set_same hcan.ctxs
  have hidle : (u.stepOpened k v).stepBegun k.ctx = u.stepOpened k v := by
    refine State.stepOpened_begun k v fun g hg => ?_
    rw [State.groupOf, h.groups] at hg
    obtain ⟨hhold, hpkts, hmembers⟩ := hgroup g hg
    exact ⟨hhold, hpkts, fun m hm => by rw [h.self, h.peers]; exact hmembers m hm⟩
  simp only [State.beginStep, hrun]
  rw [if_pos ⟨hold, by rw [hctx, hfill]⟩, hidle]

/-! ### STEP_COMMIT -/

theorem exec_stepCommit {s : State} {p q : Nat} {k : Packet} (h : s.started p 0x0203 = some (q, k)) (hserves : s.stepServes k.ctx = true) :
    exec (.stepCommit p) s = .next (stepCommitRun (s.turned q k) q k) := by
  have hwaiting : k.waiting = false := by
    unfold State.started at h
    split at h
    · split at h
      next hc => cases h; exact hc.2.2.1
      next => cases h
    · cases h
  refine (answer_of_wf (c := .stepCommit p) rfl _).trans ?_
  rw [h]
  dsimp only
  rw [if_neg (by simp [hwaiting]), State.onSequencer_serves hserves]

section Commit
variable {u : State} {q : Nat} {k : Packet}

/-- R279: STEP_COMMIT names the context's group, or none where it has none. -/
def State.NamesGroup (u : State) (k : Packet) : Prop :=
  field k.params 0 2 = ((u.groupOf k.ctx).map (·.gid)).getD 0xFFFF ∧ (field k.params 0 2 = 0xFFFF → u.groupOf k.ctx = none)

theorem State.namesGroup_iff : u.NamesGroup k ↔ ¬(field k.params 0 2 ≠ ((u.groupOf k.ctx).map (·.gid)).getD 0xFFFF ∨
    (field k.params 0 2 = 0xFFFF ∧ (u.groupOf k.ctx).isSome)) := by
  simp [State.NamesGroup]

theorem stepCommitRun_unnamed (h : ¬u.NamesGroup k) : stepCommitRun u q k = u.finish k.id 0x43 none :=
  if_pos (not_not.mp (mt State.namesGroup_iff.mpr h))

theorem stepCommitRun_stale (h : u.NamesGroup k) (hstep : (u.ctx k.ctx).stepState.isOpen = false ∨ field k.params 4 4 ≠ (u.ctx k.ctx).step) :
    stepCommitRun u q k = u.finish k.id stStaleStep none :=
  (if_neg (State.namesGroup_iff.mp h)).trans (if_pos (by simpa using hstep))

variable (h : u.NamesGroup k) (hstep : field k.params 4 4 = (u.ctx k.ctx).step)
include h hstep

theorem stepCommitRun_early (hopen : (u.ctx k.ctx).stepState.isOpen = true) (hstate : (u.ctx k.ctx).stepState ≠ .exchange) :
    stepCommitRun u q k = u.finish k.id 0x4E none :=
  (if_neg (State.namesGroup_iff.mp h)).trans <| (if_neg (by simp [hopen, hstep])).trans (if_pos hstate)

variable (hstate : (u.ctx k.ctx).stepState = .exchange)
include hstate

theorem stepCommitRun_alone (hgroup : u.groupOf k.ctx = none) : stepCommitRun u q k =
    ((u.setCtx k.ctx { u.ctx k.ctx with stepState := .committed }).newK k.ctx).finish k.id stOk none := by
  have hopen : (u.ctx k.ctx).stepState.isOpen = true := by rw [hstate]; rfl
  refine (if_neg (State.namesGroup_iff.mp h)).trans <| (if_neg (by simp [hopen, hstep])).trans <| (if_neg (not_not.mpr hstate)).trans ?_
  rw [hgroup]

theorem stepCommitRun_grouped {g : Group} (hgroup : u.groupOf k.ctx = some g) : stepCommitRun u q k =
    ((u.wait k.id).putGroup { g with commitPkts := g.commitPkts ++ [k.id] }).readyStep g.gid := by
  have hopen : (u.ctx k.ctx).stepState.isOpen = true := by rw [hstate]; rfl
  refine (if_neg (State.namesGroup_iff.mp h)).trans <| (if_neg (by simp [hopen, hstep])).trans <| (if_neg (not_not.mpr hstate)).trans ?_
  rw [hgroup]

end Commit

/-- A member whose module is not ready for its commit waits. -/
theorem State.readyStep_unready {s : State} {g : Group} (hg : s.group g.gid = some g) (hrank : g.rank ≠ 0xFFFF)
    (hready : (g.allPublished && g.allLanded && g.mirrorLanded) = false) : s.readyStep g.gid = s := by
  rw [State.readyStep, hg]
  dsimp only
  rw [if_neg hrank, if_pos]
  revert hready
  cases g.commitPkts.isEmpty <;> cases g.allPublished <;> cases g.allLanded <;> cases g.mirrorLanded <;> simp

theorem State.putGroup_group {s : State} {g : Group} (h : ∃ x ∈ s.groups, x.gid = g.gid) : (s.putGroup g).group g.gid = some g := by
  have hgroups : (s.putGroup g).groups = s.groups.map (fun x => if x.gid = g.gid then g else x) := (congrArg State.groups (s.putGroup_office g) :)
  rw [State.group, hgroups]
  exact find?_gid_replaced h

section NewK
variable (s : State) (c : Nat)

/-- R246: the new prefetch distance stands in the context's activation block and nowhere else. -/
theorem State.newK_ctx (hwf : Tbl.wf {} s.ctxs = true) : ∃ av, (s.newK c).ctx c = { s.ctx c with act := av } := by
  unfold State.newK
  split
  · exact ⟨(s.ctx c).act, rfl⟩
  next a _ => exact ⟨some _, (State.ctx_of_office (State.poke_office ..) c).trans (State.ctx_setCtx hwf c _)⟩

theorem State.newK_ctx_other {x : Nat} (hx : x ≠ c) : (s.newK c).ctx x = s.ctx x := by
  unfold State.newK
  split
  · rfl
  next a _ => exact (State.ctx_of_office (State.poke_office ..) x).trans (State.ctx_setCtx_other s hx _)

theorem State.newK_pkt (p : Nat) : (s.newK c).pkt p = s.pkt p := by
  unfold State.newK
  split
  · rfl
  next a _ => exact State.pkt_of_office (State.poke_office ..) p

theorem State.newK_none (h : s.act c = none) : s.newK c = s := by simp only [State.newK, h]

end NewK

theorem State.kept_of_eq {s : State} {qs : Tbl Queue} {ul : Tbl Nat} {cs : Tbl Ctx} : s.Kept { s with queues := qs, unitLast := ul, ctxs := cs } :=
  ⟨rfl, fun _ => rfl⟩

theorem State.finish_ctx (s : State) (p st : Nat) (d : Option Nat) (x : Nat) : (s.finish p st d).ctx x = s.ctx x := rfl

/-- R279: a context in no group commits its step by itself. -/
theorem State.commitAlone {s : State} {q : Nat} {k : Packet} (hcan : s.Canonical) (hpkt : s.pkt k.id = some (q, k)) (hphase : k.phase = .started) :
    let t := (((s.turned q k).setCtx k.ctx { s.ctx k.ctx with stepState := .committed }).newK k.ctx).finish k.id stOk none
    t.Ended k.id q stOk ∧ { t.ctx k.ctx with act := (s.ctx k.ctx).act } = { s.ctx k.ctx with stepState := .committed } ∧
      (∀ c, c ≠ k.ctx → t.ctx c = s.ctx c) ∧ ((s.ctx k.ctx).act = none → s.Kept t ∧ (t.ctx k.ctx).act = none) := by
  have hwf : Tbl.wf {} (s.turned q k).ctxs = true := by rw [State.turned_ctxs]; exact hcan.ctxs
  have hset := State.ctx_setCtx hwf k.ctx { s.ctx k.ctx with stepState := .committed }
  obtain ⟨qs, ul, hturned⟩ := s.turned_eq q k
  have hown := State.turned_pkt hpkt
  generalize hu : (s.turned q k).setCtx k.ctx { s.ctx k.ctx with stepState := .committed } = u at hset
  have huwf : Tbl.wf {} u.ctxs = true := by rw [← hu]; exact Tbl.set_wf k.ctx _ hwf
  have hupkt : u.pkt k.id = some (q, k.served) := by rw [← hu]; exact hown
  obtain ⟨av, hav⟩ := State.newK_ctx u k.ctx huwf
  refine ⟨State.finish_ended ((State.newK_pkt ..).trans hupkt) (by rw [Packet.served, hphase]; decide), ?_, fun c hc => ?_, fun hact => ?_⟩
  · rw [State.finish_ctx, hav, hset]
  · rw [State.finish_ctx, State.newK_ctx_other u k.ctx hc, ← hu, State.ctx_setCtx_other _ hc, State.turned_ctx]
  · have hidle : u.newK k.ctx = u := State.newK_none u k.ctx (by rw [State.act, hset]; exact hact)
    refine ⟨?_, by rw [State.finish_ctx, hidle, hset]; exact hact⟩
    rw [hidle, ← hu, hturned]
    exact State.kept_of_eq

/-- Settles O46, the sequencer's states first, then each judgement of the two commands. -/
theorem stepsBeginAndCommit : Obligations.StepsBeginAndCommit := by
  unfold Obligations.StepsBeginAndCommit
  refine ⟨fun p q k s h hcan => ?_, fun p q k s h hcan hserves => ?_⟩
  · obtain ⟨hpkt, hphase⟩ := State.started_pkt h
    have hctx := s.turned_ctx q k k.ctx
    have hacc : (s.turned q k).accOf q k = s.accOf q k := State.turned_accOf k
    rw [exec_stepBegin h]
    dsimp only
    generalize hread : (s.turned q k).reading _ _ = rd
    obtain ⟨y, r⟩ := rd
    rw [← hacc] at hread
    refine ⟨fun hreset => congrArg _ (State.onSequencer_reset hreset),
      fun hreplay => congrArg _ (State.onSequencer_replay hreplay), fun hserves => ?_⟩
    rw [State.onSequencer_serves hserves]
    refine ⟨fun st hact hst => ?_, fun d hy => ?_, fun hgroup ws av ents hy hst hstore => ?_⟩
    · rw [State.beginStep_of_ctx (stepBeginRun_refused hact (by rw [hctx, hst])) (by rw [State.finish_ctx, hctx])]
    · cases hy
      have hr : r.ctx k.ctx = s.ctx k.ctx := (State.ctx_of_office (State.reading_office_of hread) k.ctx).trans hctx
      rw [State.beginStep_of_ctx (stepBeginRun_bad hread) (by rw [State.ctx, State.finishSilent_ctxs, ← State.ctx, hr])]
    · cases hy
      have hopens := State.Opens.storeAll hcan hread (a := (s.turned q k).accOf q k) (ws ++ normBegin (field k.params 24 8) (field k.params 8 4))
      have hrun := stepBeginRun_opens hread (by rw [hctx]; exact hst) (by rw [hacc]; exact hstore)
      rw [State.beginStep_opens hcan hopens hgroup hrun (stepRefused_none hst) rfl, hctx]
      generalize (r.storeAll _ _).1 = u at hopens ⊢
      have hupkt (p : Nat) : u.pkt p = (s.turned q k).pkt p := State.pkt_of_office hopens.office p
      refine ⟨_, rfl, State.stepOpened_ended _ ((hupkt _).trans (State.turned_pkt hpkt)) hphase, ?_, fun c hc => ?_, ?_, fun g hg => ?_⟩
      · rw [State.ctx, State.stepOpened_ctxs, hopens.ctxs]
        exact Tbl.get_set_same hcan.ctxs
      · rw [State.ctx, State.stepOpened_ctxs, hopens.ctxs]
        exact Tbl.get_set_other hc s.ctxs
      · intro p' q' e he hectx hephase herole hestep
        obtain ⟨e', he', hrun', hctx', hphase'⟩ := State.turned_pkt_run (q := q) (k := k) he
        exact State.stepOpened_forward _ ((hupkt p').trans he') (hctx'.trans hectx) (hphase'.trans hephase)
          (by rw [hrun', herole]) (by rw [hrun', hestep])
      · have hug : u.groupOf k.ctx = some g := by rw [State.groupOf, hopens.groups]; exact hg
        rw [State.stepOpened_groups]
        exact List.mem_of_find?_eq_some (State.begunGroups_find _ hug).1
  · obtain ⟨hpkt, hphase⟩ := State.started_pkt h
    have hctx := s.turned_ctx q k k.ctx
    have hgroups := s.turned_groups q k
    have hof : (s.turned q k).groupOf k.ctx = s.groupOf k.ctx := by rw [State.groupOf, State.groupOf, hgroups]
    rw [exec_stepCommit h hserves]
    have hnames : (s.turned q k).NamesGroup k ↔ (field k.params 0 2 = ((s.groupOf k.ctx).map (·.gid)).getD 0xFFFF ∧
        (field k.params 0 2 = 0xFFFF → s.groupOf k.ctx = none)) := by rw [State.NamesGroup, hof]
    refine ⟨fun hnot => ?_, fun hn hstale => ?_, fun hn hopen hstep hstate => ?_, fun hn hstep hstate hnone => ?_,
      fun g hn hstep hstate hg hself hrank hready => ?_⟩
    · rw [stepCommitRun_unnamed (mt hnames.mp hnot)]
    · rw [stepCommitRun_stale (hnames.mpr hn) (by rw [hctx]; exact hstale)]
    · rw [stepCommitRun_early (hnames.mpr hn) (by rw [hctx]; exact hstep) (by rw [hctx]; exact hopen) (by rw [hctx]; exact hstate)]
    · rw [stepCommitRun_alone (hnames.mpr hn) (by rw [hctx]; exact hstep) (by rw [hctx]; exact hstate) (hof.trans hnone), hctx]
      exact ⟨_, rfl, State.commitAlone hcan hpkt hphase⟩
    · rw [stepCommitRun_grouped (hnames.mpr hn) (by rw [hctx]; exact hstep) (by rw [hctx]; exact hstate) (hof.trans hg)]
      have hmem : g ∈ ((s.turned q k).wait k.id).groups := by
        rw [show ((s.turned q k).wait k.id).groups = (s.turned q k).groups from rfl, hgroups]
        exact List.mem_of_find?_eq_some hself
      exact congrArg _ (State.readyStep_unready (g := { g with commitPkts := g.commitPkts ++ [k.id] })
        (State.putGroup_group ⟨g, hmem, rfl⟩) hrank hready)

end Sys2Proof.Machine
end

section
/-! PROOFS. Bytes of a memory as they are written: whole words and parts of clean ones, and the first touch of a unit (R322 to R326). -/

namespace Sys2Proof.Machine

/-! ### Bytes of a memory -/

/-- Every word of a memory is clean, and its tables are canonical. -/
structure Mem.Sound (m : Mem) : Prop where
  clean   : ∀ w, verdict (m.ckAt w) = .clean
  cells   : Tbl.wf 0#8 m.cells = true
  ck      : Tbl.wf 0#16 m.ck = true
  touched : Tbl.wf false m.touched = true

/-- What the byte at a place reads as: zero in a unit that no write has touched (R326). -/
def Mem.value (m : Mem) (p : Nat) : Byte := if Tbl.get false m.touched (unitOf p) then m.raw p else 0#8

/-- A byte of a run of bytes from place `p` on, or another one. -/
def patch (p : Nat) (bs : List Byte) (old : Nat → Byte) (x : Nat) : Byte := if p ≤ x ∧ x < p + bs.length then bs.getD (x - p) 0#8 else old x

theorem patch_nil (p : Nat) (old : Nat → Byte) : patch p [] old = old := by
  funext x
  exact if_neg (by simp)

theorem patch_append (p : Nat) (bs cs : List Byte) (old : Nat → Byte) :
    patch (p + bs.length) cs (patch p bs old) = patch p (bs ++ cs) old := by
  funext x
  unfold patch
  rw [List.length_append]
  by_cases hlow : x < p
  · rw [if_neg (by omega), if_neg (by omega), if_neg (by omega)]
  · by_cases hmid : x < p + bs.length
    · rw [if_neg (by omega), if_pos (by omega), if_pos (by omega), List.getD_append _ _ _ _ (by omega)]
    · by_cases hhigh : x < p + (bs.length + cs.length)
      · rw [if_pos (by omega), if_pos (by omega), List.getD_append_right _ _ _ _ (by omega)]
        congr 1
        omega
      · rw [if_neg (by omega), if_neg (by omega), if_neg (by omega)]

theorem Mem.setRaw_ck (m : Mem) (p : Nat) (bs : List Byte) : (m.setRaw p bs).ck = m.ck := by
  induction bs generalizing m p with
  | nil => rfl
  | cons b bs ih => exact ih _ _

theorem Mem.setRaw_touched (m : Mem) (p : Nat) (bs : List Byte) : (m.setRaw p bs).touched = m.touched := by
  induction bs generalizing m p with
  | nil => rfl
  | cons b bs ih => exact ih _ _

theorem Mem.setRaw_cells_wf {m : Mem} (h : Tbl.wf 0#8 m.cells = true) (p : Nat) (bs : List Byte) : Tbl.wf 0#8 (m.setRaw p bs).cells = true := by
  induction bs generalizing m p with
  | nil => exact h
  | cons b bs ih => exact ih (m := { m with cells := Tbl.set 0#8 m.cells p b }) (Tbl.set_wf p b h) (p + 1)

theorem Mem.setRaw_raw {m : Mem} (h : Tbl.wf 0#8 m.cells = true) (p : Nat) (bs : List Byte) : (m.setRaw p bs).raw = patch p bs m.raw := by
  induction bs generalizing m p with
  | nil => exact (patch_nil p m.raw).symm
  | cons b bs ih =>
    have hone : ({ m with cells := Tbl.set 0#8 m.cells p b } : Mem).raw = patch p [b] m.raw := by
      funext x
      by_cases hx : x = p
      · subst hx
        exact (Tbl.get_set_same h).trans (by simp [patch])
      · exact (Tbl.get_set_other hx m.cells).trans (if_neg (by simp; omega)).symm
    rw [Mem.setRaw, ih (m := { m with cells := Tbl.set 0#8 m.cells p b }) (Tbl.set_wf p b h), hone]
    exact patch_append p [b] bs m.raw

theorem Mem.Sound.repair {m : Mem} (h : m.Sound) (w : Nat) : m.repair w = m := by
  rw [Mem.repair, h.clean]

/-- R323: a write into a clean word leaves it clean, and changes the bytes written. -/
theorem Mem.Sound.writeWord_eq {m : Mem} (h : m.Sound) (p : Nat) (bs : List Byte) : m.writeWord p bs = (m.setRaw p bs).setCk (p / 16) 0#16 := by
  have hmerges : m.merges p bs = false := by simp [Mem.merges, h.clean]
  rw [Mem.writeWord, if_neg (by simp [hmerges]), h.repair]

theorem Mem.Sound.writeWord {m : Mem} (h : m.Sound) (p : Nat) (bs : List Byte) : (m.writeWord p bs).Sound := by
  rw [h.writeWord_eq]
  refine ⟨fun w => ?_, Mem.setRaw_cells_wf h.cells p bs, Tbl.set_wf _ _ (by rw [Mem.setRaw_ck]; exact h.ck), ?_⟩
  · by_cases hw : w = p / 16
    · rw [hw, Mem.ckAt, Mem.setCk, Tbl.get_set_same (by rw [Mem.setRaw_ck]; exact h.ck)]
      decide
    · rw [Mem.ckAt, Mem.setCk, Tbl.get_set_other hw, Mem.setRaw_ck]
      exact h.clean w
  · exact (congrArg (fun t => Tbl.wf false t) (Mem.setRaw_touched m p bs)).trans h.touched

theorem Mem.Sound.writeWord_value {m : Mem} (h : m.Sound) {p : Nat} {bs : List Byte}
    (htouched : ∀ x, p ≤ x → x < p + bs.length → Tbl.get false m.touched (unitOf x) = true) : (m.writeWord p bs).value = patch p bs m.value := by
  funext x
  have hraw : ((m.setRaw p bs).setCk (p / 16) 0#16).raw x = patch p bs m.raw x := congrFun (Mem.setRaw_raw h.cells p bs) x
  have htouch : ((m.setRaw p bs).setCk (p / 16) 0#16).touched = m.touched := Mem.setRaw_touched m p bs
  rw [h.writeWord_eq, Mem.value, htouch, hraw]
  unfold patch
  by_cases hx : p ≤ x ∧ x < p + bs.length
  · rw [if_pos hx, if_pos hx, if_pos (htouched x hx.1 hx.2)]
  · rw [if_neg hx, if_neg hx, Mem.value]

theorem Mem.Sound.touch {m : Mem} (h : m.Sound) (u : Nat) : (m.touch u).Sound := by
  unfold Mem.touch
  split
  · exact h
  · refine ⟨fun w => ?_, Tbl.filter_wf h.cells, Tbl.filter_wf h.ck, Tbl.set_wf _ _ (Tbl.filter_wf h.touched)⟩
    have hck : Tbl.get 0#16 (m.ck.filter (fun c => !(c.1 / 256 == u))) w = if !(w / 256 == u) then m.ckAt w else 0#16 :=
      Tbl.get_filter (fun n => !(n / 256 == u)) w m.ck
    show verdict (Tbl.get 0#16 (m.ck.filter (fun c => !(c.1 / 256 == u))) w) = .clean
    rw [hck]
    split
    · exact h.clean w
    · decide

theorem Mem.Sound.touch_touched {m : Mem} (h : m.Sound) (u x : Nat) : Tbl.get false (m.touch u).touched x = (decide (x = u) || Tbl.get false m.touched x) := by
  unfold Mem.touch
  by_cases hu : Tbl.get false m.touched u = true
  · rw [if_pos hu]
    by_cases hx : x = u
    · simp [hx, hu]
    · simp [hx]
  · rw [if_neg hu]
    have hfilter : Tbl.get false (m.touched.filter (fun c => !(c.1 == u))) x = if !(x == u) then Tbl.get false m.touched x else false :=
      Tbl.get_filter (fun n => !(n == u)) x m.touched
    by_cases hx : x = u
    · subst hx
      exact (Tbl.get_set_same (Tbl.filter_wf (f := fun c => !(c.1 == x)) h.touched)).trans (by simp)
    · exact (Tbl.get_set_other hx _).trans (hfilter.trans (by simp [hx]))

/-- R326: the first touch of a unit is not seen by those that read it. -/
theorem Mem.Sound.touch_value {m : Mem} (h : m.Sound) (u : Nat) : (m.touch u).value = m.value := by
  funext x
  rw [Mem.value, h.touch_touched, Mem.value]
  unfold Mem.touch
  by_cases hu : Tbl.get false m.touched u = true
  · rw [if_pos hu]
    by_cases hx : unitOf x = u
    · simp [hx, hu]
    · simp [hx]
  · rw [if_neg hu]
    have hraw : Mem.raw { m.forget (fun k => k == u) with touched := Tbl.set false (m.forget (fun k => k == u)).touched u true } x =
        if !(x / 4096 == u) then m.raw x else 0#8 := Tbl.get_filter (fun n => !(n / 4096 == u)) x m.cells
    by_cases hx : unitOf x = u
    · have hunit : (x / 4096 == u) = true := by simpa [unitOf] using hx
      simp [hraw, hunit, hx, hu]
    · have hunit : (x / 4096 == u) = false := by simpa [unitOf] using hx
      simp [hraw, hunit, hx]

end Sys2Proof.Machine
end

section
/-! PROOFS. A write into memory that holds nothing but data: the bytes written change, and no error is met (R298, R322, R335). -/

namespace Sys2Proof.Machine

/-- Memory holds nothing but data, and the tables of bytes are canonical. -/
structure State.Even (s : State) : Prop where
  disarmed : s.ecc.armed = false
  mem      : s.mem.Sound
  host     : Tbl.wf 0#8 s.host = true
  locks    : s.locks = []
  chans    : ∀ c, (s.chan c).retire ≠ 3 ∧ (s.chan c).empty = []
  copies   : s.copies = []
  active   : s.power.st = .active

theorem State.Even.of_plain {s : State} (hcan : s.Canonical) (h : s.Plain) : s.Even := by
  have hmem : Tbl.wf 0#8 s.mem.cells = true ∧ Tbl.wf 0#16 s.mem.ck = true ∧ Tbl.wf false s.mem.touched = true := by
    simpa [Mem.wf, and_assoc] using hcan.mem
  obtain ⟨hcells, hck, htouched⟩ := hmem
  exact ⟨h.disarmed, ⟨fun w => (h.clean w).1, hcells, hck, htouched⟩, hcan.host, h.locks, h.chans, h.copies.1, h.active⟩

/-- What a write into such memory changes of the module. -/
def State.rewritten (s : State) (cs : Tbl (List Line)) (sk : List (Nat × BitVec 16)) (m : Mem) (word : Option Nat) : State :=
  { s with caches := cs, copies := [], stackCk := sk, mem := m, ecc := { s.ecc with injWord := word } }

/-- From `s` to `t`, such a write was made, after which memory reads so. -/
def State.Rewrote (s t : State) (value : Nat → Byte) : Prop :=
  ∃ cs sk m word, t = s.rewritten cs sk m word ∧ m.Sound ∧ m.value = value

section Even
variable {s : State} (h : s.Even)
include h

theorem State.Even.rewritten {m : Mem} (hm : m.Sound) (cs : Tbl (List Line)) (sk : List (Nat × BitVec 16)) (word : Option Nat) :
    (s.rewritten cs sk m word).Even := ⟨h.disarmed, hm, h.host, h.locks, h.chans, rfl, h.active⟩

theorem State.Even.rewrote_refl : s.Rewrote s s.mem.value := by
  refine ⟨s.caches, s.stackCk, s.mem, s.ecc.injWord, ?_, h.mem, rfl⟩
  rw [State.rewritten, ← h.copies]

theorem State.Even.memByte (p : Nat) : s.memByte p = some (s.mem.value p) := by
  obtain ⟨hretire, hempty⟩ := h.chans (chanOf p)
  have hlost : s.chanLost p = false := by simp [State.chanLost, hretire]
  have hlock : s.lockAt p = none := by rw [State.lockAt, h.locks]; rfl
  rw [State.memByte, if_neg (by simp [hlost]), hlock, h.copies, Mem.value]
  dsimp only [List.find?_nil]
  by_cases htouched : Tbl.get false s.mem.touched (Machine.unitOf p) = true
  · rw [if_pos htouched, if_pos htouched, Mem.byte, h.mem.clean]
  · rw [if_neg htouched, if_neg htouched, if_neg (by simp [Chan.isEmpty, hempty])]

/-! ### Nothing else comes of a write -/

variable (w : Log)

theorem State.Even.aimed (cls index : Nat) : s.aimed cls index = false := by simp [State.aimed, h.disarmed]

theorem State.Even.inject (cls index word addr ctx : Nat) : w.inject s cls index word addr ctx = s := by
  rw [Log.inject, if_pos (by simp [h.aimed])]

theorem State.Even.arrayWrite (word ctx : Nat) : w.arrayWrite s word ctx = s := h.inject w ..

theorem State.Even.outWord (word : Nat) : w.outWord s word = s := by
  unfold Log.outWord
  dsimp only
  rw [h.mem.clean]

theorem State.Even.wordRead (word ctx eflags : Nat) : w.wordRead s word ctx eflags = s := by
  obtain ⟨hretire, hempty⟩ := h.chans (chanOf (16 * word))
  unfold Log.wordRead
  dsimp only
  rw [if_neg (by simp [State.chanLost, hretire])]
  split
  · rw [if_neg (by simp [Chan.isEmpty, hempty])]
  · rw [h.mem.clean]

theorem State.Even.fillLine (p ctx : Nat) : w.fillLine s p ctx = s := List.foldl_fixed' (fun _ => h.wordRead w ..) _

theorem State.Even.dropBad (p n ctx : Nat) : w.dropBad s p n ctx = s := by rw [Log.dropBad, if_pos (by simp [h.copies])]

theorem State.Even.stackUsed (p : Nat) : s.stackUsed p = s := by
  rw [State.stackUsed, if_neg (by simp [h.active])]

theorem State.Even.injectCache (p ctx : Nat) : w.injectCache s p ctx true = s := by
  unfold Log.injectCache
  dsimp only
  rw [if_pos rfl, h.inject]

theorem State.Even.writeBack (line : Nat) : w.writeBack s line = (s.dropCopies line).modLine (line * 128) (fun l => { l with dirty := false }) := by
  have hu : ((s.dropCopies line).modLine (line * 128) (fun l => { l with dirty := false })).Even :=
    ⟨h.disarmed, h.mem, h.host, h.locks, h.chans, (by simp [State.modLine, State.dropCopies, h.copies]), h.active⟩
  refine List.foldl_fixed' (fun i => ?_) _
  dsimp only
  rw [hu.outWord, hu.arrayWrite, State.keepCopy, if_pos ⟨rfl, rfl⟩]

end Even

/-! ### The steps of a write of part of a line -/

/-- What only the caches and the codes under their dirty lines show. -/
theorem State.Rewrote.lines {s t : State} {value : Nat → Byte} (hw : s.Rewrote t value) (cs : Tbl (List Line)) (copies : List (Nat × List Byte × BitVec 16))
    (sk : List (Nat × BitVec 16)) (hcopies : copies = []) : s.Rewrote { t with caches := cs, copies := copies, stackCk := sk } value := by
  obtain ⟨-, -, m, word, rfl, hm, hv⟩ := hw
  exact ⟨cs, sk, m, word, by rw [hcopies]; rfl, hm, hv⟩

section Steps
variable {s t : State} {value : Nat → Byte} (h : s.Even)
include h

theorem State.Even.of_rewrote (hw : s.Rewrote t value) : t.Even := by
  obtain ⟨cs, sk, m, word, rfl, hm, -⟩ := hw
  exact h.rewritten hm ..

theorem State.Even.cacheLine (w : Log) (part p : Nat) (alloc : Bool) : s.Rewrote (w.cacheLine s part p alloc).2 s.mem.value := by
  have hself := h.rewrote_refl
  unfold Log.cacheLine
  dsimp only
  split
  · exact hself.lines _ _ _ h.copies
  · split
    · exact hself
    · split
      · exact hself.lines _ _ _ h.copies
      · split
        · exact hself
        next v _ =>
          dsimp only
          have hnew := hself.lines (Tbl.set [] s.caches (cacheKey p) ({ line := p / 128, way := v.way, dirty := false } ::
            (Tbl.get [] s.caches (cacheKey p)).filter (fun l => l.line != v.line))) s.copies s.stackCk h.copies
          split
          · rw [(h.of_rewrote hnew).writeBack w]
            exact hnew.lines _ _ _ (by simp [State.dropCopies, h.copies])
          · exact hnew.lines _ _ _ (by simp [h.copies])

theorem State.Even.touchUnit (hw : s.Rewrote t value) (p : Nat) : s.Rewrote (t.touchUnit p) value ∧
    Tbl.get false (t.touchUnit p).mem.touched (Machine.unitOf p) = true := by
  have ht := h.of_rewrote hw
  unfold State.touchUnit
  dsimp only
  split
  next hbit => exact ⟨hw, hbit⟩
  next =>
    rw [if_pos (by rw [(ht.chans (chanOf p)).2]; rfl)]
    refine ⟨?_, (ht.mem.touch_touched ..).trans (by simp)⟩
    obtain ⟨cs, sk, m, word, rfl, hm, hv⟩ := hw
    exact ⟨cs, sk, m.touch (Machine.unitOf p), word, rfl, hm.touch _, (hm.touch_value _).trans hv⟩

theorem State.Even.soilLine (w : Log) (hw : s.Rewrote t value) (p n ctx : Nat) :
    s.Rewrote (w.soilLine t p n ctx) value ∧ (w.soilLine t p n ctx).mem = t.mem := by
  have ht := h.of_rewrote hw
  unfold Log.soilLine
  split
  · exact ⟨hw, rfl⟩
  · simp only [ht.dropBad, ite_self]
    split
    · exact ⟨hw, rfl⟩
    · dsimp only
      simp only [ht.copies, List.filter_nil, List.foldl_nil]
      exact ⟨hw.lines _ _ _ rfl, trivial⟩

end Steps

end Sys2Proof.Machine
end

section
/-! PROOFS. A store into module or host memory that holds nothing but data: the bytes stored stand where they were to stand, and every
other byte is as it was (R288 to R295, R322). -/

namespace Sys2Proof.Machine

/-! ### A write of bytes of one line -/

section Write
variable {s t : State} {value : Nat → Byte} (h : s.Even) (hw : s.Rewrote t value) {p : Nat} {bs : List Byte}
include h hw

theorem State.Even.putWord (htouched : ∀ x, p ≤ x → x < p + bs.length → Tbl.get false t.mem.touched (Machine.unitOf x) = true) :
    s.Rewrote (t.putWord p bs) (patch p bs value) ∧ (t.putWord p bs).mem.touched = t.mem.touched := by
  have ht := h.of_rewrote hw
  have hkeep : (t.mem.writeWord p bs).touched = t.mem.touched := by
    rw [ht.mem.writeWord_eq]
    exact Mem.setRaw_touched ..
  have hvalue := ht.mem.writeWord_value htouched
  have hsound := ht.mem.writeWord p bs
  obtain ⟨cs, sk, m, word, rfl, hm, hv⟩ := hw
  have hpatch : (m.writeWord p bs).value = patch p bs value := hvalue.trans (by rw [← hv]; rfl)
  unfold State.putWord State.unexempt
  dsimp only
  split
  · split
    · exact ⟨⟨cs, sk, m.writeWord p bs, none, rfl, hsound, hpatch⟩, hkeep⟩
    · exact ⟨⟨cs, sk, m.writeWord p bs, word, rfl, hsound, hpatch⟩, hkeep⟩
  · exact ⟨⟨cs, sk, m.writeWord p bs, word, rfl, hsound, hpatch⟩, hkeep⟩

theorem State.Even.wordWrite (w : Log) (ctx : Nat) : w.wordWrite t p ctx bs = t.putWord p bs := by
  have ht := h.of_rewrote hw
  unfold Log.wordWrite
  dsimp only
  rw [ht.mem.clean]
  split <;> rfl

end Write

theorem State.Even.wordWrites {s : State} (h : s.Even) (w : Log) (ctx : Nat) : ∀ (f p : Nat) (bs : List Byte) {t : State} {value : Nat → Byte},
    s.Rewrote t value → bs.length + p % 16 ≤ 16 * f → (∀ x, p ≤ x → x < p + bs.length → Tbl.get false t.mem.touched (Machine.unitOf x) = true) →
    s.Rewrote ((cutWords f p bs).foldl (fun t c => w.wordWrite t c.1 ctx c.2) t) (patch p bs value) := by
  intro f
  induction f with
  | zero =>
    intro p bs t value hw hlen _
    have hnil : bs = [] := List.eq_nil_of_length_eq_zero (by omega)
    rw [hnil, patch_nil]
    exact hw
  | succ f ih =>
    intro p bs t value hw hlen htouched
    rw [cutWords]
    by_cases hnil : bs = []
    · rw [hnil, patch_nil]
      exact hw
    · have htake : (bs.take (16 - p % 16)).length ≤ bs.length := by simp
      obtain ⟨hfirst, hkeep⟩ := h.putWord hw (p := p) (bs := bs.take (16 - p % 16)) fun x hlo hhi => htouched x hlo (by omega)
      rw [if_neg (by simpa using hnil), List.foldl_cons]
      dsimp only
      rw [h.wordWrite hw]
      by_cases hlong : bs.length ≤ 16 - p % 16
      · have hall : bs.take (16 - p % 16) = bs := List.take_of_length_le hlong
        have hrest : bs.drop (16 - p % 16) = [] := List.drop_of_length_le hlong
        rw [hall] at hfirst
        have hend := ih (p + (16 - p % 16)) [] (t := t.putWord p bs) hfirst (by simp; omega) (by simp; omega)
        rw [hrest, hall]
        rwa [patch_nil] at hend
      · have hk : (bs.take (16 - p % 16)).length = 16 - p % 16 := by simp; omega
        have hend := ih (p + (16 - p % 16)) (bs.drop (16 - p % 16)) hfirst (by rw [List.length_drop]; omega) fun x hlo hhi => by
          rw [hkeep]
          rw [List.length_drop] at hhi
          exact htouched x (by omega) (by omega)
        have happend := patch_append p (bs.take (16 - p % 16)) (bs.drop (16 - p % 16)) value
        rw [hk, List.take_append_drop] at happend
        rwa [happend] at hend

/-- R298: a write of bytes that lie in one line. -/
theorem State.Even.lineWrite {s : State} (h : s.Even) (part ctx : Nat) {p : Nat} (nc : Bool) {bs : List Byte} (hline : p % 128 + bs.length ≤ 128) :
    s.Rewrote (s.lineWrite part ctx p nc bs) (patch p bs s.mem.value) := by
  have hcached := h.cacheLine records part p (!nc)
  unfold State.lineWrite Log.lineWrite
  rw [h.stackUsed]
  rcases hc : records.cacheLine s part p (!nc) with ⟨c, t⟩
  rw [hc] at hcached
  obtain ⟨htouch, hbit⟩ := h.touchUnit hcached p
  dsimp only at htouch hbit ⊢
  generalize t.touchUnit p = t1 at htouch hbit ⊢
  rw [(h.of_rewrote htouch).fillLine, ite_self]
  have hsoiled : ∃ t2, (if c.isSome = true then (records.soilLine t1 p bs.length ctx).modLine p (fun l => { l with dirty := true }) else t1) = t2 ∧
      s.Rewrote t2 s.mem.value ∧ t2.mem = t1.mem := by
    refine ⟨_, rfl, ?_⟩
    obtain ⟨hsoil, hmem⟩ := h.soilLine records htouch p bs.length ctx
    split
    · exact ⟨hsoil.lines _ _ _ (h.of_rewrote hsoil).copies, hmem⟩
    · exact ⟨htouch, rfl⟩
  obtain ⟨t2, ht2, hsoil, hmem⟩ := hsoiled
  rw [ht2]
  have hwritten := h.wordWrites records ctx 10 p bs hsoil (by omega) fun x hlo hhi => by
    have hunit : Machine.unitOf x = Machine.unitOf p := by
      unfold Machine.unitOf
      omega
    rw [hunit, hmem, hbit]
  generalize (cutWords 10 p bs).foldl (fun t c => records.wordWrite t c.1 ctx c.2) t2 = t3 at hwritten ⊢
  have ht3 := h.of_rewrote hwritten
  split
  · exact hwritten
  · split
    · rw [ht3.injectCache]
      exact hwritten
    · rw [List.foldl_fixed' (fun _ => ht3.arrayWrite records ..)]
      exact hwritten

/-! ### The places of one granule -/

theorem bitsOf_ne_nil {n x : Nat} (hx : x ≠ 0) (hlt : x < 2 ^ n) : bitsOf n x ≠ [] := by
  obtain ⟨i, hi⟩ := Nat.exists_testBit_of_ne_zero hx
  have hin : i < n := by
    by_contra hge
    have hzero := Nat.testBit_eq_false_of_lt (Nat.lt_of_lt_of_le hlt (Nat.pow_le_pow_right (by decide) (Nat.le_of_not_lt hge)))
    rw [hi] at hzero
    cases hzero
  exact List.ne_nil_of_mem (List.mem_filter.mpr ⟨List.mem_range.mpr hin, hi⟩)

theorem popCount_ne_zero {n x : Nat} (hlt : x < 2 ^ n) : popCount n x ≠ 0 ↔ x ≠ 0 := by
  unfold popCount
  refine ⟨fun h hx => h (by simp [hx]), fun hx => ?_⟩
  rw [if_neg hx]
  split
  · omega
  · exact fun hlen => bitsOf_ne_nil hx hlt (List.eq_nil_of_length_eq_zero hlen)

/-- R295: a partition that may hold a die-local window has its channels on 1, 2, 4 or 8 dies. -/
theorem diesOf_of_splitOk {mask : Nat} (h : splitOk mask = true) : ∃ k, k ≤ 3 ∧ diesOf mask = 2 ^ k := by
  simp only [splitOk, Bool.and_eq_true, decide_eq_true_eq] at h
  obtain ⟨⟨⟨-, hpow⟩, -⟩, -⟩ := h
  have hcounts : (((List.range 8).map (fun d => popCount 64 (fld mask (64 * d) 64))).filter (· != 0)).length = diesOf mask := by
    rw [List.filter_map, List.length_map, diesOf]
    congr 1
    refine List.filter_congr fun d _ => ?_
    have hlt : fld mask (64 * d) 64 < 2 ^ 64 := Nat.mod_lt _ (by decide)
    rw [Function.comp, Bool.eq_iff_iff]
    simpa using popCount_ne_zero hlt
  rw [hcounts] at hpow
  have hle : diesOf mask ≤ 8 := (List.length_filter_le ..).trans (by simp)
  refine ⟨Nat.log2 (diesOf mask), ?_, hpow.symm⟩
  by_contra hbig
  have hlarge : 2 ^ 4 ≤ 2 ^ Nat.log2 (diesOf mask) := Nat.pow_le_pow_right (by decide) (by omega)
  omega

/-- A window of whole granules takes in a granule or nothing of it. -/
theorem Region.holds_run {r : Region} (hlaid : r.valid = true → r.base % 2 ^ r.size = 0 ∧ 20 ≤ r.size) (part : Nat) {off i : Nat}
    (hi : off % 256 + i < 256) : r.holds part (off + i) = r.holds part off := by
  unfold Region.holds
  cases hvalid : r.valid with
  | false => rfl
  | true =>
    obtain ⟨hbase, hsize⟩ := hlaid hvalid
    have hgran : 2 ^ r.size = 256 * 2 ^ (r.size - 8) := by
      rw [show (256 : Nat) = 2 ^ 8 from rfl, ← Nat.pow_add]
      congr 1
      omega
    obtain ⟨b, hb⟩ := Nat.dvd_of_mod_eq_zero hbase
    rw [hgran, Nat.mul_assoc] at hb
    generalize 2 ^ (r.size - 8) * b = B at hb
    generalize 2 ^ (r.size - 8) = W at hgran
    rw [hgran, hb]
    have hlow : (256 * B ≤ off + i) ↔ 256 * B ≤ off := by omega
    have hhigh : (off + i < 256 * B + 256 * W) ↔ off < 256 * B + 256 * W := by omega
    simp only [hlow, hhigh]

/-- Where a granule stands in a window of parts of whole granules. -/
theorem granule_split {W G x : Nat} (hx : x < 256) :
    (256 * G + x) / (256 * W) = G / W ∧ (256 * G + x - G / W * (256 * W)) / 256 = G - G / W * W := by
  refine ⟨?_, ?_⟩
  · rw [← Nat.div_div_eq_div_mul]
    congr 1
    omega
  · have hle := Nat.div_mul_le_self G W
    have hmul : G / W * (256 * W) = 256 * (G / W * W) := by ring
    rw [hmul]
    generalize G / W * W = t at hle ⊢
    omega

/-- R294, R295: bytes of one granule stand side by side. -/
theorem State.place_run {s : State} (h : s.Laid) (part : Nat) {off i : Nat} (hi : off % 256 + i < 256) : s.place part (off + i) = s.place part off + i := by
  have hmod : (off + i) % 256 = off % 256 + i := by omega
  have hdiv : (off + i) / 256 = off / 256 := by omega
  have hfind : (s.regions.map Prod.snd).find? (fun r => r.dieLocal && r.holds part (off + i)) =
      (s.regions.map Prod.snd).find? (fun r => r.dieLocal && r.holds part off) := by
    refine List.find?_congr fun r hr => ?_
    obtain ⟨e, he, rfl⟩ := List.mem_map.mp hr
    rw [Region.holds_run (fun hv => ⟨(h.regions e he hv).1, (h.regions e he hv).2.1⟩) part hi]
  unfold State.place
  dsimp only
  rw [hfind, hmod, hdiv]
  cases hr : (s.regions.map Prod.snd).find? (fun r => r.dieLocal && r.holds part off) with
  | none =>
    exact (Nat.add_assoc ..).symm
  | some r =>
    dsimp only
    obtain ⟨e, he, rfl⟩ := List.mem_map.mp (List.mem_of_find?_eq_some hr)
    have hholds := List.find?_some hr
    simp only [Region.holds, Bool.and_eq_true, decide_eq_true_eq] at hholds
    obtain ⟨hlocal, ⟨⟨hvalid, hpart⟩, hlow⟩, -⟩ := hholds
    obtain ⟨hbase, hsize, hsplit⟩ := h.regions e he hvalid
    obtain ⟨k, hk, hdies⟩ := diesOf_of_splitOk (hsplit hlocal)
    rw [hpart] at hdies
    have hdie : max 1 (diesOf (s.part part).chans) = 2 ^ k := by rw [hdies]; exact Nat.max_eq_right Nat.one_le_two_pow
    have hpow : 2 ^ e.2.size / 2 ^ k = 256 * 2 ^ (e.2.size - k - 8) := by
      rw [Nat.pow_div (by omega) (by decide), show (256 : Nat) = 2 ^ 8 from rfl, ← Nat.pow_add]
      congr 1
      omega
    obtain ⟨B, hB⟩ : 256 ∣ e.2.base :=
      (show 256 ∣ 2 ^ e.2.size from (pow_dvd_pow 2 (by omega : 8 ≤ e.2.size))).trans (Nat.dvd_of_mod_eq_zero hbase)
    have hrel : off - e.2.base = 256 * (off / 256 - B) + off % 256 := by omega
    have hrel' : off + i - e.2.base = 256 * (off / 256 - B) + (off % 256 + i) := by omega
    obtain ⟨hidx, hgran⟩ := granule_split (W := 2 ^ (e.2.size - k - 8)) (G := off / 256 - B) (x := off % 256) (Nat.mod_lt _ (by decide))
    obtain ⟨hidx', hgran'⟩ := granule_split (W := 2 ^ (e.2.size - k - 8)) (G := off / 256 - B) (x := off % 256 + i) hi
    rw [hdie, hpow, hrel, hrel', hidx, hidx', hgran, hgran']
    exact (Nat.add_assoc ..).symm

/-! ### Bytes stored -/

/-- From `s` to `t`, bytes of memory were written and nothing else of the module changed but what its caches hold. -/
def State.Overwrote (s t : State) : Prop := ∃ cs sk m word host, t = { s.rewritten cs sk m word with host := host }

theorem State.Overwrote.trans {s t u : State} (h : s.Overwrote t) (h' : t.Overwrote u) : s.Overwrote u := by
  obtain ⟨_, _, _, _, _, rfl⟩ := h
  obtain ⟨cs, sk, m, word, host, rfl⟩ := h'
  exact ⟨cs, sk, m, word, host, rfl⟩

theorem State.Overwrote.spot {s t : State} (h : s.Overwrote t) (a : Acc) (g : Nat) : t.spot a g = s.spot a g := by
  obtain ⟨_, _, _, _, _, rfl⟩ := h
  rfl

theorem State.Overwrote.laid {s t : State} (h : s.Overwrote t) (hlaid : s.Laid) : t.Laid := by
  obtain ⟨_, _, _, _, _, rfl⟩ := h
  exact ⟨hlaid.regions, hlaid.windows⟩

theorem State.Overwrote.groups {s t : State} (h : s.Overwrote t) : t.groups = s.groups := by
  obtain ⟨_, _, _, _, _, rfl⟩ := h
  rfl

/-- A run of bytes of host memory, or of module memory, written. -/
theorem State.Stored.of_patch {s t : State} {a : Acc} {g p : Nat} {bs : List Byte} {b : Bool} {old : Nat → Byte}
    (hspot : ∀ i, i < bs.length → s.spot a (g + i) = some (b, p + i)) (hold : ∀ x, s.byteAt (b, x) = some (old x))
    (hnew : ∀ x, t.byteAt (b, x) = some (patch p bs old x)) (hother : ∀ x, t.byteAt (!b, x) = s.byteAt (!b, x)) : s.Stored t a g bs := by
  refine ⟨fun i hi w hw => ?_, fun w hw => ?_⟩
  · rw [hspot i hi] at hw
    cases hw
    rw [hnew, patch, if_pos (by omega), Nat.add_sub_cancel_left]
  · obtain ⟨c, x⟩ := w
    by_cases hc : c = b
    · subst hc
      rw [hnew, hold, patch, if_neg]
      rintro ⟨hlo, hhi⟩
      exact hw (x - p) (by omega) ((hspot _ (by omega)).trans (by rw [Nat.add_sub_cancel' hlo]))
    · have hnot : c = !b := by cases c <;> cases b <;> simp_all
      rw [hnot, hother]

/-- Two stores one behind the other. -/
theorem State.Stored.append {s t u : State} {a : Acc} {g : Nat} {bs cs : List Byte} (h : s.Stored t a g bs)
    (h' : t.Stored u a (g + bs.length) cs) (hspot : ∀ g, t.spot a g = s.spot a g)
    (hapart : ∀ i j, i < bs.length + cs.length → j < bs.length + cs.length → s.spot a (g + i) = s.spot a (g + j) →
      s.spot a (g + i) ≠ none → i = j) : s.Stored u a g (bs ++ cs) := by
  obtain ⟨hin, hout⟩ := h
  obtain ⟨hin', hout'⟩ := h'
  simp only [hspot] at hin' hout'
  refine ⟨fun i hi w hw => ?_, fun w hw => ?_⟩
  · rw [List.length_append] at hi
    by_cases hfirst : i < bs.length
    · rw [List.getD_append _ _ _ _ hfirst, ← hin i hfirst w hw]
      refine hout' w fun j hj hsame => ?_
      rw [Nat.add_assoc] at hsame
      have hij := hapart i (bs.length + j) hi (by omega) (hw.trans hsame.symm) (by rw [hw]; exact Option.some_ne_none w)
      omega
    · rw [List.getD_append_right _ _ _ _ (by omega)]
      exact hin' (i - bs.length) (by omega) w (by rw [Nat.add_assoc, Nat.add_sub_cancel' (by omega)]; exact hw)
  · rw [List.length_append] at hw
    rw [hout' w fun j hj => by rw [Nat.add_assoc]; exact hw (bs.length + j) (by omega), hout w fun i hi => hw i (by omega)]

theorem State.setHost_eq (s : State) (a : Nat) (bs : List Byte) (hwf : Tbl.wf 0#8 s.host = true) :
    ∃ host, s.setHost a bs = { s with host } ∧ Tbl.wf 0#8 host = true := by
  induction bs generalizing s a with
  | nil => exact ⟨s.host, rfl, hwf⟩
  | cons b bs ih => exact ih { s with host := Tbl.set 0#8 s.host a b } (a + 1) (Tbl.set_wf a b hwf)

theorem State.setHost_byte {s : State} (hwf : Tbl.wf 0#8 s.host = true) (a : Nat) (bs : List Byte) (x : Nat) :
    (s.setHost a bs).hostByte x = patch a bs s.hostByte x := by
  unfold patch
  by_cases hx : a ≤ x ∧ x < a + bs.length
  · have hholds := State.setHost_holds hwf a bs (x - a) (by omega)
    rwa [Nat.add_sub_cancel' hx.1, ← if_pos (c := a ≤ x ∧ x < a + bs.length) (t := bs.getD (x - a) 0#8) (e := s.hostByte x) hx] at hholds
  · rw [if_neg hx, State.hostByte_setHost_other s (by omega)]

/-- R288, R292: where module memory is reached, it is reached without leave for the tables too. -/
theorem State.resolveLocal_mem {s : State} {a : Acc} {g off p : Nat} {nc : Bool} (h : s.resolveLocal a g off = .ok (.mem p nc)) :
    p = s.place a.part off ∧ s.resolveLocal { a with tables := false } g off = .ok (.mem p nc) := by
  unfold State.resolveLocal at h ⊢
  dsimp only at h ⊢
  by_cases hhigh : 2 ^ 40 ≤ off
  · rw [if_pos hhigh] at h
    (repeat' split at h) <;> cases h
  · rw [if_neg hhigh] at h ⊢
    refine ⟨?_, h⟩
    split at h
    · cases h
    · split at h <;> cases h
      rfl

/-- Where a byte stands that an access reaches, and how a store reaches it. -/
theorem State.spot_cases {s : State} {a : Acc} {g : Nat} (h : s.spot a g ≠ none) :
    (g >>> 48 = 0xFFFF ∧ s.spot a g = some (true, g % 2 ^ 48) ∧ s.resolve { a with tables := false } g = .ok (.host (g % 2 ^ 48))) ∨
      (g >>> 48 ≠ 0xFFFF ∧ s.spot a g = some (false, s.place a.part (g % 2 ^ 48)) ∧
        ∃ nc, s.resolve { a with tables := false } g = .ok (.mem (s.place a.part (g % 2 ^ 48)) nc)) := by
  unfold State.spot at h ⊢
  unfold State.resolve at h ⊢
  dsimp only at h ⊢
  generalize g % 2 ^ 48 = off at h ⊢
  by_cases hhost : g >>> 48 = 0xFFFF
  · simp only [if_pos hhost] at h ⊢
    by_cases hallowed : a.host = true
    · simp only [if_pos hallowed]
      exact .inl ⟨hhost, trivial, trivial⟩
    · simp only [if_neg hallowed] at h
      exact absurd rfl h
  · simp only [if_neg hhost] at h ⊢
    refine .inr ⟨hhost, ?_⟩
    by_cases hreserved : 0xFFF0 ≤ g >>> 48 ∧ g >>> 48 ≠ s.fab.moduleId
    · simp only [if_pos hreserved] at h
      exact absurd rfl h
    · by_cases hfar : 2 ^ 41 ≤ off
      · simp only [if_neg hreserved, if_pos hfar] at h
        exact absurd rfl h
      · by_cases hpeer : g >>> 48 ≠ s.fab.moduleId
        · simp only [if_neg hreserved, if_neg hfar, if_pos hpeer] at h
          exact absurd rfl h
        · simp only [if_neg hreserved, if_neg hfar, if_neg hpeer] at h ⊢
          split at h
          next hr => exact absurd hr State.resolveLocal_ne_host
          next p nc hr =>
            obtain ⟨hp, hplain⟩ := State.resolveLocal_mem hr
            rw [← hp]
            exact ⟨rfl, nc, hplain⟩
          next => exact absurd rfl h

theorem State.place_mod (s : State) (part off : Nat) : s.place part off % 256 = off % 256 := by
  have hsum (ch u : Nat) : (ch * 2 ^ 31 + u * 256 + off % 256) % 256 = off % 256 := by omega
  exact hsum _ _

/-- The bytes of a piece stand side by side, all in host memory or all in module memory. -/
theorem State.spot_run {s : State} (hlaid : s.Laid) {a : Acc} {g n : Nat} (hn : 0 < n) (hline : g % 128 + n ≤ 128)
    (hreach : ∀ i, i < n → s.spot a (g + i) ≠ none) :
    ∃ b p, (∀ i, i < n → s.spot a (g + i) = some (b, p + i)) ∧
      ((b = true ∧ s.resolve { a with tables := false } g = .ok (.host p)) ∨
        (b = false ∧ p % 128 + n ≤ 128 ∧ ∃ nc, s.resolve { a with tables := false } g = .ok (.mem p nc))) := by
  have hid (i : Nat) (hi : i < n) : (g + i) >>> 48 = g >>> 48 := by
    rw [Nat.shiftRight_eq_div_pow, Nat.shiftRight_eq_div_pow]
    omega
  have hoff (i : Nat) (hi : i < n) : (g + i) % 2 ^ 48 = g % 2 ^ 48 + i := by omega
  rcases State.spot_cases (by simpa using hreach 0 hn) with ⟨hhost, -, hres⟩ | ⟨hlocal, -, nc, hres⟩
  · refine ⟨true, g % 2 ^ 48, fun i hi => ?_, .inl ⟨rfl, hres⟩⟩
    rcases State.spot_cases (hreach i hi) with ⟨-, hspot, -⟩ | ⟨hnot, -⟩
    · rw [hspot, hoff i hi]
    · exact absurd ((hid i hi).trans hhost) hnot
  · have hplace := s.place_mod a.part (g % 2 ^ 48)
    refine ⟨false, s.place a.part (g % 2 ^ 48), fun i hi => ?_, .inr ⟨rfl, by omega, nc, hres⟩⟩
    rcases State.spot_cases (hreach i hi) with ⟨hhost, -⟩ | ⟨-, hspot, -⟩
    · exact absurd ((hid i hi).symm.trans hhost) hlocal
    · rw [hspot, hoff i hi, State.place_run hlaid a.part (by omega)]

/-- R288 to R295: a store of bytes of one line. -/
theorem State.storePiece_stored {s : State} (h : s.Even) (hlaid : s.Laid) (hgroups : s.groups = []) {a : Acc} {g : Nat} {bs : List Byte}
    (hn : 0 < bs.length) (hline : g % 128 + bs.length ≤ 128) (hreach : ∀ i, i < bs.length → s.spot a (g + i) ≠ none) :
    ∃ t, s.storePiece a g bs = .ok t ∧ s.Stored t a g bs ∧ s.Overwrote t ∧ t.Even := by
  obtain ⟨b, p, hspot, hplace⟩ := State.spot_run hlaid hn hline hreach
  rcases hplace with ⟨rfl, hres⟩ | ⟨rfl, hpline, nc, hres⟩
  · obtain ⟨host, heq, hwf⟩ := State.setHost_eq s p bs h.host
    refine ⟨s.setHost p bs, by rw [State.storePiece, hres], .of_patch hspot (old := s.hostByte) (fun _ => rfl) (fun x => ?_) (fun x => ?_), ?_, ?_⟩
    · exact congrArg some (State.setHost_byte h.host p bs x)
    · rw [heq]
      rfl
    · refine ⟨s.caches, s.stackCk, s.mem, s.ecc.injWord, host, ?_⟩
      rw [heq, State.rewritten, ← h.copies]
    · rw [heq]
      exact ⟨h.disarmed, h.mem, hwf, h.locks, h.chans, h.copies, h.active⟩
  · have hlock : (List.range bs.length).find? (fun i => (s.lockAt (p + i)).isSome) = none := by
      refine List.find?_eq_none.mpr fun i _ => ?_
      rw [State.lockAt, h.locks]
      simp
    have hwrite := h.lineWrite a.part a.ctx nc hpline
    have heven := h.of_rewrote hwrite
    refine ⟨s.lineWrite a.part a.ctx p nc bs, ?_, .of_patch hspot (old := s.mem.value) h.memByte (fun x => ?_) (fun x => ?_), ?_, heven⟩
    · have hslot : s.inSlotSpace a.part (g % 2 ^ 48) = false := by rw [State.inSlotSpace, hgroups]; rfl
      have hlost : s.chanLost p = false := by simp [State.chanLost, (h.chans (chanOf p)).1]
      rw [State.storePiece, hres]
      dsimp only
      rw [if_neg (by rw [hslot]; exact Bool.false_ne_true), if_neg (by simp [hlost]), hlock]
    · refine (heven.memByte x).trans ?_
      obtain ⟨_, _, _, _, heq, -, hv⟩ := hwrite
      rw [heq]
      exact congrArg some (congrFun hv x)
    · obtain ⟨_, _, _, _, heq, -, -⟩ := hwrite
      rw [heq]
      rfl
    · obtain ⟨cs, sk, m, word, heq, -, -⟩ := hwrite
      exact ⟨cs, sk, m, word, s.host, heq⟩

/-- What one piece of a store adds to what the pieces before it made. -/
def storeStep (a : Acc) (g : Nat) (bs : List Byte) (r : State × Option Err) (c : Nat × Nat) : State × Option Err :=
  match r.2 with
  | some _ => r
  | none => match r.1.storePiece a c.1 ((bs.drop (c.1 - g)).take c.2) with
    | .ok t => (t, none)
    | .error e => (r.1, some e)

/-- The pieces from offset `d` on of a store, each in the line where it stands. -/
theorem State.storeSteps_stored {a : Acc} {g : Nat} {bs : List Byte} : ∀ (f d : Nat) {s : State}, s.Even → s.Laid → s.groups = [] → d ≤ bs.length →
    s.Reaches a g bs.length → (bs.length - d = 0 ∨ bs.length - d + (g + d) % 128 ≤ 128 * f) →
    ∃ t, (cutLines f (g + d) (bs.length - d)).foldl (storeStep a g bs) (s, none) = (t, none) ∧ s.Stored t a (g + d) (bs.drop d) ∧
      s.Overwrote t := by
  intro f
  induction f with
  | zero =>
    intro d s h hlaid hgroups hd hreach hfuel
    have hend : bs.drop d = [] := List.drop_of_length_le (by omega)
    refine ⟨s, rfl, ?_, s.caches, s.stackCk, s.mem, s.ecc.injWord, s.host, by rw [State.rewritten, ← h.copies]⟩
    rw [hend]
    exact ⟨fun i hi => absurd hi (Nat.not_lt_zero i), fun _ _ => rfl⟩
  | succ f ih =>
    intro d s h hlaid hgroups hd hreach hfuel
    rw [cutLines]
    by_cases hdone : bs.length - d = 0
    · have hend : bs.drop d = [] := List.drop_of_length_le (by omega)
      refine ⟨s, by rw [if_pos hdone]; rfl, ?_, s.caches, s.stackCk, s.mem, s.ecc.injWord, s.host, by rw [State.rewritten, ← h.copies]⟩
      rw [hend]
      exact ⟨fun i hi => absurd hi (Nat.not_lt_zero i), fun _ _ => rfl⟩
    · rw [if_neg hdone]
      dsimp only
      generalize hk : min (bs.length - d) (128 - (g + d) % 128) = k
      have hpiece : ((bs.drop d).take k).length = k := by
        rw [List.length_take, List.length_drop]
        omega
      obtain ⟨t, hstep, hstored, hover, ht⟩ := State.storePiece_stored h hlaid hgroups (a := a) (g := g + d) (bs := (bs.drop d).take k)
        (by omega) (by omega) fun i hi => by
          rw [Nat.add_assoc]
          exact hreach.there (d + i) (by omega)
      obtain ⟨u, hrest, hstored', hover'⟩ := ih (d + k) ht (hover.laid hlaid) (hover.groups.trans hgroups) (by omega)
        ⟨fun i hi => by rw [hover.spot]; exact hreach.there i hi, fun i j hi hj => by rw [hover.spot, hover.spot]; exact hreach.apart i j hi hj⟩
        (by omega)
      refine ⟨u, ?_, ?_, hover.trans hover'⟩
      · have hfirst : storeStep a g bs (s, none) (g + d, k) = (t, none) := by
          simp only [storeStep, Nat.add_sub_cancel_left, hstep]
        rw [List.foldl_cons, hfirst, Nat.sub_sub, Nat.add_assoc]
        exact hrest
      · have hboth : (bs.drop d).take k ++ bs.drop (d + k) = bs.drop d := by rw [← List.drop_drop, List.take_append_drop]
        rw [← hboth]
        refine State.Stored.append hstored ?_ (hover.spot a) fun i j hi hj hij _ => ?_
        · rw [hpiece, Nat.add_assoc]
          exact hstored'
        · rw [Nat.add_assoc, Nat.add_assoc] at hij
          rw [hpiece, List.length_drop] at hi hj
          have := hreach.apart (d + i) (d + j) (by omega) (by omega) hij
          omega

/-- R21, R288 to R295: a store of bytes all of which the access reaches is made. -/
theorem State.store_stored {s : State} (h : s.Even) (hlaid : s.Laid) (hgroups : s.groups = []) {a : Acc} {g : Nat} {bs : List Byte}
    (hreach : s.Reaches a g bs.length) : ∃ t, s.store a g bs = (t, none) ∧ s.Stored t a g bs ∧ s.Overwrote t := by
  have hall := State.storeSteps_stored (bs.length / 128 + 2) 0 h hlaid hgroups (Nat.zero_le _) hreach (.inr (by omega))
  rwa [Nat.add_zero, Nat.sub_zero, List.drop_zero] at hall

end Sys2Proof.Machine
end

section
/-! PROOFS. Answers from peers: replies, and the reports of bulk operations (R352, R356, R424). -/

namespace Sys2Proof.Machine

theorem State.taken_reqs (s : State) (n : Nat) (via : Via) (v flits : Nat) : (s.taken n via v flits).fab.reqs = s.fab.reqs :=
  (congrArg Fabric.reqs (s.taken_besidesPorts n via v flits) :)

/-! ### Requests that are outstanding no more -/

/-- The state with no request outstanding. -/
def State.requestless (s : State) : State := { s with fab := { s.fab with reqs := [] } }

theorem State.issueNext_of_no_reqs {s : State} (h : s.fab.reqs = []) (n : Nat) : s.issueNext n = s := by
  simp [State.issueNext, State.outstanding, h]

theorem State.dropReq_only {s : State} {r : Req} (h : s.fab.reqs = [r]) : s.dropReq r = s.requestless := by
  have hall : s.fab.reqs.filter (fun x => x.tag == r.tag && x.kind == r.kind && x.dest == r.dest) = [r] := by simp [h]
  have hnone : s.fab.reqs.filter (fun x => !(x.tag == r.tag && x.kind == r.kind && x.dest == r.dest)) = [] := by simp [h]
  rw [State.dropReq, State.dropReqs, hall, hnone]
  exact State.issueNext_of_no_reqs (s := s.requestless) rfl r.port

/-- The only request outstanding fails: the MEM_ATOMIC that it was made for ends so, and but for a PULL nothing else changes (R356). -/
theorem State.failReq_atomic {s : State} {r : Req} {q : Nat} {k : Packet} (hreqs : s.fab.reqs = [r]) (hlow : r.pkt < 2 ^ 60)
    (hpkt : s.pkt r.pkt = some (q, k)) (hphase : k.phase = .started) (hop : k.opcode = 0x0301) (st d : Nat) :
    ∃ t : State, s.failReq r st d = t.finish r.pkt st (some d) ∧ t.fab.reqs = [] ∧ t.office = s.office ∧
      (r.kind ≠ 3 → t = s.requestless) := by
  have hid := (State.mem_allPkts_of_pkt hpkt).1
  have h62 : ¬2 ^ 62 ≤ r.pkt := by omega
  have h60 : ¬(2 ^ 60 ≤ r.pkt ∧ r.pkt < 2 ^ 61) := by omega
  have h61 : ¬2 ^ 61 ≤ r.pkt := by omega
  have hfail (f : Fabric) : ({ s with fab := f } : State).failPkt r st d = ({ s with fab := f } : State).finish r.pkt st (some d) := by
    have hpkt' : ({ s with fab := f } : State).pkt r.pkt = some (q, k) := hpkt
    rw [State.failPkt, hpkt']
    simp [hphase, hop, opTasklist, isMover, hid]
  rw [State.failReq, State.dropReq_only hreqs]
  simp only [if_neg h62, if_neg h60, if_neg h61]
  by_cases hkind : r.kind = 3
  · rw [if_pos hkind]
    exact ⟨_, hfail _, rfl, rfl, fun hne => absurd hkind hne⟩
  · rw [if_neg hkind]
    exact ⟨_, hfail _, rfl, rfl, fun _ => rfl⟩

/-! ### Replies (R352, R356) -/

section Reply
variable {s : State} {h : MemHdr} {r : Req} {st rkind v d : Nat} {data : List Byte}

theorem respIn_unasked (hnone : ∀ r ∈ s.fab.reqs, ¬(r.tag = h.tag ∧ r.kind = rkind ∧ r.queued = none ∧ (r.dest = h.src ∨ st = stFabricUnreachable))) :
    respIn s h st rkind v d data = s := by
  have hfind : s.fab.reqs.find? (fun r => r.tag == h.tag && r.kind == rkind && r.queued.isNone && (r.dest == h.src || st == stFabricUnreachable))
      = none := by
    rw [List.find?_eq_none]
    intro r hr hall
    simp only [Bool.and_eq_true, Bool.or_eq_true, beq_iff_eq, Option.isNone_iff_eq_none] at hall
    obtain ⟨⟨⟨htag, hkind⟩, hqueued⟩, hdest⟩ := hall
    exact hnone r hr ⟨htag, hkind, hqueued, hdest⟩
  rw [respIn, hfind]

variable (hreqs : s.fab.reqs = [r]) (htag : r.tag = h.tag) (hqueued : r.queued = none) (hdest : r.dest = h.src)
include hreqs htag hqueued hdest

theorem respIn_found :
    s.fab.reqs.find? (fun x => x.tag == h.tag && x.kind == r.kind && x.queued.isNone && (x.dest == h.src || st == stFabricUnreachable)) = some r := by
  simp [hreqs, htag, hqueued, hdest]

theorem respIn_read (hkind : r.kind = 0) (hst : succeeded st = true)
    (hlist : r.task ≠ 0 ∨ ∀ e, s.pkt r.pkt = some e → e.2.opcode ≠ opTasklist) :
    respIn s h st r.kind v d data =
      { s.requestless with fab := { s.requestless.fab with landed := s.requestless.fab.landed ++ [(r.pkt, r.task, r.addr, data)] } } := by
  have hsettle : ¬(r.task = 0 ∧ ((s.pkt r.pkt).any (fun e => e.2.opcode == opTasklist && e.2.run.begun)) = true) := by
    rintro ⟨htask, hany⟩
    obtain hne | hne := hlist
    · exact hne htask
    · cases hp : s.pkt r.pkt with
      | none => simp [hp] at hany
      | some e => simp [hp, hne e hp] at hany
  rw [respIn, respIn_found hreqs htag hqueued hdest]
  simp only [hkind, hst, Bool.not_true, Bool.false_eq_true, if_false, if_true, State.dropReq_only hreqs]
  exact if_neg hsettle

theorem respIn_write (hkind : r.kind = 1) (hst : succeeded st = true) : respIn s h st r.kind v d data = s.requestless := by
  rw [respIn, respIn_found hreqs htag hqueued hdest]
  simp [hkind, hst, State.dropReq_only hreqs]

theorem respIn_atomic {q : Nat} {k : Packet} (hkind : r.kind = 2) (hst : succeeded st = true) (hdrift : r.drift = none)
    (hpkt : s.pkt r.pkt = some (q, k)) (hop : k.opcode = 0x0301) (hphase : k.phase = .started) (hwait : k.waiting = true) :
    let c := (atomicOp (field k.params 24 1) (field k.params 25 1) v (field k.params 8 8)).2
    respIn s h st r.kind v d data = s.requestless.atomicEnd q k v (okStatus c) c := by
  have hpkt' : s.requestless.pkt r.pkt = some (q, k) := hpkt
  rw [respIn, respIn_found hreqs htag hqueued hdest]
  simp [hkind, hst, State.dropReq_only hreqs, State.driftReply, hdrift, hpkt', hop, hphase, hwait]

theorem respIn_failed {q : Nat} {k : Packet} (hkind : r.kind = 2) (hst : succeeded st = false) (hlow : r.pkt < 2 ^ 60)
    (hpkt : s.pkt r.pkt = some (q, k)) (hop : k.opcode = 0x0301) (hphase : k.phase = .started) :
    respIn s h st r.kind v d data = s.requestless.finish r.pkt st (some d) := by
  obtain ⟨t, hfail, -, -, hplain⟩ := State.failReq_atomic hreqs hlow hpkt hphase hop st d
  have hne : r.kind ≠ 3 := by rw [hkind]; decide
  rw [respIn, respIn_found hreqs htag hqueued hdest, ← hplain hne, ← hfail]
  simp [hst]

end Reply

/-- A packet that its port accepts acts on what taking it leaves, and the port reports. -/
theorem answer_received {i : Instr} {s : State} {n v flits : Nat} {via : Via} {act : State → State} (hwf : i.wf = true) (h : s.Accepts n via) :
    answer i (s.received n via v flits act) = .next ((act (s.taken n via v flits)).report n) := by
  rw [answer_of_wf hwf, State.received_accepts h]

/-! ### A bulk operation ends (R352) -/

theorem State.allPkts_of_office {s t : State} (h : t.office = s.office) : t.allPkts = s.allPkts := by
  have hqueues : t.queues = s.queues := (congrArg State.queues h :)
  rw [State.allPkts, State.allPkts, hqueues]

theorem State.engine_of_office {s t : State} (h : t.office = s.office) (e : Nat) : t.engine e = s.engine e := by
  have hengines : t.engines = s.engines := (congrArg State.engines h :)
  rw [State.engine, State.engine, hengines]

section Reported
variable {s : State} {h : MemHdr} {q : Nat} {k : Packet}

theorem find_of_only {α : Type} {l : List α} {p : α → Bool} {x : α} (hx : x ∈ l) (hp : p x = true) (hall : ∀ y ∈ l, p y = true → y = x) :
    l.find? p = some x := by
  cases hf : l.find? p with
  | none => exact absurd hp (by simpa using List.find?_eq_none.mp hf x hx)
  | some y => rw [hall y (List.mem_of_find?_eq_some hf) (List.find?_some hf)]

variable (hpkt : s.pkt k.id = some (q, k)) (hphase : k.phase = .started) (hwait : k.waiting = true) (htag : k.tag = h.tag)
  (hdest : k.bulkDest = h.src)
  (honly : ∀ r ∈ s.allPkts, r.2.phase = .started → r.2.waiting = true → r.2.planes ≠ [] → r.2.tag = h.tag → r = (q, k))
include hpkt hphase hwait htag hdest honly

theorem bulkDone_found (hplanes : k.planes ≠ []) :
    s.allPkts.find? (fun r => r.2.phase == .started && r.2.waiting && !r.2.planes.isEmpty && r.2.tag == h.tag && r.2.bulkDest == h.src)
      = some (q, k) := by
  refine find_of_only (State.mem_allPkts_of_pkt hpkt).2 (by simp [hphase, hwait, htag, hdest, hplanes]) fun y hy hall => ?_
  simp only [Bool.and_eq_true, beq_iff_eq, Bool.not_eq_true', List.isEmpty_eq_false_iff] at hall
  obtain ⟨⟨⟨⟨hstarted, hwaits⟩, hp⟩, ht⟩, -⟩ := hall
  exact honly y hy hstarted hwaits hp ht

theorem bulkDoneIn_last {st d : Nat} (hplanes : k.planes = [h.port]) (hst : succeeded st = true) :
    bulkDoneIn s h st d = ((s.modPkt k.id (fun p => { p with planes := [] })).moverMoved k).moverFree k := by
  have hfind := bulkDone_found hpkt hphase hwait htag hdest honly (by simp [hplanes])
  rw [bulkDoneIn, hfind]
  simp [hst, hplanes, State.moverDone]

theorem bulkDoneIn_more {st d x : Nat} {r : List Nat} (hplanes : k.planes = h.port :: x :: r) (hst : succeeded st = true) :
    bulkDoneIn s h st d = s.modPkt k.id (fun p => { p with planes := x :: r }) := by
  have hfind := bulkDone_found hpkt hphase hwait htag hdest honly (by simp [hplanes])
  rw [bulkDoneIn, hfind]
  simp [hst, hplanes]

theorem bulkDoneIn_failed {st d : Nat} (hplanes : k.planes ≠ []) (hst : succeeded st = false) (hdata : st ≠ stMemUncorrectable) :
    bulkDoneIn s h st d = (s.finish k.id st (some d)).moverFree k := by
  have hfind := bulkDone_found hpkt hphase hwait htag hdest honly hplanes
  rw [bulkDoneIn, hfind]
  simp [hst, State.moverErr, hdata, State.moverFree]

end Reported

/-! ### A stream mover's packet that has moved all its bytes (R424) -/

/-- Only its packet and its engine change. -/
theorem State.moverMoved_besides (s : State) (k : Packet) : { s.moverMoved k with queues := s.queues, engines := s.engines } = s := by
  unfold State.moverMoved State.moverProgress
  split
  · dsimp only
    split <;> rfl
  · rfl

theorem State.moverProgress_engine_other (s : State) {e x : Nat} (hx : x ≠ e) (n : Nat) : (s.moverProgress e n).engine x = s.engine x := by
  unfold State.moverProgress
  dsimp only
  split <;> exact Tbl.get_set_other hx _

theorem State.moverMoved_engine_other {s : State} {q : Nat} {k k' : Packet} {x : Nat} (hpkt : s.pkt k.id = some (q, k')) (hx : k'.mover ≠ some x) :
    (s.moverMoved k).engine x = s.engine x := by
  unfold State.moverMoved
  rw [hpkt]
  dsimp only [Option.bind]
  cases hm : k'.mover with
  | none => rfl
  | some e =>
    exact s.moverProgress_engine_other (fun hxe => hx (by rw [hm, hxe])) _

theorem State.moverMoved_ended {s : State} {q : Nat} {k k' : Packet} (hpkt : s.pkt k.id = some (q, k')) (hphase : k'.phase ≠ .finished) :
    (s.moverMoved k).Ended k.id q stOk := by
  have hprogress (e n : Nat) : (s.moverProgress e n).pkt k.id = some (q, k') := by
    unfold State.moverProgress
    dsimp only
    split <;> exact hpkt
  unfold State.moverMoved
  split
  · exact State.finish_ended (hprogress ..) hphase
  · exact State.finish_ended hpkt hphase

section LastPlane
variable {s : State} {q : Nat} {k : Packet} (hpkt : s.pkt k.id = some (q, k))
include hpkt

theorem State.pkt_without_planes : (s.modPkt k.id (fun p => { p with planes := [] })).pkt k.id = some (q, { k with planes := [] }) := by
  refine (State.modPkt_pkt (f := fun p => { p with planes := [] }) fun _ hid => hid).trans ?_
  rw [hpkt]
  rfl

theorem State.planesMoved_ended (hphase : k.phase ≠ .finished) :
    ((s.modPkt k.id (fun p => { p with planes := [] })).moverMoved k).Ended k.id q stOk :=
  State.moverMoved_ended (State.pkt_without_planes hpkt) hphase

theorem State.planesMoved_engine_other {e : Nat} (he : k.mover ≠ some e) :
    ((s.modPkt k.id (fun p => { p with planes := [] })).moverMoved k).engine e = s.engine e :=
  State.moverMoved_engine_other (State.pkt_without_planes hpkt) he

end LastPlane

end Sys2Proof.Machine
end

section
/-! PROOFS. The data of a PULL lands in module or host memory (R352). -/

namespace Sys2Proof.Machine

/-! ### What only ports change -/

/-- From `s` to `t`, only the ports changed, and the count of packets that they discard. -/
def State.OnPorts (s t : State) : Prop := ∃ f : Fabric, t = { s with fab := f } ∧ f.besidesPorts = s.fab.besidesPorts

theorem State.OnPorts.refl (s : State) : s.OnPorts s := ⟨s.fab, rfl, rfl⟩

theorem State.OnPorts.trans {s t u : State} (h : s.OnPorts t) (h' : t.OnPorts u) : s.OnPorts u := by
  obtain ⟨_, rfl, hf⟩ := h
  obtain ⟨f, rfl, hf'⟩ := h'
  exact ⟨f, rfl, hf'.trans hf⟩

theorem State.OnPorts.reqs {s t : State} (h : s.OnPorts t) : t.fab.reqs = s.fab.reqs := by
  obtain ⟨f, rfl, hf⟩ := h
  exact (congrArg Fabric.reqs hf :)

theorem State.OnPorts.moduleId {s t : State} (h : s.OnPorts t) : t.fab.moduleId = s.fab.moduleId := by
  obtain ⟨f, rfl, hf⟩ := h
  exact (congrArg Fabric.moduleId hf :)

theorem State.OnPorts.released {s t : State} (h : s.OnPorts t) : t.fab.released = s.fab.released := by
  obtain ⟨f, rfl, hf⟩ := h
  exact (congrArg Fabric.released hf :)

theorem State.OnPorts.bulkIn {s t : State} (h : s.OnPorts t) : t.fab.bulkIn = s.fab.bulkIn := by
  obtain ⟨f, rfl, hf⟩ := h
  exact (congrArg Fabric.bulkIn hf :)

theorem State.OnPorts.setPort (s : State) (n : Nat) (p : Port) : s.OnPorts (s.setPort n p) := ⟨_, rfl, rfl⟩

theorem State.OnPorts.pumpPort (s : State) (n : Nat) : s.OnPorts (s.pumpPort n) := State.OnPorts.setPort s n _

theorem State.OnPorts.report (s : State) (n : Nat) (again : Bool) : s.OnPorts (s.report n again) := by
  unfold State.report
  dsimp only
  split
  · exact State.OnPorts.refl s
  · exact State.OnPorts.setPort ..

section Disarmed
variable {s : State} (h : s.ecc.armed = false)
include h

theorem State.burst_disarmed (n : Nat) : s.burst n = (false, s) := by simp [State.burst, h]

theorem State.OnPorts.transmit (n : Nat) (k : TxPkt) : s.OnPorts (s.transmit n k) := by
  unfold State.transmit
  rw [State.burst_disarmed h]
  exact (State.OnPorts.setPort s n _).trans (State.OnPorts.pumpPort _ n)

theorem State.OnPorts.respond (port dest tag status rkind value detail : Nat) (data : List Byte) (part : Nat) :
    s.OnPorts (s.respond port dest tag status rkind value detail data part) := by
  unfold State.respond
  dsimp only
  split
  · exact State.OnPorts.transmit h ..
  · exact State.OnPorts.refl s

theorem State.OnPorts.taken (n : Nat) (via : Via) (v flits : Nat) : s.OnPorts (s.taken n via v flits) := by
  have hburst (p : Port) : (s.setPort n p).burst n = (false, s.setPort n p) := State.burst_disarmed (s := s.setPort n p) h n
  unfold State.taken State.arrive
  dsimp only
  split
  · exact State.OnPorts.refl s
  split
  · exact (State.OnPorts.setPort ..).trans (State.OnPorts.report ..)
  split
  · rw [hburst]
    exact State.OnPorts.setPort ..
  split
  · exact (State.OnPorts.setPort ..).trans (State.OnPorts.report ..)
  · exact State.OnPorts.refl s

end Disarmed

theorem State.byteAt_of_mem {s t : State} (hmem : t.mem = s.mem) (hhost : t.host = s.host) (hchans : t.chans = s.chans) (hlocks : t.locks = s.locks)
    (hcopies : t.copies = s.copies) (w : Bool × Nat) : t.byteAt w = s.byteAt w := by
  simp only [State.byteAt, State.hostByte, State.memByte, State.chanLost, State.chan, State.lockAt, hmem, hhost, hchans, hlocks, hcopies]
  rfl

theorem State.OnPorts.byteAt {s t : State} (h : s.OnPorts t) (w : Bool × Nat) : t.byteAt w = s.byteAt w := by
  obtain ⟨f, rfl, -⟩ := h
  rfl

theorem State.spot_of_moduleId (s : State) {f : Fabric} (hf : f.moduleId = s.fab.moduleId) (a : Acc) (g : Nat) :
    ({ s with fab := f } : State).spot a g = s.spot a g := by
  have hresolve : ({ s with fab := f } : State).resolve a g = s.resolve a g := by
    rw [State.resolve, State.resolve]
    dsimp only
    rw [hf]
    rfl
  rw [State.spot, State.spot, hresolve]

theorem State.OnPorts.spot {s t : State} (h : s.OnPorts t) (a : Acc) (g : Nat) : t.spot a g = s.spot a g := by
  have hid := h.moduleId
  obtain ⟨f, rfl, -⟩ := h
  exact s.spot_of_moduleId hid a g

/-! ### The data of a PULL lands (R352) -/

theorem State.Overwrote.queues {s t : State} (h : s.Overwrote t) : t.queues = s.queues := by
  obtain ⟨_, _, _, _, _, rfl⟩ := h
  rfl

theorem State.Overwrote.fab {s t : State} (h : s.Overwrote t) : t.fab = s.fab := by
  obtain ⟨_, _, _, _, _, rfl⟩ := h
  rfl

theorem State.Overwrote.armed {s t : State} (h : s.Overwrote t) : t.ecc.armed = s.ecc.armed := by
  obtain ⟨_, _, _, _, _, rfl⟩ := h
  rfl

theorem State.otherWrite_eq (s : State) (g n : Nat) : ∃ items, s.otherWrite g n = { s with items := items } := by
  unfold State.otherWrite
  split
  · exact ⟨s.items, rfl⟩
  · exact ⟨_, rfl⟩

theorem State.Stored.congr {s t u : State} {a : Acc} {g : Nat} {bs : List Byte} (h : s.Stored t a g bs) (hu : ∀ w, u.byteAt w = t.byteAt w) :
    s.Stored u a g bs := by
  obtain ⟨hwritten, hrest⟩ := h
  exact ⟨fun i hi w hw => (hu w).trans (hwritten i hi w hw), fun w hw => (hu w).trans (hrest w hw)⟩

/-- How many BULK packets of this one's plane have landed with it. -/
def State.bulkCount (s : State) (h : MemHdr) : Nat :=
  ((s.fab.bulkIn.find? (fun e => e.1 == h.src && e.2.1 == h.tag && e.2.2.1 == h.port)).map (·.2.2.2)).getD 0 + 1

/-- What is kept of them then: nothing once the plane is whole. -/
def State.bulkLeft (s : State) (h : MemHdr) (whole : Bool) : List (Nat × Nat × Nat × Nat) :=
  let others := s.fab.bulkIn.filter (fun e => !(e.1 == h.src && e.2.1 == h.tag && e.2.2.1 == h.port))
  if whole then others else others ++ [(h.src, h.tag, h.port, s.bulkCount h)]

/-- What a BULK packet stored leaves behind: its bytes counted, and its plane reported once LAST is there. -/
def State.landed (s : State) (h : MemHdr) (data : List Byte) (r r' : Req) (whole : Bool) (planes : List (Nat × Nat × Nat × Nat)) : State :=
  let t := s.otherWrite (s.global h.addr) data.length
  let t : State := { t with fab := { t.fab with bulkIn := planes } }
  let t := if whole then t.respond h.port h.src h.tag stOk 3 0 0 [] h.part else t
  { t with fab := { t.fab with reqs := t.fab.reqs.map (fun x => if x = r then r' else x) } }

section Pulled
variable {s : State} {h : MemHdr} {r : Req} {q : Nat} {k : Packet} {data : List Byte} {last : Bool} {n : Nat}

theorem bulkIn_pulled {t : State} (hreqs : s.fab.reqs = [r]) (hkind : r.kind = 3) (htag : r.tag = h.tag) (hdest : r.dest = h.src)
    (hpkt : s.pkt r.pkt = some (q, k)) (hreleased : ∀ e ∈ s.fab.released, ¬(e.1 = h.src ∧ e.2.1 = h.tag))
    (hhere : r.land >>> 48 = s.fab.moduleId) (hlow : r.land % 2 ^ 48 ≤ h.addr) (hhigh : h.addr + data.length ≤ r.land % 2 ^ 48 + r.total)
    (hheld : s.held = [])
    (hstore : s.store (s.moverAcc q k ((field k.params 24 1).testBit 1)) (s.global h.addr) data = (t, none)) (hfab : t.fab = s.fab) :
    let whole := last && decide (s.bulkCount h = n)
    let r' : Req := { r with len := r.len - data.length }
    let u := t.landed h data r r' whole (s.bulkLeft h whole)
    bulkIn s h last n data =
      if r'.len = 0 ∧ !u.fab.bulkIn.any (fun e => e.1 == h.src && e.2.1 == h.tag) then u.pullDone r' h else u := by
  have hfree : s.fab.released.any (fun e => decide (e.1 = h.src ∧ e.2.1 = h.tag ∧ e.2.2.1 ≤ h.addr ∧ h.addr < e.2.2.1 + e.2.2.2)) = false := by
    rw [List.any_eq_false]
    intro e he hall
    obtain ⟨hsrc, ht, -⟩ := of_decide_eq_true hall
    exact hreleased e he ⟨hsrc, ht⟩
  have hfind : s.fab.reqs.find? (fun r => r.kind == 3 && r.tag == h.tag && r.dest == h.src) = some r := by simp [hreqs, hkind, htag, hdest]
  have hacc : s.pullAcc r h = s.moverAcc q k ((field k.params 24 1).testBit 1) := by rw [State.pullAcc, hpkt]
  have hg : r.land + (h.addr - r.land % 2 ^ 48) = s.global h.addr := by
    rw [State.global, ← hhere, Nat.shiftRight_eq_div_pow]
    omega
  have hglobal : t.global h.addr = s.global h.addr := by rw [State.global, State.global, hfab]
  have hbehind : s.behind (.bulk h last n data) = false := by
    rw [State.behind, hheld]
    split <;> rfl
  intro whole r' u
  rw [bulkIn, hfree, hfind]
  simp only [Bool.false_eq_true, if_false, if_pos hhere, hacc, hg, hstore, decide_eq_true (And.intro hlow hhigh), Bool.not_true, hbehind]
  simp only [u, State.landed, hglobal]
  rfl

end Pulled

theorem State.landed_eq {s : State} (harmed : s.ecc.armed = false) (h : MemHdr) (data : List Byte) (r r' : Req) (whole : Bool)
    (planes : List (Nat × Nat × Nat × Nat)) : ∃ items f, s.landed h data r r' whole planes = { s with items := items, fab := f } ∧
      f.moduleId = s.fab.moduleId ∧ f.reqs = s.fab.reqs.map (fun x => if x = r then r' else x) ∧ f.bulkIn = planes := by
  obtain ⟨items, hitems⟩ := s.otherWrite_eq (s.global h.addr) data.length
  have hresp (f : Fabric) : ∃ g, ({ s with items := items, fab := f } : State).respond h.port h.src h.tag stOk 3 0 0 [] h.part
      = { s with items := items, fab := g } ∧ g.besidesPorts = f.besidesPorts := by
    obtain ⟨g, hg, hrest⟩ := State.OnPorts.respond (s := { s with items := items, fab := f }) harmed h.port h.src h.tag stOk 3 0 0 [] h.part
    exact ⟨g, hg, hrest⟩
  rw [State.landed, hitems]
  cases whole with
  | false => exact ⟨items, _, rfl, rfl, rfl, rfl⟩
  | true =>
    obtain ⟨g, hg, hrest⟩ := hresp { s.fab with bulkIn := planes }
    simp only [if_true]
    rw [hg]
    have hreqs : g.reqs = s.fab.reqs := (congrArg Fabric.reqs hrest :)
    exact ⟨items, { g with reqs := g.reqs.map (fun x => if x = r then r' else x) }, rfl, (congrArg Fabric.moduleId hrest :),
      congrArg (List.map _) hreqs, (congrArg Fabric.bulkIn hrest :)⟩

/-- The pull has all it asked for: its request is outstanding no more, and its packet ends. -/
theorem State.pullDone_here {s : State} {r : Req} {h : MemHdr} {q : Nat} {k : Packet} (hreqs : s.fab.reqs = [r])
    (hpkt : s.pkt r.pkt = some (q, k)) (hhere : r.land >>> 48 = s.fab.moduleId) :
    s.pullDone r h = (s.requestless.moverMoved k).moverFree k := by
  have hpkt' : s.requestless.pkt r.pkt = some (q, k) := hpkt
  rw [State.pullDone, State.dropReq_only hreqs]
  simp only [hpkt']
  exact if_pos hhere

theorem State.moverMoved_byteAt (s : State) (k : Packet) (w : Bool × Nat) : (s.moverMoved k).byteAt w = s.byteAt w := by
  have hrest := s.moverMoved_besides k
  exact State.byteAt_of_mem (congrArg State.mem hrest :) (congrArg State.host hrest :) (congrArg State.chans hrest :)
    (congrArg State.locks hrest :) (congrArg State.copies hrest :) w

theorem State.moverMoved_fab (s : State) (k : Packet) : (s.moverMoved k).fab = s.fab := (congrArg State.fab (s.moverMoved_besides k) :)

section PulledStored
variable {s : State} {h : MemHdr} {r : Req} {q : Nat} {k : Packet} {data : List Byte} {last : Bool} {n : Nat}
variable (heven : s.Even) (hlaid : s.Laid) (hgroups : s.groups = []) (hreqs : s.fab.reqs = [r]) (hkind : r.kind = 3) (htag : r.tag = h.tag)
  (hdest : r.dest = h.src) (hpkt : s.pkt r.pkt = some (q, k))
  (hreleased : ∀ e ∈ s.fab.released, ¬(e.1 = h.src ∧ e.2.1 = h.tag)) (hhere : r.land >>> 48 = s.fab.moduleId)
  (hlow : r.land % 2 ^ 48 ≤ h.addr) (hhigh : h.addr + data.length ≤ r.land % 2 ^ 48 + r.total) (hheld : s.held = [])
  (hreach : s.Reaches (s.moverAcc q k ((field k.params 24 1).testBit 1)) (s.global h.addr) data.length)
include heven hlaid hgroups hreqs hkind htag hdest hpkt hreleased hhere hlow hhigh hheld hreach

/-- R352: a packet of a pulled range stores its bytes and counts them; the one that is LAST, once all its plane's are there, has its plane
reported, and where nothing is outstanding any more the pull is done. -/
theorem bulkIn_stored :
    let planes := s.bulkLeft h (last && decide (s.bulkCount h = n))
    let r' : Req := { r with len := r.len - data.length }
    ∃ u : State, bulkIn s h last n data = (if r'.len = 0 ∧ !planes.any (fun e => e.1 == h.src && e.2.1 == h.tag) then u.pullDone r' h else u) ∧
      u.fab.reqs = [r'] ∧ u.fab.moduleId = s.fab.moduleId ∧ u.queues = s.queues ∧
      s.Stored u (s.moverAcc q k ((field k.params 24 1).testBit 1)) (s.global h.addr) data := by
  intro planes r'
  obtain ⟨t, hstore, hstored, hover⟩ := State.store_stored heven hlaid hgroups hreach
  have hbulk := bulkIn_pulled (last := last) (n := n) hreqs hkind htag hdest hpkt hreleased hhere hlow hhigh hheld hstore hover.fab
  have harmed : t.ecc.armed = false := hover.armed.trans heven.disarmed
  obtain ⟨items, f, hu, hid, hfreqs, hplanes⟩ := State.landed_eq harmed h data r r' (last && decide (s.bulkCount h = n)) planes
  rw [hover.fab] at hid hfreqs
  have hmapped : f.reqs = [r'] := by rw [hfreqs, hreqs, List.map_singleton, if_pos rfl]
  refine ⟨{ t with items := items, fab := f }, ?_, hmapped, hid, hover.queues, hstored.congr fun _ => rfl⟩
  rw [← hplanes, ← hu]
  dsimp only at hbulk
  rw [hbulk, hu]

end PulledStored

theorem State.OnPorts.even {s t : State} (h : s.OnPorts t) (heven : s.Even) : t.Even := by
  obtain ⟨f, rfl, -⟩ := h
  exact ⟨heven.disarmed, heven.mem, heven.host, heven.locks, heven.chans, heven.copies, heven.active⟩

theorem State.OnPorts.laid {s t : State} (h : s.OnPorts t) (hlaid : s.Laid) : t.Laid := by
  obtain ⟨f, rfl, -⟩ := h
  exact ⟨hlaid.regions, hlaid.windows⟩

theorem State.OnPorts.reaches {s t : State} (h : s.OnPorts t) {a : Acc} {g n : Nat} (hreach : s.Reaches a g n) : t.Reaches a g n := by
  obtain ⟨hthere, hapart⟩ := hreach
  refine ⟨fun i hi => ?_, fun i j hi hj hsame => hapart i j hi hj ?_⟩
  · rw [h.spot]
    exact hthere i hi
  · rwa [h.spot, h.spot] at hsame

theorem State.OnPorts.stored {s t u : State} (h : s.OnPorts t) {a : Acc} {g : Nat} {bs : List Byte} (hstored : t.Stored u a g bs) :
    s.Stored u a g bs := by
  obtain ⟨hwritten, hrest⟩ := hstored
  refine ⟨fun i hi w hw => hwritten i hi w ((h.spot ..).trans hw), fun w hw => ?_⟩
  rw [hrest w fun i hi => (h.spot a (g + i)).symm ▸ hw i hi, h.byteAt]

/-- A packet of a pulled range that leaves some of it outstanding, or is not the LAST of its plane, ends nothing. -/
theorem State.bulkLeft_unfinished (s : State) (h : MemHdr) : (s.bulkLeft h false).any (fun e => e.1 == h.src && e.2.1 == h.tag) = true := by
  simp [State.bulkLeft]

/-- The only packet of its plane counts one, and leaves nothing of the transfer behind. -/
theorem State.bulk_only {s : State} {h : MemHdr} (hnone : ∀ e ∈ s.fab.bulkIn, ¬(e.1 = h.src ∧ e.2.1 = h.tag)) :
    s.bulkCount h = 1 ∧ (s.bulkLeft h true).any (fun e => e.1 == h.src && e.2.1 == h.tag) = false := by
  have hfind : s.fab.bulkIn.find? (fun e => e.1 == h.src && e.2.1 == h.tag && e.2.2.1 == h.port) = none := by
    rw [List.find?_eq_none]
    intro e he hall
    simp only [Bool.and_eq_true, beq_iff_eq] at hall
    exact hnone e he hall.1
  refine ⟨by rw [State.bulkCount, hfind]; rfl, ?_⟩
  rw [State.bulkLeft, if_pos rfl, List.any_eq_false]
  intro e he hall
  simp only [Bool.and_eq_true, beq_iff_eq] at hall
  exact hnone e (List.mem_of_mem_filter he) hall

section PulledTaken
variable {s : State} {h : MemHdr} {r : Req} {q n : Nat} {k : Packet} {data : List Byte} {last : Bool}
variable (hwf : (Instr.bulk h last n data).wf = true) (hacc : s.Accepts h.port h.via) (hcan : s.Canonical) (hlaid : s.Laid) (hplain : s.Plain)
  (hheld : s.held = []) (hreqs : s.fab.reqs = [r]) (hkind : r.kind = 3) (htag : r.tag = h.tag) (hdest : r.dest = h.src)
  (hpkt : s.pkt r.pkt = some (q, k)) (hreleased : ∀ e ∈ s.fab.released, ¬(e.1 = h.src ∧ e.2.1 = h.tag))
  (hhere : r.land >>> 48 = s.fab.moduleId) (hlow : r.land % 2 ^ 48 ≤ h.addr) (hhigh : h.addr + data.length ≤ r.land % 2 ^ 48 + r.total)
  (hreach : s.Reaches (s.moverAcc q k ((field k.params 24 1).testBit 1)) (s.global h.addr) data.length)
include hwf hacc hcan hlaid hplain hheld hreqs hkind htag hdest hpkt hreleased hhere hlow hhigh hreach

/-- A packet of a pulled range that its port takes stores its bytes (R352). -/
theorem exec_bulk_stored :
    let planes := s.bulkLeft h (last && decide (s.bulkCount h = n))
    let r' : Req := { r with len := r.len - data.length }
    ∃ u : State, exec (.bulk h last n data) s =
        .next ((if r'.len = 0 ∧ !planes.any (fun e => e.1 == h.src && e.2.1 == h.tag) then u.pullDone r' h else u).report h.port) ∧
      u.fab.reqs = [r'] ∧ r'.land >>> 48 = u.fab.moduleId ∧ u.pkt r'.pkt = some (q, k) ∧
      s.Stored u (s.moverAcc q k ((field k.params 24 1).testBit 1)) (s.global h.addr) data := by
  intro planes r'
  have htaken := State.OnPorts.taken hplain.disarmed h.port h.via 3 (flitsOf data.length)
  have hexec : exec (.bulk h last n data) s =
      .next ((bulkIn (s.taken h.port h.via 3 (flitsOf data.length)) h last n data).report h.port) := answer_received hwf hacc
  generalize s.taken h.port h.via 3 (flitsOf data.length) = u at htaken hexec
  have heven := htaken.even (State.Even.of_plain hcan hplain)
  have hulaid := htaken.laid hlaid
  have hureach := htaken.reaches hreach
  have hureqs := htaken.reqs.trans hreqs
  have huid := htaken.moduleId
  have hureleased := htaken.released
  have hcount : u.bulkCount h = s.bulkCount h := by rw [State.bulkCount, State.bulkCount, htaken.bulkIn]
  have hleft (whole : Bool) : u.bulkLeft h whole = s.bulkLeft h whole := by rw [State.bulkLeft, State.bulkLeft, htaken.bulkIn, hcount]
  have hglobal : u.global h.addr = s.global h.addr := by rw [State.global, State.global, huid]
  have hsame : u.pkt r.pkt = s.pkt r.pkt ∧ u.held = s.held ∧ u.groups = s.groups ∧ ∀ b, u.moverAcc q k b = s.moverAcc q k b := by
    obtain ⟨f, rfl, -⟩ := htaken
    exact ⟨rfl, rfl, rfl, fun _ => rfl⟩
  obtain ⟨hsamePkt, hsameHeld, hsameGroups, hsameAcc⟩ := hsame
  rw [← hglobal, ← hsameAcc] at hureach
  obtain ⟨t, hbulk, htreqs, htid, htqueues, htstored⟩ := bulkIn_stored (last := last) (n := n) heven hulaid (hsameGroups.trans hplain.groups)
    hureqs hkind htag hdest (hsamePkt.trans hpkt) (hureleased ▸ hreleased) (huid ▸ hhere) hlow hhigh (hsameHeld.trans hheld) hureach
  rw [hglobal, hsameAcc] at htstored
  refine ⟨t, ?_, htreqs, hhere.trans (htid.trans huid).symm, ?_, htaken.stored htstored⟩
  · rw [hexec, hbulk, hcount, hleft]
  · rw [State.pkt, htqueues]
    exact hsamePkt.trans hpkt

/-- The packet with all that is missing, alone on its plane, ends the pull. -/
theorem exec_bulk_whole (hphase : k.phase = .started) (hlen : r.len ≤ data.length) (hlast : last = true) (hone : n = 1)
    (hnone : ∀ e ∈ s.fab.bulkIn, ¬(e.1 = h.src ∧ e.2.1 = h.tag)) :
    ∃ t : State, exec (.bulk h last n data) s = .next ((t.moverFree k).report h.port) ∧ t.Ended r.pkt q stOk ∧ t.fab.reqs = [] ∧
      s.Stored t (s.moverAcc q k ((field k.params 24 1).testBit 1)) (s.global h.addr) data := by
  obtain ⟨t, hexec, htreqs, htland, htpkt, hstored⟩ := exec_bulk_stored hwf hacc hcan hlaid hplain hheld hreqs hkind htag hdest hpkt
    hreleased hhere hlow hhigh hreach
  subst hlast hone
  obtain ⟨hcount, hleft⟩ := State.bulk_only hnone
  have hdone : exec (.bulk h true 1 data) s = .next (((t.requestless.moverMoved k).moverFree k).report h.port) := by
    rw [hexec, hcount, ← State.pullDone_here htreqs htpkt htland]
    exact congrArg (fun t : State => Host.Outcome.next (t.report h.port)) (if_pos ⟨Nat.sub_eq_zero_of_le hlen, congrArg not hleft⟩)
  have hid := (State.mem_allPkts_of_pkt hpkt).1
  refine ⟨t.requestless.moverMoved k, hdone, ?_, congrArg Fabric.reqs (State.moverMoved_fab ..),
    hstored.congr fun w => State.moverMoved_byteAt ..⟩
  rw [← hid] at htpkt ⊢
  exact State.moverMoved_ended (s := t.requestless) htpkt (by rw [hphase]; decide)

/-- One after which bytes are missing, or that is not LAST, leaves the rest of its request outstanding. -/
theorem exec_bulk_part (hmore : data.length < r.len ∨ last = false) :
    ∃ t, exec (.bulk h last n data) s = .next t ∧ t.fab.reqs = [{ r with len := r.len - data.length }] ∧ t.pkt r.pkt = some (q, k) ∧
      s.Stored t (s.moverAcc q k ((field k.params 24 1).testBit 1)) (s.global h.addr) data := by
  obtain ⟨t, hexec, htreqs, -, htpkt, hstored⟩ := exec_bulk_stored hwf hacc hcan hlaid hplain hheld hreqs hkind htag hdest hpkt
    hreleased hhere hlow hhigh hreach
  have hreport := State.OnPorts.report t h.port false
  have htpkt' := State.pkt_of_office (t.report_office h.port false) r.pkt
  refine ⟨t.report h.port, ?_, hreport.reqs.trans htreqs, htpkt'.trans htpkt, hstored.congr hreport.byteAt⟩
  rw [hexec]
  refine congrArg (fun t : State => Host.Outcome.next (t.report h.port)) (if_neg fun hall => ?_)
  obtain ⟨hlen, hnone⟩ := hall
  obtain hlt | hlast := hmore
  · exact absurd hlen (Nat.sub_ne_zero_of_lt hlt)
  · rw [hlast, Bool.false_and, State.bulkLeft_unfinished] at hnone
    cases hnone

end PulledTaken

end Sys2Proof.Machine
end

section
/-! PROOFS. Messages that are repeated, requests that time out, and the statement that all answers are taken (R352, R354, R356). -/

namespace Sys2Proof.Machine

/-! ### Time moves on to a repetition or to a timeout (R354, R356, R358) -/

/-- The fabric without its ports and what corrects MTIME. -/
def Fabric.untimed (f : Fabric) : Fabric := { f with ports := [], hold := 0, slew := 0, slewTicks := 0 }

theorem Fabric.slewed_untimed (f : Fabric) (d : Nat) : (f.slewed d).untimed = f.untimed := by
  unfold Fabric.slewed
  dsimp only
  (repeat' split) <;> rfl

theorem Fabric.slewed_ports (f : Fabric) (d : Nat) : (f.slewed d).ports = f.ports := by
  unfold Fabric.slewed
  dsimp only
  (repeat' split) <;> rfl

theorem State.pass_untimed (s : State) (d : Nat) : (s.pass d).fab.untimed = s.fab.untimed := by
  unfold State.pass
  split <;> rfl

theorem State.pass_queues (s : State) (d : Nat) : (s.pass d).queues = s.queues := by
  unfold State.pass
  split <;> rfl

theorem State.pass_regions (s : State) (d : Nat) : (s.pass d).regions = s.regions := by
  unfold State.pass
  split <;> rfl

theorem State.pass_mtime (s : State) (d : Nat) : (s.pass d).mtime = s.mtime + d := by
  unfold State.pass
  split
  · rename_i hd
    rw [hd]
    rfl
  · rfl

theorem State.pass_port_st (s : State) (d n : Nat) : ((s.pass d).port n).st = (s.port n).st := by
  unfold State.pass
  split
  · rfl
  · exact Tbl.get_map_keeps (g := Port.st) (fun p => (Port.passed_st ..).trans (Port.passed_st ..)) {} s.fab.ports n

section At
variable (s : State) (mt : Nat)

theorem State.at_untimed : (s.at mt).fab.untimed = s.fab.untimed := by
  rw [State.at, State.releaseAll_fab, State.pass_untimed]
  exact Fabric.slewed_untimed ..

theorem State.at_mtime : (s.at mt).mtime = max s.mtime mt := by
  have hmtime : (s.at mt).mtime = s.mtime + (mt - s.mtime) :=
    (congrArg State.mtime (State.releaseAll_office _) :).trans (State.pass_mtime ..)
  omega

theorem State.at_pkt (p : Nat) : (s.at mt).pkt p = s.pkt p := by
  have hqueues : (s.at mt).queues = s.queues := (congrArg State.queues (State.releaseAll_office _) :).trans (State.pass_queues ..)
  rw [State.pkt, State.pkt, hqueues]

theorem State.at_regionAt (part off : Nat) : (s.at mt).regionAt part off = s.regionAt part off := by
  have hregions : (s.at mt).regions = s.regions := (congrArg State.regions (State.releaseAll_office _) :).trans (State.pass_regions ..)
  rw [State.regionAt, State.regionAt, hregions]

theorem State.at_port_live (n : Nat) : ((s.at mt).port n).live = (s.port n).live := by
  have hports : (s.at mt).port n = (({ s with fab := s.fab.slewed (mt - s.mtime) } : State).pass (mt - s.mtime)).port n := by
    rw [State.at, State.port, State.releaseAll_fab]
    rfl
  have hslewed : ({ s with fab := s.fab.slewed (mt - s.mtime) } : State).port n = s.port n := by
    rw [State.port, State.port]
    exact congrArg (fun p => Tbl.get {} p n) (Fabric.slewed_ports ..)
  rw [Port.live, Port.live, hports, State.pass_port_st, hslewed]

/-- Time that passes leaves the plane that a packet takes. -/
theorem State.at_planeFor (part d off : Nat) : (s.at mt).planeFor part d off = s.planeFor part d off := by
  have hreach : (s.at mt).fab.reach = s.fab.reach := (congrArg Fabric.reach (s.at_untimed mt) :)
  have hgone : (s.at mt).fab.gone = s.fab.gone := (congrArg Fabric.gone (s.at_untimed mt) :)
  have hreaches (k : Nat) : (s.at mt).reaches d k = s.reaches d k := by
    rw [State.reaches, State.reaches, State.linked, State.linked, State.at_port_live, hreach, hgone]
  have hsame : (s.at mt).reaches d = s.reaches d := funext hreaches
  rw [State.planeFor, State.planeFor, State.at_regionAt]
  show List.find? ((s.at mt).reaches d) _ = List.find? (s.reaches d) _
  rw [hsame]

end At

/-! ### Messages that are repeated (R354) -/

section Repeat
variable {s : State} {u : Unacked}

theorem messageRepeat_acked {dest mseq : Nat} (hnone : ∀ x ∈ s.fab.unacked, ¬(x.dest = dest ∧ x.mseq = mseq)) : messageRepeat s dest mseq = s := by
  have hfind : s.fab.unacked.find? (fun u => u.dest == dest && u.mseq == mseq) = none := by
    rw [List.find?_eq_none]
    intro x hx hall
    simp only [Bool.and_eq_true, beq_iff_eq] at hall
    exact hnone x hx hall
  rw [messageRepeat, hfind]

variable (hunacked : s.fab.unacked = [u])
include hunacked

theorem messageRepeat_gone (hgone : s.present u.dest = false) :
    messageRepeat s u.dest u.mseq = { s with fab := { s.fab with unacked := [] } } := by
  simp [messageRepeat, hunacked, hgone]

theorem messageRepeat_sent {n : Nat} (hpresent : s.present u.dest = true) (hplane : s.planeFor 0 u.dest 0 = some n) :
    let t := s.at (u.sent + 20000)
    messageRepeat s u.dest u.mseq = ({ t with fab := { t.fab with unacked := [{ u with sent := t.mtime }] } } : State).transmit n u.pkt := by
  intro t
  have hsame : t.fab.unacked = [u] := (congrArg Fabric.unacked (s.at_untimed _) :).trans hunacked
  have hplane' (l : List Unacked) : ({ t with fab := { t.fab with unacked := l } } : State).planeFor 0 u.dest 0 = some n :=
    (s.at_planeFor (u.sent + 20000) 0 u.dest 0).trans hplane
  have hfind : s.fab.unacked.find? (fun x => x.dest == u.dest && x.mseq == u.mseq) = some u := by simp [hunacked]
  rw [messageRepeat, hfind]
  simp only [hpresent, Bool.not_true, Bool.false_eq_true, if_false]
  rw [hplane']
  dsimp only
  rw [hsame, List.map_singleton, if_pos rfl]

end Repeat

/-! ### Acknowledgements (R354) -/

/-- The state in which these messages are repeated. -/
def State.repeating (s : State) (l : List Unacked) : State := { s with fab := { s.fab with unacked := l } }

theorem State.report_repeating (s : State) (l : List Unacked) (n : Nat) : (s.repeating l).report n = (s.report n).repeating l := by
  rw [State.report, State.report, apply_ite (fun t : State => t.repeating l)]
  rfl

theorem exec_msgAck {h : MemHdr} {s : State} (hwf : h.wf = true) (hacc : s.Accepts h.port h.via) :
    let l := s.fab.unacked.filter (fun u => !(u.dest == h.src && u.mseq == h.tag))
    let t := (s.taken h.port h.via 0 (flitsOf 0)).report h.port
    exec (.msgAck h) s = .next (t.repeating l) := by
  intro l t
  have hunacked : (s.taken h.port h.via 0 (flitsOf 0)).fab.unacked = s.fab.unacked := (congrArg Fabric.unacked (s.taken_besidesPorts ..) :)
  have hexec : exec (.msgAck h) s = .next ((msgAckIn (s.taken h.port h.via 0 (flitsOf 0)) h).report h.port) := answer_received hwf hacc
  rw [hexec, msgAckIn, hunacked]
  exact congrArg _ (State.report_repeating ..)

/-! ### Requests that time out (R356) -/

theorem exec_remoteTimeout_none {s : State} {tag : Nat} (hwf : (Instr.remoteTimeout tag).wf = true)
    (hnone : ∀ r ∈ s.fab.reqs, ¬(r.tag = tag ∧ r.queued = none)) : exec (.remoteTimeout tag) s = .next s := by
  have hfind : s.fab.reqs.find? (fun r => r.tag == tag && r.queued.isNone) = none := by
    rw [List.find?_eq_none]
    intro r hr hall
    simp only [Bool.and_eq_true, beq_iff_eq, Option.isNone_iff_eq_none] at hall
    exact hnone r hr hall
  refine (answer_of_wf hwf _).trans ?_
  rw [remoteTimeout, hfind]

theorem exec_remoteTimeout_atomic {s : State} {r : Req} {q : Nat} {k : Packet} (hwf : (Instr.remoteTimeout r.tag).wf = true)
    (hreqs : s.fab.reqs = [r]) (hqueued : r.queued = none) (hlow : r.pkt < 2 ^ 60) (hpkt : s.pkt r.pkt = some (q, k))
    (hphase : k.phase = .started) (hop : k.opcode = 0x0301) :
    ∃ t e, exec (.remoteTimeout r.tag) s = .next t ∧ t.pkt r.pkt = some (q, e) ∧ e.phase = .finished ∧ e.status = stRemoteTimeout ∧
      e.detail = some (r.dest + r.port * 2 ^ 16) ∧ t.fab.reqs = [] ∧ t.mtime = max s.mtime (r.sent + s.fab.reqTimeout * 1000) := by
  have hfind : s.fab.reqs.find? (fun x => x.tag == r.tag && x.queued.isNone) = some r := by simp [hreqs, hqueued]
  have hreqs' : (s.at (r.sent + s.fab.reqTimeout * 1000)).fab.reqs = [r] := (congrArg Fabric.reqs (s.at_untimed _) :).trans hreqs
  have hpkt' := (s.at_pkt (r.sent + s.fab.reqTimeout * 1000) r.pkt).trans hpkt
  obtain ⟨t, hfail, htreqs, htoffice, -⟩ := State.failReq_atomic hreqs' hlow hpkt' hphase hop stRemoteTimeout (r.dest + r.port * 2 ^ 16)
  have htpkt : t.pkt r.pkt = some (q, k) := (State.pkt_of_office htoffice r.pkt).trans hpkt'
  have htmtime : t.mtime = max s.mtime (r.sent + s.fab.reqTimeout * 1000) := (congrArg State.mtime htoffice :).trans (s.at_mtime _)
  have hunfinished : k.phase ≠ .finished := by rw [hphase]; decide
  refine ⟨t.finish r.pkt stRemoteTimeout (some (r.dest + r.port * 2 ^ 16)), _, ?_, State.finish_pkt htpkt hunfinished, rfl, rfl, rfl, htreqs, htmtime⟩
  refine (answer_of_wf hwf _).trans ?_
  rw [remoteTimeout, hfind]
  exact congrArg _ hfail

/-- Settles O56: each answer is looked up among the requests outstanding, and does what its kind says; a pulled range is a store. -/
theorem remoteAnswersTaken : Obligations.RemoteAnswersTaken := by
  unfold Obligations.RemoteAnswersTaken
  refine ⟨fun h st rkind v d data s hwf hacc => ?_, fun h st d q k s hwf hacc hpkt hphase hwait htag hdest honly => ?_,
    fun h last n q data r k s hwf hacc hcan hlaid hplain _ hheld hreqs hkind htag hdest hpkt hphase hreleased hhere hlow hhigh => ?_,
    fun h s hwf hacc => ?_, fun u s hdest hmseq => ?_, fun tag s htag => ?_⟩
  · intro u
    have hexec : exec (.resp h st rkind v d data) s = .next ((respIn u h st rkind v d data).report h.port) := answer_received hwf hacc
    have hsame : u.fab.reqs = s.fab.reqs := s.taken_reqs ..
    have hpkts (p : Nat) : u.pkt p = s.pkt p := State.pkt_of_office (s.taken_office ..) p
    clear_value u
    rw [← hsame]
    refine ⟨fun hnone => ?_, fun r hreqs htag hkind hqueued hdest hdrift => ?_⟩
    · rw [hexec, respIn_unasked hnone]
    subst hkind
    refine ⟨fun hread hst hlist => ?_, fun hwrite hst => ?_, fun q k hatomic hpkt hop hphase hlow => ?_⟩
    · rw [hexec, respIn_read hreqs htag hqueued hdest hread hst (hpkts r.pkt ▸ hlist)]
      exact congrArg _ rfl
    · rw [hexec, respIn_write hreqs htag hqueued hdest hwrite hst]
      rfl
    · rw [← hpkts] at hpkt
      refine ⟨fun hst hwait => ?_, fun hst => ?_⟩
      · rw [hexec, respIn_atomic hreqs htag hqueued hdest hatomic hst hdrift hpkt hop hphase hwait]
        rfl
      · rw [hexec, respIn_failed hreqs htag hqueued hdest hatomic hst hlow hpkt hop hphase]
        rfl
  · intro u
    have hexec : exec (.bulkDone h st d) s = .next ((bulkDoneIn u h st d).report h.port) := answer_received hwf hacc
    have hoffice : u.office = s.office := s.taken_office ..
    clear_value u
    have hupkt : u.pkt k.id = some (q, k) := (State.pkt_of_office hoffice _).trans hpkt
    have hengine (e : Nat) : u.engine e = s.engine e := State.engine_of_office hoffice e
    rw [← State.allPkts_of_office hoffice] at honly
    refine ⟨fun hplanes hst => ?_, fun x r hplanes hst => ?_, fun hplanes hst hdata => ?_⟩
    · refine ⟨(u.modPkt k.id (fun p => { p with planes := [] })).moverMoved k, ?_, State.planesMoved_ended hupkt (by rw [hphase]; decide),
        congrArg (fun t : State => { t with queues := u.queues }) (State.moverMoved_besides _ k), fun e he => ?_⟩
      · rw [hexec, bulkDoneIn_last hupkt hphase hwait htag hdest honly hplanes hst]
      · exact (State.planesMoved_engine_other hupkt he).trans (hengine e)
    · rw [hexec, bulkDoneIn_more hupkt hphase hwait htag hdest honly hplanes hst]
    · rw [hexec, bulkDoneIn_failed hupkt hphase hwait htag hdest honly hplanes hst hdata]
  · intro a g hreach
    exact ⟨exec_bulk_whole hwf hacc hcan hlaid hplain hheld hreqs hkind htag hdest hpkt hreleased hhere hlow hhigh hreach hphase,
      exec_bulk_part hwf hacc hcan hlaid hplain hheld hreqs hkind htag hdest hpkt hreleased hhere hlow hhigh hreach⟩
  · refine ⟨_, exec_msgAck hwf hacc, fun u => ?_, ?_⟩
    · simp [State.repeating, Decidable.imp_iff_not_or]
    · have hunacked : ((s.taken h.port h.via 0 (flitsOf 0)).report h.port).fab.unacked = s.fab.unacked :=
        (congrArg Fabric.unacked ((State.report_besidesPorts ..).trans (s.taken_besidesPorts ..)) :)
      generalize (s.taken h.port h.via 0 (flitsOf 0)).report h.port = t at hunacked
      rw [← hunacked]
      rfl
  · have hwf : (Instr.messageRepeat u.dest u.mseq).wf = true := by simpa [Instr.wf, fits16, fits32] using And.intro hdest hmseq
    have hexec : exec (.messageRepeat u.dest u.mseq) s = .next (messageRepeat s u.dest u.mseq) := answer_of_wf hwf _
    refine ⟨fun hnone => ?_, fun hunacked hgone => ?_, fun n hunacked hpresent hplane => ?_⟩
    · rw [hexec, messageRepeat_acked hnone]
    · rw [hexec, messageRepeat_gone hunacked hgone]
    · rw [hexec, messageRepeat_sent hunacked hpresent hplane]
  · have hwf : (Instr.remoteTimeout tag).wf = true := by simpa [Instr.wf, fits32] using htag
    refine ⟨fun hnone => exec_remoteTimeout_none hwf hnone, fun r q k hreqs htag hqueued hlow hpkt hphase hop => ?_⟩
    subst htag
    exact exec_remoteTimeout_atomic hwf hreqs hqueued hlow hpkt hphase hop

end Sys2Proof.Machine
end
